-- ==== Sys2Proof/Word.lean ====
section
/-! DEFINITION. The word types of the engine and their plainest arithmetic. -/

namespace Sys2Proof

/-- One byte (spec/00_scope.md R12). -/
abbrev Byte := BitVec 8

/-- A 64-bit register value, event counter or address (spec/00_scope.md R19, u64). -/
abbrev Word := BitVec 64

/-- A binary32 pattern (spec/02_formats.md R72). -/
abbrev F32 := BitVec 32

/-- A bfloat16 pattern (spec/02_formats.md R72). -/
abbrev Bf16 := BitVec 16

end Sys2Proof
end

