-- ==== Sys2Proof/Syntax.lean ====
section
/-! DEFINITION. The commands: one constructor for each row of spec/opcode_table.json, with the operands its rule gives it. -/

namespace Sys2Proof

/-- What a memory read belonged to (spec/01_engine_and_step.md R39, spec/07_espalier.md R204). -/
inductive ReadKind where
  | ownedState
  | stepScalars
  | landingSlot
  | residual
  | other
deriving DecidableEq, Repr

/-- One header found by a surviving member, as the inventory of a restore lists it (spec/12_resilience.md R347). -/
inductive InvKind where
  | own
  | buddy
  | parity
deriving DecidableEq, Repr

/-- One entry of a restore inventory: the kind of copy, the rank it holds (for parity, the Hedge index times 8 plus the
row), its step, whether it is usable (R336), whether its state is COMMITTED or PREPARED, and a parity unit's mask. -/
structure InvEntry where
  kind : InvKind
  rank : Nat
  step : Nat
  usable : Bool
  committed : Bool
  prepared : Bool
  mask : Nat
deriving DecidableEq, Repr

/-- What a surviving member tells in its inventory (R347): the headers it found, and the sources that it knows to have failed, by
rank, step and kind. -/
structure Inventory where
  headers : List InvEntry
  failed : List (Nat × Nat × InvKind)
deriving DecidableEq, Repr

/-- For whom a message of the two passes of spec/09_fabric.md R269 speaks: a member of the Hedge, or, in the Row pass, all of
Hedge `origin`, as rank `src` sends it on, with the hops still to go. -/
inductive Voice where
  | member (src : Nat)
  | hedge (src origin hops : Nat)
deriving DecidableEq, Repr

/-- One canary measurement of an ageing sweep (spec/12_resilience.md R364): the resource word and the measured lap period
and reference period, in units of 2^-24 ns. -/
structure Canary where
  word : BitVec 32
  period : Nat
deriving DecidableEq, Repr

/-- One fault event as the unit that saw it reports it (spec/12_resilience.md R358, R359): the resource word, whether it is
lasting at once (an uncorrectable SRAM error or a canary beyond its limit), and the row and column group of a corrected
SRAM error. -/
structure FaultRec where
  word : BitVec 32
  atOnce : Bool
  row : Nat
  col : Nat
deriving DecidableEq, Repr

/-- The commands of the engine. `q` is a work queue, `i` a descriptor index (mod 2^32), `p` a port, `m` a mailbox pair,
`src` and `seq` the rank and sequence number of a chunk, `mc` whether it is a multicast chunk. -/
inductive Instr where
  | resetAssert
  | resetDeassert (heldNs : Nat) (quiesce wake : Bool)
  | unitWakeAck (faults : List FaultRec) (laps : List Canary)
  | controlInputChange (quiesce wake : Bool)
  | wakingComplete (faults : List FaultRec) (laps : List Canary)
  | powerAnswer (grant : Bool)
  | powerManagerTimeout
  | globalCounterSample (value : Word)
  | memoryReadResponse (q i : Nat) (kind : ReadKind) (addr : Word) (uncorrectable : Bool)
  | surveyBeat (tag : BitVec 128) (payload : List Bf16)
  | leadSend (q i : Nat)
  | valueBeat (tag : BitVec 128) (payload : List Bf16)
  | microBeat (survey : Bool) (tag : BitVec 128) (payload : List Bf16)
  | feedStallTick
  | pieceDraw (q i piece : Nat)
  | expandBackground (q i : Nat)
  | linkUp (p : Nat)
  | linkDown (p : Nat)
  | laneTransition (p lane : Nat)
  | uncorrectableFlit (p : Nat) (forwarding : Bool)
  | packetReceive (p : Nat) (header payload : List Byte)
  | creditReturnFlit (p : Nat) (flit : List Byte)
  | syncFlit (p : Nat)
  | audit (p : Nat) (payload : List Byte)
  | auditTimer (p : Nat)
  | creditReturnSend (p : Nat)
  | syncRepeatTimer (p : Nat)
  | resyncTimeout (p : Nat)
  | packetForward (n : Nat)
  | escapeWaitExpiry (n : Nat)
  | windowHoldExpiry
  | chunkTimeout (dst seq : Nat) (mc : Bool)
  | chunkPartialTimeout (src seq : Nat) (mc : Bool)
  | reduceChunk (src seq : Nat)
  | leadChunk (src seq : Nat)
  | sideChunk (src seq : Nat)
  | spillChunk (src seq : Nat)
  | sparseChunk (src seq : Nat)
  | writeChunk (src seq : Nat) (mc : Bool)
  | countChunk (src seq : Nat)
  | topkChunk (src seq : Nat)
  | ack (src seq : Nat)
  | vote (src seq : Nat) (mc : Bool)
  | drain (src seq : Nat)
  | ready (src seq : Nat)
  | cancel (src seq : Nat)
  | testPacket (src seq : Nat)
  | ckpPrepareVote (voice : Voice) (step : Nat)
  | ckpCommitNotice (parity : Bool) (step : Nat)
  | buddyCopy (step offset : Nat) (bytes : List Byte) (last : Bool) (bad : List Nat) (badTwice : Bool)
  | parityUnit (position step offset : Nat) (bytes : List Byte) (last bad badTwice : Bool)
  | restoreInventory (rank : Nat) (inventory : Inventory)
  | restoreFence (fence : Option (Voice × Nat) := none)
  | epochDrainPoll (injSum ejSum : Nat)
  | epochMaxExpiry
  | rowPhaseStart (q i : Nat)
  | dataPhaseStart (q i : Nat)
  | updateComputePass (q i : Nat)
  | gatherPhaseStart (q i : Nat)
  | applyPass (q i : Nat)
  | checkAdderMismatch (q i group : Nat) (globalGroup : Nat) (job : Nat)
  | watchdogWarn (q i : Nat)
  | watchdogAbort (q i : Nat)
  | digestRecord
  | ckpImageBegin
  | ckpPushAck
  | ckpPrepare (bad : List Nat) (badTwice buddyReported rowsReported : Bool)
  | selftestTimer (faults : List FaultRec)
  | faultEvent (f : FaultRec)
  | ageingSweep (reference : Nat) (laps : List Canary)
  | heartbeat
  | heartbeatTimeout
  | getInfo (m : Nat)
  | healthQuery (m : Nat)
  | openJob (m : Nat)
  | closeJob (m : Nat)
  | setRanks (m : Nat)
  | loadSkein (m : Nat)
  | loadProgram (m : Nat)
  | reformGroup (m : Nat)
  | routeChange (m : Nat)
  | ckpPolicy (m : Nat)
  | checkpoint (m : Nat)
  | restore (m : Nat)
  | repairReport (m : Nat)
  | repair (m : Nat)
  | loadRepairMap (m : Nat)
  | fwUpdate (m : Nat)
  | unsupportedOpcode (m : Nat)
  | queueDoorbell (q : Nat) (tail : BitVec 32)
  | descriptorFetch (q : Nat)
  | nop (q : Nat)
  | allReduce (q : Nat)
  | reduceScatter (q : Nat)
  | fusedStep (q : Nat)
  | allGather (q : Nat)
  | allToAll (q : Nat)
  | broadcast (q : Nat)
  | send (q : Nat)
  | recv (q : Nat)
  | topkMerge (q : Nat)
  | runSkein (q : Nat)
  | skeinAppendResume (q i : Nat)
  | topiaryRow (q : Nat)
  | topiaryMerge (q : Nat)
  | fold (q : Nat)
  | descriptorComplete (q i : Nat)
  | queueResume (q : Nat)
  | queueAbort (q : Nat)
  | queueEnableWrite (q : Nat) (enable : Bool)
  | eventCounterWrite (c : Nat) (value : Word)
  | eventCounterAdd (c : Nat) (value : Word)
  | stagedCancel
  | cfgRefWrite (value : BitVec 32)
  | cfgCrcUpdate
  | lockWrite (value : Bool)
  | portRetrain (p : Nat)
  | epochAdvance
  | fabSelfWrite (phys : BitVec 20)
  | registerWrite (offset : Nat) (wide : Bool) (value : Word)
  | packetBoundaryApply (block : Nat)
  | descriptorBoundaryApply (q : Nat)
  | registerReadClear (offset : Nat) (wide : Bool)
  | busErrorAccess (offset width : Nat) (isWrite : Bool)
  | canaryReadout
  | healthReadout
  | registerPort (offset : Nat) (wide isWrite : Bool) (value : Word)
  | selfTestStart (word : BitVec 32) (faults : List FaultRec)
  | sramMarchTest (group bank : Nat) (fail : Bool)
  | laneLoopback (p lane : Nat) (errors : Nat)
  | spindleHalt
  | ackSend (src : Nat) (mc : Bool)
  | silentMemberExpiry (job rank : Nat)
deriving DecidableEq, Repr

end Sys2Proof
end

