-- ==== Sys2Proof/Machine/Bits.lean ====
section
/-! DEFINITION. Bit fields, byte order, check values, the LM64 mixer, the LD64 digest and xoshiro256**. -/

namespace Sys2Proof.Machine

/-! ### Byte strings (spec/00_scope.md R12: little-endian) -/

/-- Byte k of a byte string; 0 beyond its end. -/
def byteAt (b : List Byte) (k : Nat) : Nat := (b.getD k 0).toNat

/-- The little-endian value of a byte string. -/
def leNat : List Byte → Nat
  | [] => 0
  | b :: t => b.toNat + 256 * leNat t

/-- Bytes off to off + len - 1, padded with 0. -/
def sliceB (b : List Byte) (off len : Nat) : List Byte :=
  let s := (b.drop off).take len
  s ++ List.replicate (len - s.length) 0

/-- The little-endian field of len bytes at byte off. -/
def leAt (b : List Byte) (off len : Nat) : Nat := leNat (sliceB b off len)

/-- A number as len little-endian bytes. -/
def toLE : Nat → Nat → List Byte
  | _, 0 => []
  | v, n + 1 => BitVec.ofNat 8 v :: toLE (v / 256) n

/-- Bits [lo + w - 1 : lo] of a number. -/
def bitsAt (v lo w : Nat) : Nat := v / 2 ^ lo % 2 ^ w

/-- Bit n of a number. -/
def bitAt (v n : Nat) : Bool := v / 2 ^ n % 2 == 1

/-- A Bool as a number. -/
def b2n (b : Bool) : Nat := if b then 1 else 0

/-- A w-bit two's complement pattern as an integer. -/
def signed (w v : Nat) : Int :=
  let u := v % 2 ^ w
  if 2 * u < 2 ^ w then (u : Int) else (u : Int) - (2 ^ w : Nat)

/-- An integer as a w-bit two's complement pattern. -/
def unsigned (w : Nat) (x : Int) : Nat := (x % ((2 ^ w : Nat) : Int)).toNat

/-- The bitwise complement of a len-byte number (spec/00_scope.md R13). -/
def complB (len v : Nat) : Nat := 256 ^ len - 1 - v % 256 ^ len

/-- Overwrite bytes of a byte string from byte off. -/
def patchB (b : List Byte) (off : Nat) (n : List Byte) : List Byte :=
  sliceB b 0 off ++ n ++ b.drop (off + n.length)

/-- Round n up to a multiple of m. -/
def upTo (m n : Nat) : Nat := (n + m - 1) / m * m

/-- ceil(a / b). -/
def cdiv (a b : Nat) : Nat := (a + b - 1) / b

/-- The smallest k with 2^k not below n: ceil(log2 n) for n at least 1. -/
def clog2 (n : Nat) : Nat := if n ≤ 1 then 0 else Nat.log2 (n - 1) + 1

/-- A list of bytes as bits, bit k of the string being bit (k mod 8) of byte k div 8 (spec/02_formats.md R53). -/
def packBits (w : Nat) (vals : List Nat) : List Byte :=
  let total := vals.foldr (fun v acc => v % 2 ^ w + 2 ^ w * acc) 0
  toLE total (cdiv (w * vals.length) 8)

/-- Value i of a packed bit string of w-bit values (spec/02_formats.md R53). -/
def packedAt (w : Nat) (b : List Byte) (i : Nat) : Nat := leNat b / 2 ^ (w * i) % 2 ^ w

/-! ### Check values -/

/-- CRC-32C, reflected Castagnoli (spec/09_fabric.md R261): eight bit steps. -/
def crc32cBits : Nat → BitVec 32 → BitVec 32
  | 0, c => c
  | n + 1, c => crc32cBits n (if c.getLsbD 0 then (c >>> 1) ^^^ 0x82F63B78#32 else c >>> 1)

/-- CRC-32C of a byte string in address order (spec/09_fabric.md R261). -/
def crc32c (b : List Byte) : BitVec 32 :=
  (b.foldl (fun c x => crc32cBits 8 (c ^^^ BitVec.setWidth 32 x)) 0xFFFFFFFF#32) ^^^ 0xFFFFFFFF#32

/-- CRC-64 bit steps, most significant bit first (spec/09_fabric.md R265). -/
def crc64Bits : Nat → Word → Word
  | 0, c => c
  | n + 1, c => crc64Bits n (if c.getLsbD 63 then (c <<< 1) ^^^ 0x42F0E1EBA9EA3693#64 else c <<< 1)

/-- CRC-64 with the ECMA-182 polynomial over a byte string, continuing from c (spec/09_fabric.md R265). -/
def crc64From (c : Word) (b : List Byte) : Word :=
  b.foldl (fun c x => crc64Bits 8 (c ^^^ ((BitVec.setWidth 64 x) <<< (56 : Nat)))) c

/-- The check value of a chunk's payload (spec/09_fabric.md R265). -/
def crc64 (b : List Byte) : Word := crc64From 0 b

/-! ### LM64, LD64, xoshiro256** (spec/00_scope.md R19, spec/02_formats.md R78 to R83) -/

/-- The LM64 mixer (spec/00_scope.md R19). -/
def lm64 (x : Word) : Word :=
  let x := x ^^^ (x >>> 30)
  let x := x * 0xBF58476D1CE4E5B9#64
  let x := x ^^^ (x >>> 27)
  let x := x * 0x94D049BB133111EB#64
  x ^^^ (x >>> 31)

/-- One LD64 item's share of the digest (spec/02_formats.md R78). -/
def ldItem (it : Word × Word) : Word := lm64 (it.1 ^^^ lm64 it.2)

/-- The LD64 digest of a collection of items (spec/02_formats.md R78). -/
def ld64 (items : List (Word × Word)) : Word := items.foldl (fun d it => d + ldItem it) 0

/-- The state of a xoshiro256** generator (spec/02_formats.md R80). -/
structure Xo where
  s0 : Word
  s1 : Word
  s2 : Word
  s3 : Word
deriving DecidableEq, Repr

/-- The output of a state (spec/02_formats.md R80, xoshiro_next). -/
def Xo.out (s : Xo) : Word := ((s.s1 * 5).rotateLeft 7) * 9

/-- The state after one output (spec/02_formats.md R80, xoshiro_next). -/
def Xo.step (s : Xo) : Xo :=
  let t := s.s1 <<< 17
  let s2 := s.s2 ^^^ s.s0
  let s3 := s.s3 ^^^ s.s1
  let s1 := s.s1 ^^^ s2
  let s0 := s.s0 ^^^ s3
  { s0 := s0, s1 := s1, s2 := s2 ^^^ t, s3 := s3.rotateLeft 45 }

/-- A state advanced by n outputs. -/
def Xo.steps : Nat → Xo → Xo
  | 0, s => s
  | n + 1, s => Xo.steps n s.step

/-- The keyed state (spec/02_formats.md R80, keyed_state). -/
def keyedState (seed : Word) (step stage : Nat) (b : Word) : Xo :=
  let golden := 0x9E3779B97F4A7C15#64
  let k := lm64 seed
  let k := lm64 (k ^^^ BitVec.ofNat 64 step)
  let k := lm64 (k ^^^ BitVec.ofNat 64 stage)
  let k := k ^^^ b
  { s0 := lm64 (k + 1 * golden), s1 := lm64 (k + 2 * golden)
    s2 := lm64 (k + 3 * golden), s3 := lm64 (k + 4 * golden) }

/-- The 16 keyed random bits of the element with global index g (spec/02_formats.md R80). -/
def keyedBits (seed : Word) (step stage g : Nat) : Nat :=
  let p := g % 4096
  let s := Xo.steps (p / 4) (keyedState seed step stage (BitVec.ofNat 64 (g / 4096)))
  bitsAt s.out.toNat (16 * (p % 4)) 16

/-- The jump polynomial of xoshiro256 (spec/02_formats.md R83). -/
def jumpPoly : List Word :=
  [0x180EC6D33CFD0ABA#64, 0xD5A61266F0C9392C#64, 0xA9582618E03FC9AA#64, 0x39ABDC4529B1661C#64]

/-- The bits of one polynomial word applied to a running state and sum. -/
def jumpBits : Nat → Word → Xo × Xo → Xo × Xo
  | 0, _, st => st
  | n + 1, w, (acc, s) =>
    let acc := if w.getLsbD 0 then
      { s0 := acc.s0 ^^^ s.s0, s1 := acc.s1 ^^^ s.s1, s2 := acc.s2 ^^^ s.s2, s3 := acc.s3 ^^^ s.s3 } else acc
    jumpBits n (w >>> 1) (acc, s.step)

/-- The published xoshiro256 jump, 2^128 outputs ahead (spec/02_formats.md R83). -/
def Xo.jump (s : Xo) : Xo := (jumpPoly.foldl (fun st w => jumpBits 64 w st) (⟨0, 0, 0, 0⟩, s)).1

/-- n jumps. -/
def Xo.jumps : Nat → Xo → Xo
  | 0, s => s
  | n + 1, s => Xo.jumps n s.jump

/-- Lane L's state at job open (spec/02_formats.md R83). -/
def laneStart (seed : Word) (lane : Nat) : Xo := Xo.jumps lane (keyedState seed 0 0xFF 0)

end Sys2Proof.Machine
end

