-- ==== Sys2Proof/Machine/Numeric.lean ====
section
/-! DEFINITION. Exact numbers and their rounding: dyadic rationals, binary32, bfloat16 (spec/02_formats.md R71, R72),
stochastic rounding (R82), and the tabulated functions of Topiary (spec/04_topiary.md R120, R126). -/

namespace Sys2Proof.Machine

/-- An exact value m x 2^e. -/
structure Dy where
  m : Int
  e : Int
deriving DecidableEq, Repr

def Dy.zero : Dy := ⟨0, 0⟩

/-- The mantissa of a at exponent e, exact when e is not above a's own exponent. -/
def Dy.mAt (a : Dy) (e : Int) : Int := a.m * ((2 ^ (a.e - e).toNat : Nat) : Int)

def Dy.add (a b : Dy) : Dy :=
  let e := min a.e b.e
  ⟨a.mAt e + b.mAt e, e⟩

def Dy.neg (a : Dy) : Dy := ⟨-a.m, a.e⟩

def Dy.sub (a b : Dy) : Dy := a.add b.neg

def Dy.mul (a b : Dy) : Dy := ⟨a.m * b.m, a.e + b.e⟩

def Dy.isZero (a : Dy) : Bool := a.m == 0

/-- a is below b. -/
def Dy.lt (a b : Dy) : Bool := decide ((a.sub b).m < 0)

def Dy.abs (a : Dy) : Dy := ⟨(a.m.natAbs : Int), a.e⟩

/-- a x 2^k. -/
def Dy.scale (a : Dy) (k : Int) : Dy := ⟨a.m, a.e + k⟩

/-- floor(a x 2^k), exact (spec/03_quantiser.md R91, floor_scaled). -/
def Dy.floorAt (a : Dy) (k : Int) : Int :=
  let s := a.e + k
  if 0 ≤ s then a.m * ((2 ^ s.toNat : Nat) : Int) else a.m / ((2 ^ (-s).toNat : Nat) : Int)

/-- The exponent E(x) = floor(log2|x|) of a non-zero value (spec/03_quantiser.md). -/
def Dy.expOf (a : Dy) : Int := (Nat.log2 a.m.natAbs : Int) + a.e

/-- n / d rounded to the nearest natural number, ties to even. -/
def rneDiv (n d : Nat) : Nat :=
  let q := n / d
  let r := n % d
  if 2 * r > d || (2 * r == d && q % 2 == 1) then q + 1 else q

/-- round_ties_even(a x 2^k) (spec/05_coppice.md R144). -/
def Dy.rneAt (a : Dy) (k : Int) : Int :=
  let s := a.e + k
  let mag := if 0 ≤ s then a.m.natAbs * 2 ^ s.toNat else rneDiv a.m.natAbs (2 ^ (-s).toNat)
  if a.m < 0 then -(mag : Int) else (mag : Int)

/-- The multiple of 2^-lsb that a is, as an integer; a is such a multiple wherever this is used. -/
def Dy.fixed (a : Dy) (lsb : Int) : Int := a.floorAt lsb

/-! ### Rounding to a floating-point grid -/

/-- (num / den) x 2^e, positive, rounded to nearest even on a grid of prec significant bits and least exponent emin:
the magnitude pattern, which runs on through the exponent field (spec/02_formats.md R72). -/
def roundPattern (prec : Nat) (emin : Int) (num den : Nat) (e : Int) : Nat :=
  if num = 0 then 0 else
  let a : Int := (Nat.log2 num : Int) - (Nat.log2 den : Int)
  let ge : Bool := if 0 ≤ a then decide (den * 2 ^ a.toNat ≤ num) else decide (den ≤ num * 2 ^ (-a).toNat)
  let l : Int := (if ge then a else a - 1) + e
  let u : Int := max (l - ((prec : Int) - 1)) emin
  let s : Int := e - u
  let n := if 0 ≤ s then num * 2 ^ s.toNat else num
  let d := if 0 ≤ s then den else den * 2 ^ (-s).toNat
  rneDiv n d + (u - emin).toNat * 2 ^ (prec - 1)

def f32Inf (neg : Bool) : F32 := if neg then 0xFF800000#32 else 0x7F800000#32
def f32Nan : F32 := 0x7FC00000#32
def f32Zero (neg : Bool) : F32 := if neg then 0x80000000#32 else 0#32
def bf16Inf (neg : Bool) : Bf16 := if neg then 0xFF80#16 else 0x7F80#16
def bf16Nan : Bf16 := 0x7FC0#16

/-- A positive rational times 2^e with a sign, rounded to binary32 under R72. -/
def ratF32 (neg : Bool) (num den : Nat) (e : Int) : F32 :=
  let p := roundPattern 24 (-149) num den e
  if p ≥ 0x7F800000 then f32Inf neg else BitVec.ofNat 32 (p + (if neg then 2 ^ 31 else 0))

/-- As ratF32, to bfloat16 (spec/02_formats.md R72). -/
def ratBf16 (neg : Bool) (num den : Nat) (e : Int) : Bf16 :=
  let p := roundPattern 8 (-133) num den e
  if p ≥ 0x7F80 then bf16Inf neg else BitVec.ofNat 16 (p + (if neg then 2 ^ 15 else 0))

/-- An exact value rounded to binary32; an exact zero is +0. -/
def Dy.f32 (a : Dy) : F32 := ratF32 (decide (a.m < 0)) a.m.natAbs 1 a.e

/-- An exact value rounded to bfloat16; an exact zero is +0. -/
def Dy.bf16 (a : Dy) : Bf16 := ratBf16 (decide (a.m < 0)) a.m.natAbs 1 a.e

/-- rne_bf16_sat of spec/03_quantiser.md R91: overflow gives the largest finite value of the sign. -/
def Dy.bf16Sat (a : Dy) : Bf16 :=
  let b := a.bf16
  if b = 0x7F80#16 then 0x7F7F#16 else if b = 0xFF80#16 then 0xFF7F#16 else b

/-- What a floating-point pattern denotes. -/
inductive FV where
  | nan
  | inf (neg : Bool)
  | fin (neg : Bool) (m : Nat) (e : Int)
deriving DecidableEq, Repr

/-- A binary32 pattern's value. -/
def f32Val (b : F32) : FV :=
  let neg := b.getLsbD 31
  let ex := bitsAt b.toNat 23 8
  let fr := bitsAt b.toNat 0 23
  if ex = 255 then (if fr = 0 then .inf neg else .nan)
  else if ex = 0 then .fin neg fr (-149) else .fin neg (fr + 2 ^ 23) ((ex : Int) - 150)

/-- A bfloat16 pattern widened exactly to binary32. -/
def bf16ToF32 (b : Bf16) : F32 := (b.setWidth 32) <<< 16

/-- A bfloat16 pattern's value. -/
def bf16Val (b : Bf16) : FV := f32Val (bf16ToF32 b)

def FV.isNan : FV → Bool
  | .nan => true
  | _ => false

def FV.isFinite : FV → Bool
  | .fin _ _ _ => true
  | _ => false

/-- The exact value of a finite value; 0 for the others. -/
def FV.dy : FV → Dy
  | .fin neg m e => ⟨if neg then -(m : Int) else (m : Int), e⟩
  | _ => Dy.zero

def f32Finite (b : F32) : Bool := (f32Val b).isFinite
def f32Dy (b : F32) : Dy := (f32Val b).dy
def bf16Dy (b : Bf16) : Dy := (bf16Val b).dy

/-- A binary32 pattern rounded to bfloat16 under R72. -/
def f32ToBf16 (b : F32) : Bf16 :=
  match f32Val b with
  | .nan => bf16Nan
  | .inf n => bf16Inf n
  | .fin neg m e => ratBf16 neg m 1 e

/-- The order key of spec/02_formats.md R71 (order_key_f32). -/
def orderKey (b : F32) : Nat :=
  let mag := b.toNat % 2 ^ 31
  if mag > 0x7F800000 then 0xFFFFFFFF
  else if mag = 0 then 0x80000000
  else if b.getLsbD 31 then (~~~b).toNat
  else b.toNat + 2 ^ 31

/-! ### IEEE 754 arithmetic with one rounding (spec/02_formats.md R72, spec/07_espalier.md R197) -/

/-- The sum of two values, rounded once; the sign of an exact zero is IEEE 754's. -/
def fvAdd (a b : FV) : F32 :=
  match a, b with
  | .nan, _ => f32Nan
  | _, .nan => f32Nan
  | .inf n, .inf k => if n = k then f32Inf n else f32Nan
  | .inf n, _ => f32Inf n
  | _, .inf n => f32Inf n
  | .fin n m e, .fin k l f =>
    if m = 0 ∧ l = 0 then f32Zero (n && k)
    else ((FV.fin n m e).dy.add (FV.fin k l f).dy).f32

/-- The exact product of two values. -/
def fvMulExact (a b : FV) : FV :=
  match a, b with
  | .nan, _ => .nan
  | _, .nan => .nan
  | .inf n, .inf k => .inf (n != k)
  | .inf n, .fin k m _ => if m = 0 then .nan else .inf (n != k)
  | .fin n m _, .inf k => if m = 0 then .nan else .inf (n != k)
  | .fin n m e, .fin k l f => .fin (n != k) (m * l) (e + f)

/-- A value rounded once to binary32. -/
def FV.f32 : FV → F32
  | .nan => f32Nan
  | .inf n => f32Inf n
  | .fin neg m e => if m = 0 then f32Zero neg else ratF32 neg m 1 e

def FV.neg : FV → FV
  | .nan => .nan
  | .inf n => .inf (!n)
  | .fin n m e => .fin (!n) m e

def addF32 (a b : F32) : F32 := fvAdd (f32Val a) (f32Val b)
def subF32 (a b : F32) : F32 := fvAdd (f32Val a) (f32Val b).neg
def mulF32 (a b : F32) : F32 := (fvMulExact (f32Val a) (f32Val b)).f32
/-- a x b + c, one rounding. -/
def fmaF32 (a b c : F32) : F32 := fvAdd (fvMulExact (f32Val a) (f32Val b)) (f32Val c)
/-- c - a x b, one rounding. -/
def fnmaF32 (a b c : F32) : F32 := fvAdd (fvMulExact (f32Val a) (f32Val b)).neg (f32Val c)

/-- Division (spec/07_espalier.md R197). -/
def fvDiv (a b : FV) : F32 :=
  match a, b with
  | .nan, _ => f32Nan
  | _, .nan => f32Nan
  | .inf _, .inf _ => f32Nan
  | .inf n, .fin k _ _ => f32Inf (n != k)
  | .fin n _ _, .inf k => f32Zero (n != k)
  | .fin n m e, .fin k l f =>
    if l = 0 then (if m = 0 then f32Nan else f32Inf (n != k))
    else if m = 0 then f32Zero (n != k)
    else ratF32 (n != k) m l (e - f)

def divF32 (a b : F32) : F32 := fvDiv (f32Val a) (f32Val b)

/-- Newton steps towards the integer square root from above. -/
def isqrtLoop (n : Nat) : Nat → Nat → Nat
  | 0, x => x
  | k + 1, x =>
    let y := (x + n / x) / 2
    if y < x then isqrtLoop n k y else x

/-- floor(sqrt n). -/
def isqrt (n : Nat) : Nat :=
  if n = 0 then 0 else isqrtLoop n (Nat.log2 n + 8) (2 ^ (Nat.log2 n / 2 + 1))

/-- The square root rounded once (spec/07_espalier.md R197): a root with 40 bits beyond the mantissa and a sticky bit. -/
def sqrtF32 (a : F32) : F32 :=
  match f32Val a with
  | .nan => f32Nan
  | .inf n => if n then f32Nan else f32Inf false
  | .fin n m e =>
    if m = 0 then f32Zero n
    else if n then f32Nan
    else
      let odd := e % 2 = 1
      let m' := (if odd then 2 * m else m) * 2 ^ 80
      let e' := (if odd then e - 1 else e) - 80
      let r := isqrt m'
      ratF32 false (2 * r + (if r * r = m' then 0 else 1)) 1 (e' / 2 - 1)

/-- One over the square root, rounded once (spec/07_espalier.md R197, R198). -/
def rsqrtF32 (a : F32) : F32 :=
  match f32Val a with
  | .nan => f32Nan
  | .inf n => if n then f32Nan else f32Zero false
  | .fin n m e =>
    if m = 0 then f32Inf false
    else if n then f32Nan
    else
      let odd := e % 2 = 1
      let m' := if odd then 2 * m else m
      let e' := if odd then e - 1 else e
      let r := isqrt (2 ^ 140 / m')
      ratF32 false (2 * r + (if r * r * m' = 2 ^ 140 then 0 else 1)) 1 (-(e' / 2) - 71)

/-! ### Stochastic rounding (spec/02_formats.md R82) -/

/-- floor(a x 2^k + r / 65,536). -/
def Dy.srAt (a : Dy) (k : Int) (r : Nat) : Int := (a.floorAt (k + 16) + r) / 65536

/-- Limit an integer to plus and minus lim. -/
def clampTo (lim : Int) (x : Int) : Int := if x > lim then lim else if x < -lim then -lim else x

/-! ### exp2_tab (spec/04_topiary.md R120) -/

/-- Nested integer square roots: floor of the 2^n-th root. -/
def iroot2 : Nat → Nat → Nat
  | 0, x => x
  | n + 1, x => iroot2 n (isqrt x)

/-- E[i] = 2^(i/1024) rounded to binary32; E[1024] = 2.0. The root carries 60 bits, and below it a sticky bit. -/
def exp2Entry (i : Nat) : F32 :=
  if i = 0 then 0x3F800000#32
  else if i ≥ 1024 then 0x40000000#32
  else ratF32 false (2 * iroot2 10 (2 ^ (i + 1024 * 60)) + 1) 1 (-61)

/-- exp2_tab (spec/04_topiary.md R120). -/
def exp2Tab (x : F32) : F32 :=
  match f32Val x with
  | .nan => f32Nan
  | .inf n => if n then 0#32 else f32Inf false
  | .fin neg m e =>
    let d := (FV.fin neg m e).dy
    if d.lt ⟨-160, 0⟩ then 0#32 else
    let n := d.floorAt 0
    let f := d.sub ⟨n, 0⟩
    let j := (f.floorAt 10).toNat
    let h := (f.scale 10).sub ⟨(j : Int), 0⟩
    let diff := (f32Dy (exp2Entry (j + 1))).sub (f32Dy (exp2Entry j))
    let t := (f32Dy diff.f32).mul h
    let y := ((f32Dy (exp2Entry j)).add (f32Dy t.f32)).f32
    ((f32Dy y).scale n).f32

/-! ### Sums of Topiary (spec/04_topiary.md R121) -/

/-- A selected or left-out sum: the exact sum of its finite terms in units of 2^-149, which special terms it has met, and
the running binary32 sum of Relaxed mode. -/
structure TSum where
  exact : Int
  pos : Bool
  neg : Bool
  nan : Bool
  f32 : F32
deriving DecidableEq, Repr

def TSum.zero : TSum := { exact := 0, pos := false, neg := false, nan := false, f32 := 0#32 }

/-- One more term. -/
def TSum.add (a : TSum) (t : F32) : TSum :=
  match f32Val t with
  | .nan => { a with nan := true, f32 := f32Nan }
  | .inf n => { a with pos := a.pos || !n, neg := a.neg || n, f32 := addF32 a.f32 t }
  | .fin n m e => { a with exact := a.exact + (FV.fin n m e).dy.fixed 149, f32 := addF32 a.f32 t }

/-- Two sums together, the second after the first. -/
def TSum.join (a b : TSum) : TSum :=
  { exact := a.exact + b.exact, pos := a.pos || b.pos, neg := a.neg || b.neg, nan := a.nan || b.nan
    f32 := addF32 a.f32 b.f32 }

/-- The SEL_SPECIAL or LEFT_SPECIAL code. -/
def TSum.special (a : TSum) : Nat :=
  if a.nan || (a.pos && a.neg) then 3 else if a.pos then 1 else if a.neg then 2 else 0

/-- The binary32 field. -/
def TSum.word (a : TSum) (exact : Bool) : F32 :=
  if !exact then a.f32
  else match a.special with
    | 0 => (Dy.mk a.exact (-149)).f32
    | 1 => f32Inf false
    | 2 => f32Inf true
    | _ => f32Nan

/-- The 320-bit field: zero in Relaxed mode and for a special sum. -/
def TSum.field (a : TSum) (exact : Bool) : List Byte :=
  if exact && a.special == 0 then toLE (unsigned 320 a.exact) 40 else List.replicate 40 0#8

/-! ### gumbel_noise (spec/04_topiary.md R126) -/

/-- The number of fraction bits of the logarithms below. -/
def lnBits : Nat := 200

/-- Terms z^(2n+1)/(2n+1) of the inverse hyperbolic tangent, in lnBits fixed point. -/
def atanhSeries (z2 : Nat) : Nat → Nat → Nat → Nat
  | 0, _, _ => 0
  | k + 1, p, n => p / (2 * n + 1) + atanhSeries z2 k (p * z2 / 2 ^ lnBits) (n + 1)

/-- ln(a / b) for a at least b and at most 2b, in lnBits fixed point. -/
def lnNear (a b : Nat) : Nat :=
  let z := (a - b) * 2 ^ lnBits / (a + b)
  2 * atanhSeries (z * z / 2 ^ lnBits) 80 z 0

/-- ln 2 in lnBits fixed point. -/
def ln2Fixed : Nat := lnNear 2 1

/-- ln(a / b) for positive a and b, in lnBits fixed point. -/
def lnFixed (a b : Nat) : Int :=
  let k : Int := (Nat.log2 a : Int) - (Nat.log2 b : Int)
  let a' := if 0 ≤ k then a else a * 2 ^ (-k).toNat
  let b' := if 0 ≤ k then b * 2 ^ k.toNat else b
  if b' ≤ a' then (lnNear a' b' : Int) + k * (ln2Fixed : Int)
  else (lnNear (2 * a') b' : Int) + (k - 1) * (ln2Fixed : Int)

/-- G[i] (spec/04_topiary.md R126): -ln(-ln(u)) rounded to binary32, u = (64 i + 0.5) / 65,536, and 65,535.5 / 65,536 for
G[1024]. -/
def gumbelEntry (i : Nat) : F32 :=
  let num := if i ≥ 1024 then 131071 else 128 * i + 1
  let y := (-(lnFixed num 131072)).toNat
  let g := -(lnFixed y (2 ^ lnBits))
  (Dy.mk g (-(lnBits : Int))).f32

/-- gumbel_noise (spec/04_topiary.md R126). -/
def gumbelNoise (r : Nat) : F32 :=
  let j := r / 64
  let h : Dy := ⟨((r % 64 : Nat) : Int), -6⟩
  let diff := ((f32Dy (gumbelEntry (j + 1))).sub (f32Dy (gumbelEntry j))).f32
  let t := ((f32Dy diff).mul h).f32
  ((f32Dy (gumbelEntry j)).add (f32Dy t)).f32

end Sys2Proof.Machine
end

