-- ==== Sys2Proof/Machine/Formats.lean ====
section
/-! DEFINITION. The wire formats of reductions: group records, outlier side records, sparse-k records, spill records and
lead messages (spec/02_formats.md R51 to R69, spec/06_ply_reduction.md R162, R166, spec/03_quantiser.md R87, R88). -/

namespace Sys2Proof.Machine

/-- The code width of a class; 0 for a reserved class (spec/02_formats.md R52). -/
def clsBits (c : Nat) : Nat :=
  match c with
  | 1 => 2
  | 2 => 4
  | 3 => 8
  | 4 => 12
  | 5 => 16
  | 6 => 24
  | _ => 0

/-- The largest code of a class (R51). -/
def clsLim (c : Nat) : Int := (2 ^ (clsBits c - 1) : Nat) - 1

/-- The group size of a GSIZE code; 0 for the reserved one. -/
def gsizeOf (c : Nat) : Nat :=
  match c with
  | 0 => 32
  | 1 => 64
  | 2 => 128
  | _ => 0

/-- A group record (R55, R56). `neg` is the sign of an INF group. -/
structure Rec where
  exp : Int
  inf : Bool
  neg : Bool
  nan : Bool
  out : Bool
  zero : Bool
  cls : Nat
  codes : List Int
deriving DecidableEq, Repr

def Rec.special (r : Rec) : Bool := r.inf || r.nan

/-- The codes of a record as G integers: a ZERO or special record reads as zeros (spec/06_ply_reduction.md R162). -/
def Rec.codesOf (r : Rec) (g : Nat) : List Int :=
  if r.zero || r.special then List.replicate g 0 else r.codes

/-- The EXP byte of a record (R56). -/
def Rec.expByte (r : Rec) : Nat :=
  if r.nan then 0 else if r.inf then (if r.neg then 0xFF else 1) else unsigned 8 r.exp

/-- Byte 2 of the header (R56). -/
def Rec.flags (r : Rec) : Nat :=
  128 * b2n r.inf + 64 * b2n r.nan + 32 * b2n r.out + 16 * b2n r.zero + r.cls

/-- The header's four bytes (R56). -/
def Rec.header (r : Rec) : List Byte :=
  toLE r.expByte 1 ++ toLE (complB 1 r.expByte) 1 ++ toLE r.flags 1 ++ toLE (complB 1 r.flags) 1

/-- A record's bytes (R53, R55). -/
def Rec.bytes (r : Rec) : List Byte :=
  if r.zero || r.special then r.header
  else r.header ++ packBits (clsBits r.cls) (r.codes.map (unsigned (clsBits r.cls)))

/-- Length of a record from its header. -/
def recLen (g : Nat) (b : List Byte) : Nat :=
  let f := byteAt b 2
  if bitAt f 7 || bitAt f 6 || bitAt f 4 then 4 else 4 + g * clsBits (f % 16) / 8

/-- A header is valid (R57). -/
def headerOk (b : List Byte) : Bool :=
  let e := byteAt b 0
  let f := byteAt b 2
  let inf := bitAt f 7
  let nan := bitAt f 6
  decide (byteAt b 1 = complB 1 e) && decide (byteAt b 3 = complB 1 f) && decide (clsBits (f % 16) ≠ 0)
    && !(bitAt f 4 && (inf || nan || bitAt f 5)) && !(inf && !nan && e != 1 && e != 255) && !(nan && e != 0)

/-- A group record read from the front of a byte string, none when it is invalid (R57). -/
def parseRec (g : Nat) (b : List Byte) : Option Rec :=
  if b.length < 4 || !headerOk b || b.length < recLen g b then none else
  let e := byteAt b 0
  let f := byteAt b 2
  let cls := f % 16
  let w := clsBits cls
  let nan := bitAt f 6
  let plain := !(bitAt f 7 || nan || bitAt f 4)
  let codes := if plain then (List.range g).map (fun i => signed w (packedAt w ((b.drop 4).take (g * w / 8)) i)) else []
  if codes.any (fun c => decide (c < -(clsLim cls))) then none
  else some { exp := signed 8 e, inf := bitAt f 7 && !nan, neg := decide (e = 255), nan := nan, out := bitAt f 5
              zero := bitAt f 4, cls := cls, codes := codes }

/-- The records of a payload, none when one is invalid or bytes are left over (R58). -/
def parseRecs (g : Nat) : Nat → List Byte → Option (List Rec)
  | _, [] => some []
  | 0, _ :: _ => none
  | n + 1, b =>
    match parseRec g b with
    | none => none
    | some r =>
      match parseRecs g n (b.drop (recLen g b)) with
      | none => none
      | some t => some (r :: t)

/-- The smallest class of 8, 12, 16 and 24 bits that holds every code; 6 when none does (R61). -/
def sumClass (codes : List Int) : Nat :=
  if codes.all (fun c => decide (c.natAbs ≤ 127)) then 3
  else if codes.all (fun c => decide (c.natAbs ≤ 2047)) then 4
  else if codes.all (fun c => decide (c.natAbs ≤ 32767)) then 5 else 6

/-- Some code lies outside the Ply-24 range (spec/06_ply_reduction.md R162). -/
def laneOverflow (codes : List Int) : Bool := codes.any (fun c => decide (c.natAbs > 8388607))

/-- How special values combine (R69): the inf, neg and nan flags of the result. -/
def specialOf (a b : Rec) : Bool × Bool × Bool :=
  if a.nan || b.nan then (false, false, true)
  else if a.inf && b.inf then (if a.neg = b.neg then (true, a.neg, false) else (false, false, true))
  else if a.inf then (true, a.neg, false)
  else (b.inf, b.neg, false)

/-- The Ply add of an aligned incoming record a and a local record b, with its lane_overflow flag
(spec/06_ply_reduction.md R162). -/
def plySum (g : Nat) (a b : Rec) : Rec × Bool :=
  if a.special || b.special then
    let (inf, neg, nan) := specialOf a b
    ({ exp := 0, inf := inf, neg := neg, nan := nan, out := a.out || b.out, zero := false
       cls := max 3 (max a.cls b.cls), codes := [] }, false)
  else
    let t := List.zipWith (· + ·) (a.codesOf g) (b.codesOf g)
    let out := a.out || b.out
    let zero := t.all (· == 0) && !out
    ({ exp := if a.zero then b.exp else a.exp, inf := false, neg := false, nan := false, out := out, zero := zero
       cls := if zero then 3 else sumClass t, codes := if zero then [] else t }, laneOverflow t)

/-- A ZERO record at an exponent. -/
def zeroRec (e : Int) (cls : Nat) : Rec :=
  { exp := e, inf := false, neg := false, nan := false, out := false, zero := true, cls := cls, codes := [] }

/-! ### Outlier side records (R62, R63) -/

/-- One side entry: the contributing rank, the position and the BF16 value. -/
structure SideEntry where
  rank : Nat
  pos : Nat
  value : Nat
deriving DecidableEq, Repr

/-- A side record's bytes. -/
def sideBytes (group : Nat) (es : List SideEntry) : List Byte :=
  toLE group 4 ++ toLE es.length 2 ++ toLE (complB 2 es.length) 2
    ++ es.flatMap (fun e => toLE e.rank 2 ++ toLE e.pos 1 ++ toLE (complB 1 e.pos) 1 ++ toLE e.value 2 ++ toLE 0 2)

/-- The entries are strictly ascending by (POS, RANK). -/
def sideSorted : List SideEntry → Bool
  | a :: b :: t => decide (a.pos < b.pos ∨ (a.pos = b.pos ∧ a.rank < b.rank)) && sideSorted (b :: t)
  | _ => true

/-- A side record at the front of a byte string: its group, its entries and its length; none when invalid. -/
def parseSide (g : Nat) (b : List Byte) : Option (Nat × List SideEntry × Nat) :=
  let m := leAt b 4 2
  if b.length < 8 || leAt b 6 2 != complB 2 m || m < 1 || 511 < m || b.length < 8 + 8 * m then none else
  let es := (List.range m).map (fun j =>
    ({ rank := leAt b (8 + 8 * j) 2, pos := byteAt b (10 + 8 * j), value := leAt b (12 + 8 * j) 2 } : SideEntry))
  let ok := (List.range m).all (fun j =>
    decide (byteAt b (11 + 8 * j) = complB 1 (byteAt b (10 + 8 * j))) && decide (leAt b (14 + 8 * j) 2 = 0)
      && decide (byteAt b (10 + 8 * j) < g) && (bf16Val (BitVec.ofNat 16 (leAt b (12 + 8 * j) 2))).isFinite)
  let own := es.all (fun e => decide ((es.filter (fun f => f.rank == e.rank)).length ≤ 8))
  if ok && own && sideSorted es then some (leAt b 0 4, es, 8 + 8 * m) else none

def parseSides (g : Nat) : Nat → List Byte → Option (List (Nat × List SideEntry))
  | _, [] => some []
  | 0, _ :: _ => none
  | n + 1, b =>
    match parseSide g b with
    | none => none
    | some (k, es, l) =>
      match parseSides g n (b.drop l) with
      | none => none
      | some t => some ((k, es) :: t)

/-! ### Sparse-k records (R65 to R67) -/

/-- A sparse-k record. -/
structure Sparse where
  block : Nat
  inf : Bool
  neg : Bool
  nan : Bool
  cls : Nat
  entries : List (Nat × Int)
deriving DecidableEq, Repr

/-- A sparse-k record's bytes. -/
def Sparse.bytes (r : Sparse) : List Byte :=
  let f := 128 * b2n r.inf + 64 * b2n r.nan + r.cls
  let sg := if r.inf && !r.nan then (if r.neg then 0xFF else 1) else 0
  toLE r.block 4 ++ toLE f 1 ++ toLE (complB 1 f) 1 ++ toLE sg 1 ++ toLE (complB 1 sg) 1
    ++ toLE r.entries.length 2 ++ toLE (complB 2 r.entries.length) 2 ++ toLE 0 4
    ++ r.entries.flatMap (fun e => if r.cls = 6 then toLE (e.1 + 65536 * unsigned 24 e.2) 8
                                   else toLE (e.1 + 65536 * unsigned 16 e.2) 4)

def entriesSorted : List (Nat × Int) → Bool
  | a :: b :: t => decide (a.1 < b.1) && entriesSorted (b :: t)
  | _ => true

/-- A sparse-k record at the front of a byte string and its length, for block size bs and a bucket of n elements. -/
def parseSparse (bs n : Nat) (b : List Byte) : Option (Sparse × Nat) :=
  let f := byteAt b 4
  let sg := byteAt b 6
  let m := leAt b 8 2
  let cls := f % 16
  let w := if cls = 6 then 8 else 4
  let inf := bitAt f 7
  let nan := bitAt f 6
  let headOk := decide (byteAt b 5 = complB 1 f) && decide (byteAt b 7 = complB 1 sg)
    && decide (leAt b 10 2 = complB 2 m) && decide (leAt b 12 4 = 0) && decide (f / 16 % 4 = 0)
    && decide (clsBits cls ≠ 0)
    && (if inf && !nan then sg == 1 || sg == 255 else sg == 0) && !((inf || nan) && m != 0)
  if b.length < 16 || !headOk || b.length < 16 + w * m then none else
  let es := (List.range m).map (fun j =>
    let x := leAt b (16 + w * j) w
    (x % 65536, if cls = 6 then signed 24 (x / 65536) else signed 16 (x / 65536)))
  let ok := es.all (fun e => decide (e.2.natAbs ≤ (clsLim cls).toNat) && decide (e.1 < bs)
              && decide (leAt b 0 4 * bs + e.1 < n))
    && (List.range m).all (fun j => cls != 6 || decide (leAt b (16 + w * j) w / 2 ^ 40 = 0))
  if ok && entriesSorted es then
    some ({ block := leAt b 0 4, inf := inf && !nan, neg := decide (sg = 255), nan := nan, cls := cls, entries := es },
      16 + w * m)
  else none

def parseSparses (bs n : Nat) : Nat → List Byte → Option (List Sparse)
  | _, [] => some []
  | 0, _ :: _ => none
  | k + 1, b =>
    match parseSparse bs n b with
    | none => none
    | some (r, l) =>
      match parseSparses bs n k (b.drop l) with
      | none => none
      | some t => some (r :: t)

/-! ### Spill records (spec/06_ply_reduction.md R166) -/

/-- A spill record: group, LEVEL, the record it stands for and its CONTRIB. -/
structure Spill where
  group : Nat
  gsize : Nat
  row : Bool
  body : Rec
  contrib : Nat
deriving DecidableEq, Repr

def Spill.bytes (r : Spill) : List Byte :=
  let f := r.gsize + 4 * b2n r.row + 8 * b2n r.body.out + 16 * b2n r.body.zero + 32 * b2n r.body.nan + 64 * b2n r.body.inf
  toLE r.group 4 ++ toLE r.body.expByte 1 ++ toLE (complB 1 r.body.expByte) 1 ++ toLE f 1 ++ toLE (complB 1 f) 1
    ++ toLE r.contrib 4 ++ toLE (complB 4 r.contrib) 4
    ++ (if r.body.zero || r.body.special then [] else r.body.codes.flatMap (fun c => toLE (unsigned 32 c) 4))

/-- A spill record at the front of a byte string and its length. -/
def parseSpill (b : List Byte) : Option (Spill × Nat) :=
  let e := byteAt b 4
  let f := byteAt b 6
  let g := gsizeOf (f % 4)
  let zero := bitAt f 4
  let nan := bitAt f 5
  let inf := bitAt f 6
  let plain := !(zero || nan || inf)
  let n := leAt b 8 4
  let len := 16 + (if plain then 4 * g else 0)
  let ok := decide (byteAt b 5 = complB 1 e) && decide (byteAt b 7 = complB 1 f) && !bitAt f 7 && decide (g ≠ 0)
    && decide (leAt b 12 4 = complB 4 n) && decide (n ≠ 0) && !(zero && (inf || nan || bitAt f 3))
    && !(inf && !nan && e != 1 && e != 255) && !(nan && e != 0)
  if b.length < 16 || !ok || b.length < len then none else
  let codes := if plain then (List.range g).map (fun i => signed 32 (leAt b (16 + 4 * i) 4)) else []
  if codes.any (fun c => decide (2 ^ 26 ≤ c.natAbs)) then none
  else some ({ group := leAt b 0 4, gsize := f % 4, row := bitAt f 2
               body := { exp := signed 8 e, inf := inf && !nan, neg := decide (e = 255), nan := nan, out := bitAt f 3
                         zero := zero, cls := 3, codes := codes }
               contrib := n }, len)

def parseSpills : Nat → List Byte → Option (List Spill)
  | _, [] => some []
  | 0, _ :: _ => none
  | k + 1, b =>
    match parseSpill b with
    | none => none
    | some (r, l) =>
      match parseSpills k (b.drop l) with
      | none => none
      | some t => some (r :: t)

/-! ### Lead messages (spec/03_quantiser.md R87, R88) -/

/-- A scale lead message. -/
structure LeadMsg where
  bucket : Nat
  step : Nat
  cls : Nat
  gsize : Nat
  bytes : List Nat
deriving DecidableEq, Repr

def LeadMsg.encode (m : LeadMsg) : List Byte :=
  let c := m.cls + 16 * m.gsize
  let b := toLE m.bucket 4 ++ toLE m.step 6 ++ toLE c 1 ++ toLE (complB 1 c) 1 ++ toLE m.bytes.length 4
    ++ m.bytes.map (BitVec.ofNat 8)
  b ++ List.replicate (upTo 4 b.length - b.length) 0

/-- A lead message, none when it is invalid (R88). -/
def parseLead (b : List Byte) : Option LeadMsg :=
  let c := byteAt b 10
  let n := leAt b 12 4
  let cls := c % 16
  if byteAt b 11 != complB 1 c || cls < 1 || 6 < cls || c / 16 % 4 == 3 || c / 64 != 0 || b.length != upTo 4 (16 + n)
  then none
  else some { bucket := leAt b 0 4, step := leAt b 4 6, cls := cls, gsize := c / 16 % 4
              bytes := (List.range n).map (fun i => byteAt b (16 + i)) }

/-! ### MX formats (spec/02_formats.md R73 to R75), by the format codes 2 to 7 of spec/08_collectives.md R215 -/

/-- An MX element format: width, significant bits, exponent of its least step, largest magnitude pattern and emax. -/
structure MxFmt where
  width : Nat
  prec : Nat
  emin : Int
  top : Nat
  emax : Int
deriving DecidableEq, Repr

def mxFmt (f : Nat) : MxFmt :=
  match f with
  | 2 => ⟨8, 4, -9, 0x7E, 8⟩
  | 3 => ⟨8, 3, -16, 0x7B, 15⟩
  | 4 => ⟨6, 3, -4, 0x1F, 4⟩
  | 5 => ⟨6, 4, -3, 0x1F, 2⟩
  | 6 => ⟨4, 2, -1, 0x7, 2⟩
  | _ => ⟨8, 8, -6, 127, 0⟩

/-- The largest exponent floor(log2) of the finite non-zero values of a list, none when all are zero. -/
def maxExp (vs : List FV) : Option Int :=
  vs.foldl (fun m v =>
    if v.dy.isZero then m else
    match m with
    | none => some v.dy.expOf
    | some e => some (max e v.dy.expOf)) none

def FV.sign : FV → Bool
  | .nan => false
  | .inf n => n
  | .fin n _ _ => n

/-- A block of values converted to an MX format: the scale byte and the element patterns (R75). -/
def mxEncode (f : Nat) (vs : List FV) : Nat × List Nat :=
  let m := mxFmt f
  if vs.any (fun v => !v.isFinite) then (0xFF, vs.map (fun _ => 0)) else
  let s : Nat := match maxExp vs with
    | none => 0
    | some e => (max (-127) (min 127 (e - m.emax)) + 127).toNat
  (s, vs.map (fun v =>
    let d := v.dy.scale (127 - (s : Int))
    if f = 7 then unsigned 8 (clampTo 127 (d.rneAt 6))
    else
      let p := min m.top (roundPattern m.prec m.emin d.m.natAbs 1 d.e)
      p + 2 ^ (m.width - 1) * b2n v.sign))

/-- The value of an MX element pattern under a scale byte (R73). -/
def mxDecode (f s p : Nat) : FV :=
  let m := mxFmt f
  if s = 0xFF then .nan else
  let x : Int := (s : Int) - 127
  if f = 7 then
    let c := signed 8 p
    .fin (decide (c < 0)) c.natAbs (x - 6)
  else
    let neg := bitAt p (m.width - 1)
    let mag := p % 2 ^ (m.width - 1)
    let fb := m.prec - 1
    let ex := mag / 2 ^ fb
    let fr := mag % 2 ^ fb
    if f = 2 && mag == 0x7F then .nan
    else if f = 3 && ex == 31 then (if fr = 0 then .inf neg else .nan)
    else if ex = 0 then .fin neg fr (m.emin + x)
    else .fin neg (fr + 2 ^ fb) (m.emin + (ex : Int) - 1 + x)

/-! ### Sizes of output formats (spec/08_collectives.md R214, R215) -/

/-- Bits per element of a format's element plane. -/
def fmtBits (f : Nat) : Nat :=
  match f with
  | 1 => 16
  | 2 => 8
  | 3 => 8
  | 4 => 6
  | 5 => 6
  | 6 => 4
  | 7 => 8
  | 8 => 4
  | 9 => 32
  | 10 => 8
  | 11 => 4
  | 12 => 64
  | _ => 0

def isMx (f : Nat) : Bool := decide (2 ≤ f) && decide (f ≤ 7)

/-- The group size of asymmetric INT4 (R214, R76). -/
def int4Group (c : Nat) : Nat :=
  match c with
  | 0 => 32
  | 1 => 64
  | 2 => 128
  | _ => 0

/-- Bytes of the element plane of n elements. -/
def planeBytes (f n : Nat) : Nat := cdiv (n * fmtBits f) 8

/-- Bytes of the scale or side plane of n elements. -/
def sidePlaneBytes (f int4 n : Nat) : Nat :=
  if isMx f then cdiv n 32 else if f = 8 then 8 * cdiv n (int4Group int4) else 0

/-- Offset of the scale or side plane from the buffer's start: the next 256-byte boundary (R215). -/
def sidePlaneAt (f n : Nat) : Nat := upTo 256 (planeBytes f n)

end Sys2Proof.Machine
end

