-- ==== Sys2Proof/Config.lean ====
section
/-! DEFINITION. What one chip or its surroundings fix and the spec leaves open: free values with no body, so that
nothing can prove what they are. Each is named in an assumption log entry. -/

namespace Sys2Proof.Config

/-- What a word of on-engine SRAM holds between reset assertion and the zeroing of its unit's wake (spec/01_engine_and_step.md
R49: undefined; DESIGN CHOICE, log 6). The first argument is the free-value counter at the assertion. -/
opaque sramWord : Nat → Nat → Word

/-- Which random lane takes the next draw in Relaxed mode (spec/02_formats.md R83: the order in which the lanes reach the
elements; DESIGN CHOICE, log 9). The argument is the free-value counter. -/
opaque laneOf : Nat → Nat

/-- The place of score i in the order in which the scores of a row, list or block arrive from memory in Relaxed mode
(spec/04_topiary.md R121; DESIGN CHOICE, log 9). -/
opaque arrival : Nat → Nat → Nat

/-- The verdict of the ECDSA P-384 check of a firmware image under the key in a fused key slot (spec/13_control.md R379: the
keys are in X4 fuses; DESIGN CHOICE, log 10). Arguments: key slot, signature bytes, signed bytes. -/
opaque signatureGood : Nat → List Byte → List Byte → Bool

/-- BUILD of the firmware that runs (spec/13_control.md R376 names the field, no rule gives its value; DESIGN CHOICE, log 10). -/
opaque firmwareBuild : Nat → BitVec 32

/-- The fused target lap period of a resource, in units of 2^-24 ns (spec/12_resilience.md R364; DESIGN CHOICE, log 11). -/
opaque targetPeriod : BitVec 32 → Nat

/-- The fused ageing limit of a resource's class, in units of 2^-24 (spec/12_resilience.md R364; DESIGN CHOICE, log 11). -/
opaque ageLimit : BitVec 32 → Nat

/-- The length of a repair pause in microseconds; the model keeps it within the bound the spec gives
(spec/12_resilience.md R360, R367; DESIGN CHOICE, log 16). -/
opaque pauseUs : Nat → Nat

/-- What the Spindle halt instrument shifts out: word n of Spindle's SRAM and processor state
(spec/15_bringup_power.md R429; DESIGN CHOICE, log 10). -/
opaque spindleWord : Nat → Nat → BitVec 64

/-- SUM_SCALE of the row commands whose EXP2 lists a merge combines (spec/04_topiary.md R129 takes t of R119; neither the
record of R118 nor the block of spec/13_control.md R388 carries it; DESIGN CHOICE, log 18). The argument is the ROW_MAX on which the
lists agree. -/
opaque mergeScale : F32 → F32

/-- The bank that holds a word of the Bobbin, as 66 times its group plus its place in it (spec/15_bringup_power.md R429 tests a
bank; no rule places the Bobbin's words; DESIGN CHOICE, log 31). -/
opaque bobbinBank : Nat → Nat

/-- The bytes of a Spindle firmware message (spec/09_fabric.md R263: opaque to the fabric; DESIGN CHOICE, log 26). The argument is
the free-value counter. -/
opaque mgmtBytes : Nat → List Byte

end Sys2Proof.Config
end

