-- ==== Sys2Proof/Machine/RegMap.lean ====
section
/-! DEFINITION. The register map (spec/14_registers.md R415 and the register tables of every chapter): one row for each
register or register array, with its fields, access codes, reset values and application classes (spec/00_scope.md R14 to
R17). Reserved fields are the bits that no field covers. The two 256-byte areas of a mailbox pair are rows of 32-bit words. -/

namespace Sys2Proof.Machine

/-- The access codes (spec/00_scope.md R14). -/
inductive Access where
  | rw
  | ro
  | rc
  | wo
  | rwl
  | ws
deriving DecidableEq, Repr

/-- When a written value takes effect (spec/00_scope.md R15). -/
inductive Applied where
  | none
  | now
  | packet
  | descriptor
  | step
deriving DecidableEq, Repr

/-- One field of a register: its bits, access, reset value, class, and whether an RC field is a flag field
(spec/14_registers.md R414). -/
structure RField where
  hi : Nat
  lo : Nat
  acc : Access
  rst : Nat
  app : Applied
  flag : Bool
deriving DecidableEq, Repr

/-- One register, or an array of registers: register k lies at base + stride x k. `covered` says whether its RW, RWL and WS
fields enter the configuration CRC (spec/14_registers.md R409). -/
structure RegRow where
  name : String
  base : Nat
  stride : Nat
  count : Nat
  width : Nat
  covered : Bool
  fields : List RField
deriving DecidableEq, Repr

/-- The registers of spec/03_quantiser.md, R110. -/
def regsQuantiser : List RegRow :=
  [
  ⟨"LGX_QNT_STAT_BASE", 0x040000, 0x8, 1, 64, true, [
    ⟨63, 8, .rw, 0, .step, false⟩]⟩,
  ⟨"LGX_QNT_STAT_CFG", 0x040008, 0x4, 1, 32, true, [
    ⟨4, 0, .rw, 12, .step, false⟩,
    ⟨5, 5, .rw, 0, .step, false⟩]⟩,
  ⟨"LGX_QNT_STAT_HEAD", 0x04000C, 0x4, 1, 32, true, [
    ⟨31, 0, .ro, 0, .none, false⟩]⟩,
  ⟨"LGX_QNT_STAT_TAIL", 0x040010, 0x4, 1, 32, false, [
    ⟨31, 0, .rw, 0, .now, false⟩]⟩,
  ⟨"LGX_QNT_STAT_DROP", 0x040014, 0x4, 1, 32, true, [
    ⟨31, 0, .rc, 0, .none, false⟩]⟩,
  ⟨"LGX_QNT_FMT_BASE", 0x040018, 0x8, 1, 64, true, [
    ⟨63, 2, .rw, 0, .step, false⟩]⟩,
  ⟨"LGX_QNT_LATE", 0x040020, 0x8, 1, 64, true, [
    ⟨63, 0, .ro, 0, .none, false⟩]⟩,
  ⟨"LGX_QNT_CLAMP", 0x040028, 0x4, 1, 32, true, [
    ⟨15, 0, .rc, 0, .none, false⟩,
    ⟨31, 16, .rc, 0, .none, false⟩]⟩,
  ⟨"LGX_QNT_ACT_SPECIAL", 0x04002C, 0x4, 1, 32, true, [
    ⟨31, 0, .rc, 0, .none, false⟩]⟩,
  ⟨"LGX_QNT_POLICY_s", 0x040100, 0x8, 64, 64, true, [
    ⟨1, 0, .rw, 0, .step, false⟩,
    ⟨3, 2, .rw, 1, .step, false⟩,
    ⟨7, 4, .rw, 3, .step, false⟩,
    ⟨11, 8, .rw, 3, .step, false⟩,
    ⟨15, 12, .rw, 1, .step, false⟩,
    ⟨19, 16, .rw, 6, .step, false⟩,
    ⟨24, 20, .rw, 10, .step, false⟩,
    ⟨29, 25, .rw, 20, .step, false⟩,
    ⟨33, 30, .rw, 4, .step, false⟩,
    ⟨37, 34, .rw, 2, .step, false⟩,
    ⟨41, 38, .rw, 6, .step, false⟩]⟩,
  ⟨"LGX_QNT_ACT_BASE_t", 0x040400, 0x10, 8, 64, true, [
    ⟨63, 0, .rw, 0, .step, false⟩]⟩,
  ⟨"LGX_QNT_ACT_CFG_t", 0x040408, 0x10, 8, 32, true, [
    ⟨15, 0, .rw, 0, .step, false⟩,
    ⟨16, 16, .rw, 0, .step, false⟩]⟩]

/-- The registers of spec/04_topiary.md, R135. -/
def regsTopiary : List RegRow :=
  [
  ⟨"LGX_TOP_RING_BASE", 0x041000, 0x8, 1, 64, true, [
    ⟨63, 8, .rw, 0, .step, false⟩]⟩,
  ⟨"LGX_TOP_RING_CFG", 0x041008, 0x4, 1, 32, true, [
    ⟨4, 0, .rw, 10, .step, false⟩,
    ⟨5, 5, .rw, 0, .step, false⟩]⟩,
  ⟨"LGX_TOP_RING_HEAD", 0x04100C, 0x4, 1, 32, true, [
    ⟨31, 0, .ro, 0, .none, false⟩]⟩,
  ⟨"LGX_TOP_RING_TAIL", 0x041010, 0x4, 1, 32, false, [
    ⟨31, 0, .rw, 0, .now, false⟩]⟩,
  ⟨"LGX_TOP_RING_DROP", 0x041014, 0x4, 1, 32, true, [
    ⟨31, 0, .rc, 0, .none, false⟩]⟩,
  ⟨"LGX_TOP_EVENTS", 0x041018, 0x4, 1, 32, true, [
    ⟨15, 0, .rc, 0, .none, false⟩,
    ⟨31, 16, .rc, 0, .none, false⟩]⟩,
  ⟨"LGX_TOP_DUPS", 0x04101C, 0x4, 1, 32, true, [
    ⟨31, 0, .rc, 0, .none, false⟩]⟩]

/-- The registers of spec/05_coppice.md, R157. -/
def regsCoppice : List RegRow :=
  [
  ⟨"LGX_CPC_BKT_BASE", 0x042000, 0x8, 1, 64, true, [
    ⟨63, 5, .rw, 0, .step, false⟩]⟩,
  ⟨"LGX_CPC_RING_BASE", 0x042008, 0x8, 1, 64, true, [
    ⟨63, 8, .rw, 0, .step, false⟩]⟩,
  ⟨"LGX_CPC_RING_CFG", 0x042010, 0x4, 1, 32, true, [
    ⟨4, 0, .rw, 10, .step, false⟩,
    ⟨5, 5, .rw, 0, .step, false⟩]⟩,
  ⟨"LGX_CPC_RING_HEAD", 0x042014, 0x4, 1, 32, true, [
    ⟨31, 0, .ro, 0, .none, false⟩]⟩,
  ⟨"LGX_CPC_RING_TAIL", 0x042018, 0x4, 1, 32, false, [
    ⟨31, 0, .rw, 0, .now, false⟩]⟩,
  ⟨"LGX_CPC_RING_DROP", 0x04201C, 0x4, 1, 32, true, [
    ⟨31, 0, .rc, 0, .none, false⟩]⟩,
  ⟨"LGX_CPC_EVENTS", 0x042020, 0x4, 1, 32, true, [
    ⟨15, 0, .rc, 0, .none, false⟩,
    ⟨31, 16, .rc, 0, .none, false⟩]⟩,
  ⟨"LGX_CPC_COPY_WAIT", 0x042028, 0x8, 1, 64, true, [
    ⟨63, 0, .ro, 0, .none, false⟩]⟩]

/-- The registers of spec/06_ply_reduction.md, R190. -/
def regsPlyReduction : List RegRow :=
  [
  ⟨"LGX_PLY_CFG", 0x043000, 0x4, 1, 32, true, [
    ⟨3, 0, .rw, 6, .step, false⟩,
    ⟨8, 4, .rw, 6, .step, false⟩,
    ⟨9, 9, .rw, 1, .step, false⟩]⟩,
  ⟨"LGX_BOB_MAP_BASE", 0x043008, 0x8, 1, 64, true, [
    ⟨63, 6, .rw, 0, .step, false⟩]⟩,
  ⟨"LGX_PLY_SPILLS", 0x043010, 0x8, 1, 64, true, [
    ⟨63, 0, .ro, 0, .none, false⟩]⟩,
  ⟨"LGX_PLY_EVENTS", 0x043018, 0x4, 1, 32, true, [
    ⟨15, 0, .rc, 0, .none, false⟩,
    ⟨31, 16, .rc, 0, .none, false⟩]⟩,
  ⟨"LGX_PLY_STRAY", 0x04301C, 0x4, 1, 32, true, [
    ⟨15, 0, .rc, 0, .none, false⟩,
    ⟨31, 16, .rc, 0, .none, false⟩]⟩,
  ⟨"LGX_PLY_CHECKED", 0x043020, 0x8, 1, 64, true, [
    ⟨63, 0, .ro, 0, .none, false⟩]⟩,
  ⟨"LGX_PLY_SDE", 0x043028, 0x4, 1, 32, true, [
    ⟨31, 0, .rc, 0, .none, false⟩]⟩,
  ⟨"LGX_PLY_SDE_AT", 0x043030, 0x8, 1, 64, true, [
    ⟨39, 0, .ro, 0, .none, false⟩,
    ⟨51, 40, .ro, 0, .none, false⟩]⟩,
  ⟨"LGX_PLY_JOBST_w", 0x043400, 0x4, 256, 32, true, [
    ⟨1, 0, .ro, 0, .none, false⟩,
    ⟨3, 2, .ro, 0, .none, false⟩,
    ⟨5, 4, .ro, 0, .none, false⟩,
    ⟨7, 6, .ro, 0, .none, false⟩,
    ⟨9, 8, .ro, 0, .none, false⟩,
    ⟨11, 10, .ro, 0, .none, false⟩,
    ⟨13, 12, .ro, 0, .none, false⟩,
    ⟨15, 14, .ro, 0, .none, false⟩,
    ⟨17, 16, .ro, 0, .none, false⟩,
    ⟨19, 18, .ro, 0, .none, false⟩,
    ⟨21, 20, .ro, 0, .none, false⟩,
    ⟨23, 22, .ro, 0, .none, false⟩,
    ⟨25, 24, .ro, 0, .none, false⟩,
    ⟨27, 26, .ro, 0, .none, false⟩,
    ⟨29, 28, .ro, 0, .none, false⟩,
    ⟨31, 30, .ro, 0, .none, false⟩]⟩]

/-- The registers of spec/07_espalier.md, R212. -/
def regsEspalier : List RegRow :=
  [
  ⟨"LGX_ESP_OWN_BASE", 0x044000, 0x8, 1, 64, true, [
    ⟨63, 6, .rw, 0, .step, false⟩]⟩,
  ⟨"LGX_ESP_CFG", 0x044008, 0x4, 1, 32, true, [
    ⟨0, 0, .rw, 0, .step, false⟩,
    ⟨1, 1, .rw, 1, .step, false⟩]⟩,
  ⟨"LGX_ESP_PROG_VALID", 0x04400C, 0x4, 1, 32, true, [
    ⟨15, 0, .ro, 0, .none, false⟩,
    ⟨31, 16, .ro, 0, .none, false⟩]⟩,
  ⟨"LGX_ESP_APPLIED", 0x044010, 0x8, 1, 64, true, [
    ⟨63, 0, .ro, 0, .none, false⟩]⟩,
  ⟨"LGX_ESP_WITHHELD", 0x044018, 0x4, 1, 32, true, [
    ⟨31, 0, .rc, 0, .none, false⟩]⟩,
  ⟨"LGX_ESP_REASONS", 0x04401C, 0x4, 1, 32, true, [
    ⟨4, 0, .rc, 0, .none, true⟩]⟩,
  ⟨"LGX_ESP_NONFINITE", 0x044020, 0x4, 1, 32, true, [
    ⟨31, 0, .rc, 0, .none, false⟩]⟩,
  ⟨"LGX_ESP_COPY_WAIT", 0x044028, 0x8, 1, 64, true, [
    ⟨63, 0, .ro, 0, .none, false⟩]⟩]

/-- The registers of spec/08_collectives.md, R255. -/
def regsCollectives : List RegRow :=
  [
  ⟨"LGX_COL_CFG", 0x045000, 0x4, 1, 32, true, [
    ⟨3, 0, .rw, 2, .step, false⟩]⟩,
  ⟨"LGX_COL_WARN", 0x045008, 0x8, 1, 64, true, [
    ⟨63, 0, .rw, 200000, .step, false⟩]⟩,
  ⟨"LGX_COL_ABORT", 0x045010, 0x8, 1, 64, true, [
    ⟨63, 0, .rw, 100000000, .step, false⟩]⟩,
  ⟨"LGX_COL_STRAGGLER", 0x045018, 0x8, 1, 64, true, [
    ⟨15, 0, .ro, 0, .none, false⟩,
    ⟨27, 16, .ro, 0, .none, false⟩,
    ⟨33, 28, .ro, 0, .none, false⟩,
    ⟨63, 63, .rc, 0, .none, true⟩]⟩,
  ⟨"LGX_COL_EVENTS", 0x045020, 0x4, 1, 32, true, [
    ⟨7, 0, .rc, 0, .none, false⟩,
    ⟨15, 8, .rc, 0, .none, false⟩,
    ⟨23, 16, .rc, 0, .none, false⟩,
    ⟨31, 24, .rc, 0, .none, false⟩]⟩,
  ⟨"LGX_COL_RESENDS", 0x045028, 0x8, 1, 64, true, [
    ⟨31, 0, .ro, 0, .none, false⟩,
    ⟨63, 32, .ro, 0, .none, false⟩]⟩,
  ⟨"LGX_FEED_STALL", 0x045030, 0x8, 1, 64, true, [
    ⟨63, 0, .ro, 0, .none, false⟩]⟩]

/-- The registers of spec/09_fabric.md, R287. -/
def regsFabric : List RegRow :=
  [
  ⟨"LGX_PORT_STATE", 0x080000, 0x1000, 16, 32, true, [
    ⟨1, 0, .ro, 0, .none, false⟩,
    ⟨10, 2, .ro, 255, .none, false⟩,
    ⟨19, 11, .ro, 0, .none, false⟩,
    ⟨23, 20, .ro, 8, .none, false⟩]⟩,
  ⟨"LGX_PORT_CTL", 0x080004, 0x1000, 16, 32, false, [
    ⟨0, 0, .rw, 1, .packet, false⟩,
    ⟨1, 1, .rw, 0, .packet, false⟩,
    ⟨2, 2, .wo, 0, .now, false⟩]⟩,
  ⟨"LGX_PORT_CFG", 0x080008, 0x1000, 16, 32, true, [
    ⟨12, 0, .rw, 3072, .packet, false⟩]⟩,
  ⟨"LGX_PORT_CREDIT", 0x080010, 0x1000, 16, 64, true, [
    ⟨15, 0, .ro, 512, .none, false⟩,
    ⟨31, 16, .ro, 48, .none, false⟩,
    ⟨47, 32, .ro, 48, .none, false⟩,
    ⟨63, 48, .ro, 32, .none, false⟩]⟩,
  ⟨"LGX_PORT_ERR", 0x080018, 0x1000, 16, 32, true, [
    ⟨7, 0, .rc, 0, .none, false⟩,
    ⟨15, 8, .rc, 0, .none, false⟩,
    ⟨23, 16, .rc, 0, .none, false⟩,
    ⟨31, 24, .rc, 0, .none, false⟩]⟩,
  ⟨"LGX_PORT_AUDIT", 0x08001C, 0x1000, 16, 32, true, [
    ⟨23, 0, .rc, 0, .none, false⟩,
    ⟨31, 24, .rc, 0, .none, false⟩]⟩,
  ⟨"LGX_PORT_DROP", 0x080020, 0x1000, 16, 32, true, [
    ⟨7, 0, .rc, 0, .none, false⟩,
    ⟨15, 8, .rc, 0, .none, false⟩,
    ⟨31, 16, .rc, 0, .none, false⟩]⟩,
  ⟨"LGX_PORT_TX_FLITS", 0x080028, 0x1000, 16, 64, true, [
    ⟨63, 0, .ro, 0, .none, false⟩]⟩,
  ⟨"LGX_PORT_RX_FLITS", 0x080030, 0x1000, 16, 64, true, [
    ⟨63, 0, .ro, 0, .none, false⟩]⟩,
  ⟨"LGX_FAB_SELF", 0x090000, 0x4, 1, 32, true, [
    ⟨19, 0, .ws, 0, .now, false⟩]⟩,
  ⟨"LGX_FAB_CFG", 0x090004, 0x4, 1, 32, true, [
    ⟨0, 0, .rw, 0, .packet, false⟩,
    ⟨1, 1, .rw, 1, .packet, false⟩,
    ⟨7, 2, .rw, 16, .packet, false⟩,
    ⟨15, 8, .rw, 255, .packet, false⟩,
    ⟨16, 16, .rw, 1, .packet, false⟩]⟩,
  ⟨"LGX_FAB_TIMERS", 0x090008, 0x8, 1, 64, true, [
    ⟨16, 0, .rw, 1000, .packet, false⟩,
    ⟨26, 17, .rw, 10, .packet, false⟩,
    ⟨36, 27, .rw, 1000, .packet, false⟩,
    ⟨46, 37, .rw, 10, .packet, false⟩,
    ⟨60, 47, .rw, 1000, .packet, false⟩]⟩] ++
  [
  ⟨"LGX_FAB_EPOCH", 0x090010, 0x4, 1, 32, true, [
    ⟨1, 0, .ro, 0, .none, false⟩,
    ⟨2, 2, .ro, 0, .none, false⟩,
    ⟨3, 3, .ro, 0, .none, false⟩,
    ⟨4, 4, .wo, 0, .now, false⟩]⟩,
  ⟨"LGX_FAB_EPOCH_INJ", 0x090018, 0x8, 1, 64, true, [
    ⟨63, 0, .ro, 0, .none, false⟩]⟩,
  ⟨"LGX_FAB_EPOCH_EJ", 0x090020, 0x8, 1, 64, true, [
    ⟨63, 0, .ro, 0, .none, false⟩]⟩,
  ⟨"LGX_FAB_WIN_BASE", 0x090028, 0x8, 1, 64, true, [
    ⟨63, 6, .rw, 0, .packet, false⟩]⟩,
  ⟨"LGX_FAB_EVENTS", 0x090030, 0x4, 1, 32, true, [
    ⟨7, 0, .rc, 0, .none, false⟩,
    ⟨15, 8, .rc, 0, .none, false⟩,
    ⟨23, 16, .rc, 0, .none, false⟩,
    ⟨27, 24, .rc, 0, .none, false⟩,
    ⟨31, 28, .rc, 0, .none, false⟩]⟩,
  ⟨"LGX_FAB_ESCAPED", 0x090034, 0x4, 1, 32, true, [
    ⟨31, 0, .rc, 0, .none, false⟩]⟩,
  ⟨"LGX_FAB_TIMEOUT", 0x090038, 0x4, 1, 32, true, [
    ⟨23, 0, .rw, 40000, .packet, false⟩]⟩,
  ⟨"LGX_FAB_ROW_b", 0x090100, 0x8, 2, 32, false, [
    ⟨14, 0, .rw, 0, .now, false⟩,
    ⟨29, 15, .rw, 32767, .now, false⟩]⟩,
  ⟨"LGX_FAB_ROUTE_0", 0x0A0000, 0x4, 65536, 32, false, [
    ⟨31, 0, .rw, 0, .now, false⟩]⟩,
  ⟨"LGX_FAB_ROUTE_1", 0x0E0000, 0x4, 65536, 32, false, [
    ⟨31, 0, .rw, 0, .now, false⟩]⟩]

/-- The registers of spec/10_compression.md, R312. -/
def regsCompression : List RegRow :=
  [
  ⟨"LGX_CRD_CFG", 0x046000, 0x4, 1, 32, true, [
    ⟨0, 0, .rw, 1, .step, false⟩,
    ⟨1, 1, .rw, 0, .step, false⟩]⟩,
  ⟨"LGX_CRD_SEGS", 0x046008, 0x8, 1, 64, true, [
    ⟨31, 0, .ro, 0, .none, false⟩,
    ⟨63, 32, .ro, 0, .none, false⟩]⟩,
  ⟨"LGX_CRD_IN", 0x046010, 0x8, 1, 64, true, [
    ⟨63, 0, .ro, 0, .none, false⟩]⟩,
  ⟨"LGX_CRD_OUT", 0x046018, 0x8, 1, 64, true, [
    ⟨63, 0, .ro, 0, .none, false⟩]⟩,
  ⟨"LGX_CRD_EVENTS", 0x046020, 0x4, 1, 32, true, [
    ⟨15, 0, .rc, 0, .none, false⟩,
    ⟨31, 16, .rc, 0, .none, false⟩]⟩,
  ⟨"LGX_EXP_SEGS", 0x046028, 0x8, 1, 64, true, [
    ⟨31, 0, .ro, 0, .none, false⟩,
    ⟨63, 32, .ro, 0, .none, false⟩]⟩,
  ⟨"LGX_EXP_ERR", 0x046030, 0x4, 1, 32, true, [
    ⟨15, 0, .rc, 0, .none, false⟩,
    ⟨31, 16, .rc, 0, .none, false⟩]⟩,
  ⟨"LGX_EXP_ERR_AT", 0x046038, 0x8, 1, 64, true, [
    ⟨31, 0, .ro, 0, .none, false⟩,
    ⟨43, 32, .ro, 0, .none, false⟩,
    ⟨49, 44, .ro, 0, .none, false⟩]⟩,
  ⟨"LGX_CRD_PROT_LO_i", 0x046100, 0x10, 8, 64, true, [
    ⟨0, 0, .rwl, 0, .step, false⟩,
    ⟨63, 12, .rwl, 0, .step, false⟩]⟩,
  ⟨"LGX_CRD_PROT_HI_i", 0x046108, 0x10, 8, 64, true, [
    ⟨63, 12, .rwl, 0, .step, false⟩]⟩]

/-- The registers of spec/11_reproducibility.md, R332. -/
def regsReproducibility : List RegRow :=
  [
  ⟨"LGX_NDET_TOTAL", 0x004100, 0x8, 1, 64, true, [
    ⟨63, 0, .ro, 0, .none, false⟩]⟩,
  ⟨"LGX_NDET_DRAW", 0x004108, 0x8, 1, 64, true, [
    ⟨63, 0, .rc, 0, .none, false⟩]⟩,
  ⟨"LGX_NDET_LAND", 0x004110, 0x8, 1, 64, true, [
    ⟨63, 0, .rc, 0, .none, false⟩]⟩,
  ⟨"LGX_NDET_SUM", 0x004118, 0x8, 1, 64, true, [
    ⟨63, 0, .rc, 0, .none, false⟩]⟩,
  ⟨"LGX_NDET_FIRST", 0x004120, 0x8, 1, 64, true, [
    ⟨47, 0, .ro, 0, .none, false⟩,
    ⟨59, 48, .ro, 0, .none, false⟩,
    ⟨63, 63, .rc, 0, .none, true⟩]⟩,
  ⟨"LGX_DIG_RING_BASE", 0x047000, 0x8, 1, 64, true, [
    ⟨63, 8, .rw, 0, .step, false⟩]⟩,
  ⟨"LGX_DIG_RING_CFG", 0x047008, 0x4, 1, 32, true, [
    ⟨4, 0, .rw, 16, .step, false⟩,
    ⟨5, 5, .rw, 0, .step, false⟩,
    ⟨6, 6, .rw, 0, .step, false⟩,
    ⟨14, 8, .rw, 127, .step, false⟩,
    ⟨21, 16, .rw, 63, .step, false⟩]⟩,
  ⟨"LGX_DIG_RING_HEAD", 0x04700C, 0x4, 1, 32, true, [
    ⟨31, 0, .ro, 0, .none, false⟩]⟩,
  ⟨"LGX_DIG_RING_TAIL", 0x047010, 0x4, 1, 32, false, [
    ⟨31, 0, .rw, 0, .now, false⟩]⟩,
  ⟨"LGX_DIG_RING_DROP", 0x047014, 0x4, 1, 32, true, [
    ⟨31, 0, .rc, 0, .none, false⟩]⟩,
  ⟨"LGX_DIG_STALL", 0x047018, 0x8, 1, 64, true, [
    ⟨63, 0, .ro, 0, .none, false⟩]⟩,
  ⟨"LGX_REPLAY_ID", 0x047020, 0x8, 1, 64, true, [
    ⟨31, 0, .ro, 0, .none, false⟩,
    ⟨32, 32, .ro, 0, .none, false⟩]⟩] ++
  [
  ⟨"LGX_RND_SEED", 0x047028, 0x8, 1, 64, true, [
    ⟨63, 0, .ro, 0, .none, false⟩]⟩]

/-- The registers of spec/12_resilience.md, R368. -/
def regsResilience : List RegRow :=
  [
  ⟨"LGX_CKP_BASE", 0x048000, 0x8, 1, 64, true, [
    ⟨63, 16, .rw, 0, .step, false⟩]⟩,
  ⟨"LGX_CKP_SIZE", 0x048008, 0x8, 1, 64, true, [
    ⟨63, 0, .rw, 0, .step, false⟩]⟩,
  ⟨"LGX_CKP_POLICY", 0x048010, 0x8, 1, 64, true, [
    ⟨0, 0, .rw, 0, .step, false⟩,
    ⟨1, 1, .rw, 1, .step, false⟩,
    ⟨2, 2, .rw, 1, .step, false⟩,
    ⟨3, 3, .rw, 1, .step, false⟩,
    ⟨4, 4, .rw, 1, .step, false⟩,
    ⟨31, 16, .rw, 0, .step, false⟩,
    ⟨45, 32, .rw, 1, .step, false⟩]⟩,
  ⟨"LGX_CKP_SCOPE", 0x048018, 0x8, 1, 64, true, [
    ⟨11, 0, .rw, 0, .step, false⟩,
    ⟨23, 12, .rw, 0, .step, false⟩,
    ⟨63, 32, .rw, 0, .step, false⟩]⟩,
  ⟨"LGX_CKP_STATUS", 0x048020, 0x8, 1, 64, true, [
    ⟨47, 0, .ro, 0, .none, false⟩,
    ⟨48, 48, .ro, 0, .none, false⟩,
    ⟨49, 49, .ro, 0, .none, false⟩,
    ⟨51, 50, .ro, 0, .none, false⟩,
    ⟨52, 52, .ro, 0, .none, false⟩]⟩,
  ⟨"LGX_CKP_EVENTS", 0x048028, 0x4, 1, 32, true, [
    ⟨7, 0, .rc, 0, .none, false⟩,
    ⟨15, 8, .rc, 0, .none, false⟩,
    ⟨23, 16, .rc, 0, .none, false⟩,
    ⟨31, 24, .rc, 0, .none, false⟩]⟩,
  ⟨"LGX_CKP_BYTES", 0x048030, 0x8, 1, 64, true, [
    ⟨63, 0, .ro, 0, .none, false⟩]⟩,
  ⟨"LGX_REP_CFG", 0x049000, 0x4, 1, 32, true, [
    ⟨15, 0, .rw, 1000, .now, false⟩,
    ⟨19, 16, .rw, 4, .now, false⟩,
    ⟨31, 20, .rw, 10, .now, false⟩]⟩,
  ⟨"LGX_REP_OVERRIDE", 0x049004, 0x4, 1, 32, true, [
    ⟨0, 0, .rwl, 0, .now, false⟩]⟩,
  ⟨"LGX_REP_MAP_BASE", 0x049008, 0x8, 1, 64, true, [
    ⟨63, 16, .rw, 0, .now, false⟩]⟩,
  ⟨"LGX_REP_STATUS", 0x049010, 0x4, 1, 32, true, [
    ⟨3, 0, .ro, 8, .none, false⟩,
    ⟨19, 4, .ro, 65535, .none, false⟩,
    ⟨20, 20, .ro, 1, .none, false⟩,
    ⟨22, 21, .ro, 2, .none, false⟩,
    ⟨23, 23, .ro, 0, .none, false⟩,
    ⟨24, 24, .ro, 0, .none, false⟩]⟩,
  ⟨"LGX_REP_EVENTS", 0x049014, 0x4, 1, 32, true, [
    ⟨15, 0, .rc, 0, .none, false⟩,
    ⟨23, 16, .rc, 0, .none, false⟩,
    ⟨31, 24, .rc, 0, .none, false⟩]⟩] ++
  [
  ⟨"LGX_AGE_CFG", 0x049018, 0x4, 1, 32, true, [
    ⟨11, 0, .rw, 60, .now, false⟩,
    ⟨19, 12, .rw, 16, .now, false⟩,
    ⟨27, 20, .rw, 32, .now, false⟩,
    ⟨31, 28, .rw, 8, .now, false⟩]⟩,
  ⟨"LGX_AGE_VLIMIT", 0x04901C, 0x4, 1, 32, true, [
    ⟨5, 0, .rwl, 6, .now, false⟩,
    ⟨11, 6, .rwl, 4, .now, false⟩]⟩,
  ⟨"LGX_AGE_STATUS", 0x049020, 0x8, 1, 64, true, [
    ⟨7, 0, .ro, 0, .none, false⟩,
    ⟨15, 8, .ro, 0, .none, false⟩,
    ⟨16, 16, .ro, 0, .none, false⟩,
    ⟨17, 17, .ro, 0, .none, false⟩,
    ⟨47, 32, .ro, 65535, .none, false⟩]⟩,
  ⟨"LGX_AGE_SLOWEST", 0x049028, 0x4, 1, 32, true, [
    ⟨31, 0, .ro, 0, .none, false⟩]⟩,
  ⟨"LGX_AVAIL", 0x049030, 0x8, 1, 64, true, [
    ⟨47, 0, .ro, 0, .none, false⟩,
    ⟨63, 48, .ro, 0, .none, false⟩]⟩]

/-- The registers of spec/13_control.md, R400. -/
def regsControl : List RegRow :=
  [
  ⟨"LGX_EVT_STATUS", 0x004000, 0x8, 1, 64, false, [
    ⟨31, 0, .rc, 0, .none, true⟩]⟩,
  ⟨"LGX_EVT_ENABLE", 0x004008, 0x8, 1, 64, false, [
    ⟨31, 0, .rw, 0, .now, false⟩]⟩,
  ⟨"LGX_EVT_ROUTE_0", 0x004010, 0x8, 1, 64, false, [
    ⟨2, 0, .rw, 0, .now, false⟩,
    ⟨6, 4, .rw, 1, .now, false⟩,
    ⟨10, 8, .rw, 2, .now, false⟩,
    ⟨14, 12, .rw, 3, .now, false⟩,
    ⟨18, 16, .rw, 3, .now, false⟩,
    ⟨22, 20, .rw, 2, .now, false⟩,
    ⟨26, 24, .rw, 2, .now, false⟩,
    ⟨30, 28, .rw, 7, .now, false⟩,
    ⟨34, 32, .rw, 7, .now, false⟩,
    ⟨38, 36, .rw, 2, .now, false⟩,
    ⟨42, 40, .rw, 2, .now, false⟩,
    ⟨46, 44, .rw, 2, .now, false⟩,
    ⟨50, 48, .rw, 6, .now, false⟩,
    ⟨54, 52, .rw, 4, .now, false⟩,
    ⟨58, 56, .rw, 4, .now, false⟩,
    ⟨62, 60, .rw, 4, .now, false⟩]⟩,
  ⟨"LGX_EVT_ROUTE_1", 0x004018, 0x8, 1, 64, false, [
    ⟨2, 0, .rw, 5, .now, false⟩,
    ⟨6, 4, .rw, 5, .now, false⟩,
    ⟨10, 8, .rw, 5, .now, false⟩,
    ⟨14, 12, .rw, 5, .now, false⟩,
    ⟨18, 16, .rw, 5, .now, false⟩,
    ⟨22, 20, .rw, 6, .now, false⟩,
    ⟨26, 24, .rw, 7, .now, false⟩,
    ⟨30, 28, .rw, 6, .now, false⟩,
    ⟨34, 32, .rw, 6, .now, false⟩,
    ⟨38, 36, .rw, 6, .now, false⟩,
    ⟨42, 40, .rw, 7, .now, false⟩,
    ⟨46, 44, .rw, 2, .now, false⟩,
    ⟨50, 48, .rw, 1, .now, false⟩,
    ⟨54, 52, .rw, 6, .now, false⟩,
    ⟨58, 56, .rw, 7, .now, false⟩,
    ⟨62, 60, .rw, 4, .now, false⟩]⟩,
  ⟨"LGX_EVT_QDONE", 0x004020, 0x8, 1, 64, false, [
    ⟨63, 0, .rc, 0, .none, true⟩]⟩,
  ⟨"LGX_EVT_QERR", 0x004028, 0x8, 1, 64, false, [
    ⟨63, 0, .rc, 0, .none, true⟩]⟩,
  ⟨"LGX_CTL_INPUTS", 0x004030, 0x4, 1, 32, true, [
    ⟨0, 0, .ro, 0, .none, false⟩,
    ⟨1, 1, .ro, 0, .none, false⟩,
    ⟨3, 2, .ro, 0, .none, false⟩,
    ⟨4, 4, .ro, 0, .none, false⟩,
    ⟨15, 8, .rc, 0, .none, false⟩]⟩,
  ⟨"LGX_MBX_REQ_0", 0x010000, 0x4, 64, 32, false, [
    ⟨31, 0, .rw, 0, .now, false⟩]⟩,
  ⟨"LGX_MBX_REQ_1", 0x010400, 0x4, 64, 32, false, [
    ⟨31, 0, .rw, 0, .now, false⟩]⟩,
  ⟨"LGX_MBX_REQ_2", 0x010800, 0x4, 64, 32, false, [
    ⟨31, 0, .rw, 0, .now, false⟩]⟩,
  ⟨"LGX_MBX_REQ_3", 0x010C00, 0x4, 64, 32, false, [
    ⟨31, 0, .rw, 0, .now, false⟩]⟩,
  ⟨"LGX_MBX_RSP_0", 0x010100, 0x4, 64, 32, false, [
    ⟨31, 0, .ro, 0, .none, false⟩]⟩] ++
  [
  ⟨"LGX_MBX_RSP_1", 0x010500, 0x4, 64, 32, false, [
    ⟨31, 0, .ro, 0, .none, false⟩]⟩,
  ⟨"LGX_MBX_RSP_2", 0x010900, 0x4, 64, 32, false, [
    ⟨31, 0, .ro, 0, .none, false⟩]⟩,
  ⟨"LGX_MBX_RSP_3", 0x010D00, 0x4, 64, 32, false, [
    ⟨31, 0, .ro, 0, .none, false⟩]⟩,
  ⟨"LGX_MBX_DOORBELL_i", 0x010200, 0x400, 4, 32, false, [
    ⟨15, 0, .wo, 0, .now, false⟩]⟩,
  ⟨"LGX_MBX_STATE_i", 0x010204, 0x400, 4, 32, false, [
    ⟨0, 0, .ro, 0, .none, false⟩,
    ⟨1, 1, .rc, 0, .none, true⟩,
    ⟨15, 8, .rc, 0, .none, false⟩,
    ⟨31, 16, .ro, 0, .none, false⟩]⟩,
  ⟨"LGX_Q_BASE_q", 0x020000, 0x40, 64, 64, true, [
    ⟨63, 8, .rw, 0, .descriptor, false⟩]⟩,
  ⟨"LGX_Q_CFG_q", 0x020008, 0x40, 64, 32, true, [
    ⟨4, 0, .rw, 8, .descriptor, false⟩,
    ⟨5, 5, .rw, 0, .now, false⟩]⟩,
  ⟨"LGX_Q_TAIL_q", 0x02000C, 0x40, 64, 32, false, [
    ⟨31, 0, .rw, 0, .now, false⟩]⟩,
  ⟨"LGX_Q_HEAD_q", 0x020010, 0x40, 64, 32, true, [
    ⟨31, 0, .ro, 0, .none, false⟩]⟩,
  ⟨"LGX_Q_STATE_q", 0x020014, 0x40, 64, 32, true, [
    ⟨1, 0, .ro, 0, .none, false⟩,
    ⟨2, 2, .ro, 0, .none, false⟩,
    ⟨3, 3, .ro, 0, .none, false⟩,
    ⟨7, 4, .ro, 0, .none, false⟩,
    ⟨15, 8, .rc, 0, .none, false⟩,
    ⟨23, 16, .rc, 0, .none, false⟩]⟩,
  ⟨"LGX_Q_CTL_q", 0x020018, 0x40, 64, 32, true, [
    ⟨0, 0, .wo, 0, .now, false⟩,
    ⟨1, 1, .wo, 0, .now, false⟩]⟩,
  ⟨"LGX_Q_ERR_q", 0x020020, 0x40, 64, 64, true, [
    ⟨31, 0, .ro, 0, .none, false⟩,
    ⟨39, 32, .ro, 0, .none, false⟩]⟩] ++
  [
  ⟨"LGX_EVC_c", 0x030000, 0x8, 256, 64, false, [
    ⟨63, 0, .rw, 0, .now, false⟩]⟩,
  ⟨"LGX_EVC_ADD_c", 0x030800, 0x8, 256, 64, false, [
    ⟨63, 0, .wo, 0, .now, false⟩]⟩,
  ⟨"LGX_EVW_VAL_k", 0x031000, 0x10, 8, 64, false, [
    ⟨63, 0, .rw, 0, .now, false⟩]⟩,
  ⟨"LGX_EVW_CFG_k", 0x031008, 0x10, 8, 32, false, [
    ⟨7, 0, .rw, 0, .now, false⟩,
    ⟨8, 8, .rw, 0, .now, false⟩,
    ⟨9, 9, .rc, 0, .none, true⟩]⟩]

/-- The registers of spec/14_registers.md, R418. -/
def regsRegisters : List RegRow :=
  [
  ⟨"LGX_ID", 0x000000, 0x4, 1, 32, true, [
    ⟨15, 0, .ro, 19527, .none, false⟩,
    ⟨19, 16, .ro, 0, .none, false⟩,
    ⟨23, 20, .ro, 0, .none, false⟩]⟩,
  ⟨"LGX_CAP0", 0x000008, 0x8, 1, 64, true, [
    ⟨3, 0, .ro, 0, .none, false⟩,
    ⟨4, 4, .ro, 0, .none, false⟩,
    ⟨5, 5, .ro, 0, .none, false⟩,
    ⟨14, 6, .ro, 0, .none, false⟩,
    ⟨25, 15, .ro, 0, .none, false⟩,
    ⟨32, 26, .ro, 0, .none, false⟩,
    ⟨45, 33, .ro, 0, .none, false⟩,
    ⟨50, 46, .ro, 16, .none, false⟩,
    ⟨57, 51, .ro, 64, .none, false⟩]⟩,
  ⟨"LGX_CAP1", 0x000010, 0x4, 1, 32, true, [
    ⟨8, 0, .ro, 256, .none, false⟩,
    ⟨11, 9, .ro, 4, .none, false⟩,
    ⟨15, 12, .ro, 8, .none, false⟩,
    ⟨29, 16, .ro, 8191, .none, false⟩]⟩,
  ⟨"LGX_CAP2", 0x000014, 0x4, 1, 32, true, [
    ⟨7, 0, .ro, 64, .none, false⟩,
    ⟨15, 8, .ro, 2, .none, false⟩,
    ⟨23, 16, .ro, 0, .none, false⟩,
    ⟨31, 24, .ro, 4, .none, false⟩]⟩,
  ⟨"LGX_CTRL", 0x001000, 0x4, 1, 32, true, [
    ⟨0, 0, .rw, 0, .step, false⟩]⟩,
  ⟨"LGX_LOCK", 0x001004, 0x4, 1, 32, true, [
    ⟨0, 0, .rwl, 0, .now, false⟩,
    ⟨15, 8, .rc, 0, .none, false⟩]⟩,
  ⟨"LGX_KEY_SLOT", 0x001008, 0x4, 1, 32, true, [
    ⟨1, 0, .rwl, 0, .now, false⟩]⟩,
  ⟨"LGX_DEBUG", 0x00100C, 0x4, 1, 32, true, [
    ⟨0, 0, .rwl, 0, .now, false⟩]⟩,
  ⟨"LGX_APPLY", 0x001010, 0x8, 1, 64, true, [
    ⟨47, 0, .ro, 0, .none, false⟩,
    ⟨48, 48, .ro, 0, .none, false⟩,
    ⟨49, 49, .ro, 0, .none, false⟩,
    ⟨50, 50, .ro, 0, .none, false⟩,
    ⟨51, 51, .ro, 0, .none, false⟩]⟩,
  ⟨"LGX_APPLY_PORTS", 0x001018, 0x4, 1, 32, true, [
    ⟨15, 0, .ro, 0, .none, false⟩,
    ⟨16, 16, .ro, 0, .none, false⟩]⟩,
  ⟨"LGX_APPLY_QUEUES", 0x001020, 0x8, 1, 64, true, [
    ⟨63, 0, .ro, 0, .none, false⟩]⟩,
  ⟨"LGX_STAGED_ADDR", 0x001028, 0x4, 1, 32, false, [
    ⟨21, 2, .rw, 0, .now, false⟩]⟩] ++
  [
  ⟨"LGX_STAGED_INFO", 0x00102C, 0x4, 1, 32, true, [
    ⟨0, 0, .ro, 0, .none, false⟩,
    ⟨1, 1, .ro, 0, .none, false⟩]⟩,
  ⟨"LGX_STAGED_DATA", 0x001030, 0x8, 1, 64, true, [
    ⟨63, 0, .ro, 0, .none, false⟩]⟩,
  ⟨"LGX_STAGED_CTL", 0x001038, 0x4, 1, 32, true, [
    ⟨0, 0, .wo, 0, .now, false⟩]⟩,
  ⟨"LGX_CFG_CRC", 0x001040, 0x8, 1, 64, true, [
    ⟨31, 0, .ro, 0, .none, false⟩,
    ⟨63, 32, .ro, 0, .none, false⟩]⟩,
  ⟨"LGX_CFG_REF", 0x001048, 0x4, 1, 32, false, [
    ⟨31, 0, .rw, 0, .now, false⟩]⟩,
  ⟨"LGX_CFG_CTL", 0x00104C, 0x4, 1, 32, true, [
    ⟨0, 0, .rwl, 0, .now, false⟩,
    ⟨1, 1, .ro, 0, .none, false⟩,
    ⟨2, 2, .ro, 0, .none, false⟩,
    ⟨3, 3, .ro, 0, .none, false⟩,
    ⟨15, 8, .rc, 0, .none, false⟩]⟩,
  ⟨"LGX_BUS_ERR", 0x001050, 0x8, 1, 64, true, [
    ⟨21, 0, .ro, 0, .none, false⟩,
    ⟨23, 22, .ro, 0, .none, false⟩,
    ⟨47, 32, .rc, 0, .none, false⟩]⟩,
  ⟨"LGX_GCNT", 0x002000, 0x8, 1, 64, true, [
    ⟨63, 0, .ro, 0, .none, false⟩]⟩,
  ⟨"LGX_GCNT_STATE", 0x002008, 0x4, 1, 32, true, [
    ⟨0, 0, .ro, 0, .none, false⟩,
    ⟨1, 1, .rc, 0, .none, true⟩,
    ⟨2, 2, .rc, 0, .none, true⟩]⟩,
  ⟨"LGX_LAUNCH_LATE", 0x002010, 0x8, 1, 64, true, [
    ⟨63, 0, .rc, 0, .none, true⟩]⟩,
  ⟨"LGX_LAUNCH_LAST", 0x002018, 0x8, 1, 64, true, [
    ⟨63, 0, .ro, 0, .none, false⟩]⟩,
  ⟨"LGX_LAUNCH_SLIP", 0x002020, 0x8, 1, 64, true, [
    ⟨63, 0, .rc, 0, .none, false⟩]⟩]

/-- Every register of the map. -/
def regRows : List RegRow :=
  regsQuantiser ++ regsTopiary ++ regsCoppice ++ regsPlyReduction ++ regsEspalier ++ regsCollectives ++ regsFabric ++ regsCompression ++ regsReproducibility ++ regsResilience ++ regsControl ++ regsRegisters

/-- LGX_QNT_STAT_BASE (spec/03_quantiser.md R110). -/
def rQntStatBase : Nat := 0x040000

/-- LGX_QNT_STAT_CFG (spec/03_quantiser.md R110). -/
def rQntStatCfg : Nat := 0x040008

/-- LGX_QNT_STAT_HEAD (spec/03_quantiser.md R110). -/
def rQntStatHead : Nat := 0x04000C

/-- LGX_QNT_STAT_TAIL (spec/03_quantiser.md R110). -/
def rQntStatTail : Nat := 0x040010

/-- LGX_QNT_STAT_DROP (spec/03_quantiser.md R110). -/
def rQntStatDrop : Nat := 0x040014

/-- LGX_QNT_FMT_BASE (spec/03_quantiser.md R110). -/
def rQntFmtBase : Nat := 0x040018

/-- LGX_QNT_LATE (spec/03_quantiser.md R110). -/
def rQntLate : Nat := 0x040020

/-- LGX_QNT_CLAMP (spec/03_quantiser.md R110). -/
def rQntClamp : Nat := 0x040028

/-- LGX_QNT_ACT_SPECIAL (spec/03_quantiser.md R110). -/
def rQntActSpecial : Nat := 0x04002C

/-- LGX_QNT_POLICY_s (spec/03_quantiser.md R110). -/
def rQntPolicy (s : Nat) : Nat := 0x040100 + 0x8 * s

/-- LGX_QNT_ACT_BASE_t (spec/03_quantiser.md R110). -/
def rQntActBase (t : Nat) : Nat := 0x040400 + 0x10 * t

/-- LGX_QNT_ACT_CFG_t (spec/03_quantiser.md R110). -/
def rQntActCfg (t : Nat) : Nat := 0x040408 + 0x10 * t

/-- LGX_TOP_RING_BASE (spec/04_topiary.md R135). -/
def rTopRingBase : Nat := 0x041000

/-- LGX_TOP_RING_CFG (spec/04_topiary.md R135). -/
def rTopRingCfg : Nat := 0x041008

/-- LGX_TOP_RING_HEAD (spec/04_topiary.md R135). -/
def rTopRingHead : Nat := 0x04100C

/-- LGX_TOP_RING_TAIL (spec/04_topiary.md R135). -/
def rTopRingTail : Nat := 0x041010

/-- LGX_TOP_RING_DROP (spec/04_topiary.md R135). -/
def rTopRingDrop : Nat := 0x041014

/-- LGX_TOP_EVENTS (spec/04_topiary.md R135). -/
def rTopEvents : Nat := 0x041018

/-- LGX_TOP_DUPS (spec/04_topiary.md R135). -/
def rTopDups : Nat := 0x04101C

/-- LGX_CPC_BKT_BASE (spec/05_coppice.md R157). -/
def rCpcBktBase : Nat := 0x042000

/-- LGX_CPC_RING_BASE (spec/05_coppice.md R157). -/
def rCpcRingBase : Nat := 0x042008

/-- LGX_CPC_RING_CFG (spec/05_coppice.md R157). -/
def rCpcRingCfg : Nat := 0x042010

/-- LGX_CPC_RING_HEAD (spec/05_coppice.md R157). -/
def rCpcRingHead : Nat := 0x042014

/-- LGX_CPC_RING_TAIL (spec/05_coppice.md R157). -/
def rCpcRingTail : Nat := 0x042018

/-- LGX_CPC_RING_DROP (spec/05_coppice.md R157). -/
def rCpcRingDrop : Nat := 0x04201C

/-- LGX_CPC_EVENTS (spec/05_coppice.md R157). -/
def rCpcEvents : Nat := 0x042020

/-- LGX_CPC_COPY_WAIT (spec/05_coppice.md R157). -/
def rCpcCopyWait : Nat := 0x042028

/-- LGX_PLY_CFG (spec/06_ply_reduction.md R190). -/
def rPlyCfg : Nat := 0x043000

/-- LGX_BOB_MAP_BASE (spec/06_ply_reduction.md R190). -/
def rBobMapBase : Nat := 0x043008

/-- LGX_PLY_SPILLS (spec/06_ply_reduction.md R190). -/
def rPlySpills : Nat := 0x043010

/-- LGX_PLY_EVENTS (spec/06_ply_reduction.md R190). -/
def rPlyEvents : Nat := 0x043018

/-- LGX_PLY_STRAY (spec/06_ply_reduction.md R190). -/
def rPlyStray : Nat := 0x04301C

/-- LGX_PLY_CHECKED (spec/06_ply_reduction.md R190). -/
def rPlyChecked : Nat := 0x043020

/-- LGX_PLY_SDE (spec/06_ply_reduction.md R190). -/
def rPlySde : Nat := 0x043028

/-- LGX_PLY_SDE_AT (spec/06_ply_reduction.md R190). -/
def rPlySdeAt : Nat := 0x043030

/-- LGX_PLY_JOBST_w (spec/06_ply_reduction.md R190). -/
def rPlyJobst (w : Nat) : Nat := 0x043400 + 0x4 * w

/-- LGX_ESP_OWN_BASE (spec/07_espalier.md R212). -/
def rEspOwnBase : Nat := 0x044000

/-- LGX_ESP_CFG (spec/07_espalier.md R212). -/
def rEspCfg : Nat := 0x044008

/-- LGX_ESP_PROG_VALID (spec/07_espalier.md R212). -/
def rEspProgValid : Nat := 0x04400C

/-- LGX_ESP_APPLIED (spec/07_espalier.md R212). -/
def rEspApplied : Nat := 0x044010

/-- LGX_ESP_WITHHELD (spec/07_espalier.md R212). -/
def rEspWithheld : Nat := 0x044018

/-- LGX_ESP_REASONS (spec/07_espalier.md R212). -/
def rEspReasons : Nat := 0x04401C

/-- LGX_ESP_NONFINITE (spec/07_espalier.md R212). -/
def rEspNonfinite : Nat := 0x044020

/-- LGX_ESP_COPY_WAIT (spec/07_espalier.md R212). -/
def rEspCopyWait : Nat := 0x044028

/-- LGX_COL_CFG (spec/08_collectives.md R255). -/
def rColCfg : Nat := 0x045000

/-- LGX_COL_WARN (spec/08_collectives.md R255). -/
def rColWarn : Nat := 0x045008

/-- LGX_COL_ABORT (spec/08_collectives.md R255). -/
def rColAbort : Nat := 0x045010

/-- LGX_COL_STRAGGLER (spec/08_collectives.md R255). -/
def rColStraggler : Nat := 0x045018

/-- LGX_COL_EVENTS (spec/08_collectives.md R255). -/
def rColEvents : Nat := 0x045020

/-- LGX_COL_RESENDS (spec/08_collectives.md R255). -/
def rColResends : Nat := 0x045028

/-- LGX_FEED_STALL (spec/08_collectives.md R255). -/
def rFeedStall : Nat := 0x045030

/-- LGX_PORT_STATE (spec/09_fabric.md R287). -/
def rPortState (p : Nat) : Nat := 0x080000 + 0x1000 * p

/-- LGX_PORT_CTL (spec/09_fabric.md R287). -/
def rPortCtl (p : Nat) : Nat := 0x080004 + 0x1000 * p

/-- LGX_PORT_CFG (spec/09_fabric.md R287). -/
def rPortCfg (p : Nat) : Nat := 0x080008 + 0x1000 * p

/-- LGX_PORT_CREDIT (spec/09_fabric.md R287). -/
def rPortCredit (p : Nat) : Nat := 0x080010 + 0x1000 * p

/-- LGX_PORT_ERR (spec/09_fabric.md R287). -/
def rPortErr (p : Nat) : Nat := 0x080018 + 0x1000 * p

/-- LGX_PORT_AUDIT (spec/09_fabric.md R287). -/
def rPortAudit (p : Nat) : Nat := 0x08001C + 0x1000 * p

/-- LGX_PORT_DROP (spec/09_fabric.md R287). -/
def rPortDrop (p : Nat) : Nat := 0x080020 + 0x1000 * p

/-- LGX_PORT_TX_FLITS (spec/09_fabric.md R287). -/
def rPortTxFlits (p : Nat) : Nat := 0x080028 + 0x1000 * p

/-- LGX_PORT_RX_FLITS (spec/09_fabric.md R287). -/
def rPortRxFlits (p : Nat) : Nat := 0x080030 + 0x1000 * p

/-- LGX_FAB_SELF (spec/09_fabric.md R287). -/
def rFabSelf : Nat := 0x090000

/-- LGX_FAB_CFG (spec/09_fabric.md R287). -/
def rFabCfg : Nat := 0x090004

/-- LGX_FAB_TIMERS (spec/09_fabric.md R287). -/
def rFabTimers : Nat := 0x090008

/-- LGX_FAB_EPOCH (spec/09_fabric.md R287). -/
def rFabEpoch : Nat := 0x090010

/-- LGX_FAB_EPOCH_INJ (spec/09_fabric.md R287). -/
def rFabEpochInj : Nat := 0x090018

/-- LGX_FAB_EPOCH_EJ (spec/09_fabric.md R287). -/
def rFabEpochEj : Nat := 0x090020

/-- LGX_FAB_WIN_BASE (spec/09_fabric.md R287). -/
def rFabWinBase : Nat := 0x090028

/-- LGX_FAB_EVENTS (spec/09_fabric.md R287). -/
def rFabEvents : Nat := 0x090030

/-- LGX_FAB_ESCAPED (spec/09_fabric.md R287). -/
def rFabEscaped : Nat := 0x090034

/-- LGX_FAB_TIMEOUT (spec/09_fabric.md R287). -/
def rFabTimeout : Nat := 0x090038

/-- LGX_FAB_ROW_b (spec/09_fabric.md R287). -/
def rFabRow (b : Nat) : Nat := 0x090100 + 0x8 * b

/-- LGX_FAB_ROUTE_b (spec/09_fabric.md R287). -/
def rFabRoute (b r : Nat) : Nat := 0x0A0000 + 0x40000 * b + 4 * r

/-- LGX_CRD_CFG (spec/10_compression.md R312). -/
def rCrdCfg : Nat := 0x046000

/-- LGX_CRD_SEGS (spec/10_compression.md R312). -/
def rCrdSegs : Nat := 0x046008

/-- LGX_CRD_IN (spec/10_compression.md R312). -/
def rCrdIn : Nat := 0x046010

/-- LGX_CRD_OUT (spec/10_compression.md R312). -/
def rCrdOut : Nat := 0x046018

/-- LGX_CRD_EVENTS (spec/10_compression.md R312). -/
def rCrdEvents : Nat := 0x046020

/-- LGX_EXP_SEGS (spec/10_compression.md R312). -/
def rExpSegs : Nat := 0x046028

/-- LGX_EXP_ERR (spec/10_compression.md R312). -/
def rExpErr : Nat := 0x046030

/-- LGX_EXP_ERR_AT (spec/10_compression.md R312). -/
def rExpErrAt : Nat := 0x046038

/-- LGX_CRD_PROT_LO_i (spec/10_compression.md R312). -/
def rCrdProtLo (i : Nat) : Nat := 0x046100 + 0x10 * i

/-- LGX_CRD_PROT_HI_i (spec/10_compression.md R312). -/
def rCrdProtHi (i : Nat) : Nat := 0x046108 + 0x10 * i

/-- LGX_NDET_TOTAL (spec/11_reproducibility.md R332). -/
def rNdetTotal : Nat := 0x004100

/-- LGX_NDET_DRAW (spec/11_reproducibility.md R332). -/
def rNdetDraw : Nat := 0x004108

/-- LGX_NDET_LAND (spec/11_reproducibility.md R332). -/
def rNdetLand : Nat := 0x004110

/-- LGX_NDET_SUM (spec/11_reproducibility.md R332). -/
def rNdetSum : Nat := 0x004118

/-- LGX_NDET_FIRST (spec/11_reproducibility.md R332). -/
def rNdetFirst : Nat := 0x004120

/-- LGX_DIG_RING_BASE (spec/11_reproducibility.md R332). -/
def rDigRingBase : Nat := 0x047000

/-- LGX_DIG_RING_CFG (spec/11_reproducibility.md R332). -/
def rDigRingCfg : Nat := 0x047008

/-- LGX_DIG_RING_HEAD (spec/11_reproducibility.md R332). -/
def rDigRingHead : Nat := 0x04700C

/-- LGX_DIG_RING_TAIL (spec/11_reproducibility.md R332). -/
def rDigRingTail : Nat := 0x047010

/-- LGX_DIG_RING_DROP (spec/11_reproducibility.md R332). -/
def rDigRingDrop : Nat := 0x047014

/-- LGX_DIG_STALL (spec/11_reproducibility.md R332). -/
def rDigStall : Nat := 0x047018

/-- LGX_REPLAY_ID (spec/11_reproducibility.md R332). -/
def rReplayId : Nat := 0x047020

/-- LGX_RND_SEED (spec/11_reproducibility.md R332). -/
def rRndSeed : Nat := 0x047028

/-- LGX_CKP_BASE (spec/12_resilience.md R368). -/
def rCkpBase : Nat := 0x048000

/-- LGX_CKP_SIZE (spec/12_resilience.md R368). -/
def rCkpSize : Nat := 0x048008

/-- LGX_CKP_POLICY (spec/12_resilience.md R368). -/
def rCkpPolicy : Nat := 0x048010

/-- LGX_CKP_SCOPE (spec/12_resilience.md R368). -/
def rCkpScope : Nat := 0x048018

/-- LGX_CKP_STATUS (spec/12_resilience.md R368). -/
def rCkpStatus : Nat := 0x048020

/-- LGX_CKP_EVENTS (spec/12_resilience.md R368). -/
def rCkpEvents : Nat := 0x048028

/-- LGX_CKP_BYTES (spec/12_resilience.md R368). -/
def rCkpBytes : Nat := 0x048030

/-- LGX_REP_CFG (spec/12_resilience.md R368). -/
def rRepCfg : Nat := 0x049000

/-- LGX_REP_OVERRIDE (spec/12_resilience.md R368). -/
def rRepOverride : Nat := 0x049004

/-- LGX_REP_MAP_BASE (spec/12_resilience.md R368). -/
def rRepMapBase : Nat := 0x049008

/-- LGX_REP_STATUS (spec/12_resilience.md R368). -/
def rRepStatus : Nat := 0x049010

/-- LGX_REP_EVENTS (spec/12_resilience.md R368). -/
def rRepEvents : Nat := 0x049014

/-- LGX_AGE_CFG (spec/12_resilience.md R368). -/
def rAgeCfg : Nat := 0x049018

/-- LGX_AGE_VLIMIT (spec/12_resilience.md R368). -/
def rAgeVlimit : Nat := 0x04901C

/-- LGX_AGE_STATUS (spec/12_resilience.md R368). -/
def rAgeStatus : Nat := 0x049020

/-- LGX_AGE_SLOWEST (spec/12_resilience.md R368). -/
def rAgeSlowest : Nat := 0x049028

/-- LGX_AVAIL (spec/12_resilience.md R368). -/
def rAvail : Nat := 0x049030

/-- LGX_EVT_STATUS (spec/13_control.md R400). -/
def rEvtStatus : Nat := 0x004000

/-- LGX_EVT_ENABLE (spec/13_control.md R400). -/
def rEvtEnable : Nat := 0x004008

/-- LGX_EVT_ROUTE_0 (spec/13_control.md R400). -/
def rEvtRoute0 : Nat := 0x004010

/-- LGX_EVT_ROUTE_1 (spec/13_control.md R400). -/
def rEvtRoute1 : Nat := 0x004018

/-- LGX_EVT_QDONE (spec/13_control.md R400). -/
def rEvtQdone : Nat := 0x004020

/-- LGX_EVT_QERR (spec/13_control.md R400). -/
def rEvtQerr : Nat := 0x004028

/-- LGX_CTL_INPUTS (spec/13_control.md R400). -/
def rCtlInputs : Nat := 0x004030

/-- LGX_MBX_REQ_i (spec/13_control.md R400). -/
def rMbxReq (i k : Nat) : Nat := 0x010000 + 0x400 * i + 4 * k

/-- LGX_MBX_RSP_i (spec/13_control.md R400). -/
def rMbxRsp (i k : Nat) : Nat := 0x010100 + 0x400 * i + 4 * k

/-- LGX_MBX_DOORBELL_i (spec/13_control.md R400). -/
def rMbxDoorbell (i : Nat) : Nat := 0x010200 + 0x400 * i

/-- LGX_MBX_STATE_i (spec/13_control.md R400). -/
def rMbxState (i : Nat) : Nat := 0x010204 + 0x400 * i

/-- LGX_Q_BASE_q (spec/13_control.md R400). -/
def rQBase (q : Nat) : Nat := 0x020000 + 0x40 * q

/-- LGX_Q_CFG_q (spec/13_control.md R400). -/
def rQCfg (q : Nat) : Nat := 0x020008 + 0x40 * q

/-- LGX_Q_TAIL_q (spec/13_control.md R400). -/
def rQTail (q : Nat) : Nat := 0x02000C + 0x40 * q

/-- LGX_Q_HEAD_q (spec/13_control.md R400). -/
def rQHead (q : Nat) : Nat := 0x020010 + 0x40 * q

/-- LGX_Q_STATE_q (spec/13_control.md R400). -/
def rQState (q : Nat) : Nat := 0x020014 + 0x40 * q

/-- LGX_Q_CTL_q (spec/13_control.md R400). -/
def rQCtl (q : Nat) : Nat := 0x020018 + 0x40 * q

/-- LGX_Q_ERR_q (spec/13_control.md R400). -/
def rQErr (q : Nat) : Nat := 0x020020 + 0x40 * q

/-- LGX_EVC_c (spec/13_control.md R400). -/
def rEvc (c : Nat) : Nat := 0x030000 + 0x8 * c

/-- LGX_EVC_ADD_c (spec/13_control.md R400). -/
def rEvcAdd (c : Nat) : Nat := 0x030800 + 0x8 * c

/-- LGX_EVW_VAL_k (spec/13_control.md R400). -/
def rEvwVal (k : Nat) : Nat := 0x031000 + 0x10 * k

/-- LGX_EVW_CFG_k (spec/13_control.md R400). -/
def rEvwCfg (k : Nat) : Nat := 0x031008 + 0x10 * k

/-- LGX_ID (spec/14_registers.md R418). -/
def rId : Nat := 0x000000

/-- LGX_CAP0 (spec/14_registers.md R418). -/
def rCap0 : Nat := 0x000008

/-- LGX_CAP1 (spec/14_registers.md R418). -/
def rCap1 : Nat := 0x000010

/-- LGX_CAP2 (spec/14_registers.md R418). -/
def rCap2 : Nat := 0x000014

/-- LGX_CTRL (spec/14_registers.md R418). -/
def rCtrl : Nat := 0x001000

/-- LGX_LOCK (spec/14_registers.md R418). -/
def rLock : Nat := 0x001004

/-- LGX_KEY_SLOT (spec/14_registers.md R418). -/
def rKeySlot : Nat := 0x001008

/-- LGX_DEBUG (spec/14_registers.md R418). -/
def rDebug : Nat := 0x00100C

/-- LGX_APPLY (spec/14_registers.md R418). -/
def rApply : Nat := 0x001010

/-- LGX_APPLY_PORTS (spec/14_registers.md R418). -/
def rApplyPorts : Nat := 0x001018

/-- LGX_APPLY_QUEUES (spec/14_registers.md R418). -/
def rApplyQueues : Nat := 0x001020

/-- LGX_STAGED_ADDR (spec/14_registers.md R418). -/
def rStagedAddr : Nat := 0x001028

/-- LGX_STAGED_INFO (spec/14_registers.md R418). -/
def rStagedInfo : Nat := 0x00102C

/-- LGX_STAGED_DATA (spec/14_registers.md R418). -/
def rStagedData : Nat := 0x001030

/-- LGX_STAGED_CTL (spec/14_registers.md R418). -/
def rStagedCtl : Nat := 0x001038

/-- LGX_CFG_CRC (spec/14_registers.md R418). -/
def rCfgCrc : Nat := 0x001040

/-- LGX_CFG_REF (spec/14_registers.md R418). -/
def rCfgRef : Nat := 0x001048

/-- LGX_CFG_CTL (spec/14_registers.md R418). -/
def rCfgCtl : Nat := 0x00104C

/-- LGX_BUS_ERR (spec/14_registers.md R418). -/
def rBusErr : Nat := 0x001050

/-- LGX_GCNT (spec/14_registers.md R418). -/
def rGcnt : Nat := 0x002000

/-- LGX_GCNT_STATE (spec/14_registers.md R418). -/
def rGcntState : Nat := 0x002008

/-- LGX_LAUNCH_LATE (spec/14_registers.md R418). -/
def rLaunchLate : Nat := 0x002010

/-- LGX_LAUNCH_LAST (spec/14_registers.md R418). -/
def rLaunchLast : Nat := 0x002018

/-- LGX_LAUNCH_SLIP (spec/14_registers.md R418). -/
def rLaunchSlip : Nat := 0x002020

/-- The key of a rank-translation entry in the register file: the table shares offsets with route bank 1
(spec/14_registers.md R416), so its entries are keyed beyond the window (spec/09_fabric.md R282). -/
def rRank (rank : Nat) : Nat := 0x400000 + 8 * rank

/-- The number of a row's register that holds the byte at an offset. -/
def RegRow.indexOf (r : RegRow) (off : Nat) : Option Nat :=
  if r.base ≤ off ∧ (off - r.base) % r.stride < r.width / 8 ∧ (off - r.base) / r.stride < r.count
  then some ((off - r.base) / r.stride) else none

/-- The row that holds an offset. -/
def rowAt (off : Nat) : Option RegRow := regRows.find? (fun r => (r.indexOf off).isSome)

/-- The offset of the register that holds the byte at an offset. -/
def regBase (off : Nat) : Nat :=
  match rowAt off with
  | some r => r.base + r.stride * ((off - r.base) / r.stride)
  | none => off

/-- A row's value after reset (spec/00_scope.md R17). -/
def RegRow.reset (r : RegRow) : Word :=
  r.fields.foldl (fun v f => v ||| BitVec.ofNat 64 (f.rst * 2 ^ f.lo)) 0

/-- The mask of the bits of a field. -/
def RField.mask (f : RField) : Word := BitVec.ofNat 64 ((2 ^ (f.hi + 1 - f.lo) - 1) * 2 ^ f.lo)

/-- The mask of a row's fields that satisfy a test. -/
def RegRow.maskOf (r : RegRow) (p : RField → Bool) : Word :=
  r.fields.foldl (fun v f => if p f then v ||| f.mask else v) 0

/-- What a register reads as after reset; a rank-translation entry has none in the spec (DESIGN CHOICE, log 5). -/
def regReset (off : Nat) : Word :=
  match rowAt off with
  | some r => r.reset
  | none => 0

end Sys2Proof.Machine
end

