-- ==== Sys2Proof/Machine/SMap.lean ====
section
/-! DEFINITION. Sparse data by key: a list of key and value pairs, keys rising, with no entry equal to what an unlisted
key reads as. Memory, the register file and the Bobbin are held so. -/

namespace Sys2Proof.Machine

/-- A sparse map with Nat keys. What an unlisted key reads as is an argument of the operations. -/
abbrev SMap (V : Type) := List (Nat × V)

/-- The value at key k. -/
def smGet {V : Type} (d : Nat → V) : SMap V → Nat → V
  | [], k => d k
  | (k', v) :: t, k => if k' = k then v else smGet d t k

/-- Put an entry before the first larger key. -/
def smInsert {V : Type} (k : Nat) (v : V) : SMap V → SMap V
  | [] => [(k, v)]
  | (k', v') :: t => if k < k' then (k, v) :: (k', v') :: t else (k', v') :: smInsert k v t

/-- Take out every entry of a key. -/
def smErase {V : Type} (k : Nat) : SMap V → SMap V
  | [] => []
  | (k', v') :: t => if k' = k then smErase k t else (k', v') :: smErase k t

/-- Write v at k, keeping the canonical form. -/
def smSet {V : Type} [DecidableEq V] (d : Nat → V) (m : SMap V) (k : Nat) (v : V) : SMap V :=
  if v = d k then smErase k m else smInsert k v (smErase k m)

/-- The canonical form: keys strictly rising. -/
def smSorted {V : Type} : SMap V → Bool
  | [] => true
  | [_] => true
  | (k, _) :: (k', v') :: t => decide (k < k') && smSorted ((k', v') :: t)

/-- The canonical form: keys strictly rising and no entry equal to what the unlisted key reads as. -/
def smWf {V : Type} [DecidableEq V] (d : Nat → V) (m : SMap V) : Bool :=
  smSorted m && m.all (fun p => decide (p.2 ≠ d p.1))

end Sys2Proof.Machine
end

