-- ==== Sys2Proof/Machine/State.lean ====
section
/-! DEFINITION. The state of the engine as plain data, the reasons a step can stop, and the state right after reset. -/

namespace Sys2Proof.Machine

/-- The reasons a step stops with a fault. -/
inductive Fault where
  /-- Raised by RESET_DEASSERT when reset was held for less than 100 ns, which spec/15_bringup_power.md R428 calls
  undefined. Safe: nothing is claimed of the engine after it. -/
  | resetHeldTooShort
deriving DecidableEq, Repr

/-- The reasons a step is refused. -/
inductive Refusal where
  /-- A command whose arm of exec has no meaning yet; raised by no command of this model. Safe. -/
  | notModelled (mnemonic : String)
deriving DecidableEq, Repr

/-- The states of the engine (spec/13_control.md R398). -/
inductive EngState where
  | running
  | quiescing
  | quiesced
  | waking
deriving DecidableEq, Repr

/-- The grades of the chip (spec/00_scope.md R5). -/
inductive Grade where
  | a
  | b
  | c
deriving DecidableEq, Repr

/-- The states of a work queue (spec/13_control.md R400). -/
inductive QSt where
  | disabled
  | running
  | draining
  | error
deriving DecidableEq, Repr

/-- The states of a port (spec/09_fabric.md R285). -/
inductive Link where
  | down
  | start
  | up
  | resync
deriving DecidableEq, Repr

/-- Power, reset and the control inputs (spec/15_bringup_power.md R419 to R421, spec/13_control.md R398, R399). -/
structure Ctl where
  /-- The reset input is asserted. -/
  resetOn : Bool
  /-- The number of wake steps acknowledged, 0 to 16 (R421). -/
  wakeStep : Nat
  st : EngState
  /-- The target is QUIESCED. -/
  toQuiesce : Bool
  /-- A target recorded during WAKING has not been begun (R399). -/
  recorded : Bool
  quiesceReq : Bool
  wakeReq : Bool
  /-- The state last answered to the power manager (spec/01_engine_and_step.md R50). -/
  answered : Option EngState
  /-- A supply offset request that waits for its answer, in steps of 5 mV (spec/01_engine_and_step.md R47). -/
  offsetReq : Option Int
  offsetAt : Nat
  /-- The last sample of the X4 counter (spec/14_registers.md R417). -/
  lastSample : Word
  /-- For each counter watch: FIRED has been read and no new value written since (spec/13_control.md R392). -/
  watchRead : Vector Bool 8
  /-- LGX_FAB_SELF has been written since reset (spec/00_scope.md R14, WS). -/
  selfWritten : Bool
  /-- A write of LGX_CFG_REF waits for a CRC update before its comparison (spec/14_registers.md R411). -/
  refCompare : Bool
deriving DecidableEq, Repr

def Ctl.reset : Ctl :=
  { resetOn := true, wakeStep := 0, st := .running, toQuiesce := false, recorded := false, quiesceReq := false
    wakeReq := false, answered := none, offsetReq := none, offsetAt := 0, lastSample := 0, watchRead := Vector.replicate 8 false
    selfWritten := false, refCompare := false }

/-- The last response on the control bus (spec/01_engine_and_step.md R42). -/
structure Bus where
  data : Word
  error : Bool
deriving DecidableEq, Repr

/-- One fetched descriptor that has not started (spec/13_control.md R382, R383): its index, its 64 bytes, its parameter
block, and the status and DETAIL of a check that failed at fetch. -/
structure Fetched where
  index : Nat
  desc : List Byte
  param : List Byte
  fail : Option (Nat × Nat)
deriving DecidableEq, Repr

/-- One work queue (spec/13_control.md R380 to R386). HEAD and TAIL are registers. -/
structure QState where
  st : QSt
  enPend : Bool
  /-- Index of the next descriptor to fetch, mod 2^32. -/
  nextFetch : Nat
  /-- Fetched descriptors that have not started, in queue order. -/
  fetched : List Fetched
  /-- Its next descriptor is recorded as pending on its job identifier (spec/06_ply_reduction.md R179). -/
  onJob : Bool
  /-- Completed descriptors that HEAD has not passed. -/
  done : List Nat
deriving DecidableEq, Repr

def QState.reset : QState :=
  { st := .disabled, enPend := false, nextFetch := 0, fetched := [], onJob := false, done := [] }

/-- The fields of a packet header that the originating engine sets (spec/09_fabric.md R262). -/
structure Hdr where
  kind : Nat
  vc : Nat
  epoch : Nat
  route : Nat
  fence : Bool
  mcast : Bool
  len : Nat
  resend : Bool
  src : Nat
  dst : Nat
  phys : Nat
  via : Nat
  viaValid : Bool
  rowDir : Bool
  mask : Nat
  pkt : Nat
  pkts : Nat
  rep : Nat
  job : Nat
  ring : Nat
  seq : Nat
  offset : Nat
  hop : Nat
  contrib : Nat
  check : Nat
deriving DecidableEq, Repr

/-- A packet: its header and its payload. -/
structure Pkt where
  hdr : Hdr
  payload : List Byte
deriving DecidableEq, Repr

/-- A chunk being assembled (spec/09_fabric.md R266): the packets present, the port of the first, and when it came. -/
structure Assembly where
  first : Hdr
  parts : List Pkt
  port : Nat
  since : Nat
deriving DecidableEq, Repr

/-- A complete and checked chunk that no consumer has accepted (spec/09_fabric.md R268), its packets in PKT order. -/
structure Held where
  pkts : List Pkt
  port : Nat
deriving DecidableEq, Repr

/-- A chunk this chip originated (spec/08_collectives.md R241 to R243): its packets in PKT order, whose headers carry the
destination; the sequence number once the window allows one; the command it belongs to; the positions of a multicast that
have not acknowledged; whether its contents are a copy of memory; whether the retain buffer holds it; and when it was last
sent. -/
structure OutChunk where
  pkts : List Pkt
  seq : Option Nat
  owner : Option (Nat × Nat)
  copy : Bool
  retained : Bool
  port : Nat
  /-- The port whose retain buffer holds it, 16 before its first packet has left (R286). -/
  keptAt : Nat
  sentAt : Nat
  /-- The memory that each packet's bytes were copied from, as address and length (R237, R243); empty for other contents. -/
  mem : List (List (Nat × Nat))
  /-- The members that a multicast goes to: rank and position. -/
  near : List (Nat × Nat)
deriving DecidableEq, Repr

/-- A packet that waits in the Router (spec/09_fabric.md R272, R278): the port and VC whose buffer holds it and its charge,
none for a packet this chip originates; the port a ring schedule or a replication names; and since when it waits. -/
structure TxPkt where
  pkt : Pkt
  inPort : Option Nat
  heldVc : Nat
  pinned : Option Nat
  since : Nat
deriving DecidableEq, Repr

/-- What a port last put on its link, the model's own record of its output (spec/09_fabric.md R259). -/
inductive LinkUnit where
  | packet (p : Pkt) (free : List Nat) (rsync : Bool)
  | credit (free : List Nat) (rsync : Bool)
  | sync
  | audit (tx free : List Nat) (rsync : Bool)
deriving DecidableEq, Repr

/-- One link port (spec/09_fabric.md R258 to R285). TX, RET, RX and FREE have one value for each of the four VCs. -/
structure Port where
  link : Link
  /-- The PHY ring reports the link up. -/
  phyUp : Bool
  active : Nat
  retired : Nat
  /-- Times of each lane's down-to-up transitions (R258). -/
  laneTimes : Vector (List Nat) 9
  tx : Vector Nat 4
  ret : Vector Nat 4
  rx : Vector Nat 4
  free : Vector Nat 4
  /-- FREE has changed since a header or credit-return flit last carried it (R260). -/
  freeDirty : Bool
  /-- A sync flit has been seen in START or RESYNC. -/
  sawSync : Bool
  /-- The peer asked for a resynchronisation, and when this side last sent a sync flit for it (R285). -/
  peerResync : Bool
  syncAt : Nat
  /-- When RESYNC was entered, and when the last AUDIT was sent. -/
  resyncAt : Nat
  auditAt : Nat
  sent : List LinkUnit
deriving DecidableEq, Repr

def Port.reset : Port :=
  { link := .down, phyUp := false, active := 0xFF, retired := 0, laneTimes := Vector.replicate 9 []
    tx := #v[0, 0, 0, 0], ret := #v[0, 0, 0, 0], rx := #v[0, 0, 0, 0], free := #v[0, 0, 0, 0], freeDirty := false
    sawSync := false, peerResync := false, syncAt := 0, resyncAt := 0, auditAt := 0, sent := [] }

/-- An acknowledgement due to a rank (spec/09_fabric.md R268). -/
structure AckDue where
  src : Nat
  seq : Nat
  mc : Bool
deriving DecidableEq, Repr

/-- One fold of votes for one Hedge index or one member of the Hedge (spec/09_fabric.md R269). -/
structure VoteRec where
  /-- The voting member's position in the Hedge pass, or the Hedge index in the Row pass. -/
  at_ : Nat
  row : Bool
  good : Bool
  guard : Bool
  mixed : Bool
  reasons : Nat
deriving DecidableEq, Repr

/-- How a fused step was decided (spec/07_espalier.md R206). -/
inductive Outcome' where
  | applied
  | appliedSpecial
  | withheld
deriving DecidableEq, Repr

/-- The scale lead of a command on this chip (spec/03_quantiser.md R85 to R90, spec/08_collectives.md R227). -/
structure Lead where
  /-- Beats of the survey channel accepted, by offset / 1,024. -/
  surveyed : List Nat
  /-- This chip's lead byte of each group. -/
  own : SMap Nat
  /-- The class this chip requests. -/
  cls : Nat
  sent : Bool
  /-- Combined lead byte, class and CONTRIB of the groups whose Hedge stage ends here, as byte + 256 * class + 4096 * CONTRIB. -/
  hedge : SMap Nat
  /-- The same for the groups whose Row stage ends here. -/
  fin : SMap Nat
  /-- The agreed lead byte + 256 * agreed class of each group. -/
  agreed : SMap Nat
  /-- The Row stage, the Row gather and the Hedge gather of this chip's ranges have been sent. -/
  rowSent : Bool
  gathered : Bool
  hedgeGathered : Bool
deriving DecidableEq, Repr

def Lead.init : Lead :=
  { surveyed := [], own := [], cls := 0, sent := false, hedge := [], fin := [], agreed := [], rowSent := false
    gathered := false, hedgeGathered := false }

/-- The conversion of a bucket (spec/03_quantiser.md R91 to R105, spec/05_coppice.md R144 to R149). -/
structure Conv where
  /-- Beats converted, by offset / 1,024. -/
  beats : List Nat
  noise : Nat
  signal : Nat
  elements : Nat
  specialGroups : Nat
  specialBlocks : Nat
  clamped : Nat
  outliers : Nat
  /-- The bucket's conversion has completed and its records are written. -/
  done : Bool
  /-- Beats whose selection block is not whole yet: beat number and gradients (spec/04_topiary.md R124). -/
  waiting : SMap (List Bf16)
  /-- The five sums of spec/05_coppice.md R147 in units of 2^-160, in the order of its table. -/
  mass : List Int
  /-- Topiary selection sums of spec/04_topiary.md R125. -/
  selSum : TSum
  leftSum : TSum
  selected : Nat
  tied : Nat
  /-- Own side records of the bucket in group order: group index and the record's bytes (spec/02_formats.md R62). -/
  sides : List (Nat × List Byte)
  sidesSent : Bool
  /-- Stripes, or sparse destinations, whose own records have been sent. -/
  sent : List (Nat × Nat)
  /-- What the conversion waits for: 0 nothing, 1 the lead, 2 the copy of an image (spec/03_quantiser.md R90,
  spec/05_coppice.md R152), and the beat that waits. -/
  stall : Nat
  stallBeat : Nat
deriving DecidableEq, Repr

def Conv.init : Conv :=
  { beats := [], noise := 0, signal := 0, elements := 0, specialGroups := 0, specialBlocks := 0, clamped := 0, outliers := 0, done := false
    waiting := [], mass := [0, 0, 0, 0, 0], selSum := TSum.zero, leftSum := TSum.zero, selected := 0, tied := 0, sides := [], sidesSent := false, sent := [], stall := 0, stallBeat := 0 }

/-- The reduction of a command (spec/06_ply_reduction.md). -/
structure Red where
  /-- Landing slots that hold a first landing, by owned group index; deputy ranges are keyed beyond 2^40. -/
  stored : List Nat
  /-- Row operand of each group ready at its place: 1 + local count (R162). -/
  rowOp : SMap Nat
  rowStarted : Bool
  /-- Side-table entries of the job, and of the table of DEPUTY_JOB. -/
  sideCount : Nat
  sideDeputy : Nat
  /-- Groups whose surplus or shortfall has been reported. -/
  short : Nat
deriving DecidableEq, Repr

def Red.init : Red := { stored := [], rowOp := [], rowStarted := false, sideCount := 0, sideDeputy := 0, short := 0 }

/-- The update and apply passes of a fused step (spec/07_espalier.md R196 to R209). -/
structure Upd where
  /-- Next storage block of the compute pass and of the apply pass. -/
  cursor : Nat
  computed : Bool
  applyCursor : Nat
  applied : Bool
  /-- Guard reasons gathered so far (R204), and the counts of the step result record (R193). -/
  reasons : Nat
  nonfinite : Nat
  underflow : Nat
deriving DecidableEq, Repr

def Upd.init : Upd :=
  { cursor := 0, computed := false, applyCursor := 0, applied := false, reasons := 0, nonfinite := 0, underflow := 0 }

/-- The gather phases and the commit fence of a command (spec/08_collectives.md R226, R244, R245). -/
structure Gat where
  rowStarted : Bool
  hedgeStarted : Bool
  /-- Ranges of the output received or supplied by this chip, as offset and length in its element units. -/
  got : List (Nat × Nat)
  /-- The output as it arrives when it is to be transposed (R240). -/
  stage : SMap Byte
  rep : Nat
  bad : Bool
  voteFormed : Bool
  hedgeFolded : Bool
  votes : List VoteRec
  fenceGood : Option Bool
  live : Bool
deriving DecidableEq, Repr

def Gat.init : Gat :=
  { rowStarted := false, hedgeStarted := false, got := [], stage := [], rep := 0, bad := false, voteFormed := false
    hedgeFolded := false, votes := [], fenceGood := none, live := false }

/-- One running command (spec/13_control.md R383): what was read at its start and how far it has come. -/
structure Cmd where
  q : Nat
  i : Nat
  desc : List Byte
  param : List Byte
  /-- The member table (spec/08_collectives.md R230), empty for a regular group. -/
  table : List Byte
  /-- The landing map entry of spec/06_ply_reduction.md R168, and the deputies' entries by position. -/
  map : List Byte
  deputyMap : List Byte
  /-- The ownership entry (spec/07_espalier.md R191) at the start, and the one of DEPUTY_JOB for a deputy's ranges. -/
  own : List Byte
  deputyOwn : List Byte
  /-- The update programs that the slots named by the two entries held at the start (spec/07_espalier.md R195). -/
  prog : List Byte
  deputyProg : List Byte
  /-- The step-class registers that serve the command (spec/14_registers.md R406). -/
  bank : SMap Word
  dataStarted : Bool
  /-- When its data phase started, and when the watchdog last restarted (R248). -/
  dataAt : Nat
  watchAt : Nat
  warned : Bool
  /-- Last item accepted from each rank (R248). -/
  lastFrom : SMap Nat
  late : Bool
  lead : Lead
  conv : Conv
  red : Red
  upd : Upd
  gat : Gat
  outcome : Option Outcome'
  /-- Reads of the command that returned the uncorrectable-error flag (R244). -/
  readError : Bool
  /-- The status and DETAIL it completes with, once that is decided (spec/13_control.md R394). -/
  status : Option (Nat × Nat)
  /-- Entry at which a RUN_SKEIN waits (R252). -/
  entry : Nat
  /-- COUNT words and TOPK lists received, by source member index (R231, R235). -/
  counts : List (Nat × List Byte)
  /-- READY received by a SEND: MATCH, wire format and DST_CAP (R271); the match number of a SEND or RECV (R233). -/
  ready : Option (Nat × Nat × Nat)
  matchNo : Nat
  /-- The rows, data or lists of a direct transfer have been sent, or the merge made (R231, R233, R235). -/
  moved : Bool
  /-- Bytes of a direct transfer that did not fit (R232). -/
  cut : Nat
  /-- Digest sites whose records are formed: site + 16 * repeat (spec/11_reproducibility.md R324). -/
  digested : List Nat
  /-- Its number within its step and job (spec/11_reproducibility.md R327). -/
  ordinal : Nat
deriving DecidableEq, Repr

/-- The drain fence of a job identifier (spec/08_collectives.md R249): ranks whose markers are awaited, ranks whose marker
for this drain has come, and whether the identifier is draining. -/
structure Drain where
  job : Nat
  await : List Nat
  got : List Nat
  active : Bool
  /-- Ranks whose markers were not awaited when a drain was ended (R249). -/
  skipped : List Nat
  /-- When the drain began, and when a chunk of a rank was last accepted in it (spec/13_control.md R376). -/
  since : Nat
  heard : SMap Nat
deriving DecidableEq, Repr

/-- The open job (spec/13_control.md R376). -/
structure Job where
  isOpen : Bool
  rank : Nat
  first : Nat
  last : Nat
  /-- The last applied step (spec/12_resilience.md R341). -/
  lastStep : Option Nat
  /-- The re-formed groups, newest first: member table, and the first and last job identifier it serves
  (spec/08_collectives.md R250). -/
  reforms : List (List Byte × Nat × Nat)
deriving DecidableEq, Repr

/-- The random lanes of Relaxed mode (spec/02_formats.md R83): started, the states of the lanes that have drawn, and each
state's draw count within its output, with the dormant states of spec/11_reproducibility.md R323. -/
structure Lanes where
  started : Bool
  seed : Word
  drawn : SMap (Xo × Nat)
deriving DecidableEq, Repr

/-- A mailbox pair (spec/13_control.md R371 to R374): the request copied at the doorbell, whether a command that lasts has
begun, the groups it has reported short or the epoch it waits for, and the lost ranks of a re-form. -/
structure Mbx where
  request : List Byte
  begun : Bool
  wait : Nat
  ranks : List Nat
deriving DecidableEq, Repr

def Mbx.reset : Mbx := { request := [], begun := false, wait := 0, ranks := [] }

/-- A pending load (spec/13_control.md R377). -/
structure PendLoad where
  /-- Program slot, or none for a skein. -/
  slot : Option Nat
  image : List Byte
  addr : Nat
  pair : Nat
deriving DecidableEq, Repr

/-- Spindle (spec/13_control.md R375, R379, spec/15_bringup_power.md R422, R430). -/
structure Spindle where
  /-- An image accepted by FW_UPDATE runs. -/
  loaded : Bool
  major : Nat
  minor : Nat
  svn : Nat
  best : Nat
  lastBeat : Nat
  halted : Bool
  /-- The mailboxes accept no new command until reset (R375). -/
  closed : Bool
deriving DecidableEq, Repr

def Spindle.reset : Spindle :=
  { loaded := false, major := 0, minor := 0, svn := 0, best := 0, lastBeat := 0, halted := false, closed := false }

/-- A piece of a command's output (spec/08_collectives.md R238, R239): element bytes and scale or side bytes by address. -/
structure Piece where
  q : Nat
  i : Nat
  job : Nat
  num : Nat
  addr : Nat
  len : Nat
  sideAddr : Nat
  sideLen : Nat
  /-- Byte offset of the piece within the element plane and within the scale or side plane. -/
  offset : Nat
  sideOffset : Nat
  runEnd : Bool
  last : Bool
deriving DecidableEq, Repr

/-- A committed compressed output that the Feed expander works through (spec/10_compression.md R303 to R306): its command,
this chip's place in it, the table's STEP before the commit, whether the base was zero (R294), and the segments of the base
that were DAMAGED (R304). -/
structure Out where
  cmd : Cmd
  w : Nat
  o : Nat
  oldStep : Nat
  zeroBase : Bool
  badBase : List Nat
  /-- The OUTPUT digest is still to be formed (R306). -/
  owesDigest : Bool
deriving DecidableEq, Repr

/-- A digest record formed and not yet written (spec/11_reproducibility.md R326, R328), without NDET, TIME and RCRC: its
command, the ring base and LGX_DIG_RING_CFG as applied for that command, and the unit that formed it: 0 Sequencer, 1 Feed
expander, 2 Quantiser, 3 Coppice, 4 Bobbin, 5 Espalier (R324). -/
structure DigestRec where
  bytes : List Byte
  unit : Nat
  q : Nat
  i : Nat
  base : Nat
  cfg : Nat
deriving DecidableEq, Repr

/-- The number of commands of a job identifier and step numbered so far (spec/11_reproducibility.md R327), by source. -/
structure Ordinal where
  job : Nat
  step : Nat
  q : Nat
  i : Nat
  num : Nat
deriving DecidableEq, Repr

/-- The image in progress of the Checkpoint engine (spec/12_resilience.md R341 to R346). -/
structure CkpImage where
  step : Nat
  gen : Nat
  /-- LGX_CKP_BASE, SIZE, POLICY and SCOPE as applied when it began. -/
  base : Nat
  size : Nat
  policy : Nat
  scope : Nat
  /-- Section table: type, id, offset, length. -/
  sections : List (Nat × Nat × Nat × Nat)
  length : Nat
  exact : Bool
  /-- LGX_REPLAY_ID.CRC when the image was started. -/
  replay : Nat
  /-- State records copied: job and record number. -/
  recs : List (Nat × Nat)
  /-- Residual sections still to copy: offset, source address and length. -/
  resid : List (Nat × Nat × Nat)
  /-- The own image is whole and verified; a second read-back mismatch; PREPARED is written. -/
  written : Bool
  badTwice : Bool
  prepared : Bool
deriving DecidableEq, Repr

/-- A state record pushed into the copy stream and not acknowledged (spec/07_espalier.md R208): its command, job, record
number and bytes. -/
structure Push where
  q : Nat
  i : Nat
  job : Nat
  rec_ : Nat
  bytes : List Byte
deriving DecidableEq, Repr

/-- A message or stream that this chip's Spindle firmware or Checkpoint engine has sent to another chip; its layout on the
wire is not stated (DESIGN CHOICE, log 26). -/
inductive Msg where
  /-- The prepare vote of a step to a rank (spec/12_resilience.md R345, spec/09_fabric.md R269): this chip's own, or the
  result of the Hedge of index `origin` in the Row pass with the hops still to go. -/
  | prepareVote (dst step : Nat) (row : Bool) (origin hops : Nat)
  /-- The buddy copy, or the parity unit, of a step is written and verified (R345). -/
  | report (rank step : Nat) (parity : Bool)
  /-- A buddy or row holder is told of a commit (R345). -/
  | commitNotice (rank step : Nat) (parity : Bool)
  /-- A stream of far-tier bytes to a rank: an own image, or a unit, whose last `pad` bytes are zero (R338, R339, R353,
  R354). -/
  | stream (rank step addr len pad : Nat)
  /-- A rebuilt unit (R354). -/
  | rebuilt (rank step : Nat) (bytes : List Byte)
  /-- This chip's inventory, and the sources (rank, step, kind) that it knows to have failed (R347). -/
  | inventory (dst : Nat) (headers : List InvEntry) (failed : List (Nat × Nat × InvKind))
  /-- This chip has restored, or the result of a Hedge in the Row pass (R351, R269), to a rank. -/
  | restoreFence (dst step : Nat) (row : Bool) (origin hops : Nat)
deriving DecidableEq, Repr

/-- The Checkpoint engine. LGX_CKP_STATUS holds the last committed step and its generation. -/
structure Ckp where
  image : Option CkpImage
  /-- The step whose image was refused for size, and the bytes that did not fit (R343). -/
  refused : Option (Nat × Nat)
  /-- An image waits for the previous commit (R346). -/
  genWait : Bool
  /-- Mailbox pairs that wait for an image to commit, with its step (spec/13_control.md R376). -/
  pairs : List (Nat × Nat)
  /-- Prepare votes held: rank and step. -/
  votes : List (Nat × Nat)
  pushes : List Push
  /-- Format state words copied before a later step wrote them (R342): image step, bucket, word. -/
  words : List (Nat × Nat × Nat)
  /-- Step of the buddy copy and of the parity unit that each generation holds (R338, R339). -/
  buddyStep : Vector (Option Nat) 2
  parityStep : Vector (Option Nat) 2
  /-- Units being received: position, step and bytes. -/
  units : List (Nat × Nat × SMap Byte)
  /-- Restore fences held: rank and step (R351). -/
  fence : List (Nat × Nat)
  /-- Inventories received for a restore, by holder, and the sources told to have failed: rank, step and kind (R347). -/
  inv : List (Nat × List InvEntry)
  failed : List (Nat × Nat × InvKind)
deriving DecidableEq, Repr

def Ckp.reset : Ckp :=
  { image := none, refused := none, genWait := false, pairs := [], votes := [], pushes := [], words := []
    buddyStep := #v[none, none], parityStep := #v[none, none], units := [], fence := [], inv := [], failed := [] }

/-- A restore in progress (spec/12_resilience.md R347 to R351). -/
structure Restore where
  pair : Nat
  startedAt : Nat
  engineCause : Bool
  migrate : Bool
  lost : Nat
  /-- The inventory that this chip has sent (R347). -/
  own : Option (List InvEntry)
  chosen : Option Nat
  /-- Where this chip's image comes from: 0 its own copy, 1 a buddy copy, 2 parity (R347). -/
  source : Nat
  /-- Rebuilt units received, by row (R354). -/
  rows : List Nat
  loaded : Bool
  /-- What this chip has sent for other ranks: rank, source and step. -/
  served : List (Nat × Nat × Nat)
deriving DecidableEq, Repr

/-- One entry of the repair map (spec/12_resilience.md R363) is a resource word; the fault events of each resource are
kept with their times. -/
structure Rep where
  inUse : List (BitVec 32)
  /-- Spares that failed before they replaced anything: type, unit, spare (R258, R361). -/
  spent : List (Nat × Nat × Nat)
  events : List (BitVec 32 × List (Nat × Nat × Nat))
  /-- Ports held DOWN because a Ply lane has no spare (R361). -/
  heldPorts : List Nat
  lastSelftest : Nat
  /-- When the first failure of the engine's own since the last restore was detected (R367). -/
  detected : Option Nat
deriving DecidableEq, Repr

/-- Canary laps and ageing history (spec/12_resilience.md R364 to R366): the last sweep, the sweep before it with the time
of each, and for each resource the time of each sweep with the ratio in units of 2^-24 and the speed margin in steps of
0.25 %. -/
structure Age where
  laps : List Canary
  reference : Nat
  history : List (BitVec 32 × List (Nat × Nat × Int))
  lastSweep : Nat
  firstSweep : Option Nat
deriving DecidableEq, Repr

/-- The state of the engine. -/
structure State where
  /-- Every register, keyed by its offset; one not listed reads its reset value (spec/14_registers.md). -/
  regs : SMap Word
  /-- The previous bank of the step-class registers, and the step it serves when LGX_APPLY.PREV_VALID is 1 (R406). -/
  prev : SMap Word
  stepCur : Nat
  stepPrev : Option Nat
  /-- Staged values and the mask of their staged bits (R407). -/
  staged : SMap (Word × Word)
  ctl : Ctl
  bus : Bus
  mem : SMap Byte
  /-- Addresses of the last read that returned the uncorrectable-error flag (spec/01_engine_and_step.md R39). -/
  memFail : Option Nat
  /-- 256-byte units whose reads return the uncorrectable-error flag until a write covers them (R36, R38, R39). -/
  badUnits : List Nat
  /-- Bobbin SRAM words; an unlisted word reads the fill: zero after the wake of the Bobbin, else free (R49, R421). -/
  bobbin : SMap Word
  bobbinFree : Option Nat
  queues : Vector QState 64
  cmds : List Cmd
  drains : List Drain
  job : Job
  lanes : Lanes
  dormant : List Xo
  progs : Vector (Option (List Byte)) 16
  pends : List PendLoad
  /-- The loaded skein: its address and its bytes (spec/08_collectives.md R251). -/
  skein : Option (Nat × List Byte)
  replayStale : Bool
  mbx : Vector Mbx 4
  spindle : Spindle
  ports : Vector Port 16
  txq : List TxPkt
  partials : List Assembly
  held : List Held
  ackDue : List AckDue
  outbox : List OutChunk
  mcastSeq : Nat
  /-- Next position of the VIA rotation, and the way of the next equal-distance packet (spec/09_fabric.md R278, R432). -/
  viaNext : Nat
  rowAlt : Bool
  epochAt : Nat
  /-- Packets originated, and delivered or discarded here, under the current epoch (spec/09_fabric.md R284). -/
  epochInj : Nat
  epochEj : Nat
  /-- The dateline that Spindle firmware is to set in the next epoch (R276). -/
  dateWait : Option Nat
  holdUntil : Nat
  /-- Outbound Feed beats: tag and payload (spec/01_engine_and_step.md R33, R34). -/
  feedOut : List (BitVec 128 × List Byte)
  pieces : List Piece
  outs : List Out
  /-- Segments whose bytes in the committed plain slot are missing: DST address and segment number (R305). -/
  damaged : List (Nat × Nat)
  /-- SUM_SCALE of the last EXP2 row with a ROW_MAX on this chip, by ROW_MAX (spec/04_topiary.md R119, R129; DESIGN CHOICE,
  log 18). -/
  sumScales : SMap (Option F32)
  /-- Next match sequence numbers of SENDs and of RECVs, by peer rank * 65,536 + TAG (spec/08_collectives.md R233). -/
  matchTx : SMap Nat
  matchRx : SMap Nat
  digests : List DigestRec
  ordinals : List Ordinal
  ckp : Ckp
  restore : Option Restore
  sent : List Msg
  rep : Rep
  age : Age
  /-- What the last test instrument shifted out (spec/15_bringup_power.md R429). -/
  jtag : List Nat
  grade : Grade
  stepMajor : Nat
  stepMinor : Nat
  /-- The free-value counter, the model's own field (DESIGN CHOICE, log 9). -/
  free : Nat
  /-- The commands that wait, first in, first out (the model's own field). -/
  pending : List Instr
deriving DecidableEq, Repr

/-- The machine right after reset is asserted (spec/00_scope.md R17, spec/01_engine_and_step.md R49; DESIGN CHOICE, log 2): every register
at its reset value, every structure of the engine empty. -/
def State.reset : State :=
  { regs := [], prev := [], stepCur := 0, stepPrev := none, staged := [], ctl := Ctl.reset
    bus := { data := 0, error := false }, mem := [], memFail := none, badUnits := [], bobbin := [], bobbinFree := some 0
    queues := Vector.replicate 64 QState.reset, cmds := [], drains := []
    job := { isOpen := false, rank := 0, first := 0, last := 0, lastStep := none, reforms := [] }
    lanes := { started := false, seed := 0, drawn := [] }, dormant := [], progs := Vector.replicate 16 none, pends := []
    skein := none, replayStale := false, mbx := Vector.replicate 4 Mbx.reset
    spindle := Spindle.reset, ports := Vector.replicate 16 Port.reset, txq := [], partials := [], held := []
    ackDue := [], outbox := [], mcastSeq := 0, viaNext := 0, rowAlt := false, epochAt := 0, epochInj := 0, epochEj := 0, dateWait := none, holdUntil := 0
    feedOut := [], pieces := [], outs := [], damaged := [], sumScales := [], matchTx := [], matchRx := [], digests := [], ordinals := [], ckp := Ckp.reset, restore := none, sent := []
    rep := { inUse := [], spent := [], events := [], heldPorts := [], lastSelftest := 0, detected := none }
    age := { laps := [], reference := 0, history := [], lastSweep := 0, firstSweep := none }, jtag := []
    grade := .a, stepMajor := 0, stepMinor := 0, free := 0, pending := [] }

end Sys2Proof.Machine
end

