-- ==== Sys2Proof/Machine/Ops.lean ====
section
/-! DEFINITION. The named operations over the state: registers and their staged copies, memory, events, event counters,
random lanes, and the lists of queues, ports and commands. -/

namespace Sys2Proof.Machine

/-! ### Registers -/

/-- The stored value of the register at an offset. -/
def State.rd (s : State) (o : Nat) : Word := smGet regReset s.regs o

/-- Store a register. -/
def State.wr (s : State) (o : Nat) (v : Word) : State := { s with regs := smSet regReset s.regs o v }

/-- Replace bits [lo + w - 1 : lo] of a word. -/
def setBits (v : Word) (lo w x : Nat) : Word :=
  let m := BitVec.ofNat 64 ((2 ^ w - 1) * 2 ^ lo)
  (v &&& ~~~m) ||| BitVec.ofNat 64 (x % 2 ^ w * 2 ^ lo)

/-- A field of a register. -/
def State.fld (s : State) (o lo w : Nat) : Nat := bitsAt (s.rd o).toNat lo w

/-- Write a field of a register. -/
def State.setFld (s : State) (o lo w x : Nat) : State := s.wr o (setBits (s.rd o) lo w x)

/-- Add to a field that saturates. -/
def State.sat (s : State) (o lo w n : Nat) : State := s.setFld o lo w (min (2 ^ w - 1) (s.fld o lo w + n))

/-- Add to a field that wraps. -/
def State.addF (s : State) (o lo w n : Nat) : State := s.setFld o lo w ((s.fld o lo w + n) % 2 ^ w)

/-- A step-class field of the current bank (spec/14_registers.md R406). -/
def bankFld (b : SMap Word) (o lo w : Nat) : Nat := bitsAt (smGet regReset b o).toNat lo w

/-- The register row has a field of the class. -/
def RegRow.hasClass (r : RegRow) (c : Applied) : Bool := r.fields.any (fun f => decide (f.app = c))

/-- The application class of a register's staged copy (spec/14_registers.md R404): a rank-translation entry is of the
router class. -/
def classOf (key : Nat) : Applied :=
  if 0x400000 ≤ key then .packet else
  match rowAt key with
  | none => .none
  | some r =>
    if r.hasClass .step then .step else if r.hasClass .packet then .packet
    else if r.hasClass .descriptor then .descriptor else .none

/-- The packet-class block of a register: ports 0 to 15, or 16 for the Router (R404). -/
def packetBlock (key : Nat) : Nat :=
  if 0x080000 ≤ key ∧ key < 0x090000 then (key - 0x080000) / 0x1000 else 16

/-- The queue of a queue register. -/
def queueOf (key : Nat) : Nat := (key - 0x020000) / 0x40

/-- Stage a write (spec/14_registers.md R407): the bits of the mask replace the earlier staged ones. -/
def State.stage (s : State) (key : Nat) (v mask : Word) : State :=
  let old := smGet (fun _ => ((0, 0) : Word × Word)) s.staged key
  { s with staged := smSet (fun _ => (0, 0)) s.staged key ((old.1 &&& ~~~mask) ||| (v &&& mask), old.2 ||| mask) }

/-- Store the bits of the mask. -/
def State.merge (s : State) (key : Nat) (v mask : Word) : State :=
  s.wr key ((s.rd key &&& ~~~mask) ||| (v &&& mask))

/-- Apply the staged copies of a list of registers (spec/14_registers.md R404). -/
def State.applyAll (s : State) : List (Nat × Word × Word) → State
  | [] => s
  | (k, v, m) :: t => State.applyAll ((s.merge k v m)) t

/-- Apply the staged copies that satisfy a test and take them off. A configuration CRC update becomes outstanding when
there was one (R410). -/
def State.applyStaged (s : State) (p : Nat → Bool) : State :=
  let now := s.staged.filter (fun e => p e.1)
  if now.isEmpty then s else
  let s := s.applyAll now
  let s := { s with staged := s.staged.filter (fun e => !p e.1) }
  s.setFld rCfgCtl 3 1 1

/-- Bits of a register that are written while nothing stages them: an older staged copy of them is dropped (R404, R407). -/
def State.unstage (s : State) (key : Nat) (mask : Word) : State :=
  let zero := fun (_ : Nat) => ((0, 0) : Word × Word)
  let e := smGet zero s.staged key
  { s with staged := smSet zero s.staged key (if e.2 &&& ~~~mask = 0 then (0, 0) else (e.1 &&& ~~~mask, e.2 &&& ~~~mask)) }

/-- A step boundary (spec/14_registers.md R405, R406): the current bank becomes the previous one, the staged step-class
values are applied, and STEP_CUR becomes the new step. A change of a listed register makes the replay identity stale
(spec/11_reproducibility.md R316). -/
def State.stepBoundary (s : State) (step : Nat) : State :=
  let bank := s.regs.filter (fun e => decide (classOf e.1 = .step))
  let prevStep := s.stepCur
  let stale := s.staged.any (fun e => decide (classOf e.1 = .step))
  let s := s.applyStaged (fun k => decide (classOf k = .step))
  { s with prev := bank, stepPrev := some prevStep, stepCur := step, replayStale := s.replayStale || stale }

/-- The bank of step-class registers that serves a step (R406), none when neither bank does. -/
def State.bankFor (s : State) (step : Nat) : Option (SMap Word) :=
  if step = s.stepCur then some (s.regs.filter (fun e => decide (classOf e.1 = .step)))
  else if some step = s.stepPrev then some s.prev
  else none

/-- The current bank. -/
def State.curBank (s : State) : SMap Word := s.regs.filter (fun e => decide (classOf e.1 = .step))

/-! ### Grades (spec/00_scope.md R5 to R7, spec/14_registers.md R418) -/

/-- Carding and the Feed expander are absent on X4-B. -/
def State.hasCarding (s : State) : Bool := decide (s.grade ≠ .b)

/-- The largest K of Topiary. -/
def State.kMax (s : State) : Nat := if s.grade = .c then 8 else 64

/-- The number of random lanes. -/
def State.laneCount (s : State) : Nat := if s.grade = .c then 512 else 1024

/-- A register of a unit that the grade lacks (spec/14_registers.md R402). -/
def State.absentReg (s : State) (key : Nat) : Bool :=
  !s.hasCarding && decide (0x046000 ≤ key) && decide (key < 0x047000)

/-! ### Time (spec/14_registers.md R417) -/

def State.now (s : State) : Nat := (s.rd rGcnt).toNat

def State.timeValid (s : State) : Bool := s.fld rGcntState 0 1 == 1

/-! ### Memory (spec/01_engine_and_step.md R36 to R38). An unlisted byte reads 0 (DESIGN CHOICE, log 1). -/

def memDefault (_ : Nat) : Byte := 0#8

/-- The canonical form of memory: addresses rising, no entry equal to what an unlisted address reads as. -/
def Memory.wf (m : SMap Byte) : Bool := smWf memDefault m

def State.byte (s : State) (a : Nat) : Byte := smGet memDefault s.mem (a % 2 ^ 64)

/-- n bytes from address a. -/
def State.read (s : State) (a : Nat) : Nat → List Byte
  | 0 => []
  | n + 1 => s.byte a :: s.read (a + 1) n

/-- The little-endian number of n bytes at a. -/
def State.readNat (s : State) (a n : Nat) : Nat := leNat (s.read a n)

/-- Write bytes from address a. -/
def memWrite (m : SMap Byte) (a : Nat) : List Byte → SMap Byte
  | [] => m
  | b :: t => memWrite (smSet memDefault m (a % 2 ^ 64) b) (a + 1) t

/-- The 256-byte unit of an address (R36). -/
def memUnit (a : Nat) : Nat := a % 2 ^ 64 / 256

/-- A write covers whole units, so later reads of them are good (R36, R38). -/
def State.write (s : State) (a : Nat) (b : List Byte) : State :=
  { s with mem := memWrite s.mem a b
           badUnits := s.badUnits.filter (fun u => b.isEmpty || decide (u < memUnit a) || decide (memUnit (a + b.length - 1) < u)) }

/-- A read of n bytes from address a meets a unit that returns the uncorrectable-error flag (R39). -/
def State.flagged (s : State) (a n : Nat) : Bool :=
  n != 0 && s.badUnits.any (fun u => decide (memUnit a ≤ u) && decide (u ≤ memUnit (a + n - 1)))

def State.writeNat (s : State) (a n v : Nat) : State := s.write a (toLE v n)

/-! ### The Bobbin's SRAM (spec/06_ply_reduction.md R168, spec/01_engine_and_step.md R49) -/

/-- What an unlisted Bobbin word reads as: zero, or a free value between reset assertion and the Bobbin's wake (DESIGN CHOICE, log 6). -/
def bobbinDefault (f : Option Nat) (w : Nat) : Word :=
  match f with
  | none => 0
  | some seed => Config.sramWord seed w

def State.bobWord (s : State) (w : Nat) : Word := smGet (bobbinDefault s.bobbinFree) s.bobbin w

def State.setBobWord (s : State) (w : Nat) (v : Word) : State :=
  { s with bobbin := smSet (bobbinDefault s.bobbinFree) s.bobbin w v }

/-! ### Causes and event counters (spec/13_control.md R390 to R397) -/

/-- A failure of the engine's own is detected (spec/12_resilience.md R367). -/
def State.detect (s : State) : State :=
  if s.rep.detected.isSome then s else { s with rep := { s.rep with detected := some s.now } }

/-- The event of an interrupt cause occurs: a check-adder mismatch (7), a damaged segment (8) and a lasting fault without a
spare (22) are failures of the engine's own. -/
def State.raise (s : State) (cause : Nat) : State :=
  let s := if cause = 7 ∨ cause = 8 ∨ cause = 22 then s.detect else s
  s.setFld rEvtStatus cause 1 1

/-- Watch k fires when it is armed and its counter has reached its value (R392). -/
def State.watchStep (s : State) (k : Nat) : State :=
  let cfg := (s.rd (rEvwCfg k)).toNat
  let c := bitsAt cfg 0 8
  if bitAt cfg 8 && !bitAt cfg 9 && !(s.ctl.watchRead.getD k false)
      && decide ((s.rd (rEvwVal k)).toNat ≤ (s.rd (rEvc c)).toNat)
  then (s.setFld (rEvwCfg k) 9 1 1).raise 28 else s

/-- All eight watches look at their counters. -/
def State.checkWatches (s : State) : State := (List.range 8).foldl State.watchStep s

/-- A new value of an event counter (R391, R392). -/
def State.setEvc (s : State) (c : Nat) (v : Word) : State := (s.wr (rEvc c) v).checkWatches

/-- An add to an event counter, mod 2^64 (R390). -/
def State.addEvc (s : State) (c : Nat) (v : Word) : State := s.setEvc c (s.rd (rEvc c) + v)

/-! ### The state of the engine (spec/13_control.md R398) -/

/-- Enter a state; a change of state raises CONTROL_INPUT (DEDUCED, log 15). -/
def State.enter (s : State) (e : EngState) : State :=
  if s.ctl.st = e then s else ({ s with ctl := { s.ctl with st := e } }).raise 29

/-- Answer the power manager with the state reached (spec/01_engine_and_step.md R50). -/
def State.answer (s : State) : State := { s with ctl := { s.ctl with answered := some s.ctl.st } }

/-- A target is replaced before it is carried out (R399). -/
def State.loseTarget (s : State) : State := (s.sat rCtlInputs 8 8 1).raise 29

/-- The engine acts: reset is released and the wake step of a unit has been acknowledged (spec/15_bringup_power.md R421). -/
def State.awake (s : State) (n : Nat) : Bool := !s.ctl.resetOn && decide (n ≤ s.ctl.wakeStep)

/-- Every unit is awake. -/
def State.allAwake (s : State) : Bool := s.awake 16

/-- Spindle runs the firmware loaded by FW_UPDATE, so the automatic mechanisms of spec/13_control.md R369 work
(spec/15_bringup_power.md R422). -/
def State.firmware (s : State) : Bool := s.spindle.loaded && !s.spindle.halted

/-! ### Random bits of Relaxed mode (spec/02_formats.md R83) -/

/-- The state of lane L and how many of its current output's four values are used. -/
def State.laneState (s : State) (lane : Nat) : Xo × Nat :=
  smGet (fun l => (laneStart s.lanes.seed l, 0)) s.lanes.drawn lane

/-- The next 16-bit value of a free-running lane; which lane takes it is free (DESIGN CHOICE, log 9). -/
def State.draw (s : State) : Nat × State :=
  let lane := Config.laneOf s.free % s.laneCount
  let (x, n) := s.laneState lane
  let r := bitsAt x.out.toNat (16 * n) 16
  let nxt := if n = 3 then (x.step, 0) else (x, n + 1)
  (r, { s with
        free := s.free + 1
        lanes := { s.lanes with drawn := smSet (fun l => (laneStart s.lanes.seed l, 0)) s.lanes.drawn lane nxt } })

/-- Count nondeterminism (spec/11_reproducibility.md R319, R320): the total, the source counter at `src`, and the first
increment's step and job. -/
def State.ndet (s : State) (src n step job : Nat) : State :=
  if n = 0 then s else
  let s := s.wr rNdetTotal (s.rd rNdetTotal + BitVec.ofNat 64 n)
  let s := s.wr src (s.rd src + BitVec.ofNat 64 n)
  if s.fld rNdetFirst 63 1 = 1 then s
  else s.wr rNdetFirst (BitVec.ofNat 64 (step % 2 ^ 48 + job % 4096 * 2 ^ 48 + 2 ^ 63))

/-- 16 random bits for an element at a site: keyed in Exact mode, a counted draw in Relaxed mode (R80, R83, R319). -/
def State.bitsFor (s : State) (exact : Bool) (step stage g job : Nat) : Nat × State :=
  if exact then (keyedBits (s.rd rRndSeed) step stage g, s)
  else
    let (r, s) := s.draw
    (r, s.ndet rNdetDraw 1 step job)

/-! ### Lists of the state -/

def State.queue (s : State) (q : Nat) : QState := s.queues.getD q QState.reset

def State.setQueue (s : State) (q : Nat) (v : QState) : State := { s with queues := s.queues.setIfInBounds q v }

def State.port (s : State) (p : Nat) : Port := s.ports.getD p Port.reset

def State.setPort (s : State) (p : Nat) (v : Port) : State := { s with ports := s.ports.setIfInBounds p v }

/-- The started command at index i of queue q. -/
def State.cmd? (s : State) (q i : Nat) : Option Cmd := s.cmds.find? (fun c => c.q == q && c.i == i)

/-- Put a command's new record in its place. -/
def State.putCmd (s : State) (c : Cmd) : State :=
  { s with cmds := s.cmds.map (fun d => if d.q == c.q && d.i == c.i then c else d) }

/-- Take a command's record off. -/
def State.dropCmd (s : State) (q i : Nat) : State :=
  { s with cmds := s.cmds.filter (fun c => !(c.q == q && c.i == i)) }

/-- A command with what its conversion waits for, and at which beat. -/
def Cmd.stalled (c : Cmd) (n b : Nat) : Cmd := { c with conv := { c.conv with stall := n, stallBeat := b } }

/-- Started commands of a queue (LGX_Q_STATE_q.IN_FLIGHT). -/
def State.inFlight (s : State) (q : Nat) : Nat := (s.cmds.filter (fun c => c.q == q)).length

/-- The command running under a job identifier (spec/06_ply_reduction.md R179). -/
def State.cmdOfJob (s : State) (job : Nat) : Option Cmd :=
  s.cmds.find? (fun c => leAt c.param 72 2 % 4096 == job
    && decide (0x10 ≤ byteAt c.desc 0) && decide (byteAt c.desc 0 ≤ 0x18))

/-! ### Ring writes (spec/03_quantiser.md R101): base, configuration, HEAD, TAIL and DROP registers, record size -/

/-- Write one record to a ring under its head, tail and drop rules, with the configuration of a bank. A record is also
dropped when HEAD − TAIL is above the size (DESIGN CHOICE, log 102). -/
def State.ringWrite (s : State) (bank : SMap Word) (base cfg head tail drop : Nat) (rec : List Byte) : State :=
  if bankFld bank cfg 5 1 = 0 then s else
  let size := 2 ^ bankFld bank cfg 0 5
  let h := s.fld head 0 32
  if (h + 2 ^ 32 - s.fld tail 0 32) % 2 ^ 32 ≥ size then s.sat drop 0 32 1
  else (s.write ((smGet regReset bank base).toNat + rec.length * (h % size)) rec).setFld head 0 32 ((h + 1) % 2 ^ 32)

end Sys2Proof.Machine
end

