-- ==== Sys2Proof/Machine/Operands.lean ====
section
/-! DEFINITION. The fields of descriptors and parameter blocks, and what follows from them alone: members, ranges, stripes
and rings (spec/13_control.md R381, spec/08_collectives.md R214 to R227, R230, R247, R434). -/

namespace Sys2Proof.Machine

/-! ### Descriptors (spec/13_control.md R381) -/

def dType (d : List Byte) : Nat := byteAt d 0
def dFence (d : List Byte) : Bool := bitAt (byteAt d 2) 0
def dIrq (d : List Byte) : Bool := bitAt (byteAt d 2) 1
def dContinue (d : List Byte) : Bool := bitAt (byteAt d 2) 2
def dSignalAlways (d : List Byte) : Bool := bitAt (byteAt d 2) 3
def dWaitEn (d : List Byte) : Bool := bitAt (byteAt d 2) 4
def dSignalEn (d : List Byte) : Bool := bitAt (byteAt d 2) 5
def dWaitCtr (d : List Byte) : Nat := byteAt d 4
def dSignalCtr (d : List Byte) : Nat := byteAt d 5
def dParamAddr (d : List Byte) : Nat := leAt d 8 8
def dWaitValue (d : List Byte) : Nat := leAt d 16 8
def dSignalAdd (d : List Byte) : Nat := leAt d 24 8
def dArg (d : List Byte) : Nat := leAt d 32 8
def dStepOvr (d : List Byte) : Nat := leAt d 40 6
def dOvr (d : List Byte) : Bool := bitAt (byteAt d 46) 0

/-- The descriptor types that use the collective parameter block (spec/13_control.md R387). -/
def usesBlock (t : Nat) : Bool := decide (0x10 ≤ t) && decide (t ≤ 0x18)

/-- The reducing commands ALL_REDUCE, REDUCE_SCATTER and FUSED_STEP (spec/08_collectives.md R213). -/
def isReducing (t : Nat) : Bool := decide (0x10 ≤ t) && decide (t ≤ 0x12)

/-! ### The collective parameter block (spec/08_collectives.md R214) -/

def Cmd.type (c : Cmd) : Nat := dType c.desc
def Cmd.src (c : Cmd) : Nat := leAt c.param 0 8
def Cmd.dst (c : Cmd) : Nat := leAt c.param 8 8
def Cmd.aux (c : Cmd) : Nat := leAt c.param 16 8
def Cmd.code (c : Cmd) : Nat := leAt c.param 24 8
def Cmd.base (c : Cmd) : Nat := leAt c.param 32 8
def Cmd.elements (c : Cmd) : Nat := leAt c.param 48 8
/-- The command's STEP: STEP_OVR when OVR is set (spec/13_control.md R381). -/
def Cmd.step (c : Cmd) : Nat := if dOvr c.desc then dStepOvr c.desc else leAt c.param 56 6
/-- The command's LAUNCH_AT: ARG when OVR is set. -/
def Cmd.launchAt (c : Cmd) : Nat := if dOvr c.desc then dArg c.desc else leAt c.param 64 8
def Cmd.key (c : Cmd) : Nat := leAt c.param 72 4
def Cmd.job (c : Cmd) : Nat := bitsAt c.key 0 12
def Cmd.policy (c : Cmd) : Nat := bitsAt c.key 12 6
def Cmd.sparse (c : Cmd) : Bool := bitAt c.key 18
def Cmd.widen (c : Cmd) : Bool := bitAt c.key 19
def Cmd.srcFeed (c : Cmd) : Bool := bitAt c.key 20
def Cmd.feed (c : Cmd) : Bool := bitAt c.key 21
def Cmd.transpose (c : Cmd) : Bool := bitAt c.key 22
def Cmd.digest (c : Cmd) : Bool := bitAt c.key 23
def Cmd.inFmt (c : Cmd) : Nat := bitsAt c.key 24 4
def Cmd.outFmt (c : Cmd) : Nat := bitsAt c.key 28 4
def Cmd.rankBase (c : Cmd) : Nat := leAt c.param 80 2
def Cmd.hedgesField (c : Cmd) : Nat := leAt c.param 82 2
def Cmd.peer (c : Cmd) : Nat := leAt c.param 84 2
def Cmd.tag (c : Cmd) : Nat := leAt c.param 86 2
def Cmd.selK (c : Cmd) : Nat := byteAt c.param 88
def Cmd.selLog2 (c : Cmd) : Nat := byteAt c.param 89
def Cmd.compress (c : Cmd) : Nat := bitsAt (byteAt c.param 90) 0 2
def Cmd.actSet (c : Cmd) : Nat := bitsAt (byteAt c.param 90) 2 3
def Cmd.int4 (c : Cmd) : Nat := bitsAt (byteAt c.param 90) 5 2
def Cmd.slots (c : Cmd) : Nat := byteAt c.param 91 + 1
def Cmd.vecLen (c : Cmd) : Nat := leAt c.param 92 4
def Cmd.rowBytes (c : Cmd) : Nat := leAt c.param 96 4
def Cmd.dstCap (c : Cmd) : Nat := leAt c.param 100 8
def Cmd.paramBase (c : Cmd) : Nat := leAt c.param 108 6
def Cmd.bucketNo (c : Cmd) : Nat := leAt c.param 116 4

/-- The command's numeric mode is Exact (spec/11_reproducibility.md R313): LGX_CTRL.MODE of its bank. -/
def Cmd.exact (c : Cmd) : Bool := bankFld c.bank rCtrl 0 1 == 0

/-- GSIZE of the command's policy slot, and its group size. -/
def Cmd.gsize (c : Cmd) : Nat := bankFld c.bank (rQntPolicy c.policy) 2 2
def Cmd.g (c : Cmd) : Nat := gsizeOf c.gsize

/-- The selection block size of a sparse reduction. -/
def Cmd.selBlock (c : Cmd) : Nat := 2 ^ c.selLog2

/-! ### Ranges (spec/08_collectives.md R217, R218) -/

/-- First item and length of part i of n items split into p parts (R217). -/
def split (n p i : Nat) : Nat × Nat :=
  let q := n / p
  let r := n % p
  (i * q + min i r, q + (if i < r then 1 else 0))

/-- Part of n items split into p parts that holds item x. -/
def splitIndex (n p x : Nat) : Nat :=
  let q := n / p
  let r := n % p
  if x < r * (q + 1) then x / (q + 1) else r + (x - r * (q + 1)) / q

/-- The part `i` of p parts of a range. -/
def subRange (r : Nat × Nat) (p i : Nat) : Nat × Nat :=
  let (f, l) := split r.2 p i
  (r.1 + f, l)

/-! ### Members (spec/08_collectives.md R217, R230) -/

/-- A member: its rank, Hedge index and position. -/
structure Mem where
  rank : Nat
  w : Nat
  o : Nat
deriving DecidableEq, Repr

/-- Entry i of a member table. -/
def tableEntry (t : List Byte) (i : Nat) : Mem :=
  { rank := leAt t (16 + 8 * i) 2, w := leAt t (18 + 8 * i) 2, o := byteAt t (20 + 8 * i) }

/-- The number of members and of Hedges. -/
def Cmd.members (c : Cmd) : Nat := if c.table.isEmpty then 8 * c.hedgesField else leAt c.table 0 2
def Cmd.hedges (c : Cmd) : Nat := if c.table.isEmpty then c.hedgesField else leAt c.table 2 2

/-- The member with an index (R217, R230). -/
def Cmd.member (c : Cmd) (m : Nat) : Mem :=
  if c.table.isEmpty then { rank := c.rankBase + m, w := m / 8, o := m % 8 } else tableEntry c.table m

/-- Every member in member index order. -/
def Cmd.memberList (c : Cmd) : List Mem := (List.range c.members).map c.member

/-- The member with a rank, and its index. -/
def Cmd.indexOf (c : Cmd) (rank : Nat) : Option Nat :=
  if c.table.isEmpty then
    (if c.rankBase ≤ rank ∧ rank < c.rankBase + 8 * c.hedgesField then some (rank - c.rankBase) else none)
  else (List.range c.members).find? (fun i => (c.member i).rank == rank)

/-- The rank at a place, none when the position is absent. -/
def Cmd.rankAt (c : Cmd) (w o : Nat) : Option Nat :=
  if c.table.isEmpty then (if w < c.hedgesField ∧ o < 8 then some (c.rankBase + 8 * w + o) else none)
  else (c.memberList.find? (fun m => m.w == w && m.o == o)).map (·.rank)

/-- The position of the deputy of position o in Hedge w: o itself when present (R230). -/
def Cmd.deputy (c : Cmd) (w o : Nat) : Nat :=
  (((List.range 8).map (fun k => (o + k) % 8)).find? (fun p => (c.rankAt w p).isSome)).getD o

/-- The rank that stands at a place, deputies included. -/
def Cmd.standAt (c : Cmd) (w o : Nat) : Nat := (c.rankAt w (c.deputy w o)).getD 0

/-- The place of a rank in the command's group. -/
def Cmd.placeOf (c : Cmd) (rank : Nat) : Option (Nat × Nat) :=
  (c.indexOf rank).map (fun i => ((c.member i).w, (c.member i).o))

/-- The positions whose eighth this place serves: its own and those it is deputy for. -/
def Cmd.roles (c : Cmd) (w o : Nat) : List Nat := (List.range 8).filter (fun p => c.deputy w p == o)

/-! ### Group ranges of a reducing command and element ranges of a gather (R218) -/

/-- Groups of the bucket. -/
def Cmd.ng (c : Cmd) : Nat := cdiv c.elements c.g

/-- The eighth of position o among n items. -/
def eighth (n o : Nat) : Nat × Nat := split n 8 o

/-- The range owned at Hedge index w and position o among n items. -/
def ownedRange (n h w o : Nat) : Nat × Nat := subRange (eighth n o) h w

/-! ### Rings (spec/08_collectives.md R220, R221, R247) -/

/-- The Hamiltonian cycles C0 to C6. -/
def cycles : List (List Nat) :=
  [[7, 0, 2, 5, 4, 3, 6, 1], [7, 1, 3, 6, 5, 4, 0, 2], [7, 2, 4, 0, 6, 5, 1, 3], [7, 3, 5, 1, 0, 6, 2, 4],
   [7, 4, 6, 2, 1, 0, 3, 5], [7, 5, 0, 3, 2, 1, 4, 6], [7, 6, 1, 4, 3, 2, 5, 0]]

/-- The position order of a Hedge ring (R221). -/
def ringOrder (k : Nat) : List Nat :=
  let c := cycles.getD (k / 2) []
  if k % 2 = 0 then c else c.reverse

/-- The link of the edge between two neighbours of a cycle: even edges use link 0 (R221). -/
def edgeLink (k a b : Nat) : Nat :=
  let c := cycles.getD (k / 2) []
  let e := (List.range 8).find? (fun e =>
    let x := c.getD e 0
    let y := c.getD ((e + 1) % 8) 0
    (x == a && y == b) || (x == b && y == a))
  e.getD 0 % 2

/-- The port of position a that leads to position b by a link (R220). -/
def peerPort (a b link : Nat) : Nat := 2 * ((b + 7 - a) % 8) + link

/-- The order of a ring for a Hedge with absent positions, rotated so that it starts at the ring successor of the chip that
ends eighth o's stripes (R223, R230). -/
def Cmd.ringFrom (c : Cmd) (k w o : Nat) : List Nat :=
  let present := (ringOrder k).filter (fun p => (c.rankAt w p).isSome)
  let d := c.deputy w o
  let i := present.idxOf d
  (present.drop (i + 1)) ++ present.take (i + 1)

/-- Rings used by a command whose element width is wd bits (R247). -/
def Cmd.ringCount (c : Cmd) (wd : Nat) : Nat := min 14 (max 1 (cdiv (cdiv c.elements 8 * wd) 8 / 4096))

/-- Rings of a reducing command. -/
def Cmd.redRings (c : Cmd) : Nat := c.ringCount 16

/-! ### The code buffer (spec/08_collectives.md R434) -/

/-- Bytes per group of the contributions region for a class. -/
def Cmd.contribStride (c : Cmd) (cls : Nat) : Nat := 4 + c.g * clsBits cls / 8
/-- Address of group k's contribution record. -/
def Cmd.contribAt (c : Cmd) (cls k : Nat) : Nat := c.code + k * c.contribStride cls
/-- Address of group k's side record. -/
def Cmd.sideAt (c : Cmd) (cls k : Nat) : Nat := c.code + upTo 256 (c.ng * c.contribStride cls) + 72 * k
/-- Address of Row operand i: those of this chip's eighth first, then those of the eighths it is deputy for (DEDUCED, log 20). -/
def Cmd.rowOpAt (c : Cmd) (cls i : Nat) : Nat :=
  let a := upTo 256 (c.ng * c.contribStride cls)
  c.code + upTo 256 (a + 72 * c.ng) + i * (if c.widen then 4 + 3 * c.g else 4 + c.g)
/-- Address of the sparse-k record of a block. -/
def Cmd.sparseAt (c : Cmd) (j : Nat) : Nat := c.code + j * (16 + 8 * c.selK)

/-! ### Landing map (spec/06_ply_reduction.md R168) -/

def mapSramWord (m : List Byte) : Nat := leAt m 0 4
def mapSramGroups (m : List Byte) : Nat := leAt m 4 4
def mapExt (m : List Byte) : Nat := leAt m 8 8
def mapGroups (m : List Byte) : Nat := leAt m 16 4
def mapExpected (m : List Byte) : Nat := leAt m 20 4
def mapGsize (m : List Byte) : Nat := bitsAt (byteAt m 24) 0 2
def mapSparse (m : List Byte) : Bool := bitAt (byteAt m 24) 2
def mapPend (m : List Byte) : Nat := leAt m 32 8
def mapPendGroups (m : List Byte) : Nat := leAt m 40 4
def mapHedgeExpected (m : List Byte) : Nat := leAt m 44 4
def mapSide (m : List Byte) : Nat := leAt m 48 8
def mapSideEntries (m : List Byte) : Nat := leAt m 56 4

/-- A landing map that passes its own checks (R168): 0 when good, 0x13 or 0x11 otherwise. -/
def mapCheck (m : List Byte) (pend exact : Bool) : Nat :=
  let g := gsizeOf (mapGsize m)
  let slot := if exact then g + 1 else 1 + g / 2
  if byteAt m 25 ≠ complB 1 (byteAt m 24) ∨ leAt m 28 4 ≠ complB 4 (mapExpected m) ∨ mapGsize m = 3
     ∨ byteAt m 24 / 8 ≠ 0 ∨ leAt m 26 2 ≠ 0 ∨ leAt m 60 4 ≠ 0 ∨ 2 ^ 23 ≤ mapSramWord m then 0x13
  else if 8388608 < mapSramWord m + min (mapSramGroups m) (mapGroups m) * slot
     ∨ (mapExt m = 0 ∧ mapSramGroups m < mapGroups m) ∨ (mapPend m = 0 ∧ pend = true)
     ∨ mapExt m % 256 ≠ 0 ∨ mapPend m % 256 ≠ 0 ∨ mapSide m % 16 ≠ 0 ∨ mapExpected m = 0 then 0x11
  else 0

end Sys2Proof.Machine
end

