-- ==== Sys2Proof/Machine/Flags.lean ====
section
/-! DEFINITION. Completion statuses, interrupt causes, the interrupt lines, and the register values that are computed from
other state (spec/13_control.md R393, R396, R397, R400, spec/14_registers.md R408, R418). -/

namespace Sys2Proof.Machine

/-! ### Completion statuses (spec/13_control.md R393) -/

def stOk : Nat := 0x00
def stWithheld : Nat := 0x01
def stPending : Nat := 0x02
def stAbsent : Nat := 0x10
def stInvalid : Nat := 0x11
def stMismatch : Nat := 0x12
def stData : Nat := 0x13
def stExhausted : Nat := 0x14
def stContrib : Nat := 0x15
def stTimeout : Nat := 0x16
def stReformed : Nat := 0x17
def stUnsupported : Nat := 0x18
def stBusy : Nat := 0x19
def stNoJob : Nat := 0x1A
def stQuiesced : Nat := 0x1B
def stSignature : Nat := 0x1C
def stFirmware : Nat := 0x1D
def stAborted : Nat := 0x1E

/-- The success class (R393). -/
def isSuccess (st : Nat) : Bool := decide (st < 16)

/-! ### Interrupt causes (spec/13_control.md R396) -/

def causeMbxDone : Nat := 0
def causeStepApplied : Nat := 3
def causeStepWithheld : Nat := 4
def causeStraggler : Nat := 5
def causeContrib : Nat := 6
def causeSde : Nat := 7
def causeSegment : Nat := 8
def causeFormat : Nat := 9
def causeMemory : Nat := 10
def causeActSpecial : Nat := 11
def causeSelfCheck : Nat := 12
def causeConservation : Nat := 13
def causePartition : Nat := 14
def causeRankTable : Nat := 15
def causeRankState : Nat := 16
def causeCkpCommitted : Nat := 17
def causeCkpFailed : Nat := 18
def causeCkpExposed : Nat := 19
def causeReadback : Nat := 20
def causeRepair : Nat := 21
def causeReplace : Nat := 22
def causeRepairMap : Nat := 23
def causeMarginLost : Nat := 24
def causeHealth : Nat := 25
def causeConfigCrc : Nat := 26
def causeLateLaunch : Nat := 27
def causeSpindle : Nat := 30
def causeLink : Nat := 31

/-! ### Registers computed from other state -/

def b2w (b : Bool) (n : Nat) : Nat := b2n b * 2 ^ n

/-- LGX_EVT_STATUS: causes 1 and 2 follow their summaries (R396). -/
def State.evtStatus (s : State) : Nat :=
  let v := (s.rd rEvtStatus).toNat
  let v := v - v / 2 % 2 * 2 - v / 4 % 2 * 4
  v + b2w (decide (s.rd rEvtQdone ≠ 0)) 1 + b2w (decide (s.rd rEvtQerr ≠ 0)) 2

/-- The line of a cause (R400). -/
def State.lineOf (s : State) (cause : Nat) : Nat :=
  if cause < 16 then s.fld rEvtRoute0 (4 * cause) 3 else s.fld rEvtRoute1 (4 * (cause - 16)) 3

/-- Interrupt line n is asserted (R397, spec/01_engine_and_step.md R46). -/
def State.line (s : State) (n : Nat) : Bool :=
  (List.range 32).any (fun c => bitAt s.evtStatus c && bitAt (s.rd rEvtEnable).toNat c && s.lineOf c == n)

/-- LGX_ID (spec/14_registers.md R418). -/
def State.idView (s : State) : Nat := 0x4C47 + s.stepMajor % 16 * 2 ^ 16 + s.stepMinor % 16 * 2 ^ 20

/-- LGX_CAP0 (R418). -/
def State.cap0View (s : State) : Nat :=
  let c := decide (s.grade = .c)
  (match s.grade with | .a => 1 | .b => 2 | .c => 3) + b2w s.hasCarding 4 + b2w s.hasCarding 5
    + (if c then 128 else 256) * 2 ^ 6 + (if c then 512 else 1024) * 2 ^ 15 + s.kMax * 2 ^ 26
    + s.laneCount * 2 ^ 33 + 16 * 2 ^ 46 + 64 * 2 ^ 51

def cap1View : Nat := 256 + 4 * 2 ^ 9 + 8 * 2 ^ 12 + 8191 * 2 ^ 16

def State.cap2View (s : State) : Nat := 64 + 2 * 2 ^ 8 + (if s.hasCarding then 8 else 0) * 2 ^ 16 + 4 * 2 ^ 24

/-- A staged value of the class exists. -/
def State.hasStaged (s : State) (p : Nat → Bool) : Bool := s.staged.any (fun e => p e.1)

def State.applyView (s : State) : Nat :=
  s.stepCur % 2 ^ 48 + b2w (s.hasStaged (fun k => decide (classOf k = .step))) 48
    + b2w (s.hasStaged (fun k => decide (classOf k = .descriptor))) 49
    + b2w (s.hasStaged (fun k => decide (classOf k = .packet))) 50 + b2w s.stepPrev.isSome 51

def State.applyPortsView (s : State) : Nat :=
  ((List.range 17).map (fun p =>
    b2w (s.hasStaged (fun k => decide (classOf k = .packet) && packetBlock k == p)) p)).sum

def State.applyQueuesView (s : State) : Nat :=
  ((List.range 64).map (fun q =>
    b2w (s.hasStaged (fun k => decide (classOf k = .descriptor) && queueOf k == q)) q)).sum

/-- The register that LGX_STAGED_ADDR names: the one that begins at the offset (R408). An offset that a route entry shares with
a rank-translation entry names the latter while it is staged, since a route entry never is (DESIGN CHOICE, log 126). -/
def State.viewed (s : State) : Option Nat :=
  let o := 4 * s.fld rStagedAddr 2 20
  let rank := rRank ((o - 0x100000) / 8)
  if 0x100000 ≤ o ∧ o < 0x180000 ∧ o % 8 = 0 ∧ (0x120000 ≤ o ∨ s.hasStaged (fun x => x == rank) = true) then some rank
  else if (rowAt o).isSome ∧ regBase o = o then some o else none

/-- The staged value of a register, or the applied one where nothing is staged. -/
def State.stagedValue (s : State) (k : Nat) : Word :=
  let e := smGet (fun _ => ((0, 0) : Word × Word)) s.staged k
  (s.rd k &&& ~~~e.2) ||| (e.1 &&& e.2)

def State.stagedInfoView (s : State) : Nat :=
  match s.viewed with
  | none => 0
  | some k => b2w (s.hasStaged (fun x => x == k)) 0 + b2w (decide (classOf k ≠ .none)) 1

/-- LGX_CTL_INPUTS (R400): the levels, the state and the target over the LOST counter. -/
def State.ctlView (s : State) : Nat :=
  let st := match s.ctl.st with | .running => 0 | .quiescing => 1 | .quiesced => 2 | .waking => 3
  s.fld rCtlInputs 8 8 * 256 + b2w s.ctl.quiesceReq 0 + b2w s.ctl.wakeReq 1 + st * 4 + b2w s.ctl.toQuiesce 4

def qStCode (q : QSt) : Nat :=
  match q with
  | .disabled => 0
  | .running => 1
  | .draining => 2
  | .error => 3

/-- The next descriptor of a queue that has not started (spec/13_control.md R383). -/
def State.nextDesc (s : State) (q : Nat) : Option Fetched := (s.queue q).fetched.head?

/-- The wait of a descriptor is met (R383). -/
def State.waitMet (s : State) (d : List Byte) : Bool := !dWaitEn d || decide (dWaitValue d ≤ (s.rd (rEvc (dWaitCtr d))).toNat)

/-- The queue's next descriptor waits on its counter. -/
def State.waits (s : State) (q : Nat) : Bool :=
  match s.nextDesc q with
  | none => false
  | some f => f.fail.isNone && !s.waitMet f.desc

/-- LGX_Q_STATE_q (R400): the live fields over the counters. -/
def State.qStateView (s : State) (q : Nat) : Nat :=
  let v := (s.rd (rQState q)).toNat
  let x := s.queue q
  v / 256 * 256 + qStCode x.st + b2w x.enPend 2 + b2w (s.waits q) 3 + min 8 (s.inFlight q) * 16

def linkCode (l : Link) : Nat :=
  match l with
  | .down => 0
  | .start => 1
  | .up => 2
  | .resync => 3

def popcount (n : Nat) : Nat → Nat
  | 0 => 0
  | k + 1 => b2n (bitAt n k) + popcount n k

/-- LGX_PORT_STATE (spec/09_fabric.md R287). -/
def State.portStateView (s : State) (p : Nat) : Nat :=
  let x := s.port p
  linkCode x.link + x.active % 512 * 4 + x.retired % 512 * 2 ^ 11 + popcount x.active 9 * 2 ^ 20

/-- Buffer size of a virtual channel in flits (spec/09_fabric.md R272). -/
def vcSize (vc : Nat) : Nat :=
  match vc with
  | 0 => 512
  | 1 => 48
  | 2 => 48
  | _ => 32

/-- Credits a port's transmit side holds on a VC (spec/09_fabric.md R272). -/
def Port.credit (x : Port) (vc : Nat) : Nat :=
  vcSize vc - (x.tx.getD vc 0 + 65536 - x.ret.getD vc 0) % 65536

def State.portCreditView (s : State) (p : Nat) : Nat :=
  let x := s.port p
  x.credit 0 + x.credit 1 * 2 ^ 16 + x.credit 2 * 2 ^ 32 + x.credit 3 * 2 ^ 48

/-- LGX_ESP_PROG_VALID (spec/07_espalier.md R212): valid slots, and slots with a pending load. -/
def State.progView (s : State) : Nat :=
  ((List.range 16).map (fun n =>
    b2w (s.progs.getD n none).isSome n + b2w (s.pends.any (fun p => p.slot == some n)) (16 + n))).sum

/-- What a read of a register but LGX_STAGED_DATA returns (spec/00_scope.md R14, R16): write-only fields read 0, a register of
an absent unit reads 0 (spec/14_registers.md R402). -/
def State.applied (s : State) (k : Nat) : Word :=
  if s.absentReg k then 0
  else if k = rId then BitVec.ofNat 64 s.idView
  else if k = rCap0 then BitVec.ofNat 64 s.cap0View
  else if k = rCap1 then BitVec.ofNat 64 cap1View
  else if k = rCap2 then BitVec.ofNat 64 s.cap2View
  else if k = rApply then BitVec.ofNat 64 s.applyView
  else if k = rApplyPorts then BitVec.ofNat 64 s.applyPortsView
  else if k = rApplyQueues then BitVec.ofNat 64 s.applyQueuesView
  else if k = rStagedInfo then BitVec.ofNat 64 s.stagedInfoView
  else if k = rEvtStatus then BitVec.ofNat 64 s.evtStatus
  else if k = rReplayId then (if s.replayStale then s.rd k &&& 0xFFFFFFFF#64 else s.rd k)
  else if k = rCtlInputs then BitVec.ofNat 64 s.ctlView
  else if k = rEspProgValid then BitVec.ofNat 64 s.progView
  else if 0x020000 ≤ k ∧ k < 0x021000 ∧ k % 0x40 = 0x14 then BitVec.ofNat 64 (s.qStateView (queueOf k))
  else if 0x080000 ≤ k ∧ k < 0x090000 ∧ k % 0x1000 = 0 then BitVec.ofNat 64 (s.portStateView (packetBlock k))
  else if 0x080000 ≤ k ∧ k < 0x090000 ∧ k % 0x1000 = 0x10 then BitVec.ofNat 64 (s.portCreditView (packetBlock k))
  else
    match rowAt k with
    | none => s.rd k
    | some r => s.rd k &&& ~~~(r.maskOf (fun f => decide (f.acc = .wo)))

/-- LGX_STAGED_DATA (R408): the staged value of a register, or where nothing is staged what a read of it returns. -/
def State.stagedView (s : State) (k : Nat) : Word :=
  let e := smGet (fun _ => ((0, 0) : Word × Word)) s.staged k
  (s.applied k &&& ~~~e.2) ||| (e.1 &&& e.2)

/-- What a read of the register at an offset returns (spec/00_scope.md R16). -/
def State.view (s : State) (k : Nat) : Word :=
  if k = rStagedData then (match s.viewed with | some x => s.stagedView x | none => 0) else s.applied k

end Sys2Proof.Machine
end

