-- ==== Sys2Proof/Machine/Packet.lean ====
section
/-! DEFINITION. Packet headers on the wire, rank translation, sequence windows, the sending and acceptance of chunks
(spec/09_fabric.md R259 to R286). -/

namespace Sys2Proof.Machine

/-! ### Headers (spec/09_fabric.md R260 to R264) -/

/-- The smallest of a list and d. -/
def minList (d : Nat) (l : List Nat) : Nat := l.foldl min d

/-- Bytes 0 to 59 of a header with its link fields. -/
def hdrBody (h : Hdr) (free : List Nat) (rsync : Bool) : List Byte :=
  let f := h.vc + 4 * h.epoch + 16 * h.route + 64 * b2n h.fence + 128 * b2n h.mcast
  let fr := free.flatMap (fun x => toLE x 2)
  toLE 0x5A 1 ++ toLE h.kind 1 ++ toLE f 1 ++ toLE (complB 1 f) 1 ++ toLE (h.len + 8192 * b2n h.resend) 2
    ++ toLE h.src 2 ++ toLE h.dst 2 ++ toLE h.phys 3 ++ toLE (h.via + 8 * b2n h.viaValid + 16 * b2n h.rowDir) 1
    ++ toLE h.mask 1 ++ toLE h.pkt 1 ++ toLE h.pkts 1 ++ toLE (1 + 2 * b2n rsync + 4 * h.rep) 1
    ++ toLE (h.job + 4096 * h.ring) 2 ++ toLE h.seq 4 ++ toLE h.offset 6 ++ toLE h.hop 2 ++ toLE h.contrib 4
    ++ toLE h.check 8 ++ fr ++ toLE (complB 8 (leNat fr)) 8

/-- A header's 64 bytes (R262). -/
def hdrBytes (h : Hdr) (free : List Nat) (rsync : Bool) : List Byte :=
  let b := hdrBody h free rsync
  b ++ toLE (crc32c b).toNat 4

/-- The payload of an AUDIT packet: the TX values and their complement (R273). -/
def auditBytes (tx : List Nat) : List Byte :=
  let t := tx.flatMap (fun x => toLE x 2)
  t ++ toLE (complB 8 (leNat t)) 8

/-- The header of an AUDIT packet: link-local, on VC3, a chunk of one packet, so that CHECK covers its payload (R262, R263,
R265). ROUTE, EPOCH and SRC_RANK, which nothing reads of it, are 0 (DESIGN CHOICE, log 117). -/
def auditHdr (tx : List Nat) : Hdr :=
  { kind := 0x18, vc := 3, epoch := 0, route := 0, fence := false, mcast := false, len := 16, resend := false, src := 0
    dst := 0, phys := 0, via := 0, viaValid := false, rowDir := false, mask := 0, pkt := 0, pkts := 1, rep := 0, job := 0
    ring := 0, seq := 0, offset := 0, hop := 0, contrib := 0, check := (crc64 (auditBytes tx)).toNat }

/-- What a unit is on the link (R259 to R261, R273). -/
def LinkUnit.wire (u : LinkUnit) : List Byte :=
  match u with
  | .packet p free rsync => hdrBytes p.hdr free rsync ++ sliceB p.payload 0 (upTo 64 p.payload.length)
  | .credit free rsync =>
    let fr := free.flatMap (fun x => toLE x 2)
    let b := sliceB (toLE 0xC5 1 ++ toLE (b2n rsync) 1 ++ fr ++ toLE (complB 8 (leNat fr)) 8) 0 252
    b ++ toLE (crc32c b).toNat 4
  | .sync => (List.range 256).map (fun i => if i % 2 = 0 then 0x3C#8 else 0xC3#8)
  | .audit tx free rsync => hdrBytes (auditHdr tx) free rsync ++ sliceB (auditBytes tx) 0 64

/-- The VC a kind travels on and whether it may be multicast; none for a reserved kind (R263). -/
def kindRule (k : Nat) : Option (Nat × Bool) :=
  if k = 6 then some (0, true) else if 1 ≤ k ∧ k ≤ 8 then some (0, false)
  else if k = 0x11 then some (1, true) else if 0x10 ≤ k ∧ k ≤ 0x14 then some (1, false)
  else if k = 0x18 ∨ k = 0x20 ∨ k = 0x21 then some (3, false) else none

/-- Chunks of a kind use the sequence windows (R263, R281). -/
def windowed (h : Hdr) : Bool := !h.mcast && h.kind != 0x10 && h.kind != 0x18

/-- The header fields of 64 bytes. -/
def parseHdr (b : List Byte) : Hdr :=
  let f := byteAt b 2
  let l := leAt b 4 2
  let v := byteAt b 13
  let j := leAt b 18 2
  { kind := byteAt b 1, vc := f % 4, epoch := f / 4 % 4, route := f / 16 % 4, fence := bitAt f 6, mcast := bitAt f 7
    len := l % 8192, resend := bitAt l 13, src := leAt b 6 2, dst := leAt b 8 2, phys := leAt b 10 3 % 2 ^ 20
    via := v % 8, viaValid := bitAt v 3, rowDir := bitAt v 4, mask := byteAt b 14, pkt := byteAt b 15
    pkts := byteAt b 16, rep := byteAt b 17 / 4 % 16, job := j % 4096, ring := j / 4096, seq := leAt b 20 4
    offset := leAt b 24 6, hop := leAt b 30 2 % 8192, contrib := leAt b 32 4, check := leAt b 36 8 }

/-- The header is valid (R264). A VC0 packet that Routers moved to escape carries VC 2 (R277). -/
def hdrOk (b : List Byte) : Bool :=
  let h := parseHdr b
  decide (b.length = 64) && decide (byteAt b 0 = 0x5A) && decide (leAt b 60 4 = (crc32c (b.take 60)).toNat)
    && decide (byteAt b 3 = complB 1 (byteAt b 2))
    && decide (leAt b 52 8 = complB 8 (leAt b 44 8))
    && decide (leAt b 4 2 / 16384 = 0) && decide (byteAt b 12 / 16 = 0) && decide (byteAt b 13 / 32 = 0)
    && decide (byteAt b 17 / 64 = 0) && decide (leAt b 30 2 / 8192 = 0)
    && (match kindRule h.kind with
        | none => false
        | some (vc, mc) => (h.vc == vc || (vc == 0 && h.vc == 2)) && (mc || !h.mcast))
    && decide (h.len % 4 = 0) && decide (h.len ≤ 4096) && decide (h.pkt < h.pkts)

/-- Flits a packet is charged (R272). -/
def charge (len : Nat) : Nat := cdiv (64 + len) 256

/-! ### Rank translation (R282) -/

/-- What an entry of the rank-translation table says. -/
inductive Xlat where
  | ok (phys : Nat)
  | invalid
  | bad
deriving DecidableEq, Repr

def State.xlat (s : State) (rank : Nat) : Xlat :=
  let v := (s.rd (rRank rank)).toNat
  let lo := v % 2 ^ 32
  if v / 2 ^ 32 ≠ complB 4 lo ∨ lo / 2 ^ 21 ≠ 0 then .bad
  else if bitAt lo 20 then .ok (lo % 2 ^ 20) else .invalid

/-- This chip's physical address, Hedge number and position (R256). -/
def State.selfPhys (s : State) : Nat := s.fld rFabSelf 0 20
def State.selfHedge (s : State) : Nat := s.selfPhys / 8
def State.selfPos (s : State) : Nat := s.selfPhys % 8

/-- Hedges in the Row rings, and the dateline, of an epoch's bank (R283, R287). -/
def State.rowN (s : State) (epoch : Nat) : Nat := s.fld (rFabRow (epoch % 2)) 0 15 + 1
def State.dateline (s : State) (epoch : Nat) : Nat := min (s.fld (rFabRow (epoch % 2)) 15 15) (s.rowN epoch - 1)

def State.epoch (s : State) : Nat := s.fld rFabEpoch 0 2
def State.draining (s : State) : Bool := s.fld rFabEpoch 2 1 == 1

/-- A packet of epoch e was originated here (R284). -/
def State.countInj (s : State) (e n : Nat) : State :=
  if e = s.epoch then { s with epochInj := s.epochInj + n }
  else if s.draining ∧ e = (s.epoch + 3) % 4 then s.addF rFabEpochInj 0 64 n else s

/-- A packet of epoch e was delivered or discarded here (R284). -/
def State.countEj (s : State) (e n : Nat) : State :=
  if e = s.epoch then { s with epochEj := s.epochEj + n }
  else if s.draining ∧ e = (s.epoch + 3) % 4 then s.addF rFabEpochEj 0 64 n else s

/-! ### Route epochs (R276, R283, R284) -/

/-- The epoch advances (R284): the old one drains with its counts. -/
def State.advanceEpoch (s : State) : State :=
  let s := (s.wr rFabEpochInj (BitVec.ofNat 64 s.epochInj)).wr rFabEpochEj (BitVec.ofNat 64 s.epochEj)
  let s := ((s.setFld rFabEpoch 0 2 ((s.epoch + 1) % 4)).setFld rFabEpoch 2 1 1).setFld rFabEpoch 3 1 0
  { s with epochInj := 0, epochEj := 0, epochAt := s.now }

/-- Entries of the route table of a bank that are not at their reset value. -/
def State.routeRows (s : State) (b : Nat) : List (Nat × Word) :=
  s.regs.filter (fun e => decide (rFabRoute b 0 ≤ e.1) && decide (e.1 ≤ rFabRoute b 65535))

/-- Spindle firmware puts the current routes with dateline d into the free bank and advances the epoch (R276, R284). -/
def State.setDateline (s : State) (d : Nat) : State :=
  let b := s.epoch % 2
  let o := 1 - b
  let rows := s.routeRows b
  let s := (s.routeRows o).foldl (fun s e => s.wr e.1 (regReset e.1)) s
  let s := rows.foldl (fun s e => s.wr (e.1 - rFabRoute b 0 + rFabRoute o 0) e.2) s
  let s := (s.wr (rFabRow o) (s.rd (rFabRow b))).setFld (rFabRow o) 15 15 d
  { s.advanceEpoch with dateWait := none }

/-- A Row link of this position is DOWN: the dateline moves to the Hedge from whose P14 it leaves, in a new epoch, at once or
when the draining epoch is retired (R276, spec/12_resilience.md R357). It needs Spindle firmware; with the dateline there
already nothing changes (DEDUCED, log 87). -/
def State.moveDateline (s : State) (p : Nat) : State :=
  let n := s.rowN s.epoch
  let d := if p = 14 then s.selfHedge else (s.selfHedge + n - 1) % n
  if !s.firmware || s.dateline s.epoch = d then s
  else if s.draining then { s with dateWait := some d } else s.setDateline d

/-! ### Sequence windows (R267) -/

def State.winAt (s : State) (rank : Nat) : Nat := (s.rd rFabWinBase).toNat / 64 * 64 + 64 * rank
def State.winBase (s : State) (rank : Nat) : Nat := s.readNat (s.winAt rank) 4
def State.winSeen (s : State) (rank : Nat) : Nat := s.readNat (s.winAt rank + 4) 32
def State.txNext (s : State) (rank : Nat) : Nat := s.readNat (s.winAt rank + 36) 4
def State.txOldest (s : State) (rank : Nat) : Nat := s.readNat (s.winAt rank + 40) 4

/-- (SEQ − BASE) mod 2^32 (R268). -/
def State.winDelta (s : State) (rank seq : Nat) : Nat := (seq + 2 ^ 32 - s.winBase rank) % 2 ^ 32

/-- A duplicate under R268. -/
def State.isDuplicate (s : State) (rank seq : Nat) : Bool :=
  let d := s.winDelta rank seq
  decide (2 ^ 31 ≤ d) || (decide (d < 256) && bitAt (s.winSeen rank) d)

/-- Number of leading set bits from bit 0. -/
def leadingOnes (v : Nat) : Nat → Nat
  | 0 => 0
  | n + 1 => if v % 2 = 1 then leadingOnes (v / 2) n + 1 else 0

/-- Set the SEEN bit of a SEQ and advance BASE over every leading set bit (R268). -/
def State.markSeen (s : State) (rank seq : Nat) : State :=
  let d := s.winDelta rank seq
  let seen := s.winSeen rank
  let seen := if bitAt seen d then seen else seen + 2 ^ d
  let k := leadingOnes seen 256
  let a := s.winAt rank
  (s.writeNat a 4 ((s.winBase rank + k) % 2 ^ 32)).writeNat (a + 4) 32 (seen / 2 ^ k)

/-! ### Sending (R241 to R243, R267, R275, R278, R282, R432) -/

/-- End-to-end windows apply to VC0 and VC1 now (R275). -/
def State.windowsOn (s : State) : Bool := s.fld rFabCfg 1 1 == 1 || decide (s.now < s.holdUntil)

def OutChunk.dst (c : OutChunk) : Nat := match c.pkts with | p :: _ => p.hdr.dst | [] => 0
def OutChunk.mc (c : OutChunk) : Bool := match c.pkts with | p :: _ => p.hdr.mcast | [] => false
def OutChunk.vc (c : OutChunk) : Nat := match c.pkts with | p :: _ => p.hdr.vc | [] => 0
def OutChunk.kind (c : OutChunk) : Nat := match c.pkts with | p :: _ => p.hdr.kind | [] => 0

/-- Packets outstanding to a rank (R275). -/
def State.outstanding (s : State) (rank : Nat) : Nat :=
  ((s.outbox.filter (fun c => c.seq.isSome && !c.mc && c.dst == rank)).map (fun c => c.pkts.length)).sum

/-- A new chunk to a rank may be sent now (R267, R275). -/
def State.maySend (s : State) (c : OutChunk) : Bool :=
  let room := (s.txNext c.dst + 2 ^ 32 - s.txOldest c.dst) % 2 ^ 32 ≠ 256
  let n := s.outstanding c.dst
  c.mc || (decide room && (!(s.windowsOn || c.vc == 3) || n == 0 || decide (n + c.pkts.length ≤ s.fld rFabCfg 2 6)))

/-- The physical address a port is cabled to (R220, R257). -/
def State.cabledTo (s : State) (p : Nat) : Nat :=
  let n := s.rowN s.epoch
  if p < 14 then s.selfHedge * 8 + (s.selfPos + p / 2 + 1) % 8
  else if p = 14 then (s.selfHedge + 1) % n * 8 + s.selfPos
  else (s.selfHedge + n - 1) % n * 8 + s.selfPos

/-- A port is UP or resynchronising. -/
def State.isUp (s : State) (p : Nat) : Bool := decide ((s.port p).link = .up ∨ (s.port p).link = .resync)

/-- A port that a Spray choice may take (R278, R287). -/
def State.sprayUp (s : State) (p : Nat) : Bool := s.isUp p && s.fld (rPortCtl p) 1 1 == 0

/-- The link to Hedge peer position o that a VC0 packet takes: of the two that are up (and, for Spray, not excluded) the one
with more VC0 credits, ties to link 0 (R278). -/
def State.hedgeLink (s : State) (o : Nat) (spray : Bool) : Option Nat :=
  let ok (l : Nat) : Bool :=
    let p := peerPort s.selfPos o l
    if spray then s.sprayUp p else s.isUp p
  let p0 := peerPort s.selfPos o 0
  let p1 := peerPort s.selfPos o 1
  if ok 0 && ok 1 then some (if (s.port p0).credit 0 < (s.port p1).credit 0 then p1 else p0)
  else if ok 0 then some p0 else if ok 1 then some p1 else none

/-- The position that a same-Hedge packet makes a detour by: with LGX_FAB_CFG.DETOUR set and no link to o2 that a Spray choice
may take, the first position that has one (R278 says may; DESIGN CHOICE, log 35). -/
def State.detourBy (s : State) (o2 : Nat) : Option Nat :=
  if s.fld rFabCfg 16 1 = 0 ∨ (s.hedgeLink o2 true).isSome then none
  else (List.range 8).find? (fun v => v != s.selfPos && v != o2 && (s.hedgeLink v true).isSome)

/-- The Spray fields of a packet this chip originates for an address (R278, R432), with the rotation they leave. A Row that
begins here takes the other direction when only the port of the chosen one is out of the Spray choices (R287; DESIGN CHOICE,
log 35). -/
def State.sprayFields (s : State) (h : Hdr) : Hdr × State :=
  let w2 := h.phys / 8
  if w2 = s.selfHedge then
    match if h.phys % 8 = s.selfPos then none else s.detourBy (h.phys % 8) with
    | some v => ({ h with via := v, viaValid := true, rowDir := false }, s)
    | none => ({ h with via := 0, viaValid := false, rowDir := false }, s)
  else
    let n := s.rowN h.epoch
    let mask := s.fld rFabCfg 8 8
    let via := (((List.range 8).map (fun k => (s.viaNext + k) % 8)).find? (fun v => bitAt mask v)).getD s.selfPos
    let fwd := (w2 + n - s.selfHedge) % n
    let even := 2 * fwd = n
    let dir := if even then s.rowAlt else decide (n < 2 * fwd)
    let dir := if via = s.selfPos && !s.sprayUp (14 + b2n dir) && s.sprayUp (14 + b2n (!dir)) then !dir else dir
    ({ h with via := via, viaValid := true, rowDir := dir },
     { s with viaNext := if mask = 0 then s.viaNext else (via + 1) % 8
              rowAlt := if even then !s.rowAlt else s.rowAlt })

/-- The ROUTE of an originated packet whose ring schedule names a port or none (R222, R279, R280, R432). -/
def State.routeFor (s : State) (h : Hdr) (pinned : Option Nat) : Hdr × Option Nat × State :=
  if h.vc ≠ 0 then ({ h with route := 3 }, none, s)
  else
    match pinned with
    | some p =>
      if s.cabledTo p = h.phys then ({ h with route := 2 }, some p, s)
      else
        let (h, s) := s.sprayFields { h with route := 0 }
        (h, none, s)
    | none =>
      if s.fld rFabCfg 0 1 = 1 then ({ h with route := 1 }, none, s)
      else
        let (h, s) := s.sprayFields { h with route := 0 }
        (h, none, s)

/-- Put one packet of a translated chunk into the Router. -/
def State.putPkt (s : State) (phys : Nat) (pinned : Option Nat) (resend : Bool) (p : Pkt) : State :=
  let (h, pin, s) := s.routeFor { p.hdr with phys := phys, epoch := s.epoch, resend := resend } pinned
  let s := s.countInj s.epoch 1
  { s with txq := s.txq ++ [{ pkt := { p with hdr := h }, inPort := none, heldVc := h.vc, pinned := pin, since := s.now }] }

/-- The replicas of a multicast this chip originates, one for each other position of its mask: the source is in the entry
chip's Hedge, so it is the entry chip (R281). -/
def State.putMc (s : State) (resend : Bool) (p : Pkt) : State :=
  (List.range 8).foldl (fun s o =>
    if bitAt p.hdr.mask o && o != s.selfPos then
      let h := { p.hdr with phys := s.selfPhys, epoch := s.epoch, resend := resend, mask := 2 ^ o
                            route := if p.hdr.vc = 0 then s.fld rFabCfg 0 1 else 3 }
      let s := s.countInj s.epoch 1
      { s with txq := s.txq ++ [{ pkt := { p with hdr := h }, inPort := none, heldVc := h.vc, pinned := none, since := s.now }] }
    else s) s

/-- A command fails: the first status it meets stands (spec/13_control.md R394). -/
def State.failCmd (s : State) (q i st detail : Nat) : State :=
  match s.cmd? q i with
  | none => s
  | some c => if c.status.isSome then s else s.putCmd { c with status := some (st, detail) }

/-- This chip's rank for DETAIL: 0xFFFF when no job is open (spec/13_control.md R395). -/
def State.ownRank (s : State) : Nat := if s.job.isOpen then s.job.rank else 0xFFFF

/-- A read of a running command returned the uncorrectable-error flag (spec/01_engine_and_step.md R39, spec/07_espalier.md R204,
spec/08_collectives.md R244): a read that the guard covers sets DATA_ERR, one of a gather phase makes the vote bad, any other
fails the command. A command that acted at once and has not completed fails too (DEDUCED, log 105). -/
def State.readFailed (s : State) (c : Cmd) (kind : ReadKind) : State :=
  let c' := { c with upd := { c.upd with reasons := if kind = .other then c.upd.reasons else c.upd.reasons ||| 8 } }
  if c.type == 0x12 && !c.upd.computed && (kind == .ownedState || kind == .stepScalars || kind == .landingSlot)
  then s.putCmd { c' with readError := true }
  else if c.gat.rowStarted then s.putCmd { c with readError := true }
  else if decide (0x20 ≤ c.type) && c.status == some (stOk, 0) then s.putCmd { c with status := some (stData, s.ownRank) }
  else (if c.type = 0x12 ∧ c.upd.computed = false then s.putCmd c' else s).failCmd c.q c.i stData s.ownRank

/-- A read made for a running command meets a unit that returns the flag: its data is not used (R39). -/
def State.memError (s : State) (q i : Nat) (kind : ReadKind) : State :=
  let s := s.raise causeMemory
  match s.cmd? q i with
  | none => s
  | some c => s.readFailed c kind

/-- Send or resend a chunk's packets (R242, R282): an entry that is not VALID makes the chunk wait to its next timeout; a
mismatched one raises the rank-table error event and fails the command. -/
def State.launch (s : State) (c : OutChunk) (pinned : Option Nat) (resend : Bool) : State :=
  if c.mc then c.pkts.foldl (fun s p => s.putMc resend p) s
  else
    match s.xlat c.dst with
    | .ok phys => c.pkts.foldl (fun s p => s.putPkt phys pinned resend p) s
    | .invalid => s
    | .bad =>
      let s := s.raise causeRankTable
      match c.owner with
      | none => s
      | some (q, i) => s.failCmd q i stData s.ownRank

/-- Give the next chunk that may be sent its sequence number and send it; `blocked` are the ranks whose earlier chunk waits. -/
def State.pumpList (s : State) (blocked : List Nat) : List OutChunk → State
  | [] => s
  | c :: t =>
    if c.seq.isSome then s.pumpList blocked t
    else if blocked.contains c.dst && !c.mc then s.pumpList blocked t
    else if !s.maySend c then s.pumpList (c.dst :: blocked) t
    else
      let seq := if c.mc then s.mcastSeq else s.txNext c.dst
      let pkts : List Pkt := c.pkts.map (fun p => { p with hdr := { p.hdr with seq := seq } })
      let c' := { c with seq := some seq, pkts := pkts, sentAt := s.now }
      let i := s.outbox.idxOf c
      let s := { s with outbox := s.outbox.set i c' }
      let s := if c.mc then { s with mcastSeq := (seq + 1) % 2 ^ 32 }
               else s.writeNat (s.winAt c.dst + 36) 4 ((seq + 1) % 2 ^ 32)
      (s.launch c' (if c.port < 16 then some c.port else none) false).pumpList blocked t

def State.pump (s : State) : State := s.pumpList [] s.outbox

/-- One packet of a chunk to be: what the originator sets beside the addresses. -/
structure Draft where
  offset : Nat
  hop : Nat
  contrib : Nat
  payload : List Byte
  /-- The memory its payload was copied from (R237, R243). -/
  mem : List (Nat × Nat) := []
deriving DecidableEq, Repr

/-- The packets of a chunk (R241, R262, R265). -/
def mkPkts (kind dst src job ring rep mask : Nat) (mcast fence : Bool) (ds : List Draft) : List Pkt :=
  let n := ds.length
  let chk := (crc64 (ds.flatMap (·.payload))).toNat
  let vc := match kindRule kind with | some (v, _) => v | none => 0
  ds.zipIdx.map (fun (d, i) =>
    { hdr := { kind := kind, vc := vc, epoch := 0, route := 0, fence := fence, mcast := mcast, len := d.payload.length
               resend := false, src := src, dst := dst, phys := 0, via := 0, viaValid := false, rowDir := false
               mask := mask, pkt := i, pkts := n, rep := rep, job := job, ring := ring, seq := 0, offset := d.offset
               hop := d.hop, contrib := d.contrib, check := if i + 1 = n then chk else 0 }
      payload := d.payload })

/-- Originate a chunk: retained, then sent when the window allows. `port` 16 stands for no ring port, `mem` is what each packet
was copied from, `near` the members of a multicast. -/
def State.emit (s : State) (owner : Option (Nat × Nat)) (copy : Bool) (port : Nat) (pkts : List Pkt)
    (mem : List (List (Nat × Nat)) := []) (near : List (Nat × Nat) := []) : State :=
  if pkts.isEmpty then s else
  let c : OutChunk :=
    { pkts := pkts, seq := none, owner := owner, copy := copy, retained := true, port := port, keptAt := 16
      sentAt := 0, mem := mem, near := near }
  State.pump { s with outbox := s.outbox ++ [c] }

/-- Cut a list of packets into chunks of at most 64 KiB and 255 packets (R241). -/
def cutChunks : List Draft → List Draft → Nat → List (List Draft)
  | [], cur, _ => if cur.isEmpty then [] else [cur]
  | d :: t, cur, n =>
    if cur.isEmpty || (decide (n + d.payload.length ≤ 65536) && decide (cur.length < 255))
    then cutChunks t (cur ++ [d]) (n + d.payload.length)
    else cur :: cutChunks t [d] d.payload.length

/-- Cut a byte stream into packets of at most 4,096 bytes, from an offset. -/
def cutBytes (off : Nat) : Nat → List Byte → List Draft
  | 0, _ => []
  | n + 1, b =>
    if b.isEmpty then [] else
    { offset := off, hop := 0, contrib := 0, payload := b.take 4096 } :: cutBytes (off + 4096) n (b.drop 4096)

/-- The drafts of n bytes copied from an address, with the memory each was copied from: the padding beyond is none of it. -/
def copiedFrom (addr off n : Nat) (ds : List Draft) : List Draft :=
  ds.map (fun d => { d with mem := [(addr + (d.offset - off), min d.payload.length (n - (d.offset - off)))] })

/-- Packets of a byte stream. -/
def byteDrafts (off : Nat) (b : List Byte) : List Draft := cutBytes off (b.length / 4096 + 1) b

/-! ### Acceptance (R268, R270, R180) -/

def Held.hdr (h : Held) : Hdr :=
  match h.pkts with
  | p :: _ => p.hdr
  | [] => parseHdr []

def Held.payload (h : Held) : List Byte := h.pkts.flatMap (·.payload)

/-- A complete chunk of a kind from a source that no consumer has taken. -/
def State.heldChunk (s : State) (kind src seq : Nat) (mc : Bool) : Option Held :=
  s.held.find? (fun h => h.hdr.kind == kind && h.hdr.src == src && h.hdr.seq == seq && h.hdr.mcast == mc)

/-- A chunk may be passed to its consumer: within the window, and with FENCE only when every chunk before it has been
accepted (R268, R270). -/
def State.passable (s : State) (h : Held) : Bool :=
  !windowed h.hdr || (decide (s.winDelta h.hdr.src h.hdr.seq < 256)
    && (!h.hdr.fence || decide (s.winBase h.hdr.src = h.hdr.seq)))

/-- The consumer takes one chunk: its SEEN bit is set, it leaves the reorder buffer, and its acknowledgement is due (R268). -/
def State.acceptOne (s : State) (h : Held) : State :=
  let s := { s with held := s.held.filter (fun x => decide (x ≠ h)) }
  let s := if windowed h.hdr then s.markSeen h.hdr.src h.hdr.seq else s
  if h.hdr.kind = 0x10 then s
  else { s with ackDue := s.ackDue ++ [{ src := h.hdr.src, seq := h.hdr.seq, mc := h.hdr.mcast }] }

/-- Firmware messages of a rank that became passable are taken by Spindle at once, the lowest SEQ first; `n` is how many may
be (R268). -/
def State.acceptMgmt (s : State) (src : Nat) : Nat → State
  | 0 => s
  | n + 1 =>
    match s.held.find? (fun h => h.hdr.kind == 0x20 && h.hdr.src == src && s.passable h
        && s.winDelta src h.hdr.seq == minList (2 ^ 32) ((s.held.filter (fun x => x.hdr.kind == 0x20 && x.hdr.src == src)).map
            (fun x => s.winDelta src x.hdr.seq))) with
    | none => s
    | some h => (s.acceptOne h).acceptMgmt src n

/-- The consumer takes a chunk, and the firmware messages that waited for BASE to advance are tested again (R268). -/
def State.accept (s : State) (h : Held) : State := (s.acceptOne h).acceptMgmt h.hdr.src (s.held.length)

/-- A chunk of a rank has been accepted for, or acknowledged to, a command: its watchdog restarts
(spec/08_collectives.md R248). -/
def State.progress (s : State) (q i rank : Nat) (fromPeer : Bool) : State :=
  match s.cmd? q i with
  | none => s
  | some c => s.putCmd { c with watchAt := s.now
                                lastFrom := if fromPeer then smSet (fun _ => 0) c.lastFrom rank s.now else c.lastFrom }

/-- A payload found invalid (spec/02_formats.md R58): the chunk is accepted without use, the port's format-error counter and
the event record it, and the command fails with DATA_ERROR naming the source. -/
def State.badPayload (s : State) (h : Held) (q i : Nat) : State :=
  (((s.accept h).sat (rPortErr h.port) 16 8 1).raise causeFormat).failCmd q i stData h.hdr.src

/-- Accept a chunk without use and count it as stray (spec/06_ply_reduction.md R180). -/
def State.stray (s : State) (h : Held) : State :=
  let t := s.now
  let s := (s.accept h).sat rPlyStray 0 16 1
  { s with drains := s.drains.map (fun d =>
      if d.job == h.hdr.job then { d with heard := smSet (fun _ => 0) d.heard h.hdr.src t } else d) }

end Sys2Proof.Machine
end

