-- ==== Sys2Proof/Machine/Repair.lean ====
section
/-! DEFINITION. Ports going DOWN and coming back, faults, repair from spares, ageing and the supply offset
(spec/09_fabric.md R258, R285, spec/12_resilience.md R358 to R367, spec/01_engine_and_step.md R47, R48). -/

namespace Sys2Proof.Machine

/-! ### A port going DOWN and leaving it (spec/09_fabric.md R285) -/

/-- Discard a packet of an epoch (R284). -/
def State.discard (s : State) (p : TxPkt) : State := s.countEj p.pkt.hdr.epoch 1

/-- The window hold starts when a port leaves DOWN or RESYNC (spec/09_fabric.md R275). -/
def State.startHold (s : State) : State := { s with holdUntil := s.now + 1000 * s.fld rFabTimers 27 10 }

/-- Take a port DOWN: its VC buffers are emptied and their packets discarded and counted. `keep` keeps the PHY ring's report
of the link. Entering DOWN raises LINK_STATE, leaving RESYNC starts the window hold (R275), a Row link that goes DOWN moves
the dateline (R276), and what is staged for the port applies at once (spec/14_registers.md R404). -/
def State.portDown (s : State) (p : Nat) (keep : Bool) : State :=
  let x := s.port p
  let mine := s.txq.filter (fun t => t.inPort == some p)
  let s := mine.foldl State.discard s
  let s := { s with txq := s.txq.filter (fun t => !(t.inPort == some p)) }
  let s := s.setPort p { x with link := .down, phyUp := x.phyUp && keep, sawSync := false, peerResync := false }
  let s := if x.link = .resync then s.startHold else s
  if x.link = .down then s
  else
    let s := s.applyStaged (fun k => decide (classOf k = .packet) && packetBlock k == p)
    let s := s.raise causeLink
    if 14 ≤ p then s.moveDateline p else s

/-- Send units on a port: the model's record of its output and the flits sent. -/
def State.sendUnits (s : State) (p : Nat) (us : List LinkUnit) (flits : Nat) : State :=
  (s.setPort p { s.port p with sent := us }).addF (rPortTxFlits p) 0 64 flits

/-- A port may leave DOWN: it is enabled, the chip's address has been written, it has four good lanes and no Ply lane of it
is without a spare (R258, R285, spec/15_bringup_power.md R420, spec/12_resilience.md R361). -/
def State.mayStart (s : State) (p : Nat) : Bool :=
  s.awake 5 && s.ctl.selfWritten && s.fld (rPortCtl p) 0 1 == 1 && decide (4 ≤ popcount (s.port p).active 9)
    && !s.rep.heldPorts.contains p

/-- DOWN to START when the PHY reports the link up: a sync flit and an AUDIT with all TX = 0 (R285). -/
def State.tryStart (s : State) (p : Nat) : State :=
  let x := s.port p
  if x.link = .down && x.phyUp && s.mayStart p then
    let s := s.setPort p { x with link := .start, sawSync := false, peerResync := false }
    ((s.sendUnits p [.sync, .audit [0, 0, 0, 0] x.free.toList false] 2).startHold).raise causeLink
  else s

/-! ### Resource words (spec/12_resilience.md R363) -/

def resType (w : BitVec 32) : Nat := bitsAt w.toNat 0 4
def resUnit (w : BitVec 32) : Nat := bitsAt w.toNat 4 9
def resIndex (w : BitVec 32) : Nat := bitsAt w.toNat 13 11
def resSpare (w : BitVec 32) : Nat := bitsAt w.toNat 24 4
def mkRes (t u i sp : Nat) (valid : Bool) : BitVec 32 :=
  BitVec.ofNat 32 (t % 16 + u % 512 * 2 ^ 4 + i % 2048 * 2 ^ 13 + sp % 16 * 2 ^ 24 + b2n valid * 2 ^ 31)

/-- Spares of a resource type (R360). -/
def spareCount (t : Nat) : Nat :=
  match t with
  | 1 => 1
  | 2 => 8
  | 3 => 1
  | 4 => 2
  | 5 => 8
  | 6 => 4
  | _ => 0

/-- The unit that shares its spares: a Topiary slice has one unit. -/
def spareUnit (t u : Nat) : Nat := if t = 3 then 0 else u

/-- Spares of a type and unit in use. -/
def State.sparesIn (s : State) (t u : Nat) : List Nat :=
  (s.rep.inUse.filter (fun w => resType w == t && spareUnit t (resUnit w) == spareUnit t u)).map resSpare

/-- Spares of a type and unit that cannot be taken: in use, or failed before use. -/
def State.sparesUsed (s : State) (t u : Nat) : List Nat :=
  s.sparesIn t u ++ (s.rep.spent.filter (fun x => x.1 == t && x.2.1 == spareUnit t u)).map (·.2.2)

/-- The first unused spare of a type and unit. -/
def State.freeSpare (s : State) (t u : Nat) : Option Nat :=
  (List.range (spareCount t)).find? (fun k => !(s.sparesUsed t u).contains k)

/-- LGX_REP_STATUS follows the spares in use (R368). -/
def State.repStatus (s : State) : State :=
  let plyMin := minList 8 ((List.range 16).map (fun p => 8 - (s.sparesUsed 2 p).length))
  let l8 := ((List.range 16).map (fun p => b2w (s.sparesUsed 1 p).isEmpty p)).sum
  let bankMin := minList 2 ((List.range 7).map (fun g => 2 - (s.sparesUsed 4 g).length))
  let rowsOut := s.rep.inUse.any (fun w =>
    (resType w == 5 && decide (8 ≤ (s.sparesUsed 5 (resUnit w)).length))
    || (resType w == 6 && decide (4 ≤ (s.sparesUsed 6 (resUnit w)).length)))
  let v := (s.rd rRepStatus).toNat
  s.wr rRepStatus (BitVec.ofNat 64 (plyMin + l8 * 2 ^ 4 + b2w (s.sparesUsed 3 0).isEmpty 20 + bankMin * 2 ^ 21
    + b2w rowsOut 23 + b2w (bitAt v 24) 24))

/-- The 64-bit map entry of a resource word (R363). -/
def mapEntry (w : BitVec 32) : Nat := w.toNat + complB 4 w.toNat * 2 ^ 32

/-- The lanes of a port after a lane is retired: L8 takes its place when it is free (spec/09_fabric.md R258). -/
def Port.retire (x : Port) (lane : Nat) (useL8 : Bool) : Port :=
  let off := if bitAt x.active lane then x.active - 2 ^ lane else x.active
  let on := if useL8 && !bitAt off 8 then off + 2 ^ 8 else off
  { x with active := on, retired := if bitAt x.retired lane then x.retired else x.retired + 2 ^ lane }

/-- A repair pause that holds a Ply, Topiary or SRAM bank group counts as unavailability (R367); its length is free within the
bound of R360 (DESIGN CHOICE, log 16). -/
def State.pause (s : State) (bound : Nat) : State :=
  let us := min bound (Config.pauseUs s.free)
  (({ s with free := s.free + 1 }).addF rAvail 0 48 us).sat rAvail 48 16 1

/-- Take spare `sp` of a type and unit into use for an index: record it in the map in memory and in the state, report it
(R360, R363). A row or column group holds one bank, no group, so its pause is not counted (R367). -/
def State.takeSpare (s : State) (t u i sp : Nat) : State :=
  let w := mkRes t u i sp true
  let a := s.fld rRepMapBase 16 48 * 65536 + 8 * s.rep.inUse.length
  let s := (s.writeNat a 8 (mapEntry w)).writeNat (a + 8) 8 0xFFFFFFFF00000000
  let s := { s with rep := { s.rep with inUse := s.rep.inUse ++ [w] } }
  let s := ((s.repStatus).sat rRepEvents 16 8 1).raise causeRepair
  if t = 1 then (s.setPort u ((s.port u).retire i true)).portDown u false
  else if t = 2 ∨ t = 3 then s.pause 2 else if t = 4 then s.pause 20 else s

/-- A lasting fault finds no spare (R361). -/
def State.noSpare (s : State) (t u i : Nat) : State :=
  let s := (((s.setFld rRepStatus 24 1 1).raise causeReplace).sat rRepEvents 24 8 1).raise causeHealth
  if t = 1 then (s.setPort u ((s.port u).retire i false)).portDown u false
  else if t = 2 then
    let s := { s with rep := { s.rep with heldPorts := u :: s.rep.heldPorts } }
    s.portDown u true
  else s

/-- The repair that suits a resource: for an SRAM bank a row or column spare when its recorded events fall in one row or
column group, otherwise a bank spare (R360): type, unit and index. -/
def repairTarget (w : BitVec 32) (evs : List (Nat × Nat × Nat)) : Nat × Nat × Nat :=
  let t := resType w
  if t = 4 then
    let bank := resUnit w * 66 + resIndex w
    match evs with
    | [] => (4, resUnit w, resIndex w)
    | (_, r, c) :: rest =>
      if rest.all (fun e => e.2.1 == r) then (5, bank, r)
      else if rest.all (fun e => e.2.2 == c) then (6, bank, c)
      else (4, resUnit w, resIndex w)
  else (t, resUnit w, resIndex w)

/-- Repair a resource from a spare; whether one was found. -/
def State.repairFrom (s : State) (w : BitVec 32) (evs : List (Nat × Nat × Nat)) : Bool × State :=
  let (t, u, i) := repairTarget w evs
  match s.freeSpare t u with
  | some sp => (true, s.takeSpare t u i sp)
  | none =>
    if t = 5 ∨ t = 6 then
      match s.freeSpare 4 (u / 66) with
      | some sp => (true, s.takeSpare 4 (u / 66) (u % 66) sp)
      | none => (false, s)
    else (false, s)

/-- Events of a resource recorded so far. -/
def State.eventsOf (s : State) (w : BitVec 32) : List (Nat × Nat × Nat) :=
  match s.rep.events.find? (fun e => e.1 == w) with
  | some e => e.2
  | none => []

def State.setEvents (s : State) (w : BitVec 32) (l : List (Nat × Nat × Nat)) : State :=
  { s with rep := { s.rep with events := (s.rep.events.filter (fun e => !(e.1 == w))) ++ (if l.isEmpty then [] else [(w, l)]) } }

/-- The index within its unit of the spare k of a type (R360). -/
def spareIndex (t k : Nat) : Nat := if t = 1 then 8 else if t = 2 then 256 + k else if t = 3 then 16 else 64 + k

/-- A resource is itself a spare, of this number. -/
def spareOf (w : BitVec 32) : Option Nat :=
  let t := resType w
  if 1 ≤ t ∧ t ≤ 4 ∧ spareIndex t 0 ≤ resIndex w then some (resIndex w - spareIndex t 0) else none

/-- A spare that has not replaced anything. -/
def State.idleSpare (s : State) (w : BitVec 32) : Option Nat :=
  (spareOf w).filter (fun k => !(s.sparesIn (resType w) (resUnit w)).contains k)

/-- A spare that replaces nothing fails: it cannot be taken any more. L8 is retired, and its port is without a spare (R258,
R361); of the others the health event tells (DESIGN CHOICE, log 118). -/
def State.spendSpare (s : State) (w : BitVec 32) (k : Nat) : State :=
  let t := resType w
  let u := resUnit w
  let s := ({ s with rep := { s.rep with spent := s.rep.spent ++ [(t, spareUnit t u, k)] } } : State).repStatus
  if t = 1 then s.noSpare t u (resIndex w) else s.raise causeHealth

/-- A lasting fault (R359 to R362): while HOLD is 1, during the wake order and without firmware no spare is taken. -/
def State.lasting (s : State) (w : BitVec 32) (evs : List (Nat × Nat × Nat)) : State :=
  if s.fld rRepOverride 0 1 = 1 || !s.firmware || !s.allAwake then s.raise causeHealth
  else
    match s.idleSpare w with
    | some k => s.spendSpare w k
    | none =>
    match s.repairFrom w evs with
    | (true, s) => s
    | (false, s) => s.noSpare (resType w) (resUnit w) (resIndex w)

/-- A fault event of a resource (R358, R359). Only corrected errors are repaired by rows and column groups (R360). -/
def State.fault (s : State) (f : FaultRec) : State :=
  let s := if spareCount (resType f.word) = 0 then s.raise causeHealth else s
  let s := if 4 ≤ resType f.word ∧ resType f.word ≤ 6 then s.detect else s
  let win := 1000000 * s.fld rRepCfg 0 16
  let evs := ((s.eventsOf f.word).filter (fun e => decide (s.now - e.1 ≤ win))) ++ [(s.now, f.row, f.col)]
  if f.atOnce || decide (s.fld rRepCfg 16 4 ≤ evs.length) then (s.setEvents f.word []).lasting f.word (if f.atOnce then [] else evs)
  else (s.setEvents f.word evs).sat rRepEvents 0 16 1

/-- Fault events one after another. -/
def State.faults (s : State) (fs : List FaultRec) : State := fs.foldl State.fault s

/-! ### Ageing (R364 to R366) -/

/-- The fused target lap period, never 0. -/
def targetOf (w : BitVec 32) : Nat := max 1 (Config.targetPeriod w)

/-- Speed margin of a canary as a number of 1/400 steps over its target period: (P_T − P) x 400 over P_T. -/
def marginNum (c : Canary) : Int := ((targetOf c.word : Int) - (c.period : Int)) * 400

/-- m is lower for a than for b. -/
def marginLt (a b : Canary) : Bool := decide (marginNum a * targetOf b.word < marginNum b * targetOf a.word)

/-- The canary of lowest margin. -/
def slowest : List Canary → Option Canary
  | [] => none
  | c :: t =>
    match slowest t with
    | none => some c
    | some d => if marginLt d c then some d else some c

/-- Ageing ratio in units of 2^-24 (R364). -/
def ratio (reference period : Nat) : Nat := if reference = 0 then 0 else period * 2 ^ 24 / reference

/-- The offset in force, in 5 mV steps. -/
def State.offset (s : State) : Int := signed 8 (s.fld rAgeStatus 0 8)

/-- Request a change of the supply offset, at most one pending (spec/01_engine_and_step.md R47). -/
def State.requestOffset (s : State) (d : Int) : State :=
  if s.ctl.offsetReq.isSome then s
  else { s with ctl := { s.ctl with offsetReq := some d, offsetAt := s.now } }

def State.marginLost (s : State) : State := (s.setFld rAgeStatus 16 1 1).raise causeMarginLost

/-- The first two and the third row of R365 for the lowest margin. -/
def State.replanOffset (s : State) (c : Canary) : State :=
  let m := marginNum c
  let t : Int := targetOf c.word
  let low : Int := s.fld rAgeCfg 12 8
  let high : Int := s.fld rAgeCfg 20 8
  let up : Int := s.fld rAgeVlimit 0 6
  let dn : Int := s.fld rAgeVlimit 6 6
  if m < low * t then
    (if s.offset < up then (if s.fld rAgeStatus 16 1 = 1 then s else s.requestOffset 1) else s.marginLost)
  else if high * t < m ∧ -dn < s.offset then s.requestOffset (-1) else s

/-- The resource word of the spare `k` of a type and unit, as its canary names it. -/
def spareWord (t u k : Nat) : BitVec 32 :=
  mkRes t u (spareIndex t k) 0 false

/-- A resource is active: until it has been replaced, and a spare once it has replaced something (R365). -/
def State.activeRes (s : State) (w : BitVec 32) : Bool :=
  (s.idleSpare w).isNone
    && !s.rep.inUse.any (fun x => resType x == resType w && resUnit x == resUnit w && resIndex x == resIndex w)

/-- The first free spare of a resource whose own ratio is lower (R365). -/
def State.betterSpare (s : State) (laps : List Canary) (reference : Nat) (w : BitVec 32) (r : Nat) : Option Nat :=
  let t := resType w
  let u := resUnit w
  (List.range (spareCount t)).find? (fun k => !(s.sparesUsed t u).contains k
    && laps.any (fun d => d.word == spareWord t (spareUnit t u) k && decide (ratio reference d.period < r)))

/-- The last two rows of R365 for one canary. -/
def State.replanResource (s : State) (laps : List Canary) (reference : Nat) (c : Canary) : State :=
  let r := ratio reference c.period
  let lim := Config.ageLimit c.word
  let t := resType c.word
  let retire := s.fld rAgeCfg 28 4
  if !s.activeRes c.word then s
  else if lim ≤ r then
    let s := if spareCount t = 0 || (s.freeSpare t (resUnit c.word)).isNone then s.setFld rAgeStatus 17 1 1 else s
    s.fault { word := c.word, atOnce := true, row := 0, col := 0 }
  else if lim * (400 - retire) ≤ 400 * r then
    match s.betterSpare laps reference c.word r with
    | none => s
    | some k =>
      if s.fld rRepOverride 0 1 = 0 && decide (t ≤ 4) then s.takeSpare t (resUnit c.word) (resIndex c.word) k else s
  else s

/-- Add a ratio and a speed margin to a resource's history of the last 720 powered hours (R364). -/
def addHistory (now : Nat) (h : List (BitVec 32 × List (Nat × Nat × Int))) (w : BitVec 32) (r : Nat) (m : Int) :
    List (BitVec 32 × List (Nat × Nat × Int)) :=
  let hour := 3600000000000
  let old := match h.find? (fun e => e.1 == w) with | some e => e.2 | none => []
  (h.filter (fun e => !(e.1 == w))) ++ [(w, (old.filter (fun p => decide (now - p.1 ≤ 720 * hour))) ++ [(now, r, m)])]

/-- Hours until a least-squares line through (time, ratio) points reaches a limit, from the last time (R366); none when it
never does. -/
def lifeHours (lim now : Nat) (pts : List (Nat × Nat)) : Option Nat :=
  let n : Int := pts.length
  let t0 : Int := now
  let xs := pts.map (fun p => (p.1 : Int) - t0)
  let ys := pts.map (fun p => (p.2 : Int))
  let sx := xs.sum
  let sy := ys.sum
  let sxx := (xs.map (fun x => x * x)).sum
  let sxy := (List.zipWith (fun x y => x * y) xs ys).sum
  let den := n * sxx - sx * sx
  let slope := n * sxy - sx * sy
  if den ≤ 0 ∨ slope ≤ 0 then none
  else
    -- value at `now` is (sy * sxx - sx * sxy) / den; the rest to the limit over the slope is the time
    let rest := (lim : Int) * den - (sy * sxx - sx * sxy)
    some ((max 0 rest) / slope / 3600000000000).toNat

/-- The hours until each active resource reaches its limit, by its resource word. -/
def State.lives (s : State) : List (BitVec 32 × Nat) :=
  (s.age.history.filter (fun e => s.activeRes e.1)).filterMap (fun e =>
    (lifeHours (Config.ageLimit e.1) s.now (e.2.map (fun p => (p.1, p.2.1)))).map (fun l => (e.1, l)))

/-- The hours at which a resource's unit has used up its spares: at least that many of its active resources, and one more,
have reached their limit by then (R366; DEDUCED, log 76). -/
def State.unitOut (s : State) (ls : List (BitVec 32 × Nat)) (e : BitVec 32 × Nat) : Bool :=
  let t := resType e.1
  let u := spareUnit t (resUnit e.1)
  decide (spareCount t - (s.sparesUsed t u).length
    < (ls.filter (fun x => resType x.1 == t && spareUnit t (resUnit x.1) == u && decide (x.2 ≤ e.2))).length)

/-- LGX_AGE_STATUS.LIFE (R366, R368): 0xFFFF until 24 powered hours of sweeps. -/
def State.life (s : State) : Nat :=
  let enough := match s.age.firstSweep with | some t => decide (24 * 3600000000000 ≤ s.now - t) | none => false
  if !enough then 0xFFFF else
  let ls := s.lives
  minList 0xFFFF ((ls.filter (s.unitOut ls)).map (·.2))

/-- Record a sweep (R364). -/
def State.recordSweep (s : State) (reference : Nat) (laps : List Canary) : State :=
  let hist := laps.foldl (fun h c => addHistory s.now h c.word (ratio reference c.period) (marginNum c / (targetOf c.word : Int))) s.age.history
  { s with age := { laps := laps, reference := reference, history := hist, lastSweep := s.now
                    firstSweep := some (s.age.firstSweep.getD s.now) } }

/-- A sweep and the re-planning that follows it (R364 to R366). -/
def State.sweep (s : State) (reference : Nat) (laps : List Canary) : State :=
  let s := s.recordSweep reference laps
  let s := match slowest laps with
    | none => s
    | some c =>
      let m := unsigned 8 (max (-128) (min 127 (marginNum c / (targetOf c.word : Int))))
      let s := if m = s.fld rAgeStatus 8 8 then s else s.setFld rAgeStatus 16 1 0
      let s := (s.setFld rAgeStatus 8 8 m).wr rAgeSlowest (BitVec.setWidth 64 c.word)
      s.replanOffset c
  let s := laps.foldl (fun s c => s.replanResource laps reference c) s
  s.setFld rAgeStatus 32 16 s.life

/-! ### The commands -/

/-- FAULT_EVENT (R359). -/
def effFaultEvent (f : FaultRec) (s : State) : State := s.fault f

/-- SELFTEST_TIMER (R358): every LGX_REP_CFG.SELFTEST seconds Spindle firmware runs the vectors; `fs` are the mismatches. -/
def effSelftestTimer (fs : List FaultRec) (s : State) : State :=
  if s.firmware && s.timeValid && decide (s.rep.lastSelftest + 1000000000 * s.fld rRepCfg 20 12 ≤ s.now) then
    ({ s with rep := { s.rep with lastSelftest := s.now } }).faults fs
  else s

/-- AGEING_SWEEP (R364): every LGX_AGE_CFG.INTERVAL seconds. -/
def effAgeingSweep (reference : Nat) (laps : List Canary) (s : State) : State :=
  if s.firmware && s.timeValid && decide (s.age.lastSweep + 1000000000 * s.fld rAgeCfg 0 12 ≤ s.now) then s.sweep reference laps
  else s

/-- POWER_ANSWER (spec/01_engine_and_step.md R47, R48, R365): a granted request becomes the offset; a denied one is margin
lost to the cap. An answer is all that the engine learns of the cap, so a grant ends a loss to it (DEDUCED, log 119). -/
def effPowerAnswer (grant : Bool) (s : State) : State :=
  match s.ctl.offsetReq with
  | none => s
  | some d =>
    let s' := { s with ctl := { s.ctl with offsetReq := none } }
    if grant then (s'.setFld rAgeStatus 0 8 (unsigned 8 (s'.offset + d))).setFld rAgeStatus 16 1 0 else s'.marginLost

/-- POWER_MANAGER_TIMEOUT (R47): no answer within 1 ms of the global counter is a health event; the offset stays. -/
def effPowerManagerTimeout (s : State) : State :=
  if s.ctl.offsetReq.isSome && decide (s.ctl.offsetAt + 1000000 ≤ s.now) && s.firmware then s.raise causeHealth else s

end Sys2Proof.Machine
end

