-- ==== Sys2Proof/Machine/Fabric.lean ====
section
/-! DEFINITION. The commands of the links and the Router: link events, reception, assembly, forwarding, acknowledgement,
resend and route epochs (spec/09_fabric.md). -/

namespace Sys2Proof.Machine

/-! ### Link events (R258, R285) -/

/-- LINK_UP (R285): the PHY ring reports the link up. -/
def effLinkUp (p : Nat) (s : State) : State :=
  if s.awake 5 && decide (p < 16) then (s.setPort p { s.port p with phyUp := true }).tryStart p else s

/-- LINK_DOWN (R41, R285). -/
def effLinkDown (p : Nat) (s : State) : State :=
  if s.awake 5 && decide (p < 16) then s.portDown p false else s

/-- The receive side enters RESYNC (R285), from UP or again after a false start (R261). -/
def State.toResync (s : State) (p : Nat) : State :=
  let x := s.port p
  if x.link = .up ∨ (x.link = .resync ∧ x.sawSync) then
    (s.setPort p { x with link := .resync, sawSync := false, resyncAt := s.now }).sat (rPortErr p) 24 8 1
  else s

/-- LANE_TRANSITION (R258): a down-to-up transition of a lane; the third within 100 ms retires it. -/
def effLaneTransition (p lane : Nat) (s : State) : State :=
  if s.awake 5 && decide (p < 16) && decide (lane < 9) then
    let x := s.port p
    let ts := ((x.laneTimes.getD lane []).filter (fun t => decide (s.now - t ≤ 100000000))) ++ [s.now]
    if 3 ≤ ts.length then
      let s := s.setPort p { x with laneTimes := x.laneTimes.setIfInBounds lane [] }
      s.lasting (mkRes 1 p lane 0 false) []
    else s.setPort p { x with laneTimes := x.laneTimes.setIfInBounds lane ts }
  else s

/-- UNCORRECTABLE_FLIT (spec/01_engine_and_step.md R40, R285): the packet in progress is discarded (one that was being
forwarded is completed with zeros downstream, R273, and fails its chunk check there), and the port resynchronises. -/
def effUncorrectableFlit (p : Nat) (forwarding : Bool) (s : State) : State :=
  let x := s.port p
  if s.awake 5 && decide (p < 16) && decide (x.link = .up ∨ x.link = .resync) then
    let s := s.sat (rPortErr p) 0 8 1
    let s := if forwarding then
        match s.txq.reverse.find? (fun t => t.inPort == some p) with
        | none => s
        | some t =>
          let z := { t with pkt := { t.pkt with payload := List.replicate t.pkt.payload.length 0#8 } }
          { s with txq := s.txq.map (fun u => if u = t then z else u) }
      else s
    s.toResync p
  else s

/-- A sync flit and an AUDIT leave the port (R273, R285). -/
def State.sendSync (s : State) (p : Nat) : State :=
  let x := s.port p
  (s.setPort p { x with peerResync := true, syncAt := s.now, auditAt := s.now, freeDirty := false }).sendUnits p
    [.sync, .audit x.tx.toList x.free.toList (x.link == .resync)] 2

/-- What the peer's RSYNC_REQ bit says (R285). -/
def State.hearRsync (s : State) (p : Nat) (req : Bool) : State :=
  let x := s.port p
  if req then (if x.peerResync then s else s.sendSync p) else s.setPort p { x with peerResync := false }

/-- SYNC_FLIT (R261, R285). -/
def effSyncFlit (p : Nat) (s : State) : State :=
  let x := s.port p
  if s.awake 5 && decide (p < 16) && decide (x.link ≠ .down) then
    let s := s.addF (rPortRxFlits p) 0 64 1
    if x.link = .up then s else s.setPort p { x with sawSync := true }
  else s

/-- Flits of a VC held in a port's input buffer. -/
def State.heldFlits (s : State) (p vc : Nat) : Nat :=
  ((s.txq.filter (fun t => t.inPort == some p && t.heldVc == vc)).map (fun t => charge t.pkt.hdr.len)).sum

/-- One value for each VC. -/
def quad (f : Nat → Nat) : Vector Nat 4 := #v[f 0, f 1, f 2, f 3]

/-- Add to the value of one VC, mod 2^16. -/
def addAt (l : Vector Nat 4) (i n : Nat) : Vector Nat 4 := l.setIfInBounds i ((l.getD i 0 + n) % 65536)

/-- The lost flits of each VC by an audit (R273). -/
def lostOf (x : Port) (tx : List Nat) : List Nat :=
  (List.range 4).map (fun v => (tx.getD v 0 + 65536 - x.rx.getD v 0) % 65536)

/-- The lost flits that an audit gives back: those of every VC that lost at most its buffer's size (R273). -/
def restoredOf (lost : List Nat) : List Nat :=
  (List.range 4).map (fun v => if lost.getD v 0 ≤ vcSize v then lost.getD v 0 else 0)

/-- A port whose RX and FREE counters have the restored flits (R273). -/
def Port.restore (x : Port) (back : List Nat) : Port :=
  let y := (List.range 4).foldl (fun y v =>
    ({ y with rx := addAt y.rx v (back.getD v 0), free := addAt y.free v (back.getD v 0) } : Port)) x
  { y with freeDirty := y.freeDirty || back.any (· != 0) }

/-- Apply an AUDIT on a port that is up or resynchronising (R273, R274): each VC is judged by itself, and one that breaks the
conservation takes the port DOWN. -/
def State.applyAudit (s : State) (p : Nat) (tx : List Nat) : State :=
  let x := s.port p
  let lost := lostOf x tx
  let back := restoredOf lost
  let bad := (List.range 4).any (fun v => decide (vcSize v < lost.getD v 0)
    || decide ((x.rx.getD v 0 + 65536 - x.free.getD v 0) % 65536 ≠ s.heldFlits p v % 65536))
  let y := x.restore back
  let s := (s.setPort p y).sat (rPortAudit p) 0 24 back.sum
  if bad then ((s.raise causeConservation).sat (rPortAudit p) 24 8 1).portDown p false
  else if y.link = .resync then (s.setPort p { y with link := .up, sawSync := false }).startHold else s

/-- The payload of an AUDIT marker (R273, R285): one whose complement mismatches is rejected and counted
(spec/00_scope.md R13). -/
def State.takeAudit (s : State) (p : Nat) (payload : List Byte) : State :=
  let x := s.port p
  if x.link = .down then s
  else if leAt payload 8 8 ≠ complB 8 (leAt payload 0 8) then (s.sat (rPortErr p) 16 8 1).raise causeFormat
  else
    let tx := (List.range 4).map (fun v => leAt payload (2 * v) 2)
    if x.link = .start then
      (if x.sawSync && tx.all (· == 0) then
        s.setPort p { x with link := .up, tx := #v[0, 0, 0, 0], ret := #v[0, 0, 0, 0], rx := #v[0, 0, 0, 0]
                             free := #v[0, 0, 0, 0], freeDirty := false, sawSync := false, auditAt := s.now }
      else s)
    else if x.link = .resync && !x.sawSync then s
    else s.applyAudit p tx

/-- AUDIT (R273): a marker with this payload arrives; its header is that of PACKET_RECEIVE. -/
def effAudit (p : Nat) (payload : List Byte) (s : State) : State :=
  if s.awake 5 && decide (p < 16) then
    (if (s.port p).link = .down then s else (s.addF (rPortRxFlits p) 0 64 1).takeAudit p payload)
  else s

/-- AUDIT_TIMER (R273): every LGX_FAB_TIMERS.AUDIT microseconds. -/
def effAuditTimer (p : Nat) (s : State) : State :=
  let x := s.port p
  if s.timeValid && decide (p < 16) && decide (x.link = .up ∨ x.link = .resync)
      && decide (x.auditAt + 1000 * s.fld rFabTimers 17 10 ≤ s.now) then
    (s.setPort p { x with auditAt := s.now, freeDirty := false }).sendUnits p
      [.audit x.tx.toList x.free.toList (x.link == .resync)] 1
  else s

/-- CREDIT_RETURN_FLIT (R260, R264): its complement and check, then the freed counters and RSYNC_REQ. One whose complement,
check or reserved bytes are wrong counts and resynchronises as an invalid header does (spec/00_scope.md R13; DESIGN CHOICE,
log 111). -/
def effCreditReturnFlit (p : Nat) (b : List Byte) (s : State) : State :=
  let x := s.port p
  if s.awake 5 && decide (p < 16) && decide (x.link = .up ∨ x.link = .resync) then
    let s := s.addF (rPortRxFlits p) 0 64 1
    if x.link = .resync then s
    else
      let ok := decide (b.length = 256) && decide (byteAt b 0 = 0xC5) && decide (byteAt b 1 < 2)
        && decide (leAt b 10 8 = complB 8 (leAt b 2 8)) && (sliceB b 18 234).all (· == 0)
        && decide (leAt b 252 4 = (crc32c (b.take 252)).toNat)
      if ok then
        (s.setPort p { x with ret := quad (fun v => leAt b (2 + 2 * v) 2) }).hearRsync p (bitAt (byteAt b 1) 0)
      else (s.sat (rPortErr p) 8 8 1).toResync p
  else s

/-- CREDIT_RETURN_SEND (R260): a FREE counter has changed, or RSYNC_REQ must be signalled. -/
def effCreditReturnSend (p : Nat) (s : State) : State :=
  let x := s.port p
  if decide (p < 16) && decide (x.link = .up ∨ x.link = .resync) && (x.freeDirty || x.link == .resync) then
    (s.setPort p { x with freeDirty := false }).sendUnits p [.credit x.free.toList (x.link == .resync)] 1
  else s

/-- SYNC_REPEAT_TIMER (R285): RSYNC_REQ is still set 1 µs after the last sync flit. -/
def effSyncRepeatTimer (p : Nat) (s : State) : State :=
  let x := s.port p
  if decide (p < 16) && decide (x.link = .up ∨ x.link = .resync) && x.peerResync && decide (x.syncAt + 1000 ≤ s.now)
  then s.sendSync p else s

/-- RESYNC_TIMEOUT (R285): no sync flit within LGX_FAB_TIMERS.RESYNC microseconds. -/
def effResyncTimeout (p : Nat) (s : State) : State :=
  let x := s.port p
  if s.timeValid && decide (p < 16) && decide (x.link = .resync) && !x.sawSync
      && decide (x.resyncAt + 1000 * s.fld rFabTimers 37 10 ≤ s.now) then s.portDown p false else s

/-- PORT_RETRAIN (R285, R287). -/
def effPortRetrain (p : Nat) (s : State) : State :=
  if s.awake 5 && decide (p < 16) then s.portDown p false else s

/-! ### Reception (R264 to R268, R281, R282, R284, R286) -/

/-- Flits are released from an input buffer (R272). -/
def State.release (s : State) (p vc n : Nat) : State :=
  let x := s.port p
  s.setPort p { x with free := addAt x.free vc n, freeDirty := true }

/-- Reorder and retain slots of port p in use: 256-byte slots of partial and held chunks, and of retained chunks. -/
def State.reorderUsed (s : State) (p : Nat) : Nat :=
  ((s.partials.filter (fun a => a.port == p)).map (fun a => (a.parts.map (fun k => charge k.hdr.len)).sum)).sum
  + ((s.held.filter (fun h => h.port == p)).map (fun h => (h.pkts.map (fun k => charge k.hdr.len)).sum)).sum

/-- An arriving packet finds a slot it may use (R286): the pool less RETAIN_MAX, of which 256 are for the oldest chunk of a
flow. -/
def State.hasRoom (s : State) (p : Nat) (h : Hdr) : Bool :=
  let pool := 7552 - s.fld (rPortCfg p) 0 13
  let oldest := windowed h && decide (s.winBase h.src = h.seq)
  decide (s.reorderUsed p + charge h.len ≤ if oldest then pool else pool - 256)

def sameChunk (a b : Hdr) : Bool :=
  a.src == b.src && a.dst == b.dst && a.job == b.job && a.seq == b.seq && a.pkts == b.pkts && a.mcast == b.mcast
    && a.kind == b.kind

def insertPkt (p : Pkt) : List Pkt → List Pkt
  | [] => [p]
  | k :: t => if p.hdr.pkt < k.hdr.pkt then p :: k :: t else k :: insertPkt p t

/-- A chunk is complete (R265, R266, R268): its check value, then the window. An ACK has no window, so one that waits keeps no
later one out. Test traffic and firmware messages have no command to wait for; a firmware message is taken by Spindle at once. -/
def State.chunkComplete (s : State) (pkts : List Pkt) (port : Nat) : State :=
  let h := match pkts.getLast? with | some p => p.hdr | none => parseHdr []
  if (crc64 (pkts.flatMap (·.payload))).toNat ≠ h.check then s.sat (rPortDrop port) 0 8 1
  else if windowed h && s.isDuplicate h.src h.seq then
    let s := s.sat rPlyStray 16 16 1
    { s with ackDue := s.ackDue ++ [{ src := h.src, seq := h.seq, mc := false }] }
  else
    let c : Held := { pkts := pkts, port := port }
    if h.kind != 0x10 && s.held.any (fun x => sameChunk x.hdr c.hdr) then s
    else
      let s := { s with held := s.held ++ [c] }
      if h.kind = 0x20 && s.passable c then s.accept c else s

/-- Take a packet into the reorder buffer (R266, R286). -/
def State.assemble (s : State) (port : Nat) (p : Pkt) : State :=
  if !s.hasRoom port p.hdr then s.sat (rPortDrop port) 16 16 1
  else
    match s.partials.find? (fun a => sameChunk a.first p.hdr) with
    | none =>
      if p.hdr.pkts = 1 then s.chunkComplete [p] port
      else { s with partials := s.partials ++ [{ first := p.hdr, parts := [p], port := port, since := s.now }] }
    | some a =>
      if a.parts.any (fun k => k.hdr.pkt == p.hdr.pkt) then s
      else
        let parts := insertPkt p a.parts
        let rest := s.partials.filter (fun x => !sameChunk x.first p.hdr)
        if parts.length = p.hdr.pkts then ({ s with partials := rest }).chunkComplete parts a.port
        else { s with partials := rest ++ [{ a with parts := parts }] }

/-- Deliver a packet to this chip (R282). The check of DST_RANK applies to unicast packets (DEDUCED, log 17). -/
def State.deliver (s : State) (port : Nat) (p : Pkt) : State :=
  let s := s.countEj p.hdr.epoch 1
  if p.hdr.mcast then s.assemble port p
  else
    match s.xlat p.hdr.dst with
    | .bad => s.raise causeRankTable
    | .invalid => s.sat rFabEvents 8 8 1
    | .ok phys => if phys = s.selfPhys then s.assemble port p else s.sat rFabEvents 8 8 1

/-- The route entry of a destination in an epoch's bank (R280): port, LOCAL; none when it is not VALID or its complement
mismatches. -/
def State.routeEntry (s : State) (epoch dst : Nat) : Option (Nat × Bool) :=
  let v := (s.rd (rFabRoute (epoch % 2) dst)).toNat
  let lo := v % 65536
  if v / 65536 = complB 2 lo && bitAt lo 5 && decide (lo / 64 = 0) then some (lo % 16, bitAt lo 4) else none

/-- An epoch that is current or draining (R283). -/
def State.epochLive (s : State) (e : Nat) : Bool := e == s.epoch || (s.draining && e == (s.epoch + 3) % 4)

/-- Replicas of a multicast at its entry chip: one to each other position of the mask (R281). -/
def State.replicate (s : State) (p : Pkt) : State :=
  (List.range 8).foldl (fun s o =>
    if bitAt p.hdr.mask o && o != s.selfPos then
      let s := s.countInj p.hdr.epoch 1
      { s with txq := s.txq ++ [{ pkt := { p with hdr := { p.hdr with mask := 2 ^ o } }, inPort := none, heldVc := p.hdr.vc
                                  pinned := none, since := s.now }] }
    else s) s

/-- Where a packet taken into the input buffer goes: this chip, or the Router's queue. -/
def State.route1 (s : State) (port : Nat) (p : Pkt) : State :=
  let h := p.hdr
  let f := charge h.len
  let fwd := { s with txq := s.txq ++ [{ pkt := p, inPort := some port, heldVc := h.vc, pinned := none, since := s.now }] }
  if !s.epochLive h.epoch then ((s.countEj h.epoch 1).sat rFabEvents 16 8 1).release port h.vc f
  else if h.mcast then
    if h.phys = s.selfPhys then
      let s := (s.replicate p).release port h.vc f
      if bitAt h.mask s.selfPos then s.deliver port p else s.countEj h.epoch 1
    else if h.phys / 8 = s.selfHedge && h.mask == 2 ^ s.selfPos then (s.deliver port p).release port h.vc f
    else fwd
  else if h.vc = 0 && h.route == 1 then
    match s.routeEntry h.epoch h.dst with
    | none => ((s.countEj h.epoch 1).sat rFabEvents 24 4 1).release port h.vc f
    | some (_, loc) => if loc then (s.deliver port p).release port h.vc f else fwd
  else if h.phys = s.selfPhys then (s.deliver port p).release port h.vc f
  else fwd

/-- The link fields of a valid header: the freed counters and RSYNC_REQ (R262, R272, R285). -/
def State.hearLink (s : State) (p : Nat) (header : List Byte) : State :=
  let f := byteAt header 17
  let s := if bitAt f 0 then s.setPort p { s.port p with ret := quad (fun v => leAt header (44 + 2 * v) 2) } else s
  s.hearRsync p (bitAt f 1)

/-- PACKET_RECEIVE (R259, R264, R272): a framing error or an invalid header discards the packet and starts RESYNC; in RESYNC
every unit is discarded until a sync flit, and then all but an AUDIT (R261, R285). An AUDIT packet is link-local and is
applied. Every unit that arrives counts in RX_FLITS, one with an invalid header by what arrived of it (DEDUCED, log 120). -/
def effPacketReceive (p : Nat) (header payload : List Byte) (s : State) : State :=
  let x := s.port p
  if !(s.awake 5 && decide (p < 16)) then s
  else if x.link = .down then s
  else
    let ok := hdrOk header
    let h := parseHdr header
    let body := sliceB payload 0 h.len
    let s := s.addF (rPortRxFlits p) 0 64 (if ok then charge h.len else cdiv (64 + payload.length) 256)
    if x.link = .start then (if ok && h.kind == 0x18 then s.takeAudit p body else s)
    else if x.link = .resync && !x.sawSync then s
    else if !ok then (s.sat (rPortErr p) 8 8 1).toResync p
    else if h.kind = 0x18 then (s.hearLink p header).takeAudit p body
    else if x.link = .resync then s
    else
      let s := s.hearLink p header
      let y := s.port p
      (s.setPort p { y with rx := addAt y.rx h.vc (charge h.len) }).route1 p { hdr := h, payload := body }

/-- CHUNK_PARTIAL_TIMEOUT (R266). -/
def effChunkPartialTimeout (src seq : Nat) (mc : Bool) (s : State) : State :=
  match s.partials.find? (fun a => a.first.src == src && a.first.seq == seq && a.first.mcast == mc) with
  | none => s
  | some a =>
    if s.timeValid && decide (a.since + s.fld rFabTimeout 0 24 ≤ s.now) then
      ({ s with partials := s.partials.filter (fun x => decide (x ≠ a)) }).sat (rPortDrop a.port) 8 8 1
    else s

/-! ### Forwarding (R276 to R281, R432) -/

/-- Link 0, or link 1 when link 0 is DOWN (R276, R432). -/
def State.escapeLink (s : State) (o : Nat) : Option Nat :=
  let p0 := peerPort s.selfPos o 0
  let p1 := peerPort s.selfPos o 1
  if s.isUp p0 then some p0 else if s.isUp p1 then some p1 else none

/-- The escape route's next port (R276). -/
def State.escapeNext (s : State) (h : Hdr) : Option Nat :=
  let n := s.rowN h.epoch
  let d := s.dateline h.epoch
  let lam (x : Nat) : Nat := (x + 2 * n - d - 1) % n
  let w2 := h.phys / 8
  if s.selfHedge ≠ w2 then
    let p := if lam s.selfHedge < lam w2 then 14 else 15
    if s.isUp p then some p else none
  else s.escapeLink (h.phys % 8)

/-- A destination that has no route whatever the mode (R276). -/
def State.noRoute (s : State) (h : Hdr) : Bool :=
  decide (2 ^ 18 ≤ h.phys) || decide (s.rowN h.epoch ≤ h.phys / 8)

/-- What the Router does with a packet. -/
inductive Hop where
  | send (port : Nat)
  /-- Delivered to this chip, in the reorder space of a port. -/
  | deliver (port : Nat)
  | escape
  | drop
  | tableErr
deriving DecidableEq, Repr

/-- The next port of a Spray packet (R278). A same-Hedge detour is known by a position that is neither VIA nor o2, as the
text under the rule says; a Row port out of the Spray choices sends the packet to escape (R287; DESIGN CHOICE, log 35). -/
def State.sprayNext (s : State) (h : Hdr) : Hop :=
  let w2 := h.phys / 8
  let o2 := h.phys % 8
  let toHop (x : Option Nat) : Hop := match x with | some p => .send p | none => .escape
  if s.selfHedge ≠ w2 then
    if h.viaValid && s.selfPos != h.via then toHop (s.hedgeLink h.via true)
    else
      let p := if h.rowDir then 15 else 14
      if s.sprayUp p then .send p else .escape
  else if h.viaValid && s.selfPos != h.via then toHop (s.hedgeLink h.via true)
  else toHop (s.hedgeLink o2 true)

/-- The Router's choice for a packet. A VC0 replica whose links are DOWN moves to escape (R277), and a packet for this chip
itself is delivered (R276, R278). -/
def State.nextHop (s : State) (t : TxPkt) : Hop :=
  let h := t.pkt.hdr
  let esc (h : Hdr) : Hop := match s.escapeNext h with | some p => .send p | none => .drop
  if h.mcast && h.phys / 8 == s.selfHedge && popcount h.mask 8 == 1 && h.phys == s.selfPhys then
    let o := Nat.log2 h.mask
    match (if h.vc = 0 then s.hedgeLink o false else s.escapeLink o) with
    | some p => .send p
    | none => if h.vc = 0 then .escape else .drop
  else if s.noRoute h then .drop
  else if h.vc = 0 ∧ h.route = 1 then
    match s.routeEntry h.epoch h.dst with
    | none => .tableErr
    | some (p, loc) => if loc then .deliver p else if s.isUp p then .send p else .escape
  else if h.phys = s.selfPhys && !h.mcast then .deliver (t.inPort.getD 0)
  else if h.vc ≠ 0 then esc h
  else
    match t.pinned with
    | some p => if h.route = 2 then .send p else s.sprayNext h
    | none => s.sprayNext h

/-- A packet leaves the Router's queue and its input buffer. -/
def State.unqueue (s : State) (n : Nat) (t : TxPkt) : State :=
  let s := { s with txq := s.txq.eraseIdx n }
  match t.inPort with
  | none => s
  | some p => s.release p t.heldVc (charge t.pkt.hdr.len)

/-- Slots of retained chunks at a port (R286). -/
def OutChunk.slots (c : OutChunk) : Nat := (c.pkts.map (fun k => charge k.hdr.len)).sum

def State.retainedAt (s : State) (p : Nat) : Nat :=
  ((s.outbox.filter (fun c => c.retained && c.keptAt == p)).map OutChunk.slots).sum

/-- Make room for a chunk in a port's retain buffer: the oldest chunks whose contents are a copy of memory leave first (R243);
`fuel` is the number of chunks that may leave. -/
def State.makeRoom (s : State) (p need : Nat) : Nat → State
  | 0 => s
  | n + 1 =>
    if s.retainedAt p + need ≤ s.fld (rPortCfg p) 0 13 then s
    else
      match s.outbox.find? (fun c => c.retained && c.copy && c.keptAt == p) with
      | none => s
      | some c =>
        ({ s with outbox := s.outbox.map (fun d => if d = c then { c with retained := false } else d) }).makeRoom p need n

/-- The chunk a queued packet of this chip belongs to. -/
def State.chunkOf (s : State) (h : Hdr) : Option OutChunk :=
  s.outbox.find? (fun c => c.seq == some h.seq && c.mc == h.mcast && (h.mcast || c.dst == h.dst))

/-- The first packet of a chunk leaves by a port: the chunk is retained there (R286). When there is no room, a copy of memory
goes unretained, and a chunk of partial sums waits: `none` (R243). -/
def State.retainFor (s : State) (t : TxPkt) (p : Nat) : Option State :=
  if t.inPort.isSome then some s else
  match s.chunkOf t.pkt.hdr with
  | none => some s
  | some c =>
    if c.keptAt < 16 then some s
    else
      let s := s.makeRoom p c.slots s.outbox.length
      let fits := decide (s.retainedAt p + c.slots ≤ s.fld (rPortCfg p) 0 13)
      if fits || c.copy || s.retainedAt p == 0 then
        some { s with outbox := s.outbox.map (fun d => if d = c then { c with keptAt := p, retained := fits || !c.copy } else d) }
      else none

/-- PACKET_FORWARD (R272, R276 to R281, R284): packet n of the Router's queue takes its hop when the credits for the whole
packet are there; a Pinned packet whose port is DOWN becomes a Spray packet, and a VC0 packet whose port is DOWN moves to
VC2. -/
def effPacketForward (n : Nat) (s : State) : State :=
  match s.txq[n]? with
  | none => s
  | some t =>
    let h := t.pkt.hdr
    let setHdr (h' : Hdr) (s : State) : State :=
      { s with txq := s.txq.set n { t with pkt := { t.pkt with hdr := h' }, pinned := none } }
    if !s.epochLive h.epoch then ((s.countEj h.epoch 1).sat rFabEvents 16 8 1).unqueue n t
    else
      match s.nextHop t with
      | .tableErr => ((s.countEj h.epoch 1).sat rFabEvents 24 4 1).unqueue n t
      | .deliver p => (s.unqueue n t).deliver p t.pkt
      | .drop => (((s.countEj h.epoch 1).sat rFabEvents 0 8 1).raise causePartition).unqueue n t
      | .escape => (setHdr { h with route := 3, vc := 2 } s).sat rFabEscaped 0 32 1
      | .send p =>
        let x := s.port p
        if !s.isUp p then
          (if h.route = 2 then
            let (h', s) := s.sprayFields { h with route := 0 }
            setHdr h' s
          else s)
        else if x.credit h.vc < charge h.len then s
        else
          match s.retainFor t p with
          | none => s
          | some s =>
            let s := s.unqueue n t
            let x := s.port p
            let s := s.setPort p { x with tx := addAt x.tx h.vc (charge h.len), freeDirty := false }
            s.sendUnits p [.packet { t.pkt with hdr := h } x.free.toList (x.link == .resync)] (charge h.len)

/-- A packet waits for credits: the port of its route is up and has too few. -/
def State.lacksCredit (s : State) (t : TxPkt) : Bool :=
  match s.nextHop t with
  | .send p => s.isUp p && decide ((s.port p).credit t.pkt.hdr.vc < charge t.pkt.hdr.len)
  | _ => false

/-- ESCAPE_WAIT_EXPIRY (R277): a VC0 packet has waited LGX_FAB_TIMERS.ESC_WAIT ticks for credits. -/
def effEscapeWaitExpiry (n : Nat) (s : State) : State :=
  match s.txq[n]? with
  | none => s
  | some t =>
    if s.timeValid && t.pkt.hdr.vc == 0 && s.lacksCredit t && decide (t.since + s.fld rFabTimers 0 17 ≤ s.now) then
      ({ s with txq := s.txq.set n { t with pkt := { t.pkt with hdr := { t.pkt.hdr with route := 3, vc := 2 } }, pinned := none } }).sat
        rFabEscaped 0 32 1
    else s

/-- WINDOW_HOLD_EXPIRY (R275): the hold has ended, and chunks that a window held back may go. -/
def effWindowHoldExpiry (s : State) : State :=
  if s.timeValid && decide (s.holdUntil ≤ s.now) then s.pump else s

/-! ### Acknowledgement and resend (R242, R243, R268) -/

/-- The bytes that the spans of memory a packet was copied from hold now, padded to its length (R237). -/
def State.reread (s : State) (spans : List (Nat × Nat)) (n : Nat) : List Byte :=
  sliceB (spans.flatMap (fun x => s.read x.1 x.2)) 0 n

/-- A chunk whose packets carry what memory holds now, with a fresh check value (R237, R243). -/
def OutChunk.refreshed (c : OutChunk) (s : State) : OutChunk :=
  let pays := c.pkts.zipIdx.map (fun (p, i) =>
    match c.mem.getD i [] with
    | [] => p.payload
    | l => s.reread l p.payload.length)
  let chk := (crc64 pays.flatten).toNat
  { c with pkts := (c.pkts.zip pays).map (fun (p, b) =>
      ({ hdr := { p.hdr with check := if p.hdr.pkt + 1 = p.hdr.pkts then chk else 0 }, payload := b } : Pkt)) }

/-- A read of the memory that a chunk was copied from is flagged. -/
def OutChunk.flagged (c : OutChunk) (s : State) : Bool := c.mem.any (fun l => l.any (fun x => s.flagged x.1 x.2))

/-- CHUNK_TIMEOUT (R242, R282): the chunk is sent again under its SEQ: as kept while it is retained, and else read again from
memory (R243), where a read that returns the uncorrectable-error flag is the command's (spec/01_engine_and_step.md R39) and
leaves the chunk to its next timeout. -/
def effChunkTimeout (dst seq : Nat) (mc : Bool) (s : State) : State :=
  match s.outbox.find? (fun c => c.seq == some seq && c.mc == mc && (mc || c.dst == dst)) with
  | none => s
  | some c =>
    if s.timeValid && decide (c.sentAt + s.fld rFabTimeout 0 24 ≤ s.now) then
      let again := { (if c.retained then c else c.refreshed s) with sentAt := s.now }
      if !c.retained && c.flagged s then
        let s := { s with outbox := s.outbox.map (fun d => if d = c then { c with sentAt := s.now } else d) }
        match c.owner with
        | some (q, i) => s.memError q i .other
        | none => s.raise causeMemory
      else
        let s := { s with outbox := s.outbox.map (fun d => if d = c then again else d) }
        let s := if c.retained then s.sat rColResends 0 32 1 else s.sat rColResends 32 32 1
        s.launch again (if c.port < 16 then some c.port else none) true
    else s

/-- TX_OLDEST becomes the lowest SEQ not acknowledged (R267). -/
def State.advanceOldest (s : State) (rank : Nat) : State :=
  let old := s.txOldest rank
  let out := (s.outbox.filter (fun c => !c.mc && c.dst == rank)).filterMap (·.seq)
  let span := (s.txNext rank + 2 ^ 32 - old) % 2 ^ 32
  let d := minList span (out.map (fun q => (q + 2 ^ 32 - old) % 2 ^ 32))
  s.writeNat (s.winAt rank + 40) 4 ((old + d) % 2 ^ 32)

/-- Acknowledge one unicast chunk. -/
def State.ackChunk (s : State) (rank : Nat) (p : Nat → Bool) : State :=
  let acked := s.outbox.filter (fun c => !c.mc && c.dst == rank && (match c.seq with | some q => p q | none => false))
  let s := { s with outbox := s.outbox.filter (fun c => !acked.contains c) }
  acked.foldl (fun s c => match c.owner with | some (q, i) => s.progress q i rank false | none => s) s

/-- Acknowledge a multicast sequence number by one position (R281). -/
def State.ackMc (s : State) (rank seq : Nat) : State :=
  match s.xlat rank with
  | .ok phys =>
    let o := phys % 8
    let clear (m : Nat) : Nat := if bitAt m o then m - 2 ^ o else m
    let clearPkt (p : Pkt) : Pkt := { p with hdr := { p.hdr with mask := clear p.hdr.mask } }
    let ackOne (c : OutChunk) : OutChunk :=
      if c.mc && c.seq == some seq then { c with pkts := c.pkts.map clearPkt } else c
    let s : State := { s with outbox := s.outbox.map ackOne }
    let gone := s.outbox.filter (fun c => c.mc && c.seq.isSome && c.pkts.all (fun p => p.hdr.mask == 0))
    let s := { s with outbox := s.outbox.filter (fun c => !gone.contains c) }
    gone.foldl (fun s c => match c.owner with | some (q, i) => s.progress q i rank false | none => s) s
  | _ => s

/-- ACK (R268): every SEQ before CUM and every listed SEQ is acknowledged; TX_OLDEST advances. -/
def effAck (src seq : Nat) (s : State) : State :=
  match s.heldChunk 0x10 src seq false with
  | none => s
  | some h =>
    let b := h.payload
    let s := s.accept h
    let n := byteAt b 4
    let listed := (List.range n).map (fun i => leAt b (8 + 4 * i) 4)
    if decide (b.length ≠ 64) || decide (14 < n) || decide (byteAt b 5 / 2 ≠ 0) || decide (leAt b 6 2 ≠ 0) then
      (s.sat (rPortErr h.port) 16 8 1).raise causeFormat
    else if bitAt (byteAt b 5) 0 then listed.foldl (fun s q => s.ackMc src q) s
    else
      let cum := leAt b 0 4
      let old := s.txOldest src
      let before (q : Nat) : Bool := decide ((q + 2 ^ 32 - old) % 2 ^ 32 < (cum + 2 ^ 32 - old) % 2 ^ 32)
        && decide ((cum + 2 ^ 32 - old) % 2 ^ 32 ≤ 256)
      ((s.ackChunk src (fun q => before q || listed.contains q)).advanceOldest src).pump

/-- ACK_SEND (R268): one ACK for up to 14 accepted chunks of a source. Not sent when the source's rank entry is not VALID, or
mismatches, which raises the rank-table error event (R282). -/
def effAckSend (src : Nat) (mc : Bool) (s : State) : State :=
  let due := (s.ackDue.filter (fun a => a.src == src && a.mc == mc)).take 14
  if due.isEmpty then s
  else
    let s' := { s with ackDue := s.ackDue.filter (fun a => !due.contains a) }
    match s'.xlat src with
    | .bad => s'.raise causeRankTable
    | .invalid => s'
    | .ok phys =>
      let b := toLE (if mc then 0 else s'.winBase src) 4 ++ toLE due.length 1 ++ toLE (b2n mc) 1 ++ toLE 0 2
        ++ due.flatMap (fun a => toLE a.seq 4)
      let ps := mkPkts 0x10 src s'.job.rank 0 0 0 0 false false [{ offset := 0, hop := 0, contrib := 0, payload := sliceB b 0 64 }]
      ps.foldl (fun s p => s.putPkt phys none false p) s'

/-- TEST_PACKET (R263): a test pattern is accepted and acknowledged. -/
def effTestPacket (src seq : Nat) (s : State) : State :=
  match s.heldChunk 0x21 src seq false with
  | none => s
  | some h => if s.passable h then s.accept h else s

/-- A multicast chunk without the position of a rank in its masks. -/
def OutChunk.without (c : OutChunk) (rank : Nat) : OutChunk :=
  match c.near.find? (fun x => x.1 == rank) with
  | none => c
  | some (_, o) => { c with pkts := c.pkts.map (fun p =>
      ({ p with hdr := { p.hdr with mask := if bitAt p.hdr.mask o then p.hdr.mask - 2 ^ o else p.hdr.mask } } : Pkt)) }

/-- Drop every chunk addressed to a rank that a stop does not await, its position in every multicast, and move TX_OLDEST to
TX_NEXT (R433). -/
def State.dropTo (s : State) (rank : Nat) : State :=
  let out := (s.outbox.filter (fun c => c.mc || c.dst != rank)).map (fun c => if c.mc then c.without rank else c)
  let s := { s with outbox := out.filter (fun c => !(c.mc && c.pkts.all (fun p => p.hdr.mask == 0))) }
  s.writeNat (s.winAt rank + 40) 4 (s.txNext rank)

/-- Zero a rank's window entry (R433). -/
def State.zeroWindow (s : State) (rank : Nat) : State := s.write (s.winAt rank) (List.replicate 64 0#8)

/-! ### Route epochs (R283, R284) -/

/-- EPOCH_ADVANCE (R284): an ADVANCE while an epoch drains is recorded as pending. -/
def effEpochAdvance (s : State) : State :=
  if !s.awake 5 then s else if s.draining then s.setFld rFabEpoch 3 1 1 else s.advanceEpoch

/-- The draining epoch is retired; a pending ADVANCE is applied, and else a dateline that waits is set (R276). -/
def State.retireEpoch (s : State) : State :=
  let pend := s.fld rFabEpoch 3 1 == 1
  let s := s.setFld rFabEpoch 2 1 0
  if pend then s.advanceEpoch
  else
    match s.dateWait with
    | some d => s.setDateline d
    | none => s

/-- FAB_SELF_WRITE (R256, spec/15_bringup_power.md R420): once after reset; the ports whose links are up leave DOWN. A later
write is ignored and counted (spec/14_registers.md R412). -/
def effFabSelfWrite (phys : BitVec 20) (s : State) : State :=
  if !s.awake 5 then s
  else if s.ctl.selfWritten then s.sat rLock 8 8 1
  else
    let s := (s.setFld rFabSelf 0 20 phys.toNat).setFld rCfgCtl 3 1 1
    let s := { s with ctl := { s.ctl with selfWritten := true } }
    (List.range 16).foldl State.tryStart s

end Sys2Proof.Machine
end

