-- ==== Sys2Proof/Machine/Access.lean ====
section
/-! DEFINITION. The control bus: which unit an offset belongs to, bus errors and responses (spec/01_engine_and_step.md R42, R43,
spec/14_registers.md R401, spec/15_bringup_power.md R420, R431). -/

namespace Sys2Proof.Machine

/-- The wake step from whose acknowledgement an offset is accessible (R431). -/
def wakeOf (o : Nat) : Nat :=
  if o < 0x010000 ∨ 0x200000 ≤ o then 1
  else if o < 0x020000 then 2
  else if o < 0x040000 then 3
  else if o < 0x041000 then 9
  else if o < 0x042000 then 11
  else if o < 0x043000 then 10
  else if o < 0x044000 then 8
  else if o < 0x045000 then 12
  else if o < 0x046000 then 4
  else if o < 0x047000 then 14
  else if o < 0x048000 then 4
  else if o < 0x049000 then 13
  else if o < 0x080000 then 2
  else 5

/-- An access completes with a bus error response (R401, R418): KIND 0 unoccupied, 1 refused width or size, 2 not awake,
3 alias access. A read returns 0. -/
def State.busError (s : State) (o kind : Nat) : State :=
  let s := (s.setFld rBusErr 0 24 (o % 2 ^ 22 + kind * 2 ^ 22)).sat rBusErr 32 16 1
  { s with bus := { data := 0, error := true } }

/-- An access completes with data. -/
def State.respond (s : State) (v : Word) : State := { s with bus := { data := v, error := false } }

/-- A command that is an access to the register at an offset: its effect when the unit is awake, else a bus error (R420). -/
def State.access (s : State) (o : Nat) (f : State → State) : State :=
  if s.ctl.resetOn then s else if s.awake (wakeOf o) then f s else s.busError o 2

end Sys2Proof.Machine
end

