-- ==== Sys2Proof/Machine/Coppice.lean ====
section
/-! DEFINITION. Coppice: bucket entries, residual blocks and slots, mass accounting, commit and fold (spec/05_coppice.md
R136 to R154). The block codec also serves Espalier's state planes (spec/07_espalier.md R192, R200). -/

namespace Sys2Proof.Machine

/-! ### Bucket entries (R136 to R139) -/

def bkSlot (e : List Byte) (cur : Bool) : Nat := if cur then leAt e 8 8 else leAt e 0 8
def bkElements (e : List Byte) : Nat := leAt e 16 6
def bkFmt (e : List Byte) : Nat := bitsAt (byteAt e 22) 0 2
def bkCurFmt (e : List Byte) : Nat := bitsAt (byteAt e 22) 2 2
def bkCur (e : List Byte) : Bool := bitAt (byteAt e 22) 4
def bkValid (e : List Byte) : Bool := bitAt (byteAt e 22) 5
def bkStep (e : List Byte) : Nat := leAt e 24 6

/-- The entry breaks a rule of R137. -/
def bkBad (e : List Byte) : Bool :=
  byteAt e 23 != complB 1 (byteAt e 22) || bkFmt e == 3 || bkCurFmt e == 3 || decide (byteAt e 22 / 64 ≠ 0)
    || decide (leAt e 30 2 ≠ 0)

/-- The slot holds residuals to read (R139). -/
def bkHolds (e : List Byte) : Bool := bkValid e && bkCurFmt e != 0

/-- Address of a bucket's entry under a bank. -/
def bkAddr (bank : SMap Word) (bucket : Nat) : Nat := (smGet regReset bank rCpcBktBase).toNat / 32 * 32 + 32 * bucket

/-- The entry that a commit writes (R149). -/
def bkCommitted (e : List Byte) (step : Nat) : List Byte :=
  let f := bkFmt e
  let b := f + 4 * f + 16 * b2n (!bkCur e) + 32
  e.take 22 ++ toLE b 1 ++ toLE (complB 1 b) 1 ++ toLE step 6 ++ toLE 0 2

/-- An entry with VALID clear, as a restore without residuals leaves it (R153). -/
def bkInvalid (e : List Byte) : List Byte :=
  let b := byteAt e 22 - 32 * (byteAt e 22 / 32 % 2)
  e.take 22 ++ toLE b 1 ++ toLE (complB 1 b) 1 ++ e.drop 24

/-! ### Blocks (R140 to R145) -/

/-- A decoded block: its grid exponent and its values; `nan` for an Espalier NaN block. -/
structure Blk where
  f : Int
  q : List Int
  nan : Bool
deriving DecidableEq, Repr

def Blk.isZero (b : Blk) : Bool := b.q.all (· == 0)

/-- The exact stored value of element i. -/
def Blk.val (b : Blk) (i : Nat) : Dy := ⟨b.q.getD i 0, b.f⟩

/-- Magnitude bits of a format: 15 for RES16, 7 for RES8. -/
def resBits (fmt : Nat) : Nat := if fmt = 2 then 15 else 7

/-- Bytes of a block record. -/
def resLen (fmt : Nat) : Nat := if fmt = 2 then 68 else 36

def blockCount (n : Nat) : Nat := cdiv n 32

/-- The padded size of an exponent plane (R140). -/
def planeLen (n : Nat) : Nat := upTo 256 (4 * blockCount n)

/-- The largest exponent of the non-zero values of a list. -/
def maxE (vs : List Dy) : Option Int :=
  vs.foldl (fun m v =>
    if v.isZero then m else
    match m with
    | none => some v.expOf
    | some e => some (max e v.expOf)) none

/-- Values placed on a block's grid by a rounding function of the exponent; the exponent rises once when a value does not
fit (R144). -/
def encodeWith (w : Nat) (rho : List Dy) (rnd : Int → List Int) : Blk :=
  match maxE rho with
  | none => { f := -160, q := rho.map (fun _ => 0), nan := false }
  | some e =>
    let lim : Nat := 2 ^ w - 1
    let f := max (e - ((w : Int) - 1)) (-160)
    let fits := fun (x : Int) => (rnd x).all (fun c => decide (c.natAbs ≤ lim))
    let f' := if fits f then f else f + 1
    { f := f', q := rnd f', nan := false }

/-- R144: one rounding to nearest even. -/
def encodeBlock (w : Nat) (rho : List Dy) : Blk := encodeWith w rho (fun f => rho.map (fun r => r.rneAt (-f)))

/-- The header and values of a block record (R141). -/
def Blk.bytes (b : Blk) (fmt : Nat) : List Byte :=
  let z := b.isZero
  let h := if b.nan then 2048 + 512 * fmt
           else if z then 32768 + 512 * fmt else (b.f + 160).toNat + 512 * fmt
  let n := if fmt = 2 then 2 else 1
  toLE h 2 ++ toLE (complB 2 h) 2
    ++ b.q.flatMap (fun c => toLE (if b.nan then 0 else unsigned (8 * n) c) n)

/-- A block record read back, none when it breaks a rule of R143 (for Espalier, of R192). -/
def parseBlk (fmt : Nat) (nanOk : Bool) (r : List Byte) : Option Blk :=
  let h := leAt r 0 2
  let n := if fmt = 2 then 2 else 1
  let fx := h % 512
  let zero := bitAt h 15
  let nan := bitAt h 11
  let q := (List.range 32).map (fun i => signed (8 * n) (leAt r (4 + n * i) n))
  let allZero := q.all (· == 0)
  let lim : Nat := 2 ^ resBits fmt - 1
  let resv := bitsAt h 12 3 != 0 || (nan && !nanOk)
  if leAt r 2 2 != complB 2 h || h / 512 % 4 != fmt || resv || q.any (fun c => decide (lim < c.natAbs))
     || ((zero || nan) && (!allZero || fx != 0 || (zero && nan))) || decide (282 < fx)
  then none
  else some { f := if zero || nan then -160 else (fx : Int) - 160, q := q, nan := nan }

/-- ERX of a block (R142). -/
def Blk.erx (b : Blk) : Nat :=
  match maxE (b.q.map (fun c => (⟨c, b.f⟩ : Dy))) with
  | none => 0
  | some e => (e + 256).toNat

def planeEntry (erx : Nat) : List Byte := toLE erx 2 ++ toLE (complB 2 erx) 2

/-- Block j of a slot of a bucket with n elements, none when its record or its plane entry is invalid (R143). -/
def State.slotBlock (s : State) (base fmt n j : Nat) : Option Blk :=
  let pe := s.read (base + 4 * j) 4
  match parseBlk fmt false (s.read (base + planeLen n + j * resLen fmt) (resLen fmt)) with
  | none => none
  | some b =>
    let past := (List.range 32).any (fun i => decide (n ≤ 32 * j + i) && b.q.getD i 0 != 0)
    if leAt pe 2 2 != complB 2 (leAt pe 0 2) || leAt pe 0 2 != b.erx || past then none else some b

/-- A block of zeros. -/
def zeroBlk : Blk := { f := -160, q := List.replicate 32 0, nan := false }

/-- Block j of a bucket's current residuals (R139). -/
def State.oldBlock (s : State) (e : List Byte) (j : Nat) : Option Blk :=
  if bkHolds e then s.slotBlock (bkSlot e (bkCur e)) (bkCurFmt e) (bkElements e) j else some zeroBlk

/-- Plane entry j of the current slot: E_r + 256, 0 when empty, none when its complement fails (R142). -/
def State.oldErx (s : State) (e : List Byte) (j : Nat) : Option Nat :=
  if bkHolds e then
    let pe := s.read (bkSlot e (bkCur e) + 4 * j) 4
    if leAt pe 2 2 = complB 2 (leAt pe 0 2) then some (leAt pe 0 2) else none
  else some 0

/-- Encode the residuals of block j and write them to the non-current slot: the stored block, none when FMT is OFF
(R144 to R146). The padding of the exponent plane goes with the last block (R140). -/
def State.putBlock (s : State) (e : List Byte) (j : Nat) (rho : List Dy) : Option Blk × State :=
  if bkFmt e = 0 then (none, s) else
  let b := encodeBlock (resBits (bkFmt e)) rho
  let base := bkSlot e (!bkCur e)
  let n := bkElements e
  let s := s.write (base + 4 * j) (planeEntry b.erx)
  let s := s.write (base + planeLen n + j * resLen (bkFmt e)) (b.bytes (bkFmt e))
  let s := if j + 1 = blockCount n then
      s.write (base + 4 * blockCount n) (List.replicate (planeLen n - 4 * blockCount n) 0#8) else s
  (some b, s)

/-! ### Mass (R147, R148) -/

/-- A value in units of 2^-160. -/
def Dy.m160 (a : Dy) : Int := a.fixed 160

/-- The sums of one encoded block: MASS_OUT, ABS_OUT and ROUND. -/
def blockMass (rho : List Dy) (b : Option Blk) : Int × Int × Int :=
  let inSum := (rho.map Dy.m160).sum
  match b with
  | none => (0, 0, inSum)
  | some k =>
    let outs := (List.range rho.length).map (fun i => (k.val i).m160)
    let out := outs.sum
    (out, (outs.map (fun x => (x.natAbs : Int))).sum, inSum - out)

/-- Add a list of sums to another, place by place. -/
def addMass (a b : List Int) : List Int := List.zipWith (· + ·) a b

/-- A mass record (R148). -/
def massRecord (step job bucket fmt : Nat) (sparse exact fold : Bool) (m : List Int) : List Byte :=
  toLE step 6 ++ toLE job 2 ++ toLE bucket 4 ++ toLE (fmt + 4 * b2n sparse + 8 * b2n exact + 16 * b2n fold) 1
    ++ toLE 0 3 ++ m.flatMap (fun x => toLE (unsigned 384 x) 48)

/-- Write a mass record to the Coppice ring. -/
def State.putMass (s : State) (bank : SMap Word) (rec : List Byte) : State :=
  s.ringWrite bank rCpcRingBase rCpcRingCfg rCpcRingHead rCpcRingTail rCpcRingDrop rec

/-- A residual, plane entry or bucket entry is invalid: the command fails and FMT_ERR counts (R137, R143). -/
def State.fmtErr (s : State) (q i : Nat) : State := (s.sat rCpcEvents 0 16 1).failCmd q i stData s.ownRank

/-- The bucket entry of a reducing command as memory holds it (R136). -/
def State.entryOf (s : State) (c : Cmd) : List Byte := s.read (bkAddr c.bank c.bucketNo) 32

/-- A read of the bucket entry, or of the plane entries and records of n elements from element off of the current slot, is
flagged (spec/01_engine_and_step.md R39). -/
def State.residualFlagged (s : State) (c : Cmd) (off n : Nat) : Bool :=
  let e := s.entryOf c
  let base := bkSlot e (bkCur e)
  let l := resLen (bkCurFmt e)
  s.flagged (bkAddr c.bank c.bucketNo) 32
    || (bkHolds e && (s.flagged (base + 4 * (off / 32)) (4 * blockCount n)
      || s.flagged (base + planeLen (bkElements e) + off / 32 * l) (blockCount n * l)))

/-- The commit of a command's bucket (R149). -/
def State.commitBucket (s : State) (c : Cmd) : State :=
  s.write (bkAddr c.bank c.bucketNo) (bkCommitted (s.entryOf c) c.step)

/-- The slot that a write of a bucket's residuals goes to is one that the image in progress has still to copy (R152). -/
def State.slotHeld (s : State) (e : List Byte) : Bool :=
  match s.ckp.image with
  | none => false
  | some im => bkFmt e != 0 && im.resid.any (fun r => r.2.1 == bkSlot e (!bkCur e))

/-- The conversion would overwrite residuals that an image in progress has not copied (R152). -/
def State.copyHolds (s : State) (c : Cmd) : Bool := s.slotHeld (s.entryOf c)

/-! ### Fold (R154, spec/13_control.md R389) -/

/-- A reducing collective of the bucket has started and not completed, or is fetched and not started (R154). -/
def State.bucketBusy (s : State) (bucket : Nat) : Bool :=
  s.cmds.any (fun c => isReducing (dType c.desc) && c.bucketNo == bucket)
    || s.queues.toList.any (fun q => q.fetched.any (fun f => isReducing (dType f.desc) && leAt f.param 116 4 == bucket))

/-- The sums of the blocks of a fold, each block written: none when a block is invalid. -/
def State.foldBlocks (s : State) (e : List Byte) (src sfmt j : Nat) (m : List Int) : Nat → Option (List Int × State)
  | 0 => some (m, s)
  | n + 1 =>
    match s.oldBlock e j, s.slotBlock src sfmt (bkElements e) j with
    | some a, some b =>
      let rho := (List.range 32).map (fun i => (a.val i).add (b.val i))
      let (k, s) := s.putBlock e j rho
      let (out, abs, rnd) := blockMass rho k
      s.foldBlocks e src sfmt (j + 1) (addMass m [(rho.map Dy.m160).sum, 0, out, abs, rnd]) n
    | _, _ => none

/-- The bucket entry of a fold's target. -/
def State.foldEntry (s : State) (p : List Byte) : List Byte := s.read (bkAddr s.curBank (leAt p 16 4)) 32

/-- A read of a fold is flagged: the target's entry, its current slot, or the source (spec/01_engine_and_step.md R39). -/
def State.foldFlagged (s : State) (p : List Byte) : Bool :=
  let e := s.foldEntry p
  let slot := fun (a fmt : Nat) => s.flagged a (planeLen (bkElements e) + blockCount (bkElements e) * resLen fmt)
  s.flagged (bkAddr s.curBank (leAt p 16 4)) 32 || (bkHolds e && slot (bkSlot e (bkCur e)) (bkCurFmt e))
    || slot (leAt p 0 8) (byteAt p 8 % 4)

/-- The first field of a fold's block that is refused (spec/13_control.md R389). -/
def foldFields (p : List Byte) : Option (Nat × Nat) :=
  if byteAt p 9 ≠ complB 1 (byteAt p 8) then some (stData, 9)
  else if byteAt p 8 / 4 ≠ 0 then some (stData, 8)
  else if byteAt p 21 / 16 ≠ 0 then some (stData, 20)
  else if leAt p 22 42 ≠ 0 then some (stData, 22)
  else if leAt p 0 8 % 256 ≠ 0 then some (stInvalid, 0)
  else none

/-- A fold: its status and DETAIL, and the state after it. The target's entry is tested before the cases of
CONFIG_MISMATCH (DESIGN CHOICE, log 103). -/
def State.runFold (s : State) (p : List Byte) : (Nat × Nat) × State :=
  match foldFields p with
  | some x => (x, s)
  | none =>
    let bank := s.curBank
    let bucket := leAt p 16 4
    let sfmt := byteAt p 8 % 4
    let e := s.foldEntry p
    if bkBad e then ((stData, s.ownRank), s.sat rCpcEvents 0 16 1)
    else if s.bucketBusy bucket || leAt p 10 6 != bkElements e || sfmt == 0 || sfmt == 3 then ((stMismatch, 0), s)
    else
      match s.foldBlocks e (leAt p 0 8) sfmt 0 [0, 0, 0, 0, 0] (blockCount (bkElements e)) with
      | none => ((stData, s.ownRank), s.sat rCpcEvents 0 16 1)
      | some (m, s) =>
        let s := s.write (bkAddr bank bucket) (bkCommitted e (bkStep e))
        let mr := massRecord (bkStep e) (leAt p 20 2 % 4096) bucket (bkFmt e) false (s.fld rCtrl 0 1 == 0) true m
        ((stOk, 0), s.putMass bank mr)

end Sys2Proof.Machine
end

