-- ==== Sys2Proof/Machine/Paths.lean ====
section
/-! DEFINITION. The paths of rings and of the Row: who sends what to whom at which hop (spec/08_collectives.md R223 to R227,
R230). -/

namespace Sys2Proof.Machine

/-- This chip's place in a command's group. -/
def State.place (s : State) (c : Cmd) : Nat × Nat := (c.placeOf s.job.rank).getD (0, 0)

/-- The eighth that holds item x of n items. -/
def eighthOf (n x : Nat) : Nat := splitIndex n 8 x

/-- The Hedge that owns item x of the eighth p of n items, among h Hedges. -/
def hedgeOf (n h p x : Nat) : Nat := splitIndex (eighth n p).2 h (x - (eighth n p).1)

/-- Half d of a range for the Row (R224). -/
def half (r : Nat × Nat) (d : Nat) : Nat × Nat := subRange r 2 d

/-- The port of position a towards position b on ring k (R221). -/
def ringPort (k a b : Nat) : Nat := peerPort a b (edgeLink k a b)

/-- The position after pos on the reduction path of eighth p on ring k, none at its end (R223). -/
def Cmd.nextReduce (c : Cmd) (k w p pos : Nat) : Option Nat :=
  let l := c.ringFrom k w p
  (l.drop (l.idxOf pos + 1)).head?

/-- The first position of the reduction path. -/
def Cmd.firstReduce (c : Cmd) (k w p : Nat) : Nat := (c.ringFrom k w p).headD 0

/-- The position after pos on the gather path of eighth p on ring k, none for the last receiver (R226). -/
def Cmd.nextGather (c : Cmd) (k w p pos : Nat) : Option Nat :=
  let l := c.ringFrom k w p
  let d := c.deputy w p
  if pos = d then (if 1 < l.length then l.head? else none)
  else
    match (l.drop (l.idxOf pos + 1)).head? with
    | none => none
    | some x => if x = d then none else some x

/-- The Hedge one step on in direction d: 0 forward, 1 backward (R224). -/
def rowStep (h w d : Nat) : Nat := if d = 0 then (w + 1) % h else (w + h - 1) % h

/-- The Row port of a direction. -/
def rowPort (d : Nat) : Nat := 14 + d

/-- Every item of a range satisfies a test. -/
def allIn (r : Nat × Nat) (p : Nat → Bool) : Bool := (List.range r.2).all (fun i => p (r.1 + i))

/-- The items of a range. -/
def items (r : Nat × Nat) : List Nat := (List.range r.2).map (fun i => r.1 + i)

/-- Cut a range into parts of at most n items. -/
def cutRange (n first : Nat) : Nat → Nat → List (Nat × Nat)
  | 0, _ => []
  | fuel + 1, len => if len = 0 then [] else (first, min n len) :: cutRange n (first + n) fuel (len - n)

/-- Records cut where the next one would take a payload past a limit (R241). -/
def fillBy {α : Type} (size : α → Nat) (lim : Nat) : List α → List α → Nat → List (List α)
  | [], cur, _ => if cur.isEmpty then [] else [cur]
  | x :: t, cur, n =>
    if cur.isEmpty || decide (n + size x ≤ lim) then fillBy size lim t (cur ++ [x]) (n + size x)
    else cur :: fillBy size lim t [x] (size x)

/-- The records of one point-to-point stream as chunks of at most 64 KiB, each cut into packets (R59, R63, R66, R241). -/
def recChunks {α : Type} (bytes : α → List Byte) (rs : List α) : List (List (List α)) :=
  (fillBy (fun x => (bytes x).length) 65536 rs [] 0).map (fun ch => fillBy (fun x => (bytes x).length) 4096 ch [] 0)

/-- The drafts of a stream, cut into chunks and originated towards a rank (R241). -/
def State.sendDrafts (s : State) (c : Cmd) (kind dst port ring rep : Nat) (copy : Bool) (ds : List Draft) : State :=
  (cutChunks ds [] 0).foldl (fun s chunk =>
    s.emit (some (c.q, c.i)) copy port (mkPkts kind dst s.job.rank c.job ring rep 0 false false chunk) (chunk.map (·.mem))) s

end Sys2Proof.Machine
end

