-- ==== Sys2Proof/Machine/Topiary.lean ====
section
/-! DEFINITION. Topiary: row top-k, result records, merges and block top-k (spec/04_topiary.md R113 to R131). -/

namespace Sys2Proof.Machine

/-! ### Ranking (R113) -/

/-- One ranked position: its global index, its scaled score, its key and its weight. -/
structure TEnt where
  index : Nat
  value : F32
  key : F32
  weight : F32
deriving DecidableEq, Repr

/-- a ranks before b: the larger key, then the lower index. -/
def TEnt.before (a b : TEnt) : Bool :=
  decide (orderKey b.key < orderKey a.key) || (orderKey a.key == orderKey b.key && decide (a.index < b.index))

def rankInsert (e : TEnt) : List TEnt → List TEnt
  | [] => [e]
  | x :: t => if e.before x then e :: x :: t else x :: rankInsert e t

/-- The entries in rank order. -/
def rankAll (l : List TEnt) : List TEnt := l.foldl (fun acc e => rankInsert e acc) []

/-- Entries beyond the first k whose key equals the k-th key. -/
def tiedOut (ranked : List TEnt) (k : Nat) : Nat :=
  match (ranked.drop (k - 1)).head? with
  | none => 0
  | some e => ((ranked.drop k).filter (fun x => orderKey x.key == orderKey e.key)).length

/-! ### Transforms (R119) -/

/-- The transformed value of a scaled score. -/
def transform (tr : Nat) (rowMax scale s : F32) : F32 :=
  match tr with
  | 0 => s
  | 1 => s &&& 0x7FFFFFFF#32
  | 2 => mulF32 s s
  | _ => exp2Tab (mulF32 (subF32 s rowMax) scale)

/-- The sum of transformed values, in list order. -/
def tSum (l : List F32) : TSum := l.foldl TSum.add TSum.zero

/-- The place in which the arrival order of a list puts position i (R121; DESIGN CHOICE, log 9). -/
def arrivalInsert (seed : Nat) (e : Nat × F32) : List (Nat × F32) → List (Nat × F32)
  | [] => [e]
  | x :: t =>
    if Config.arrival seed e.1 < Config.arrival seed x.1 then e :: x :: t else x :: arrivalInsert seed e t

/-- A running sum taken on over more terms: in Relaxed mode in the order of arrival (R121, R125). -/
def sumOn (init : TSum) (exact : Bool) (seed : Nat) (l : List (Nat × F32)) : TSum :=
  ((if exact then l else l.foldl (fun acc e => arrivalInsert seed e acc) []).map (·.2)).foldl TSum.add init

/-- A sum of a row. -/
def rowSum (exact : Bool) (seed : Nat) (l : List (Nat × F32)) : TSum := sumOn TSum.zero exact seed l

/-- The largest finite value, +0 when there is none (R118, R119). -/
def maxFinite (l : List F32) : F32 :=
  let f := l.filter f32Finite
  match f with
  | [] => 0#32
  | x :: t => t.foldl (fun m v => if orderKey m < orderKey v then v else m) x

/-- WEIGHT of an entry whose transformed value is t (R122). -/
def normWeight (exact : Bool) (sel : TSum) (t : F32) : F32 :=
  if sel.special ≠ 0 then f32Nan
  else if exact then
    (if sel.exact = 0 then f32Nan else
      match f32Val t with
      | .fin n m e =>
        if m = 0 then f32Zero (n != decide (sel.exact < 0))
        else ratF32 (n != decide (sel.exact < 0)) m sel.exact.natAbs (e + 149)
      | _ => f32Nan)
  else
    if (f32Dy sel.f32).isZero && f32Finite sel.f32 then f32Nan else divF32 t sel.f32

/-! ### Result records (R118) -/

/-- A result record. -/
structure TRec where
  row : Nat
  k : Nat
  tied : Nat
  count : Nat
  tr : Nat
  exact : Bool
  norm : Bool
  noise : Bool
  merged : Bool
  sel : TSum
  left : TSum
  dups : Nat
  rowMax : F32
  entries : List TEnt
deriving DecidableEq, Repr

def TEnt.bytes (e : TEnt) : List Byte :=
  toLE e.index 4 ++ toLE e.value.toNat 4 ++ toLE e.key.toNat 4 ++ toLE e.weight.toNat 4

/-- A filler entry. -/
def filler : List Byte := toLE 0xFFFFFFFF 4 ++ List.replicate 12 0#8

/-- The bytes of a record: header, the selected entries, fillers. -/
def TRec.bytes (r : TRec) : List Byte :=
  toLE r.row 4 ++ toLE r.k 2 ++ toLE r.entries.length 2 ++ toLE r.tied 4 ++ toLE r.count 4
    ++ toLE (r.tr + 4 * b2n r.exact + 8 * b2n r.norm + 16 * b2n r.noise + 32 * b2n r.merged) 1
    ++ toLE (r.sel.special + 4 * r.left.special) 1 ++ toLE (min 0xFFFF r.dups) 2 ++ toLE r.rowMax.toNat 4
    ++ toLE (r.sel.word r.exact).toNat 4 ++ toLE (r.left.word r.exact).toNat 4
    ++ r.sel.field r.exact ++ r.left.field r.exact ++ List.replicate 16 0#8
    ++ r.entries.flatMap TEnt.bytes
    ++ (List.replicate (r.k - r.entries.length) filler).flatten

/-- A sum as a record's fields hold it. -/
def sumOfFields (special word field : Nat) : TSum :=
  { exact := signed 320 field, pos := special == 1, neg := special == 2, nan := special == 3
    f32 := BitVec.ofNat 32 word }

/-- A record read back. -/
def parseTRec (b : List Byte) : TRec :=
  let f := byteAt b 16
  let sp := byteAt b 17
  let valid := leAt b 6 2
  { row := leAt b 0 4, k := leAt b 4 2, tied := leAt b 8 4, count := leAt b 12 4, tr := f % 4, exact := bitAt f 2
    norm := bitAt f 3, noise := bitAt f 4, merged := bitAt f 5
    sel := sumOfFields (sp % 4) (leAt b 24 4) (leAt b 32 40)
    left := sumOfFields (sp / 4 % 4) (leAt b 28 4) (leAt b 72 40)
    dups := leAt b 18 2, rowMax := BitVec.ofNat 32 (leAt b 20 4)
    entries := (List.range valid).map (fun j =>
      ({ index := leAt b (128 + 16 * j) 4, value := BitVec.ofNat 32 (leAt b (132 + 16 * j) 4)
         key := BitVec.ofNat 32 (leAt b (136 + 16 * j) 4)
         weight := BitVec.ofNat 32 (leAt b (140 + 16 * j) 4) } : TEnt)) }

/-- Bytes of a record with K entries. -/
def tRecLen (k : Nat) : Nat := 128 + 16 * k

/-- Write a result record and count it (R118, R135). A merged record is counted at the root that forms it, not by the members
that only land it (DESIGN CHOICE, log 106). -/
def State.writeTRec (s : State) (a : Nat) (r : TRec) : State :=
  let s := s.write a r.bytes
  let s := if r.entries.length < r.k then s.sat rTopEvents 0 16 1 else s
  let s := if r.tied ≠ 0 then s.sat rTopEvents 16 16 1 else s
  if r.dups ≠ 0 then s.sat rTopDups 0 32 r.dups else s

/-! ### Row commands (R114 to R117, R123, R126) -/

def tpRowLen (b : List Byte) : Nat := leAt b 24 4
def tpRows (b : List Byte) : Nat := leAt b 28 4
def tpStride (b : List Byte) : Nat := leAt b 32 4
def tpFlags (b : List Byte) : Nat := byteAt b 36
def tpBf16 (b : List Byte) : Bool := bitAt (tpFlags b) 0
def tpNoise (b : List Byte) : Bool := bitAt (tpFlags b) 1
def tpNorm (b : List Byte) : Bool := bitAt (tpFlags b) 2
def tpMask (b : List Byte) : Bool := bitAt (tpFlags b) 3
def tpTr (b : List Byte) : Nat := bitsAt (tpFlags b) 4 2
def tpMaxGiven (b : List Byte) : Bool := bitAt (tpFlags b) 6
def tpCounts (b : List Byte) : Bool := bitAt (tpFlags b) 7
def tpK (b : List Byte) : Nat := byteAt b 37
def tpPrescale (b : List Byte) : F32 := BitVec.ofNat 32 (leAt b 40 4)
def tpSumScale (b : List Byte) : F32 := BitVec.ofNat 32 (leAt b 44 4)
def tpBase (b : List Byte) : Nat := leAt b 48 4
def tpMaxIn (b : List Byte) : F32 := BitVec.ofNat 32 (leAt b 52 4)

/-- The byte offset of the first field of a row command that R116 refuses (spec/13_control.md R395). Of a check on two fields
the one that the check names first stands, and for COUNTS the ROW_LEN it bounds (DESIGN CHOICE, log 107). PARAM_ADDR and OUT_ADDR
off their alignment are used as given (DESIGN CHOICE, log 108). -/
def tpCheck (b : List Byte) : Option Nat :=
  let l := tpRowLen b
  let rowBytes := l * (if tpBf16 b then 2 else 4)
  if tpK b < 1 ∨ 64 < tpK b then some 37
  else if l < 1 ∨ 2 ^ 24 < l then some 24
  else if tpRows b < 1 ∨ 2 ^ 24 < tpRows b then some 28
  else if tpStride b < rowBytes then some 32
  else if 0xFFFFFFFF < tpBase b + l then some 48
  else if tpNoise b = true ∧ 2 ^ 24 < tpBase b + l then some 48
  else if tpNoise b = true ∧ 2 ^ 40 < leAt b 64 5 + tpRows b then some 64
  else if !f32Finite (tpPrescale b) || (f32Dy (tpPrescale b)).isZero then some 40
  else if !f32Finite (tpSumScale b) || decide ((f32Dy (tpSumScale b)).m ≤ 0) then some 44
  else if tpMaxGiven b && !f32Finite (tpMaxIn b) then some 52
  else if tpCounts b = true ∧ 65536 < l then some 24
  else if leAt b 38 2 ≠ 0 then some 38
  else if leAt b 62 2 ≠ 0 then some 62
  else if leAt b 72 24 ≠ 0 then some 72
  else none

/-- The input score at position i of a row. -/
def State.score (s : State) (b : List Byte) (row i : Nat) : F32 :=
  let a := leAt b 0 8 + row * tpStride b
  if tpBf16 b then bf16ToF32 (BitVec.ofNat 16 (s.readNat (a + 2 * i) 2)) else BitVec.ofNat 32 (s.readNat (a + 4 * i) 4)

/-- The keys of positions i on, with their noise (R113, R126): the valid positions only. -/
def State.rowKeys (s : State) (b : List Byte) (exact : Bool) (row i : Nat) : Nat → List TEnt × State
  | 0 => ([], s)
  | n + 1 =>
    let x := s.score b row i
    let v := mulF32 x (tpPrescale b)
    let (key, s) :=
      if tpNoise b then
        let (r, s) := s.bitsFor exact (leAt b 56 6) (0x05 + 256 * leAt b 69 3)
          ((leAt b 64 5 + row) * 2 ^ 24 + (tpBase b + i)) 0
        (addF32 v (gumbelNoise r), s)
      else (v, s)
    let (t, s) := s.rowKeys b exact row (i + 1) n
    if tpMask b && x == f32Inf true then (t, s)
    else ({ index := tpBase b + i, value := v, key := key, weight := 0#32 } :: t, s)

/-- One row of a row command: its record, and the state after its draws and counts (R117 to R122). -/
def State.topRow (s : State) (b : List Byte) (exact : Bool) (row : Nat) : TRec × State :=
  let (valid, s) := s.rowKeys b exact row 0 (tpRowLen b)
  let ranked := rankAll valid
  let k := tpK b
  let sel := ranked.take k
  let mx := maxFinite (valid.map (·.value))
  let m := if tpTr b = 3 ∧ tpMaxGiven b = true then tpMaxIn b else mx
  let tOf := fun (e : TEnt) => transform (tpTr b) m (tpSumScale b) e.value
  let isSel := fun (e : TEnt) => sel.any (fun x => x.index == e.index)
  let terms := fun (l : List TEnt) => l.map (fun e => (e.index, tOf e))
  let selSum := rowSum exact s.free (terms (valid.filter isSel))
  let leftSum := rowSum exact s.free (terms (valid.filter (fun e => !isSel e)))
  let s := if exact then s else ({ s with free := s.free + 1 }).ndet rNdetSum 2 (leAt b 56 6) 0
  let s := if tpTr b = 3 then { s with sumScales := smSet (fun _ => none) s.sumScales m.toNat (some (tpSumScale b)) } else s
  let entries := sel.map (fun e => { e with weight := if tpNorm b then normWeight exact selSum (tOf e) else 0#32 })
  ({ row := row, k := k, tied := tiedOut ranked k, count := valid.length, tr := tpTr b, exact := exact, norm := tpNorm b
     noise := tpNoise b, merged := false, sel := selSum, left := leftSum, dups := 0, rowMax := m, entries := entries }, s)

/-- Every row of a row command from row number `row` on, with the selection counts (R117, R123). -/
def State.topRows (s : State) (b : List Byte) (exact : Bool) (row : Nat) (counts : SMap Nat) : Nat → SMap Nat × State
  | 0 => (counts, s)
  | n + 1 =>
    let (r, s) := s.topRow b exact row
    let s := s.writeTRec (leAt b 8 8 + row * tRecLen (tpK b)) r
    let counts := r.entries.foldl (fun c e =>
      let i := e.index - tpBase b
      smSet (fun _ => 0) c i (smGet (fun _ => 0) c i + 1)) counts
    s.topRows b exact (row + 1) counts n

/-- A whole row command that has passed its checks. -/
def State.runRows (s : State) (b : List Byte) : State :=
  let exact := s.fld rCtrl 0 1 == 0
  let (counts, s) := s.topRows b exact 0 [] (tpRows b)
  if tpCounts b then
    s.write (leAt b 16 8) ((List.range (tpRowLen b)).flatMap (fun i => toLE (smGet (fun _ => 0) counts i) 4))
  else s

/-! ### Merges (R128 to R131) -/

/-- The lists of a merge agree (R128). -/
def mergeAgrees : List TRec → Bool
  | [] => true
  | r :: t => !r.norm && t.all (fun x =>
      x.k == r.k && x.tr == r.tr && x.noise == r.noise && x.exact == r.exact && !x.norm
        && (r.tr != 3 || x.rowMax == r.rowMax))

/-- The kept entries, the copies discarded and COUNT (R129, R130). -/
def mergeKept : List TRec → List TEnt × Nat × Nat → List TEnt × Nat × Nat
  | [], acc => acc
  | r :: t, (kept, dups, total) =>
    mergeKept t (r.entries.foldl (fun (kept, dups, total) e =>
      if kept.any (fun x => x.index == e.index) then (kept, dups + 1, total - 1) else (kept ++ [e], dups, total))
      (kept, dups, total + r.count))

/-- LEFT_SUM of a list: in Exact mode that of a list whose EXACT is clear is its binary32 sum (DEDUCED, log 109). -/
def TRec.leftOf (r : TRec) (exact : Bool) : TSum :=
  if exact && !r.exact then { r.left with exact := if f32Finite r.left.f32 then (f32Dy r.left.f32).fixed 149 else 0 } else r.left

/-- The merge of R129 over lists in rank order. The k-th key is used when a k-th kept entry exists (DEDUCED, log 19). -/
def mergeLists (lists : List TRec) (norm exact : Bool) (scale : F32) : TRec :=
  let r0 := lists.headD (parseTRec [])
  let k := r0.k
  let (kept, dups, total) := mergeKept lists ([], 0, 0)
  let ranked := rankAll kept
  let sel := ranked.take k
  let tied :=
    match (ranked.drop (k - 1)).head? with
    | none => 0
    | some e => tiedOut ranked k + ((lists.filter (fun r => decide (r.entries.length = r.k)
        && (match r.entries.getLast? with
            | none => false
            | some x => orderKey x.key == orderKey e.key))).map (·.tied)).sum
  let mx := lists.foldl (fun m r => if orderKey m < orderKey r.rowMax then r.rowMax else m) r0.rowMax
  let tOf := fun (e : TEnt) => transform r0.tr mx scale e.value
  let isSel := fun (e : TEnt) => sel.any (fun x => x.index == e.index)
  let selSum := tSum ((kept.filter isSel).map tOf)
  let leftParts := (lists.map (·.leftOf exact)).foldl TSum.join TSum.zero
  let leftSum := ((kept.filter (fun e => !isSel e)).map tOf).foldl TSum.add leftParts
  { row := 0, k := k, tied := tied, count := total, tr := r0.tr, exact := exact, norm := norm, noise := r0.noise
    merged := true, sel := selSum, left := leftSum, dups := dups, rowMax := mx
    entries := (sel.take total).map (fun e =>
      { e with weight := if norm then normWeight exact selSum (tOf e) else 0#32 }) }

/-- SUM_SCALE of a merge under EXP2: that of the rows of this chip with the same ROW_MAX, which every part of a row has (R128),
else a free value (DESIGN CHOICE, log 18). -/
def State.scaleOf (s : State) (rowMax : F32) : F32 :=
  (smGet (fun _ => none) s.sumScales rowMax.toNat).getD (Config.mergeScale rowMax)

/-- A merge in the mode of the engine, with its counts of nondeterminism (R129, R134). -/
def State.mergeRun (s : State) (lists : List TRec) (norm : Bool) (exact : Bool) (step job : Nat) : TRec × State :=
  (mergeLists lists norm exact (s.scaleOf (lists.headD (parseTRec [])).rowMax),
   if exact then s else s.ndet rNdetSum 2 step job)

/-! ### Block top-k (R124) -/

/-- The binary32 values of a selection block with their offsets: the offsets chosen, and the count of tied ones left out. -/
def blockTop (k : Nat) (vs : List (Nat × F32)) : List Nat × Nat :=
  let ents := (vs.filter (fun p => !(f32Dy p.2).isZero || !f32Finite p.2)).map (fun p =>
    ({ index := p.1, value := p.2, key := p.2 &&& 0x7FFFFFFF#32, weight := 0#32 } : TEnt))
  let ranked := rankAll ents
  ((ranked.take k).map (·.index), tiedOut ranked k)

end Sys2Proof.Machine
end

