-- ==== Sys2Proof/Machine/Quantiser.lean ====
section
/-! DEFINITION. The Quantiser: survey, scale lead, conversion, narrowing, statistics, format state and activations
(spec/03_quantiser.md R85 to R107, spec/06_ply_reduction.md R176, R177). -/

namespace Sys2Proof.Machine

/-! ### Feed tags (spec/01_engine_and_step.md R31) -/

def tagQueue (t : BitVec 128) : Nat := bitsAt t.toNat 0 6
def tagJob (t : BitVec 128) : Nat := bitsAt t.toNat 6 12
def tagMicro (t : BitVec 128) : Bool := bitAt t.toNat 19
def tagOffset (t : BitVec 128) : Nat := bitsAt t.toNat 32 44

/-- The running reducing command that a Feed beat belongs to. -/
def State.feedCmd (s : State) (t : BitVec 128) : Option Cmd :=
  s.cmds.find? (fun c => c.q == tagQueue t && c.job == tagJob t && isReducing c.type && c.srcFeed
    && c.status.isNone)

/-! ### Policy slots and format state (R102 to R105, R110) -/

def polFld (c : Cmd) (lo w : Nat) : Nat := bankFld c.bank (rQntPolicy c.policy) lo w

/-- A policy slot that a collective refuses. -/
def polBad (bank : SMap Word) (slot : Nat) : Bool :=
  let f := bankFld bank (rQntPolicy slot)
  let badCls := fun (x : Nat) => decide (x < 1 ∨ 6 < x)
  f 0 2 == 3 || f 2 2 == 3 || badCls (f 4 4) || badCls (f 8 4) || badCls (f 12 4) || badCls (f 16 4)
    || decide (f 16 4 < f 12 4) || decide (f 25 5 ≤ f 20 5) || f 30 4 == 0 || decide (8 < f 34 4) || f 38 4 == 0

/-- Address of a command's format state word. -/
def Cmd.fmtAddr (c : Cmd) : Nat := (smGet regReset c.bank rQntFmtBase).toNat / 4 * 4 + 4 * c.bucketNo

/-- A format state word that the engine refuses (R105). -/
def fmtWordBad (v : Nat) : Bool :=
  bitAt v 15 && (decide (v % 16 < 1 ∨ 6 < v % 16) || decide (v / 16 % 16 < 1 ∨ 6 < v / 16 % 16)
    || bitsAt v 16 2 == 3 || decide (v / 2 ^ 18 ≠ 0))

/-- The class a command requests (R103, R104). -/
def requestClass (c : Cmd) (word : Nat) : Nat :=
  if bitAt word 15 then word / 16 % 16
  else match polFld c 0 2 with
    | 0 => polFld c 4 4
    | 1 => polFld c 8 4
    | _ => max (polFld c 12 4) (min (polFld c 16 4) (polFld c 8 4))

/-! ### Survey (R85, R86) -/

/-- Offsets within a group of its outliers (R86): `gs` are the values of its non-padding elements. -/
def outliers (m d : Nat) (gs : List Bf16) : List Nat :=
  let ents := (gs.zipIdx.filter (fun (g, _) => (bf16Val g).isFinite && !(bf16Dy g).isZero)).map (fun (g, i) =>
    ({ index := i, value := bf16ToF32 g, key := bf16ToF32 g &&& 0x7FFFFFFF#32, weight := 0#32 } : TEnt))
  if m = 0 || decide (ents.length < m + 1) then [] else
  let ranked := rankAll ents
  match (ranked.drop m).head? with
  | none => []
  | some e =>
    let t := (f32Dy e.value).expOf
    ((ranked.take m).filter (fun x => decide (t + (d : Int) ≤ (f32Dy x.value).expOf))).map (·.index)

/-- The outliers of a group of a command: none in sparse mode. -/
def Cmd.outliersOf (c : Cmd) (gs : List Bf16) : List Nat :=
  if c.sparse then [] else outliers (polFld c 34 4) (polFld c 38 4) gs

/-- The lead byte of a group from its gradients and the plane entries of its blocks (R85). -/
def leadByte (outs : List Nat) (gs : List Bf16) (erx : List Nat) : Nat :=
  let vs := (gs.zipIdx.filter (fun (_, i) => !outs.contains i)).map (fun (g, _) => bf16Val g)
  let eg := maxExp vs
  let er := (erx.filter (· ≠ 0)).foldl (fun (m : Option Int) x =>
    match m with
    | none => some ((x : Int) - 256)
    | some y => some (max y ((x : Int) - 256))) none
  let e : Option Int :=
    match eg, er with
    | none, none => none
    | some a, none => some a
    | none, some b => some b
    | some a, some b => some (max a b)
  match e with
  | none => 0
  | some x => (max (-127) (min 127 x) + 128).toNat

/-- The gradient of element j: the beat's value, or its sum with the micro-batch accumulator (spec/06_ply_reduction.md
R177). -/
def State.gradOf (s : State) (c : Cmd) (j : Nat) (x : Bf16) : Bf16 :=
  if c.aux = 0 then x
  else f32ToBf16 (addF32 (BitVec.ofNat 32 (s.readNat (c.aux + 4 * j) 4)) (bf16ToF32 x))

/-- A read of n gradients from element off, of a bucket in memory or of its micro-batch accumulator, is flagged
(spec/01_engine_and_step.md R39). -/
def State.sourceFlagged (s : State) (c : Cmd) (off n : Nat) : Bool :=
  (!c.srcFeed && s.flagged (c.src + 2 * off) (2 * n)) || (c.aux != 0 && s.flagged (c.aux + 4 * off) (4 * n))

/-- The gradients of a beat at element offset off, without its padding. -/
def State.beatGrads (s : State) (c : Cmd) (off : Nat) (xs : List Bf16) : List Bf16 :=
  ((xs.take (c.elements - off)).zipIdx).map (fun (x, i) => s.gradOf c (off + i) x)

/-- The step of a reducing command has committed or been withheld, or its collective has failed
(spec/05_coppice.md R149, R150): a fused step commits with its apply pass, any other command when it completes. -/
def Cmd.decided (c : Cmd) : Bool :=
  (match c.status with
   | some (st, _) => !isSuccess st
   | none => false)
    || (c.type == 0x12 && (c.upd.applied || c.outcome == some .withheld))

/-- No earlier step of the bucket is undecided on this chip (R151, R90). -/
def State.bucketFree (s : State) (c : Cmd) : Bool :=
  !s.cmds.any (fun d => isReducing d.type && d.bucketNo == c.bucketNo && decide (d.step < c.step) && !d.decided)

/-- Lead bytes of the groups of a list of gradients from element off (off is a multiple of the group size); none when a
plane entry is invalid. -/
def State.surveyGroups (s : State) (c : Cmd) (e : List Byte) (off : Nat) (m : SMap Nat) : Nat → List Bf16 → Option (SMap Nat)
  | 0, _ => some m
  | n + 1, gs =>
    if gs.isEmpty then some m else
    let grp := gs.take c.g
    let erx := (items (off / 32, c.g / 32)).map (fun j => if j < blockCount c.elements then s.oldErx e j else some 0)
    if erx.any (·.isNone) then none else
    let b := leadByte (c.outliersOf grp) grp (erx.map (fun x => x.getD 0))
    s.surveyGroups c e (off + c.g) (smSet (fun _ => 256) m (off / c.g) b) n (gs.drop c.g)

/-- Survey a run of gradients from an offset (R85); an invalid plane entry fails the command (R143). -/
def State.surveyRun (s : State) (c : Cmd) (off : Nat) (gs : List Bf16) (beats : List Nat) : State :=
  if s.sourceFlagged c off gs.length then s.memError c.q c.i .other
  else if s.residualFlagged c off gs.length then s.memError c.q c.i .residual
  else
  match s.surveyGroups c (s.entryOf c) off c.lead.own (gs.length / c.g + 1) gs with
  | none => s.fmtErr c.q c.i
  | some m => s.putCmd { c with lead := { c.lead with own := m, surveyed := c.lead.surveyed ++ beats } }

/-- Beats of a bucket (R90). -/
def Cmd.beatCount (c : Cmd) : Nat := cdiv c.elements 1024

/-- A beat of the survey channel (R85, R90, R151). -/
def effSurveyBeat (tag : BitVec 128) (payload : List Bf16) (s : State) : State :=
  match s.feedCmd tag with
  | none => s
  | some c =>
    if tagMicro tag then s.failCmd c.q c.i stInvalid 0
    else
      let b := tagOffset tag / 1024
      if !s.bucketFree c || c.lead.sent || c.lead.surveyed.contains b || decide (c.beatCount ≤ b) then s
      else s.surveyRun c (1024 * b) (s.beatGrads c (1024 * b) payload) [b]

/-! ### The scale lead (R87 to R90, spec/08_collectives.md R227) -/

/-- A lead entry: byte, class and CONTRIB in one number. -/
def mkLead (byte cls contrib : Nat) : Nat := byte + 256 * cls + 4096 * contrib
def leadB (v : Nat) : Nat := v % 256
def leadC (v : Nat) : Nat := v / 256 % 16
def leadN (v : Nat) : Nat := v / 4096

/-- The value of a map of lead entries that has none at a group. -/
def noLead (_ : Nat) : Nat := 2 ^ 64

def hasLead (m : SMap Nat) (g : Nat) : Bool := smGet noLead m g != 2 ^ 64

/-- The agreed lead byte and class of a group. -/
def Cmd.agreed (c : Cmd) (g : Nat) : Nat := smGet noLead c.lead.agreed g

/-- The lead is complete on this chip. -/
def Cmd.leadComplete (c : Cmd) : Bool := allIn (0, c.ng) (hasLead c.lead.agreed)

/-- The groups of beat b. -/
def Cmd.beatGroups (c : Cmd) (b : Nat) : Nat × Nat := (1024 * b / c.g, cdiv (min 1024 (c.elements - 1024 * b)) c.g)

/-- The agreed values of every group of beat b have arrived (R23, R90). -/
def Cmd.leadReady (c : Cmd) (b : Nat) : Bool := allIn (c.beatGroups b) (hasLead c.lead.agreed)

/-- The agreed class, which every agreed message of the bucket carries. -/
def Cmd.cls (c : Cmd) : Nat :=
  match c.lead.agreed with
  | [] => 0
  | (_, v) :: _ => leadC v

/-- Send lead messages for a range of groups whose entries a function gives (R87, R227). -/
def State.sendLead (s : State) (c : Cmd) (dst port ring hop contrib : Nat) (r : Nat × Nat) (val : Nat → Nat) : State :=
  let ds : List Draft := (cutRange 4080 r.1 (r.2 / 4080 + 1) r.2).map (fun p =>
    let m : LeadMsg := { bucket := c.bucketNo, step := c.step, cls := leadC (val p.1), gsize := c.gsize
                         bytes := (items p).map (fun g => leadB (val g)) }
    ({ offset := p.1, hop := hop, contrib := contrib, payload := m.encode } : Draft))
  s.sendDrafts c 2 dst port ring 0 true ds

/-- Stripe k of an eighth's range on the rings of a reducing command. -/
def Cmd.stripe (c : Cmd) (p k : Nat) : Nat × Nat := subRange (eighth c.ng p) c.redRings k

/-- The first hop of the Hedge stage: every stripe whose path starts at this chip (R223). -/
def State.leadHedge (s : State) (c : Cmd) : State :=
  let (w, o) := s.place c
  (List.range 8).foldl (fun s p =>
    (List.range c.redRings).foldl (fun s k =>
      if c.firstReduce k w p == o then
        match c.nextReduce k w p o with
        | none => s
        | some b => s.sendLead c (c.standAt w b) (ringPort k o b) k 1 1 (c.stripe p k)
            (fun g => mkLead (smGet (fun _ => 0) c.lead.own g) c.lead.cls 1)
      else s) s) s

/-- The Row stage starts: hop 1 in both directions; with one Hedge the Hedge sums are final. -/
def State.leadRow (s : State) (c : Cmd) : State :=
  let (w, o) := s.place c
  let roles := c.roles w o
  if c.hedges = 1 then
    s.putCmd { c with lead := { c.lead with rowSent := true, fin := c.lead.hedge } }
  else
    let s := s.putCmd { c with lead := { c.lead with rowSent := true } }
    roles.foldl (fun s p =>
      [0, 1].foldl (fun s d =>
        let tgt := rowStep c.hedges w (1 - d)
        let r := half (ownedRange c.ng c.hedges tgt p) d
        let val := fun g => smGet noLead c.lead.hedge g
        s.sendLead c (c.standAt (rowStep c.hedges w d) p) (rowPort d) (14 + d) 1 (leadN (val r.1)) r val) s) s

/-- The final owner gathers its ranges: the contributions must be complete (R227). -/
def State.leadGatherRow (s : State) (c : Cmd) : State :=
  let (w, o) := s.place c
  let roles := c.roles w o
  let owned := roles.map (fun p => ownedRange c.ng c.hedges w p)
  if owned.any (fun r => !allIn r (fun g => leadN (smGet noLead c.lead.fin g) == c.members)) then
    s.failCmd c.q c.i stContrib s.ownRank
  else
    let agreed := owned.foldl (fun m r => (items r).foldl (fun m g =>
      smSet noLead m g (smGet noLead c.lead.fin g % 4096)) m) c.lead.agreed
    let s := s.putCmd { c with lead := { c.lead with gathered := true, agreed := agreed } }
    if c.hedges = 1 then s else
    roles.foldl (fun s p =>
      [0, 1].foldl (fun s d =>
        let r := half (ownedRange c.ng c.hedges w p) d
        s.sendLead c (c.standAt (rowStep c.hedges w d) p) (rowPort d) (14 + d) 1 c.members r
          (fun g => smGet noLead agreed g)) s) s

/-- This chip's whole eighths are agreed: their stripes leave on the rings (R226). -/
def State.leadGatherHedge (s : State) (c : Cmd) : State :=
  let (w, o) := s.place c
  let s := s.putCmd { c with lead := { c.lead with hedgeGathered := true } }
  (c.roles w o).foldl (fun s p =>
    (List.range c.redRings).foldl (fun s k =>
      match c.nextGather k w p o with
      | none => s
      | some b => s.sendLead c (c.standAt w b) (ringPort k o b) k 1 c.members (c.stripe p k) (fun g => c.agreed g)) s) s

/-- Go on with each stage of the lead whose condition holds. -/
def State.leadAdvance (s : State) (q i : Nat) : State :=
  let stage := fun (ok : State → Cmd → Bool) (act : State → Cmd → State) (s : State) =>
    match s.cmd? q i with
    | none => s
    | some c => if c.status.isNone && ok s c then act s c else s
  let own := fun (s : State) (c : Cmd) => (c.roles (s.place c).1 (s.place c).2)
  let s := stage (fun s c => !c.lead.rowSent && (own s c).all (fun p => allIn (eighth c.ng p) (hasLead c.lead.hedge)))
    State.leadRow s
  let s := stage (fun s c => c.lead.rowSent && !c.lead.gathered
      && (own s c).all (fun p => allIn (ownedRange c.ng c.hedges (s.place c).1 p) (hasLead c.lead.fin)))
    State.leadGatherRow s
  stage (fun s c => c.lead.gathered && !c.lead.hedgeGathered
      && (own s c).all (fun p => allIn (eighth c.ng p) (hasLead c.lead.agreed)))
    State.leadGatherHedge s

/-- Every earlier reducing command of the queue has started its data phase (R90). -/
def State.leadTurn (s : State) (c : Cmd) : Bool :=
  s.cmds.all (fun d => !(d.q == c.q && isReducing d.type && decide ((d.i + 2 ^ 32 - c.i) % 2 ^ 32 ≥ 2 ^ 31) && !d.dataStarted
    && d.status.isNone))

/-- The Sequencer sends a bucket's lead (R90, R103). A source in memory is surveyed as the Sequencer reads it. -/
def effLeadSend (q i : Nat) (s : State) : State :=
  match s.cmd? q i with
  | none => s
  | some c =>
    if !isReducing c.type || c.status.isSome || c.lead.sent || !s.bucketFree c || !s.leadTurn c then s
    else
      let s := if c.srcFeed then s else
        s.surveyRun c 0 ((List.range c.elements).map (fun j =>
          s.gradOf c j (BitVec.ofNat 16 (s.readNat (c.src + 2 * j) 2)))) (List.range c.beatCount)
      match s.cmd? q i with
      | none => s
      | some c =>
        if c.status.isSome || !allIn (0, c.beatCount) (fun b => c.lead.surveyed.contains b) then s
        else
          let word := s.readNat c.fmtAddr 4
          if s.flagged c.fmtAddr 4 then s.memError q i .other
          else if fmtWordBad word then s.failCmd q i stData s.ownRank
          else
            let c := { c with lead := { c.lead with sent := true, cls := requestClass c word } }
            ((s.putCmd c).leadHedge c).leadAdvance q i

/-- One packet of a lead chunk: its first group and its message. -/
def leadParts (h : Held) : Option (List (Nat × LeadMsg)) :=
  h.pkts.mapM (fun p => (parseLead p.payload).map (fun m => (p.hdr.offset, m)))

/-- Store entries for consecutive groups. -/
def putLeads (m : SMap Nat) (first : Nat) (vs : List Nat) : SMap Nat :=
  vs.zipIdx.foldl (fun m (v, j) => smSet noLead m (first + j) v) m

/-- A lead message of this command as own entries would carry it combined with a received one (R88). -/
def combineLead (own : Nat → Nat) (first : Nat) (msg : LeadMsg) (contrib : Nat) (own1 : Nat) : List Nat :=
  msg.bytes.zipIdx.map (fun (b, j) =>
    mkLead (max b (leadB (own (first + j)))) (max msg.cls (leadC (own (first + j)))) (contrib + own1))

/-- One accepted lead message on its way (R223, R224, R226, R227). -/
def State.leadPart (s : State) (q i ring hop contrib : Nat) (part : Nat × LeadMsg) : State :=
  match s.cmd? q i with
  | none => s
  | some c =>
    let (first, msg) := part
    let n := msg.bytes.length
    let (w, o) := s.place c
    let p := eighthOf c.ng first
    let send := fun (s : State) (dst port hop contrib : Nat) (vals : List Nat) =>
      s.sendLead c dst port ring hop contrib (first, n) (fun g => vals.getD (g - first) 0)
    if contrib = c.members then
      let vals := msg.bytes.map (fun b => mkLead b msg.cls 0)
      let s := s.putCmd { c with lead := { c.lead with agreed := putLeads c.lead.agreed first vals } }
      if ring < 14 then
        match c.nextGather ring w p o with
        | none => s
        | some b => send s (c.standAt w b) (ringPort ring o b) (hop + 1) contrib vals
      else if hop < c.hedges - 1 then
        send s (c.standAt (rowStep c.hedges w (ring - 14)) p) (rowPort (ring - 14)) (hop + 1) contrib vals
      else s
    else if ring < 14 then
      let vals := combineLead (fun g => mkLead (smGet (fun _ => 0) c.lead.own g) c.lead.cls 1) first msg contrib 1
      match c.nextReduce ring w p o with
      | none => s.putCmd { c with lead := { c.lead with hedge := putLeads c.lead.hedge first vals } }
      | some b => send s (c.standAt w b) (ringPort ring o b) (hop + 1) (contrib + 1) vals
    else
      let own := fun g => smGet noLead c.lead.hedge g
      let add := leadN (own first)
      let vals := combineLead own first msg contrib add
      if hedgeOf c.ng c.hedges p first = w then
        s.putCmd { c with lead := { c.lead with fin := putLeads c.lead.fin first vals } }
      else send s (c.standAt (rowStep c.hedges w (ring - 14)) p) (rowPort (ring - 14)) (hop + 1) (contrib + add) vals

/-- The stretch of groups on which a lead message of this stage travels: a stripe on a ring, half of an owned range on the
Row (spec/08_collectives.md R223, R224, R226, R227). -/
def Cmd.leadRange (c : Cmd) (ring first : Nat) : Nat × Nat :=
  let p := eighthOf c.ng first
  if ring < 14 then c.stripe p ring
  else half (ownedRange c.ng c.hedges (hedgeOf c.ng c.hedges p first) p) (ring - 14)

/-- GROUPS of the own message that begins at a group (R87): messages hold at most 4,080 lead bytes. -/
def Cmd.leadGroups (c : Cmd) (ring first : Nat) : Nat :=
  let r := c.leadRange ring first
  min 4080 (r.1 + r.2 - first)

/-- A lead message agrees with this chip's command in BUCKET, STEP, GSIZE and GROUPS (R88). -/
def leadAgrees (c : Cmd) (ring : Nat) (part : Nat × LeadMsg) : Bool :=
  part.2.bucket == c.bucketNo && part.2.step == c.step && part.2.gsize == c.gsize
    && decide (part.1 < c.ng) && part.2.bytes.length == c.leadGroups ring part.1

/-- A LEAD chunk is taken by the Ply lanes (R88, R227). It waits until this chip's own lead, or for the Row stage its Hedge
lead, is there. -/
def effLeadChunk (src seq : Nat) (s : State) : State :=
  match s.heldChunk 2 src seq false with
  | none => s
  | some h =>
    match s.cmdOfJob h.hdr.job with
    | none => s
    | some c =>
      if !s.passable h || !isReducing c.type then s
      else
        match leadParts h with
        | none => s.badPayload h c.q c.i
        | some parts =>
          let ready := if h.hdr.contrib == c.members then true
                       else if h.hdr.ring < 14 then c.lead.sent else c.lead.rowSent
          if !ready && c.status.isNone then s
          else
            let s := (s.accept h).progress c.q c.i src true
            if c.status.isSome then s
            else if !parts.all (leadAgrees c h.hdr.ring) then s.failCmd c.q c.i stMismatch 0
            else
              (parts.foldl (fun s part => s.leadPart c.q c.i h.hdr.ring h.hdr.hop h.hdr.contrib part) s).leadAdvance
                c.q c.i

/-! ### Conversion (R89, R91 to R94) -/

/-- off(n) of R89. -/
def offOf (n : Nat) : Int :=
  match n with
  | 2 => 1
  | 4 => -2
  | 8 => -6
  | 12 => -10
  | 16 => -14
  | _ => -22

/-- The agreed exponent of a group (R89); −128 for an agreed lead byte of 0. -/
def Cmd.expOf (c : Cmd) (g : Nat) : Int :=
  let v := c.agreed g
  if leadB v = 0 then -128
  else max (-128) (min 127 ((leadB v : Int) - 128 + offOf (clsBits (leadC v))))

/-- What the conversion of one element gave: its code, its residual, and what it adds to the sums. -/
structure EOut where
  code : Int
  rho : Dy
  noise : Nat
  signal : Nat
  clamp : Nat
deriving DecidableEq, Repr

/-- Convert one non-outlier element at exponent e (R91, R92, R99). -/
def convElem (n : Nat) (e : Int) (r : Nat) (v : Dy) : EOut :=
  let lim : Int := 2 ^ (n - 1) - 1
  let y16 := v.floorAt (16 - e)
  let c0 := (y16 + r) / 65536
  let c := clampTo lim c0
  let ds := (y16 - c * 65536).natAbs / 256
  let ys := y16.natAbs / 256
  { code := c, rho := v.sub ⟨c, e⟩, noise := ds * ds, signal := ys * ys, clamp := b2n (decide (c ≠ c0)) }

/-- An element's value v: exact when finite, else what it is (R68, R91). -/
def elemVal (g : Bf16) (r : Dy) : FV :=
  match bf16Val g with
  | .nan => .nan
  | .inf n => .inf n
  | .fin n m e =>
    let v := (FV.fin n m e).dy.add r
    if f32Finite v.f32 then .fin (decide (v.m < 0)) v.m.natAbs v.e else .inf (decide (v.m < 0))

/-- The special record of values that are not all finite (R68): the sign of an INF record, none for NAN. -/
def specialSign (vs : List FV) : Option Bool :=
  if vs.any FV.isNan then none
  else
    let p := vs.any (fun v => decide (v = .inf false))
    let n := vs.any (fun v => decide (v = .inf true))
    if p && n then none else some n

/-- An INF or NAN group record of a class. -/
def specialRec (sg : Option Bool) (cls : Nat) : Rec :=
  { exp := 0, inf := sg.isSome, neg := sg.getD false, nan := sg.isNone, out := false, zero := false, cls := cls, codes := [] }

/-- Convert the elements of a list, each at its exponent, drawing its random bits (R80, R83, R91). -/
def State.convList (s : State) (c : Cmd) (n : Nat) : List (Nat × Int × Dy) → List EOut × State
  | [] => ([], s)
  | (k, e, v) :: t =>
    let (r, s) := s.bitsFor c.exact c.step 0x01 (c.paramBase + k) c.job
    let (rest, s) := s.convList c n t
    (convElem n e r v :: rest, s)

/-- Fold the outcomes of elements into the conversion's sums (R99, R100). -/
def Conv.addElems (v : Conv) (es : List EOut) : Conv :=
  { v with
    noise := v.noise + (es.map (·.noise)).sum
    signal := v.signal + (es.map (·.signal)).sum
    elements := v.elements + es.length
    clamped := v.clamped + (es.map (·.clamp)).sum }

/-- Write the residuals of the blocks of a run of elements from offset off, and account for them (R146, R147). -/
def State.putRhos (s : State) (e : List Byte) (off : Nat) (m : List Int) : Nat → List Dy → List Int × State
  | 0, _ => (m, s)
  | n + 1, rho =>
    if rho.isEmpty then (m, s) else
    let blk := rho.take 32
    let (k, s) := s.putBlock e (off / 32) (blk ++ List.replicate (32 - blk.length) Dy.zero)
    let (out, abs, rnd) := blockMass blk k
    s.putRhos e (off + 32) (addMass m [0, 0, out, abs, rnd]) n (rho.drop 32)

/-- The stored residuals of the elements of a run; none when a block is invalid (R139, R143). -/
def State.oldRhos (s : State) (e : List Byte) (off len : Nat) : Option (List Dy) :=
  ((items (off / 32, blockCount len)).mapM (fun j => s.oldBlock e j)).map (fun bs =>
    (bs.flatMap (fun b => (List.range 32).map b.val)).take len)

/-- Convert dense group k with the gradients of its non-padding elements (R91 to R93). -/
def State.convGroup (s : State) (c : Cmd) (e : List Byte) (k : Nat) (gs : List Bf16) : State :=
  if s.residualFlagged c (k * c.g) gs.length then s.memError c.q c.i .residual else
  match s.oldRhos e (k * c.g) gs.length with
  | none => s.fmtErr c.q c.i
  | some rs =>
    let vs := List.zipWith elemVal gs rs
    let cls := c.cls
    let ex := c.expOf k
    let massIn := (rs.map Dy.m160).sum
    let (rec, side, rho, v, s) :=
      if vs.any (fun v => !v.isFinite) then
        (specialRec (specialSign vs) cls, ([] : List SideEntry), rs,
         { c.conv with specialGroups := c.conv.specialGroups + 1 }, s)
      else if leadB (c.agreed k) = 0 then (zeroRec ex cls, [], vs.map FV.dy, c.conv, s)
      else
        let outs := c.outliersOf gs
        let idx := (List.range gs.length).filter (fun i => !outs.contains i)
        let (es, s) := s.convList c (clsBits cls) (idx.map (fun i => (k * c.g + i, ex, (vs.getD i .nan).dy)))
        let side : List SideEntry := ((List.range gs.length).filter (fun i => outs.contains i)).map (fun i =>
          { rank := s.job.rank, pos := i, value := ((vs.getD i .nan).dy.bf16Sat).toNat })
        let out := fun (i : Nat) => es[idx.idxOf i]?
        let codes := (List.range c.g).map (fun i => match out i with | some x => x.code | none => 0)
        let rho := (List.range gs.length).map (fun i =>
          match out i with
          | some x => x.rho
          | none =>
            let d := (vs.getD i .nan).dy
            d.sub (bf16Dy d.bf16Sat))
        let anyOut := !side.isEmpty
        let zero := codes.all (· == 0) && !anyOut
        ({ exp := ex, inf := false, neg := false, nan := false, out := anyOut, zero := zero, cls := cls
           codes := if zero then [] else codes }, side, rho,
         { c.conv.addElems es with outliers := c.conv.outliers + side.length }, s)
    let sent := if rec.special then 0 else
      ((rec.codesOf c.g).map (fun x => (⟨x, ex⟩ : Dy).m160)).sum
        + (side.map (fun x => (bf16Dy (BitVec.ofNat 16 x.value)).m160)).sum
    let s := s.write (c.contribAt cls k) rec.bytes
    let s := if side.isEmpty then s else s.write (c.sideAt cls k) (sideBytes k side)
    let s := s.sat rQntClamp 0 16 (v.clamped - c.conv.clamped)
    let (m, s) := s.putRhos e (k * c.g) (addMass v.mass [massIn, sent, 0, 0, 0]) (gs.length / 32 + 1) rho
    let v := { v with mass := m
                      sides := if side.isEmpty then v.sides else v.sides ++ [(k, sideBytes k side)] }
    s.putCmd { c with conv := v }

/-- Convert selection block b with the gradients of its non-padding elements (R94, spec/04_topiary.md R124, R125). -/
def State.convBlock (s : State) (c : Cmd) (e : List Byte) (b : Nat) (gs : List Bf16) : State :=
  let off := b * c.selBlock
  if s.residualFlagged c off gs.length then s.memError c.q c.i .residual else
  match s.oldRhos e off gs.length with
  | none => s.fmtErr c.q c.i
  | some rs =>
    let vs := List.zipWith elemVal gs rs
    let cls := c.cls
    let massIn := (rs.map Dy.m160).sum
    let (rec, rho, v, sent, s) :=
      if vs.any (fun v => !v.isFinite) then
        let sg := specialSign vs
        (({ block := b, inf := sg.isSome, neg := sg.getD false, nan := sg.isNone, cls := cls, entries := [] } : Sparse), rs,
         { c.conv with specialGroups := c.conv.specialGroups + cdiv gs.length c.g
                       specialBlocks := c.conv.specialBlocks + 1 }, (0 : Int), s)
      else
        let fs := vs.zipIdx.map (fun (v, i) => (i, v.dy.f32))
        let (chosen, tied) := blockTop c.selK fs
        let idx := (List.range gs.length).filter (fun i => chosen.contains i)
        let (es, s) := s.convList c (clsBits cls)
          (idx.map (fun i => (off + i, c.expOf ((off + i) / c.g), (vs.getD i .nan).dy)))
        let out := fun (i : Nat) => es[idx.idxOf i]?
        let rho := (List.range gs.length).map (fun i =>
          match out i with
          | some x => x.rho
          | none => (vs.getD i .nan).dy)
        let entries := List.zipWith (fun i (x : EOut) => (i, x.code)) idx es
        let sent := (List.zipWith (fun i (x : EOut) => (⟨x.code, c.expOf ((off + i) / c.g)⟩ : Dy).m160) idx es).sum
        let sq := fun (p : Nat × F32) => (p.1, mulF32 p.2 p.2)
        let valid := fs.filter (fun p => !(f32Dy p.2).isZero)
        let selS := sumOn c.conv.selSum c.exact s.free ((valid.filter (fun p => chosen.contains p.1)).map sq)
        let leftS := sumOn c.conv.leftSum c.exact s.free ((valid.filter (fun p => !chosen.contains p.1)).map sq)
        let s := if c.exact then s else { s with free := s.free + 1 }
        let s := if tied = 0 then s else s.sat rTopEvents 16 16 1
        ({ block := b, inf := false, neg := false, nan := false, cls := cls, entries := entries }, rho,
         { c.conv.addElems es with
           selSum := selS, leftSum := leftS
           selected := c.conv.selected + idx.length, tied := c.conv.tied + tied }, sent, s)
    let s := s.write (c.sparseAt b) rec.bytes
    let s := s.sat rQntClamp 0 16 (v.clamped - c.conv.clamped)
    let (m, s) := s.putRhos e off (addMass v.mass [massIn, sent, 0, 0, 0]) (gs.length / 32 + 1) rho
    s.putCmd { c with conv := { v with mass := m } }

/-- A conversion may proceed (R138): otherwise the command fails. -/
def State.stepOk (s : State) (c : Cmd) : Bool :=
  let e := s.entryOf c
  !bkValid e || decide (bkStep e < c.step)

/-- Convert the groups of a run of gradients from element off. -/
def State.convDense (s : State) (q i : Nat) (e : List Byte) (off : Nat) : Nat → List Bf16 → State
  | 0, _ => s
  | n + 1, gs =>
    match s.cmd? q i with
    | none => s
    | some c =>
      if gs.isEmpty || c.status.isSome then s
      else (s.convGroup c e (off / c.g) (gs.take c.g)).convDense q i e (off + c.g) n (gs.drop c.g)

/-- Convert the selection blocks whose beats are all there. -/
def State.convSparse (s : State) (q i : Nat) (e : List Byte) (blocks : List Nat) : State :=
  blocks.foldl (fun s b =>
    match s.cmd? q i with
    | none => s
    | some c =>
      let off := b * c.selBlock
      let len := min c.selBlock (c.elements - off)
      let gs := (items (off, len)).map (fun j =>
        ((smGet (fun _ => ([] : List Bf16)) c.conv.waiting (j / 1024)).getD (j % 1024) 0))
      if c.status.isSome then s else s.convBlock c e b gs) s

/-- The selection blocks completed by beat b. -/
def Cmd.blocksReady (c : Cmd) (b : Nat) : List Nat :=
  let first := 1024 * b / c.selBlock
  let last := (min (1024 * b + 1024) c.elements - 1) / c.selBlock
  (items (first, last + 1 - first)).filter (fun k =>
    let off := k * c.selBlock
    let len := min c.selBlock (c.elements - off)
    allIn (off / 1024, (off + len - 1) / 1024 + 1 - off / 1024) (fun x => x == b || c.conv.beats.contains x))

/-- Convert beat b of a bucket, whose gradients are given. -/
def State.convBeat (s : State) (c : Cmd) (b : Nat) (gs : List Bf16) : State :=
  if s.sourceFlagged c (1024 * b) gs.length then s.memError c.q c.i .other
  else if !s.stepOk c then (s.sat rCpcEvents 16 16 1).failCmd c.q c.i stMismatch 0
  else
    let e := s.entryOf c
    let ready := c.blocksReady b
    let waiting := if c.sparse then smSet (fun _ => ([] : List Bf16)) c.conv.waiting b gs else c.conv.waiting
    let c := { c with conv := { c.conv with beats := c.conv.beats ++ [b], waiting := waiting } }
    let s := s.putCmd c
    if c.sparse then
      let s := s.convSparse c.q c.i e ready
      match s.cmd? c.q c.i with
      | none => s
      | some c =>
        let still := c.conv.waiting.filter (fun p =>
          let first := 1024 * p.1 / c.selBlock
          let last := (min (1024 * p.1 + 1024) c.elements - 1) / c.selBlock
          !allIn (first, last + 1 - first) (fun k =>
            let off := k * c.selBlock
            let len := min c.selBlock (c.elements - off)
            allIn (off / 1024, (off + len - 1) / 1024 + 1 - off / 1024) (fun x => c.conv.beats.contains x)))
        s.putCmd { c with conv := { c.conv with waiting := still } }
    else s.convDense c.q c.i e (1024 * b) (gs.length / c.g + 1) gs

/-! ### Completion of a bucket's conversion (R100 to R105, spec/04_topiary.md R125, spec/05_coppice.md R148) -/

/-- The direction of R102: 0 hold, 1 widen, 2 narrow. -/
def direction (c : Cmd) : Nat :=
  let n := c.conv.noise
  let g := c.conv.signal
  if 0 < g ∧ g < n * 2 ^ polFld c 20 5 then 1 else if 0 < g ∧ n * 2 ^ polFld c 25 5 < g then 2 else 0

/-- The streak after this step, and the proposed class (R102). STREAK and DIR of a word whose VALID is clear are used as they
stand (DESIGN CHOICE, log 101). -/
def proposal (c : Cmd) (word : Nat) : Nat × Nat :=
  let d := direction c
  let st := if d ≠ 0 ∧ d = bitsAt word 16 2 then min 127 (bitsAt word 8 7 + 1) else if d = 0 then 0 else 1
  if d ≠ 0 ∧ polFld c 30 4 ≤ st then (0, if d = 1 then min 6 (c.cls + 1) else max 1 (c.cls - 1)) else (st, c.cls)

/-- The class requested for the next step (R103). -/
def resolved (c : Cmd) (prop : Nat) : Nat :=
  match polFld c 0 2 with
  | 0 => polFld c 4 4
  | 1 => prop
  | _ => max (polFld c 12 4) (min (polFld c 16 4) prop)

/-- The statistics record (R100). -/
def statRecord (c : Cmd) (streak prop : Nat) : List Byte :=
  let v := c.conv
  toLE c.step 6 ++ toLE c.job 2 ++ toLE c.bucketNo 4 ++ toLE (c.cls + 16 * prop) 1
    ++ toLE (resolved c prop + 16 * polFld c 0 2 + 64 * b2n (decide (c.cls ≠ c.lead.cls)) + 128 * b2n c.sparse) 1
    ++ toLE streak 1 ++ toLE (direction c) 1 ++ toLE v.elements 6 ++ toLE (min 0xFFFF v.specialGroups) 2
    ++ toLE (min 0xFFFFFFFF v.clamped) 4 ++ toLE (min 0xFFFFFFFF v.outliers) 4 ++ toLE v.noise 16 ++ toLE v.signal 16

/-- The Topiary record of a sparse bucket (spec/04_topiary.md R125). -/
def topRecord (c : Cmd) : List Byte :=
  let v := c.conv
  let f := fun (t : TSum) => if c.exact then t.field true else sliceB (toLE t.f32.toNat 4) 0 40
  toLE c.step 6 ++ toLE c.job 2 ++ toLE c.bucketNo 4 ++ toLE (cdiv c.elements c.selBlock) 4 ++ toLE c.selK 1
    ++ toLE (c.selLog2 + 128 * b2n c.exact) 1 ++ toLE (v.selSum.special + 4 * v.leftSum.special) 1 ++ toLE 0 1
    ++ toLE (min 0xFFFFFFFF v.specialBlocks) 4 ++ toLE v.selected 6 ++ toLE v.tied 6 ++ toLE 0 4
    ++ f v.selSum ++ f v.leftSum ++ toLE 0 8

/-- The image of a step has begun or is committed on this chip (spec/12_resilience.md R341, R345). -/
def State.ckpCovers (s : State) (step : Nat) : Bool :=
  (match s.ckp.image with
   | some m => m.step == step
   | none => false)
    || (s.fld rCkpStatus 48 1 == 1 && s.fld rCkpStatus 0 48 == step)

/-- A format state word is copied for the image of the step before its first write in a step (R342). -/
def State.copyWord (s : State) (c : Cmd) (word : Nat) : State :=
  if bankFld c.bank rCkpPolicy 0 1 = 0 ∨ c.step = 0 ∨ s.ckpCovers (c.step - 1) = true
     ∨ s.ckp.words.any (fun x => x.1 == c.step - 1 && x.2.1 == c.bucketNo) = true then s
  else { s with ckp := { s.ckp with words := s.ckp.words ++ [(c.step - 1, c.bucketNo, word)] } }

/-- A bucket's conversion on this chip completes: records, proposal and format state (R100 to R105). -/
def State.convFinish (s : State) (c : Cmd) : State :=
  let word := s.readNat c.fmtAddr 4
  let (streak, prop) := proposal c word
  let s := s.ringWrite c.bank rQntStatBase rQntStatCfg rQntStatHead rQntStatTail rQntStatDrop (statRecord c streak prop)
  let s := s.putMass c.bank (massRecord c.step c.job c.bucketNo (bkFmt (s.entryOf c)) c.sparse c.exact false c.conv.mass)
  let s := if c.sparse then
      let s := if c.exact then s else s.ndet rNdetSum 2 c.step c.job
      s.ringWrite c.bank rTopRingBase rTopRingCfg rTopRingHead rTopRingTail rTopRingDrop (topRecord c)
    else s
  let s := (s.copyWord c word).writeNat c.fmtAddr 4 (c.cls + 16 * resolved c prop + 256 * streak + 2 ^ 15 + 2 ^ 16 * direction c)
  s.putCmd { c with conv := { c.conv with done := true } }

/-- The conversion is finished when every beat has been converted. -/
def State.convCheck (s : State) (q i : Nat) : State :=
  match s.cmd? q i with
  | none => s
  | some c =>
    if !c.conv.done && c.status.isNone && allIn (0, c.beatCount) (fun b => c.conv.beats.contains b) then s.convFinish c
    else s

/-! ### Micro-batches (spec/06_ply_reduction.md R176, R177) -/

/-- A MICRO beat: added into the accumulator, or a failure. -/
def effMicroBeat (survey : Bool) (tag : BitVec 128) (payload : List Bf16) (s : State) : State :=
  match s.feedCmd tag with
  | none => s
  | some c =>
    if survey || c.aux == 0 then s.failCmd c.q c.i stInvalid 0
    else
      let off := tagOffset tag
      (payload.take (c.elements - off)).zipIdx.foldl (fun s (x, i) =>
        let a := c.aux + 4 * (off + i)
        s.writeNat a 4 (addF32 (BitVec.ofNat 32 (s.readNat a 4)) (bf16ToF32 x)).toNat) s

/-- The accumulator words of a converted beat return to +0 (R177): those of the bucket's elements, so a last, padded beat
zeroes fewer than 1,024 (DESIGN CHOICE, log 104). -/
def State.zeroAcc (s : State) (c : Cmd) (b : Nat) : State :=
  if c.aux = 0 then s
  else s.write (c.aux + 4096 * b) (List.replicate (4 * (min 1024 (c.elements - 1024 * b))) 0#8)

/-! ### Narrowing and Row re-quantisation (R95 to R98) -/

/-- The Row exponent a_h for an agreed exponent and class width (R95). -/
def rowExp (e : Int) (n h : Nat) : Int := e + max 0 ((n : Int) - 5 + (clog2 h : Int))

/-- Some exponent that the Row uses exceeds 127 (R98). -/
def Cmd.rowBeyond (c : Cmd) (k : Nat) : Bool := decide (127 < rowExp (c.expOf k) (clsBits c.cls) (max 1 (c.hedges - 1)))

/-- Codes divided by 2^sh under stochastic rounding and clamped to ±127, with the number of clamps (R82, R95, R96). -/
def State.requant (s : State) (c : Cmd) (stage sh k : Nat) : Nat → List Int → List Int × Nat × State
  | _, [] => ([], 0, s)
  | j, x :: t =>
    let (r, s) := s.bitsFor c.exact c.step stage (c.paramBase + k * c.g + j) c.job
    let y := (Dy.mk x 0).srAt (-(sh : Int)) r
    let (rest, n, s) := s.requant c stage sh k (j + 1) t
    (clampTo 127 y :: rest, n + b2n (decide (127 < y.natAbs)), s)

/-- A finite record re-quantised to Ply-8 at exponent `tgt` (R95, R96); ZERO stays ZERO, special records pass. -/
def State.toPly8 (s : State) (c : Cmd) (stage k : Nat) (tgt : Int) (r : Rec) : Rec × State :=
  if r.special then (r, s)
  else if r.zero then (zeroRec tgt 3, s)
  else
    let (codes, n, s) := s.requant c stage (tgt - r.exp).toNat k 0 r.codes
    let s := s.sat rQntClamp 16 16 n
    let zero := codes.all (· == 0) && !r.out
    ({ r with exp := tgt, cls := 3, zero := zero, codes := if zero then [] else codes }, s)

/-- The narrowed record of a Hedge sum (R95, R98). -/
def State.narrow (s : State) (c : Cmd) (k : Nat) (r : Rec) : Rec × State :=
  if r.special then (r, s)
  else if c.rowBeyond k then
    let codes := r.codesOf c.g
    match codes.find? (· ≠ 0) with
    | some x =>
      let t := codes.sum
      ({ specialRec (some (if t = 0 then decide (x < 0) else decide (t < 0))) 3 with out := r.out }, s)
    | none =>
      if r.out then ({ r with exp := 127, cls := 3, zero := false, codes := List.replicate c.g 0 }, s)
      else (zeroRec 127 3, s)
  else s.toPly8 c 0x02 k (rowExp (c.expOf k) (clsBits c.cls) 1) r

/-! ### Activations (R106, R107) -/

/-- Limit of a scale-set code: 127 for Ply-8, 7 for Ply-4. -/
def actLim (ply4 : Bool) : Int := if ply4 then 7 else 127

/-- The code of a value on a channel exponent, and whether the input was special. -/
def actCode (ply4 : Bool) (x : Int) (g : FV) : Int × Bool :=
  match g with
  | .nan => (0, true)
  | .inf n => (if n then -(actLim ply4) else actLim ply4, true)
  | .fin _ _ _ => (clampTo (actLim ply4) (g.dy.rneAt (-x)), false)

/-- The channel exponent of element j of a transfer under scale set t of a bank. -/
def State.actExp (s : State) (bank : SMap Word) (t j : Nat) : Int :=
  let ch := j % (bankFld bank (rQntActCfg t) 0 16 + 1)
  signed 8 (s.readNat ((smGet regReset bank (rQntActBase t)).toNat + ch) 1)

end Sys2Proof.Machine
end

