-- ==== Sys2Proof/Machine/Ply.lean ====
section
/-! DEFINITION. Ply and the Bobbin: hop adds, spills, pending area, landings, side tables, counts and the cross-check
(spec/06_ply_reduction.md R158 to R187, spec/08_collectives.md R223 to R225). -/

namespace Sys2Proof.Machine

/-! ### Where landed groups lie (R168, R169) -/

/-- The place of a landing slot: a first Bobbin word, or a near-tier address. -/
inductive Loc where
  | sram (word : Nat)
  | ext (addr : Nat)
deriving DecidableEq, Repr

/-- 64-bit word n of a slot. -/
def State.slotWord (s : State) (l : Loc) (n : Nat) : Nat :=
  match l with
  | .sram w => (s.bobWord (w + n)).toNat
  | .ext a => s.readNat (a + 8 * n) 8

/-- A read of n words of a slot is flagged (spec/01_engine_and_step.md R39). -/
def State.slotFlagged (s : State) (l : Loc) (n : Nat) : Bool :=
  match l with
  | .sram _ => false
  | .ext a => s.flagged a (8 * n)

def State.setSlotWord (s : State) (l : Loc) (n v : Nat) : State :=
  match l with
  | .sram w => s.setBobWord (w + n) (BitVec.ofNat 64 v)
  | .ext a => s.writeNat (a + 8 * n) 8 v

/-- The binary32 sum word of element i of a Relaxed slot. -/
def State.slotF32 (s : State) (l : Loc) (i : Nat) : F32 :=
  BitVec.ofNat 32 (s.slotWord l (1 + i / 2) / 2 ^ (32 * (i % 2)))

def State.setSlotF32 (s : State) (l : Loc) (i : Nat) (v : F32) : State :=
  s.setSlotWord l (1 + i / 2) (setBits (BitVec.ofNat 64 (s.slotWord l (1 + i / 2))) (32 * (i % 2)) 32 v.toNat).toNat

/-- 64-bit words of a landing slot. -/
def slotWords (g : Nat) (exact : Bool) : Nat := if exact then g + 1 else 1 + g / 2

/-- Owned group k of a landing map. -/
def slotLoc (m : List Byte) (g k : Nat) (exact : Bool) : Loc :=
  let n := slotWords g exact
  if k < mapSramGroups m then .sram (mapSramWord m + k * n) else .ext (mapExt m + (k - mapSramGroups m) * (8 * n))

/-- The role of a place for a group: the position whose eighth holds it. -/
def Cmd.roleOf (c : Cmd) (g : Nat) : Nat := eighthOf c.ng g

/-- The landing map that serves a role: the command's, or for a deputy's range the one of DEPUTY_JOB (spec/08_collectives.md
R230). -/
def Cmd.mapOf (c : Cmd) (o p : Nat) : List Byte := if p = o then c.map else c.deputyMap

/-- Groups of the deputy's ranges before role p, which share the deputy's map (DEDUCED, log 20). -/
def Cmd.beforeRole (c : Cmd) (w o p : Nat) (len : Nat → Nat) : Nat :=
  if p = o then 0 else (((c.roles w o).filter (fun x => x ≠ o ∧ x < p)).map len).sum

/-- The job identifier a role lands under. -/
def Cmd.jobOf (c : Cmd) (o p : Nat) : Nat := if p = o then c.job else leAt c.table 4 2 % 4096

/-- Owned index of group g at place (w, o). -/
def Cmd.ownIdx (c : Cmd) (w o g : Nat) : Nat :=
  let p := c.roleOf g
  c.beforeRole w o p (fun x => (ownedRange c.ng c.hedges w x).2) + (g - (ownedRange c.ng c.hedges w p).1)

/-- The landing slot of a group that this place owns. -/
def Cmd.landLoc (c : Cmd) (w o g : Nat) : Loc := slotLoc (c.mapOf o (c.roleOf g)) c.g (c.ownIdx w o g) c.exact

/-- The pending slot of a Hedge-owned group (R167): always integer landing. -/
def Cmd.pendLoc (c : Cmd) (w o g : Nat) : Loc :=
  let p := c.roleOf g
  let i := c.beforeRole w o p (fun x => (eighth c.ng x).2) + (g - (eighth c.ng p).1)
  .ext (mapPend (c.mapOf o p) + i * (8 * (c.g + 1)))

/-- Every group that place (w, o) finally owns. -/
def Cmd.ownedGroups (c : Cmd) (w o : Nat) : List Nat :=
  (c.roles w o).flatMap (fun p => items (ownedRange c.ng c.hedges w p))

/-- Place (w, o) is the final owner of a group. -/
def Cmd.owns (c : Cmd) (w o g : Nat) : Bool :=
  let p := c.roleOf g
  decide (g < c.ng) && c.deputy w p == o && hedgeOf c.ng c.hedges p g == w

/-- The rank of a group's final owner. -/
def Cmd.ownerRank (c : Cmd) (g : Nat) : Nat :=
  let p := c.roleOf g
  c.standAt (hedgeOf c.ng c.hedges p g) p

/-- The collective has a Row stage; it narrows unless WIDEN is set. -/
def Cmd.hasRow (c : Cmd) : Bool := decide (1 < c.hedges) && !c.sparse
def Cmd.narrows (c : Cmd) : Bool := c.hasRow && !c.widen

/-- The landing exponent of a group (R169): a_1 when narrowed, 127 under R98, else e. -/
def Cmd.landExp (c : Cmd) (g : Nat) : Int :=
  if c.narrows then (if c.rowBeyond g then 127 else rowExp (c.expOf g) (clsBits c.cls) 1) else c.expOf g

/-- Status word fields (R169). -/
def stExp (st : Nat) : Int := signed 8 st
def stInf (st : Nat) : Bool := bitAt st 8
def stNeg (st : Nat) : Bool := bitAt st 9
def stNan (st : Nat) : Bool := bitAt st 10
def stOut (st : Nat) : Bool := bitAt st 11
def stCount (st : Nat) : Nat := st / 2 ^ 32

/-- Set or clear bit n of a number. -/
def putBit (v n : Nat) (b : Bool) : Nat := v - b2n (bitAt v n) * 2 ^ n + b2n b * 2 ^ n

/-- The group is sampled in the command's step (R185). -/
def Cmd.sampled (c : Cmd) (g : Nat) : Bool :=
  let m := 2 ^ bankFld c.bank rPlyCfg 4 5 - 1
  bankFld c.bank rPlyCfg 9 1 == 1
    && decide ((c.paramBase / c.g + g + (lm64 (BitVec.ofNat 64 c.step)).toNat % (m + 1)) % (m + 1) = 0)

/-- The check adder recomputes an add or landing of a sampled group (R186). -/
def State.checked (s : State) (c : Cmd) (g : Nat) : State :=
  if c.sampled g then s.wr rPlyChecked (s.rd rPlyChecked + 1) else s

/-- The status word that a start writes (R170). -/
def Cmd.freshStatus (c : Cmd) (e : Int) (job g : Nat) : Nat := unsigned 8 e + b2w (c.sampled g) 13 + job * 2 ^ 16

/-- The status words of the groups this chip owns, written before anything lands (R170). -/
def State.initLanding (s : State) (c : Cmd) : State :=
  let (w, o) := s.place c
  (c.ownedGroups w o).foldl (fun s g =>
    s.setSlotWord (c.landLoc w o g) 0 (c.freshStatus (c.landExp g) (c.jobOf o (c.roleOf g)) g)) s

/-! ### Landing (R170, R171, R175, R182) -/

/-- The largest binary32 not above a finite non-zero value, and the smallest not below it; the value is within the finite
range. -/
def f32Around (z : Dy) : Dy × Dy :=
  let u := max (z.expOf - 23) (-149)
  let k := z.floorAt (-u)
  (⟨k, u⟩, if Dy.sub z ⟨k, u⟩ |>.isZero then ⟨k, u⟩ else ⟨k + 1, u⟩)

/-- land_sr of R175. -/
def landSr (acc : F32) (x : Dy) (r : Nat) : F32 :=
  match f32Val acc with
  | .nan => f32Nan
  | .inf n => f32Inf n
  | .fin _ _ _ =>
    let z := (f32Dy acc).add x
    if z.isZero then 0#32
    else if !(z.abs.lt ((Dy.mk 1 128).sub ⟨1, 103⟩)) then f32Inf (decide (z.m < 0))
    else if (Dy.mk 0xFFFFFF 104).lt z.abs then ((if z.m < 0 then (⟨-0xFFFFFF, 104⟩ : Dy) else ⟨0xFFFFFF, 104⟩)).f32
    else
      let (lo, hi) := f32Around z
      let gap := hi.sub lo
      let lhs := ((z.sub lo).scale 16).add ⟨gap.m * (r : Int), gap.e⟩
      let up := !(lhs.lt (gap.scale 16))
      (if gap.isZero then lo else if up then hi else lo).f32

/-- The value a special record lands in every word of a Relaxed slot (R175). -/
def specialF32 (r : Rec) : F32 := if r.nan then f32Nan else f32Inf r.neg

/-- Land the codes of a record, from element i on, in Relaxed words. -/
def State.landRelaxed (s : State) (l : Loc) (r : Rec) (first : Bool) (i : Nat) : List Int → State
  | [] => s
  | x :: t =>
    let acc := if first then 0#32 else s.slotF32 l i
    let (rnd, s) := s.draw
    let v := if r.special then addF32 acc (specialF32 r) else landSr acc ⟨x, r.exp⟩ rnd
    (s.setSlotF32 l i v).landRelaxed l r first (i + 1) t

/-- Land the codes of a record, from element i on, in integer words. -/
def State.landInt (s : State) (l : Loc) (first : Bool) (i : Nat) : List Int → State
  | [] => s
  | x :: t =>
    let old := if first then 0 else signed 64 (s.slotWord l (1 + i))
    (s.setSlotWord l (1 + i) (unsigned 64 (old + x))).landInt l first (i + 1) t

/-- A status word after a landing: OUT, INF and NAN combined, SPILLED, and COUNT raised (R69, R170). -/
def statusAfter (st : Nat) (r : Rec) (contrib : Nat) (spill : Bool) : Nat :=
  let old : Rec := { exp := 0, inf := stInf st && !stNan st, neg := stNeg st, nan := stNan st, out := false, zero := false
                     cls := 3, codes := [] }
  let (inf, neg, nan) := specialOf old r
  let st := putBit (putBit (putBit st 8 inf) 9 (inf && neg)) 10 nan
  let st := putBit (putBit st 11 (stOut st || r.out)) 12 (bitAt st 12 || spill)
  st % 2 ^ 32 + (stCount st + contrib) % 2 ^ 32 * 2 ^ 32

/-- A count passes its expected value: the surplus is counted and the command fails (R182). -/
def State.surplus (s : State) (q i src old new expected : Nat) : State :=
  if old ≤ expected ∧ expected < new then
    ((s.sat rPlyEvents 0 16 1).raise causeContrib).failCmd q i stContrib src
  else s

/-- Land one group record in a slot. `src` is the rank whose chunk brings it. A landing that would take COUNT past 2^32 is a
surplus as any other; the stored COUNT has 32 bits (R169, R182). -/
def State.landRec (s : State) (c : Cmd) (l : Loc) (g : Nat) (integer first : Bool) (r : Rec) (contrib : Nat) (spill : Bool)
    (expected src : Nat) : State :=
  if s.slotFlagged l (slotWords c.g integer) then s.memError c.q c.i .landingSlot else
  let st := s.slotWord l 0
  let codes := r.codesOf c.g
  let s := if integer then s.landInt l first 0 codes
    else (s.landRelaxed l r first 0 codes |>.ndet rNdetLand c.g c.step c.job).ndet rNdetDraw c.g c.step c.job
  let st' := statusAfter st r contrib spill
  let s := (s.setSlotWord l 0 st').checked c g
  s.surplus c.q c.i src (stCount st) (stCount st + contrib) expected

/-- Land a finished record of an owned group in the Bobbin (R164, R170). -/
def State.landOwned (s : State) (q i g : Nat) (r : Rec) (contrib : Nat) (spill : Bool) (src : Nat) : State :=
  match s.cmd? q i with
  | none => s
  | some c =>
    let (w, o) := s.place c
    let first := !c.red.stored.contains g
    let s := s.putCmd { c with red := { c.red with stored := if first then g :: c.red.stored else c.red.stored } }
    s.landRec c (c.landLoc w o g) g c.exact first r contrib spill (mapExpected (c.mapOf o (c.roleOf g))) src

/-! ### The Row operand (R164, R167, R434) -/

/-- The index of a group's Row operand: own eighth first, then the eighths this chip is deputy for (DEDUCED, log 20). -/
def Cmd.rowIdx (c : Cmd) (w o g : Nat) : Nat :=
  let p := c.roleOf g
  (if p = o then 0 else (eighth c.ng o).2 + c.beforeRole w o p (fun x => (eighth c.ng x).2)) + (g - (eighth c.ng p).1)

/-- The address of a group's Row operand on this chip. -/
def State.rowOpAddr (s : State) (c : Cmd) (g : Nat) : Nat :=
  c.rowOpAt c.cls (c.rowIdx (s.place c).1 (s.place c).2 g)

/-- Write the Row operand of a group and its local count. -/
def State.putRowOp (s : State) (q i g : Nat) (r : Rec) (localCount : Nat) : State :=
  match s.cmd? q i with
  | none => s
  | some c =>
    let s := s.write (s.rowOpAddr c g) r.bytes
    s.putCmd { c with red := { c.red with rowOp := smSet (fun _ => 0) c.red.rowOp g (1 + localCount) } }

/-- Class 6 records of codes within Ply-24, else the smallest class (R61). -/
def sumRec (e : Int) (out : Bool) (codes : List Int) : Rec :=
  let zero := codes.all (· == 0) && !out
  { exp := e, inf := false, neg := false, nan := false, out := out, zero := zero
    cls := if zero then 3 else sumClass codes, codes := if zero then [] else codes }

/-- Send spill records in chunks of their own (R165). -/
def State.sendSpills (s : State) (c : Cmd) (dst : Nat) (recs : List Spill) : State :=
  let s := s.wr rPlySpills (s.rd rPlySpills + BitVec.ofNat 64 recs.length)
  (recChunks Spill.bytes recs).foldl (fun s ch => s.sendDrafts c 4 dst 16 0 0 false (ch.map (fun l =>
    ({ offset := 0, hop := 0, contrib := 0, payload := l.flatMap Spill.bytes } : Draft)))) s

/-- The spill record of a group record. -/
def spillOf (c : Cmd) (row : Bool) (g : Nat) (r : Rec) (contrib : Nat) : Spill :=
  { group := g, gsize := c.gsize, row := row, body := r, contrib := contrib }

/-- The record a pending slot holds (R167). -/
def State.pendRec (s : State) (c : Cmd) (l : Loc) : Rec :=
  let st := s.slotWord l 0
  if stNan st || stInf st then
    { specialRec (if stNan st then none else some (stNeg st)) 3 with out := stOut st }
  else sumRec (stExp st) (stOut st) ((List.range c.g).map (fun i => signed 64 (s.slotWord l (1 + i))))

/-- A pending group whose count is complete goes on (R167). -/
def State.releasePending (s : State) (q i g : Nat) : State :=
  match s.cmd? q i with
  | none => s
  | some c =>
    let (w, o) := s.place c
    let l := c.pendLoc w o g
    let expected := mapHedgeExpected (c.mapOf o (c.roleOf g))
    if stCount (s.slotWord l 0) ≠ expected then s
    else
      let r := s.pendRec c l
      let s := s.setSlotWord l 0 0
      if c.narrows then
        let (n, s) := s.narrow c g r
        s.putRowOp q i g n expected
      else if r.special || !laneOverflow r.codes then s.putRowOp q i g r expected
      else
        let s := s.putRowOp q i g (zeroRec r.exp 3) 0
        let sp := spillOf c true g r expected
        if c.owns w o g then
          (s.wr rPlySpills (s.rd rPlySpills + 1)).landOwned q i g r expected true s.job.rank
        else s.sendSpills c (c.ownerRank g) [sp]

/-- Land a record in the pending area. -/
def State.landPending (s : State) (q i g : Nat) (r : Rec) (contrib : Nat) (spill : Bool) (src : Nat) : State :=
  match s.cmd? q i with
  | none => s
  | some c =>
    let (w, o) := s.place c
    let l := c.pendLoc w o g
    let st := s.slotWord l 0
    let first := stCount st = 0
    let s := if first then s.setSlotWord l 0 (c.freshStatus (c.expOf g) (c.jobOf o (c.roleOf g)) g) else s
    let s := s.landRec c l g true first r contrib spill (mapHedgeExpected (c.mapOf o (c.roleOf g))) src
    s.releasePending q i g

/-! ### Own records and the ring (R160, R165, R223) -/

/-- Groups, their records and local counts, cut into packets of at most 4,096 bytes, a packet ending where the count
changes (R59, R161). -/
def packRecs : List (Nat × Rec × Nat) → List (List (Nat × Rec × Nat))
  | [] => []
  | (g, r, n) :: t =>
    match packRecs t with
    | [] => [[(g, r, n)]]
    | [] :: rest => [(g, r, n)] :: rest
    | ((g', r', n') :: p) :: rest =>
      let len := (((g', r', n') :: p).map (fun x => x.2.1.bytes.length)).sum
      if n = n' ∧ r.bytes.length + len ≤ 4096 then ((g, r, n) :: (g', r', n') :: p) :: rest
      else [(g, r, n)] :: ((g', r', n') :: p) :: rest

/-- Greedy packets from the front, as a sender fills them (R59, R241). -/
def fillRecs : List (Nat × Rec × Nat) → List (Nat × Rec × Nat) → Nat → List (List (Nat × Rec × Nat))
  | [], cur, _ => if cur.isEmpty then [] else [cur]
  | (g, r, n) :: t, cur, len =>
    let l := r.bytes.length
    let same := match cur.getLast? with | some x => x.2.2 == n | none => true
    if cur.isEmpty || (same && decide (len + l ≤ 4096)) then fillRecs t (cur ++ [(g, r, n)]) (len + l)
    else cur :: fillRecs t [(g, r, n)] l

/-- Bytes of a record on the wire. -/
def recSize (x : Nat × Rec × Nat) : Nat := x.2.1.bytes.length

/-- Packets of sums as chunks of at most 64 KiB: a packet is split where the next record would pass it (R161, R241). -/
def chunkRecs : List (List (Nat × Rec × Nat)) → List (List (Nat × Rec × Nat)) → Nat → List (List (List (Nat × Rec × Nat)))
  | [], cur, _ => if cur.isEmpty then [] else [cur]
  | p :: t, cur, n =>
    match fillBy recSize (65536 - n) p [] 0 with
    | [] => chunkRecs t cur n
    | [a] => if n + (a.map recSize).sum ≤ 65536 then chunkRecs t (cur ++ [a]) (n + (a.map recSize).sum)
             else cur :: chunkRecs t [a] (a.map recSize).sum
    | a :: rest =>
      if n + (a.map recSize).sum ≤ 65536 then (cur ++ [a]) :: chunkRecs t [rest.flatten] (rest.flatten.map recSize).sum
      else cur :: chunkRecs t [p] (p.map recSize).sum

/-- A reducing packet of records. -/
def recDraft (hop : Nat) (p : List (Nat × Rec × Nat)) : Draft :=
  let (g, n) := match p with | (g, _, n) :: _ => (g, n) | [] => (0, 0)
  { offset := g, hop := hop, contrib := n, payload := p.flatMap (fun x => x.2.1.bytes) }

/-- This chip's contribution record of a group from the code buffer, none when it is invalid (R58). -/
def State.ownRec (s : State) (c : Cmd) (g : Nat) : Option Rec :=
  parseRec c.g (s.read (c.contribAt c.cls g) (c.contribStride c.cls))

/-- The Row operand of a group with its local count. -/
def State.rowRec (s : State) (c : Cmd) (g : Nat) : Option (Rec × Nat) :=
  let n := smGet (fun _ => 0) c.red.rowOp g
  if n = 0 then none
  else (parseRec c.g (s.read (s.rowOpAddr c g) (4 + 3 * c.g))).map (fun r => (r, n - 1))

/-- A read of the local records of some groups is flagged (spec/01_engine_and_step.md R39). -/
def State.localFlagged (s : State) (c : Cmd) (row : Bool) (gs : List Nat) : Bool :=
  gs.any (fun g => if row then s.flagged (s.rowOpAddr c g) (if c.widen then 4 + 3 * c.g else 4 + c.g)
    else s.flagged (c.contribAt c.cls g) (c.contribStride c.cls))

/-- Send the records of a stripe or Row half: chunks of at most 64 KiB, each filled into packets (R241). -/
def State.sendRecs (s : State) (c : Cmd) (dst port ring : Nat) (copy : Bool) (recs : List (Nat × Rec × Nat)) : State :=
  (fillBy recSize 65536 recs [] 0).foldl (fun s ch => s.sendDrafts c 1 dst port ring 0 copy ((fillRecs ch [] 0).map (fun p =>
    { recDraft 1 p with mem := if copy then p.map (fun x => (c.contribAt c.cls x.1, x.2.1.bytes.length)) else [] }))) s

/-- A record read from memory is invalid (R58). -/
def State.badMemory (s : State) (q i : Nat) : State := (s.raise causeFormat).failCmd q i stData s.ownRank

/-- Every element of group g has been converted. -/
def Cmd.converted (c : Cmd) (g : Nat) : Bool :=
  let off := g * c.g
  let len := min c.g (c.elements - off)
  allIn (off / 1024, (off + len - 1) / 1024 + 1 - off / 1024) (fun b => c.conv.beats.contains b)

/-- Hop 1 of one stripe: this chip's own records (R223). -/
def State.sendStripe (s : State) (q i p k : Nat) : State :=
  match s.cmd? q i with
  | none => s
  | some c =>
    let (w, o) := s.place c
    let r := c.stripe p k
    if c.conv.sent.contains (p, k) || c.firstReduce k w p != o || !allIn r c.converted then s
    else
      let s := s.putCmd { c with conv := { c.conv with sent := (p, k) :: c.conv.sent } }
      match c.nextReduce k w p o, (items r).mapM (fun g => (s.ownRec c g).map (fun x => (g, x, 1))) with
      | none, _ => s
      | some b, recs =>
        if s.localFlagged c false (items r) then s.memError q i .other
        else match recs with
          | none => s.badMemory q i
          | some recs => s.sendRecs c (c.standAt w b) (ringPort k o b) k true recs

/-- Entries in the side table that serves a role: the job's, or that of DEPUTY_JOB (R173, spec/08_collectives.md R230). -/
def Cmd.sideCountOf (c : Cmd) (o p : Nat) : Nat := if p = o then c.red.sideCount else c.red.sideDeputy

/-- The bytes of a side-table entry (R173). -/
def sideEntry (idx : Nat) (e : SideEntry) : List Byte :=
  toLE idx 4 ++ toLE e.rank 2 ++ toLE e.pos 1 ++ toLE (complB 1 e.pos) 1 ++ toLE e.value 2 ++ toLE 0 6

/-- Append side entries of an owned group to its side table: those that the table has room for; the others fail the command,
with their number in DETAIL (R173, spec/13_control.md R395). -/
def State.landSide (s : State) (q i g : Nat) (es : List SideEntry) : State :=
  match s.cmd? q i with
  | none => s
  | some c =>
    if c.status.isSome then s
    else
      let (w, o) := s.place c
      let p := c.roleOf g
      let m := c.mapOf o p
      let n := c.sideCountOf o p
      let fit := es.take (mapSideEntries m - n)
      let s := s.write (mapSide m + 16 * n) (fit.flatMap (sideEntry (c.ownIdx w o g)))
      let s := s.putCmd { c with red := if p = o then { c.red with sideCount := n + fit.length }
                                        else { c.red with sideDeputy := n + fit.length } }
      if fit.length < es.length then s.failCmd q i stExhausted (es.length - fit.length) else s

/-- Position and rank of every entry that a side table holds for an owned group. -/
def State.sideHeld (s : State) (c : Cmd) (g : Nat) : List (Nat × Nat) :=
  let (w, o) := s.place c
  let p := c.roleOf g
  (List.range (c.sideCountOf o p)).filterMap (fun n =>
    let b := s.read (mapSide (c.mapOf o p) + 16 * n) 16
    if leAt b 0 4 = c.ownIdx w o g then some (byteAt b 6, leAt b 4 2) else none)

/-- This chip's own side records go to each group's final owner (R95). -/
def State.sendSides (s : State) (q i : Nat) : State :=
  match s.cmd? q i with
  | none => s
  | some c =>
    if c.conv.sidesSent || !c.conv.done then s
    else
      let (w, o) := s.place c
      let s := s.putCmd { c with conv := { c.conv with sidesSent := true } }
      let mine := c.conv.sides.filter (fun x => c.owns w o x.1)
      let s := mine.foldl (fun s x =>
        match parseSide c.g x.2 with
        | none => s.badMemory q i
        | some (_, es, _) => s.landSide q i x.1 es) s
      c.memberList.foldl (fun s m =>
        let l := c.conv.sides.filter (fun x => !c.owns w o x.1 && c.ownerRank x.1 == m.rank)
        (recChunks (fun (x : Nat × List Byte) => x.2) l).foldl (fun s ch => s.sendDrafts c 3 m.rank 16 0 0 true (ch.map (fun b =>
          ({ offset := 0, hop := 0, contrib := 0, payload := b.flatMap (·.2)
             mem := b.map (fun x => (c.sideAt c.cls x.1, x.2.length)) } : Draft)))) s) s

/-! ### Sparse landings (R172, R225) -/

/-- The value words of a group's first sparse landing start from zero. -/
def State.clearSlot (s : State) (c : Cmd) (l : Loc) : State :=
  (List.range (slotWords c.g c.exact - 1)).foldl (fun s n => s.setSlotWord l (1 + n) 0) s

/-- Land one entry of a sparse record. -/
def State.landEntry (s : State) (c : Cmd) (l : Loc) (g pos : Nat) (code : Int) : State :=
  let s := if c.exact then s.setSlotWord l (1 + pos) (unsigned 64 (signed 64 (s.slotWord l (1 + pos)) + code))
    else
      let (r, s) := s.draw
      let v := landSr (s.slotF32 l pos) ⟨code, c.expOf g⟩ r
      ((s.setSlotF32 l pos v).ndet rNdetLand 1 c.step c.job).ndet rNdetDraw 1 c.step c.job
  s.checked c g

/-- Land a sparse-k record of a block this chip owns (R172). -/
def State.landSparse (s : State) (q i : Nat) (rec : Sparse) (src : Nat) : State :=
  match s.cmd? q i with
  | none => s
  | some c =>
    let (w, o) := s.place c
    let off := rec.block * c.selBlock
    let g0 := off / c.g
    let groups := items (g0, min (c.selBlock / c.g) (c.ng - g0))
    let fresh := groups.filter (fun g => !c.red.stored.contains g)
    let s := fresh.foldl (fun s g => s.clearSlot c (c.landLoc w o g)) s
    let c := { c with red := { c.red with stored := fresh ++ c.red.stored } }
    let s := s.putCmd c
    let s := rec.entries.foldl (fun s e =>
      let g := (off + e.1) / c.g
      s.landEntry c (c.landLoc w o g) g ((off + e.1) % c.g) e.2) s
    let sp := specialRec (if rec.nan then none else some rec.neg) 3
    let s := if !(rec.inf || rec.nan) then s
      else groups.foldl (fun s g =>
        let l := c.landLoc w o g
        let s := (s.setSlotWord l 0 (statusAfter (s.slotWord l 0) sp 0 false)).checked c g
        if c.exact then s
        else ((s.landRelaxed l sp false 0 (List.replicate c.g 0)).ndet rNdetLand c.g c.step c.job).ndet rNdetDraw c.g c.step c.job) s
    let l0 := c.landLoc w o g0
    let st := s.slotWord l0 0
    let s := s.setSlotWord l0 0 (st % 2 ^ 32 + (stCount st + 1) % 2 ^ 32 * 2 ^ 32)
    s.surplus q i src (stCount st) (stCount st + 1) (mapExpected (c.mapOf o (c.roleOf g0)))

/-- This chip's own sparse records: landed here, or sent to the owner of their block (R225). -/
def State.sendSparse (s : State) (q i : Nat) : State :=
  match s.cmd? q i with
  | none => s
  | some c =>
    if !c.conv.done || c.conv.sent.contains (0, 0) then s
    else
      let (w, o) := s.place c
      let s := s.putCmd { c with conv := { c.conv with sent := [(0, 0)] } }
      let blocks := List.range (cdiv c.elements c.selBlock)
      if s.flagged c.code (blocks.length * (16 + 8 * c.selK)) then s.memError q i .other
      else
      match blocks.mapM (fun b => (parseSparse c.selBlock c.elements (s.read (c.sparseAt b) (16 + 8 * c.selK))).map (·.1)) with
      | none => s.badMemory q i
      | some recs =>
        let grp := fun (r : Sparse) => r.block * c.selBlock / c.g
        let s := (recs.filter (fun r => c.owns w o (grp r))).foldl (fun s r => s.landSparse q i r s.job.rank) s
        c.memberList.foldl (fun s m =>
          let l := recs.filter (fun r => !c.owns w o (grp r) && c.ownerRank (grp r) == m.rank)
          (recChunks Sparse.bytes l).foldl (fun s ch => s.sendDrafts c 5 m.rank 16 0 0 true (ch.map (fun x =>
            ({ offset := (x.headD { block := 0, inf := false, neg := false, nan := false, cls := 0, entries := [] }).block
               hop := 0, contrib := 1, payload := x.flatMap Sparse.bytes
               mem := x.map (fun r => (c.sparseAt r.block, (Sparse.bytes r).length)) } : Draft)))) s) s

/-- Send every own record that is converted and not sent, and the side records at the end (R223, R225). -/
def State.sendOwn (s : State) (q i : Nat) : State :=
  match s.cmd? q i with
  | none => s
  | some c =>
    if !c.dataStarted || c.status.isSome then s
    else if c.sparse then s.sendSparse q i
    else
      let s := (List.range 8).foldl (fun s p => (List.range c.redRings).foldl (fun s k => s.sendStripe q i p k) s) s
      s.sendSides q i

/-- VALUE_BEAT: a value beat whose scales are agreed is converted (R91); once the data phase has started its
records leave as their stripes are whole. -/
def effValueBeat (tag : BitVec 128) (payload : List Bf16) (s : State) : State :=
  match s.feedCmd tag with
  | none => s
  | some c =>
    let b := tagOffset tag / 1024
    if tagMicro tag then effMicroBeat false tag payload s
    else if !s.bucketFree c || c.conv.beats.contains b || decide (c.beatCount ≤ b) then s
    else if !c.leadReady b then s.putCmd (c.stalled 1 b)
    else if s.copyHolds c then s.putCmd (c.stalled 2 b)
    else
      let s := s.convBeat (c.stalled 0 b) b (s.beatGrads c (1024 * b) payload)
      let s := s.zeroAcc c b
      (s.convCheck c.q c.i).sendOwn c.q c.i

/-! ### Hops (R162 to R167) -/

/-- The shift d(h) of R163. -/
def rowShift (n h : Nat) : Nat := (max 0 ((n : Int) - 5 + (clog2 h : Int)) - max 0 ((n : Int) - 5)).toNat

/-- A record at a Row hop aligned to the local exponent, none when its EXP or its codes break R163. -/
def alignRow (c : Cmd) (g hop : Nat) (a1 : Int) (r : Rec) : Option Rec :=
  if r.special then some r
  else if c.rowBeyond g then
    (if r.exp = 127 ∧ (r.codesOf c.g).all (· == 0) then some r else none)
  else
    let d := rowShift (clsBits c.cls) hop
    if r.exp = a1 + (d : Int) then some { r with exp := a1, codes := r.codes.map (fun x => x * ((2 ^ d : Nat) : Int)) } else none

/-- Two records may be added (R60). -/
def addable (a b : Rec) : Bool := a.special || b.special || a.zero || b.zero || decide (a.exp = b.exp)

/-- A packet of sums: group, record and outgoing CONTRIB. -/
def widePacket (c : Cmd) (hedge : Bool) (p : List (Nat × Rec × Nat)) : Bool :=
  let lim := clsLim (bankFld c.bank rPlyCfg 0 4)
  p.any (fun x => !x.2.1.special && (laneOverflow x.2.1.codes
    || (!(c.widen && hedge) && x.2.1.codes.any (fun v => decide (lim < (v.natAbs : Int))))))

/-- What is forwarded in place of a spilled packet (R167). -/
def resumed (p : List (Nat × Rec × Nat)) : List (Nat × Rec × Nat) :=
  p.map (fun x => (x.1, if x.2.1.special then x.2.1 else zeroRec x.2.1.exp 3, 0))

/-- Forward packets of sums on a ring, each spilled first where it is too wide (R161, R165, R167). -/
def State.forwardSums (s : State) (c : Cmd) (hedge : Bool) (dst port ring hop : Nat) (mayrow : Bool)
    (ps : List (List (Nat × Rec × Nat))) : State :=
  let cut := ps.flatMap (fun p => fillRecs p [] 0)
  let (out, s) := cut.foldl (fun (acc : List (List (Nat × Rec × Nat)) × State) p =>
    if mayrow && widePacket c hedge p then
      let g := match p with | x :: _ => x.1 | [] => 0
      let owner := if hedge then c.standAt (acc.2.place c).1 (c.roleOf g) else c.ownerRank g
      (acc.1 ++ [resumed p], acc.2.sendSpills c owner (p.map (fun x => spillOf c (!hedge) x.1 x.2.1 x.2.2)))
    else (acc.1 ++ [p], acc.2)) ([], s)
  (chunkRecs out [] 0).foldl (fun s ch => s.sendDrafts c 1 dst port ring 0 false (ch.map (recDraft hop))) s

/-- The sums of a Hedge hop that ends at this chip (R164, R167). A packet with a lane overflow spills: its records land in the
pending area of this chip, the Hedge owner, as spill records (R165). -/
def State.hedgeEnd (s : State) (q i src : Nat) (p : List (Nat × Rec × Nat)) : State :=
  match s.cmd? q i with
  | none => s
  | some c =>
    if !c.hasRow then p.foldl (fun s x => s.landOwned q i x.1 x.2.1 x.2.2 false src) s
    else
      let o := (s.place c).2
      let ok := p.all (fun x => decide (x.2.2 = mapHedgeExpected (c.mapOf o (c.roleOf x.1))) && (x.2.1.special || !laneOverflow x.2.1.codes))
      if ok then
        p.foldl (fun s x =>
          if c.narrows then
            let (n, s) := s.narrow c x.1 x.2.1
            s.putRowOp q i x.1 n x.2.2
          else s.putRowOp q i x.1 x.2.1 x.2.2) s
      else
        let spill := p.any (fun x => !x.2.1.special && laneOverflow x.2.1.codes)
        let s := if spill then s.wr rPlySpills (s.rd rPlySpills + BitVec.ofNat 64 p.length) else s
        p.foldl (fun s x => s.landPending q i x.1 x.2.1 x.2.2 spill src) s

/-- The sums of a Row hop that go on: re-quantised to a_(h+1), or exact under WIDEN (R96, R97). -/
def State.rowOn (s : State) (c : Cmd) (hop : Nat) : List (Nat × Rec × Nat) → List (Nat × Rec × Nat) × State
  | [] => ([], s)
  | (g, r, n) :: t =>
    let (r', s) := if c.narrows && !c.rowBeyond g then
        s.toPly8 c (0x03 + 256 * hop) g (rowExp (c.expOf g) (clsBits c.cls) (hop + 1)) r
      else (r, s)
    let (rest, s) := s.rowOn c hop t
    ((g, r', n) :: rest, s)

/-- The records of one packet of a reducing chunk, with their groups; none when the packet is invalid (R58, R59). -/
def packetRecs (c : Cmd) (p : Pkt) : Option (List (Nat × Rec)) :=
  match parseRecs c.g (p.payload.length / 4 + 1) p.payload with
  | none => none
  | some rs =>
    if p.hdr.offset + rs.length ≤ c.ng then some (rs.zipIdx.map (fun (r, j) => (p.hdr.offset + j, r))) else none

/-- EXP that the sum of a group must have where its path ends at this chip, none where it goes on (R170): the landing exponent,
and at the Hedge owner of a collective with a Row stage the agreed one, at which a pending slot lands and narrowing begins. -/
def State.endExp (s : State) (c : Cmd) (ring g : Nat) : Option Int :=
  let (w, o) := s.place c
  if ring < 14 then
    (if (c.nextReduce ring w (c.roleOf g) o).isSome then none else some (if c.hasRow then c.expOf g else c.landExp g))
  else if hedgeOf c.ng c.hedges (c.roleOf g) g = w then some (c.landExp g) else none

/-- This chip's record of a group at a hop, with its local count; none when memory holds an invalid one (R160). -/
def State.localRec (s : State) (c : Cmd) (ring g : Nat) : Option (Rec × Nat) :=
  if ring < 14 then (s.ownRec c g).map (fun b => (b, 1)) else s.rowRec c g

/-- The sum of an incoming record, aligned, and the local one (R162, R163); none when the incoming record is invalid. -/
def State.hopSum (s : State) (c : Cmd) (ring hop contrib g : Nat) (r b : Rec) (n : Nat) : Option (Nat × Rec × Nat) :=
  match (if 14 ≤ ring ∧ c.narrows = true then alignRow c g hop (c.landExp g) r else some r) with
  | none => none
  | some a =>
    let x := (plySum c.g a b).1
    if addable a b && (x.special || (match s.endExp c ring g with
        | none => true
        | some e => decide (x.exp = e))) then some (g, x, contrib + n) else none

/-- The sums of one packet: each incoming record added to the local one; none when the packet is invalid. A group without a
local record adds nothing here. -/
def State.hopSums (s : State) (c : Cmd) (p : Pkt) (rs : List (Nat × Rec)) : Option (List (Nat × Rec × Nat)) :=
  rs.mapM (fun (g, r) =>
    match s.localRec c p.hdr.ring g with
    | none => none
    | some (b, n) => s.hopSum c p.hdr.ring p.hdr.hop p.hdr.contrib g r b n)

/-- The local records of every group of a chunk are there (R160). -/
def Cmd.localReady (c : Cmd) (ring : Nat) (groups : List Nat) : Bool :=
  if ring < 14 then c.dataStarted && groups.all c.converted
  else c.red.rowStarted && groups.all (fun g => smGet (fun _ => 0) c.red.rowOp g != 0)

/-- The packets of a reducing chunk added and passed on (R161 to R167, R223, R224). -/
def State.reduceSums (s : State) (q i : Nat) (h : Held) (ps : List (List (Nat × Rec × Nat))) : State :=
  match s.cmd? q i, ps.flatten.head? with
  | some c, some (g0, _, _) =>
    let (w, o) := s.place c
    let ring := h.hdr.ring
    let p := c.roleOf g0
    let s := ps.flatten.foldl (fun s x => s.checked c x.1) s
    if ring < 14 then
      match c.nextReduce ring w p o with
      | none => ps.foldl (fun s x => s.hedgeEnd q i h.hdr.src x) s
      | some b => s.forwardSums c true (c.standAt w b) (ringPort ring o b) ring (h.hdr.hop + 1) true ps
    else
      let d := ring - 14
      if hedgeOf c.ng c.hedges p g0 = w then
        ps.flatten.foldl (fun s x => s.landOwned q i x.1 x.2.1 x.2.2 false h.hdr.src) s
      else
        let (qs, s) := ps.foldl (fun (acc : List (List (Nat × Rec × Nat)) × State) x =>
          let (y, s) := acc.2.rowOn c h.hdr.hop x
          (acc.1 ++ [packRecs y |>.flatten], s)) ([], s)
        s.forwardSums c false (c.standAt (rowStep c.hedges w d) p) (rowPort d) ring (h.hdr.hop + 1) c.widen qs
  | _, _ => s

/-- REDUCE_CHUNK (R159 to R167). The chunk waits until this chip's own records of its groups are there. -/
def effReduceChunk (src seq : Nat) (s : State) : State :=
  match s.heldChunk 1 src seq false with
  | none => s
  | some h =>
    match s.cmdOfJob h.hdr.job with
    | none => s
    | some c =>
      if !s.passable h || !isReducing c.type then s
      else
        match h.pkts.mapM (packetRecs c) with
        | none => s.badPayload h c.q c.i
        | some rs =>
          let gs := rs.flatten.map (·.1)
          if c.status.isSome then (s.accept h).progress c.q c.i src true
          else if !c.localReady h.hdr.ring gs then s
          else if s.localFlagged c (decide (14 ≤ h.hdr.ring)) gs then s.memError c.q c.i .other
          else if gs.any (fun g => (s.localRec c h.hdr.ring g).isNone) then s.badMemory c.q c.i
          else
            match (List.zip h.pkts rs).mapM (fun (p, r) => s.hopSums c p r) with
            | none => s.badPayload h c.q c.i
            | some ps => ((s.accept h).progress c.q c.i src true).reduceSums c.q c.i h ps

/-- Send the Row records of one role in one direction (R224); records that cannot be read fail the command. -/
def State.sendRow (s : State) (c : Cmd) (w p d : Nat) : State :=
  let tgt := rowStep c.hedges w (1 - d)
  let r := half (ownedRange c.ng c.hedges tgt p) d
  if s.localFlagged c true (items r) then s.memError c.q c.i .other else
  match (items r).mapM (fun g => (s.rowRec c g).map (fun x => (g, x.1, x.2))) with
  | none => s.badMemory c.q c.i
  | some recs => s.sendRecs c (c.standAt (rowStep c.hedges w d) p) (rowPort d) (14 + d) false recs

/-- ROW_PHASE_START (R224): the chip's whole eighths are narrowed, so hop 1 leaves in both directions. -/
def effRowPhaseStart (q i : Nat) (s : State) : State :=
  match s.cmd? q i with
  | none => s
  | some c =>
    let (w, o) := s.place c
    let roles := c.roles w o
    if !isReducing c.type || !c.hasRow || c.red.rowStarted || c.status.isSome || !c.dataStarted
       || !roles.all (fun p => allIn (eighth c.ng p) (fun g => smGet (fun _ => 0) c.red.rowOp g != 0)) then s
    else
      roles.foldl (fun s p => (s.sendRow c w p 0).sendRow c w p 1)
        (s.putCmd { c with red := { c.red with rowStarted := true } })

/-! ### Side, spill and sparse chunks (R62 to R67, R166, R172, R173) -/

/-- The data phase has started, so the landing slots are initialised: chunks before it wait. -/
def Cmd.landsNow (c : Cmd) : Bool := isReducing c.type && (c.dataStarted || c.status.isSome)

/-- SIDE_CHUNK: outlier entries for owned groups (R62, R63, R173). -/
def effSideChunk (src seq : Nat) (s : State) : State :=
  match s.heldChunk 3 src seq false with
  | none => s
  | some h =>
    match s.cmdOfJob h.hdr.job with
    | none => s
    | some c =>
      if !s.passable h || !c.landsNow then s
      else
        let (w, o) := s.place c
        match h.pkts.mapM (fun p => parseSides c.g (p.payload.length / 16 + 1) p.payload) with
        | none => s.badPayload h c.q c.i
        | some rs =>
          let all := rs.flatten
          let held := (all.map (·.1)).eraseDups.flatMap (fun g => (s.sideHeld c g).map (fun x => (g, x.1, x.2)))
          let pairs := held ++ all.flatMap (fun x => x.2.map (fun e => (x.1, e.pos, e.rank)))
          let eight := pairs.all (fun x => decide ((pairs.filter (fun y => y.1 == x.1 && y.2.2 == x.2.2)).length ≤ 8))
          if !all.all (fun x => c.owns w o x.1) || !pairs.Nodup || !eight then s.badPayload h c.q c.i
          else if c.status.isSome then (s.accept h).progress c.q c.i src true
          else all.foldl (fun s x => s.landSide c.q c.i x.1 x.2) ((s.accept h).progress c.q c.i src true)

/-- A spill record fits this chip's landing map and lead (R166). -/
def spillFits (c : Cmd) (w o : Nat) (r : Spill) : Bool :=
  let here := if r.row then c.owns w o r.group && c.widen && c.hasRow
    else decide (r.group < c.ng) && c.deputy w (c.roleOf r.group) == o
  r.gsize == c.gsize && here && (r.body.special || r.body.exp == c.expOf r.group)

/-- SPILL_CHUNK: spill records land at the chip that finishes their groups (R165 to R167). -/
def effSpillChunk (src seq : Nat) (s : State) : State :=
  match s.heldChunk 4 src seq false with
  | none => s
  | some h =>
    match s.cmdOfJob h.hdr.job with
    | none => s
    | some c =>
      if !s.passable h || !c.landsNow then s
      else
        let (w, o) := s.place c
        match h.pkts.mapM (fun p => parseSpills (p.payload.length / 16 + 1) p.payload) with
        | none => s.badPayload h c.q c.i
        | some rs =>
          let all := rs.flatten
          if (c.dataStarted || c.status.isNone) && !all.all (spillFits c w o) then s.badPayload h c.q c.i
          else if c.status.isSome then (s.accept h).progress c.q c.i src true
          else all.foldl (fun s r =>
            if r.row || !c.hasRow then s.landOwned c.q c.i r.group r.body r.contrib true src
            else s.landPending c.q c.i r.group r.body r.contrib true src) ((s.accept h).progress c.q c.i src true)

/-- SPARSE_CHUNK: sparse-k records of owned blocks (R65 to R67, R172). -/
def effSparseChunk (src seq : Nat) (s : State) : State :=
  match s.heldChunk 5 src seq false with
  | none => s
  | some h =>
    match s.cmdOfJob h.hdr.job with
    | none => s
    | some c =>
      if !s.passable h || !c.landsNow then s
      else
        let (w, o) := s.place c
        match h.pkts.mapM (fun p => parseSparses c.selBlock c.elements (p.payload.length / 16 + 1) p.payload) with
        | none => s.badPayload h c.q c.i
        | some rs =>
          let all := rs.flatten
          if !c.sparse || !all.all (fun r => c.owns w o (r.block * c.selBlock / c.g) && decide (r.block * c.selBlock < c.elements))
          then s.badPayload h c.q c.i
          else if c.status.isSome then (s.accept h).progress c.q c.i src true
          else all.foldl (fun s r => s.landSparse c.q c.i r src) ((s.accept h).progress c.q c.i src true)

/-! ### Completeness, shortfalls and the cross-check (R174, R183, R187) -/

/-- The status word of an owned group. -/
def State.groupStatus (s : State) (c : Cmd) (g : Nat) : Nat :=
  let (w, o) := s.place c
  s.slotWord (c.landLoc w o g) 0

/-- The group whose COUNT stands for a group: in a sparse job the first group of its block (R172, R174). -/
def Cmd.countGroup (c : Cmd) (g : Nat) : Nat := if c.sparse then g * c.g / c.selBlock * c.selBlock / c.g else g

/-- An owned group is complete (R174). -/
def State.groupDone (s : State) (c : Cmd) (g : Nat) : Bool :=
  let (_, o) := s.place c
  c.red.stored.contains g && stCount (s.groupStatus c (c.countGroup g)) == mapExpected (c.mapOf o (c.roleOf g))

/-- Every owned group is complete. -/
def State.allDone (s : State) (c : Cmd) : Bool :=
  let (w, o) := s.place c
  (c.ownedGroups w o).all (s.groupDone c)

/-- The owned groups whose COUNT is below its expected count. -/
def State.shortGroups (s : State) (c : Cmd) : List Nat :=
  let (w, o) := s.place c
  (c.ownedGroups w o).filter (fun g =>
    !c.dataStarted || decide (stCount (s.groupStatus c (c.countGroup g)) < mapExpected (c.mapOf o (c.roleOf g))))

/-- Report the incomplete groups of a reducing command as shortfalls (R183). -/
def State.reportShort (s : State) (q i rank : Nat) : State :=
  match s.cmd? q i with
  | none => s
  | some c =>
    if !isReducing c.type || c.upd.computed then s
    else
      let n := (s.shortGroups c).length
      if n = 0 then s
      else ((s.sat rPlyEvents 16 16 n).raise causeContrib).failCmd q i stContrib rank

/-- CHECK_ADDER_MISMATCH (R187): the check adder finds that an add of a sampled group was wrong. `group` is the group's
index in the bucket of the command at (q, i); when that command has gone, only the records are kept. -/
def effCheckAdderMismatch (q i group globalGroup job : Nat) (s : State) : State :=
  let s := (s.raise causeSde).sat rPlySde 0 32 1
  let s := s.wr rPlySdeAt (BitVec.ofNat 64 (globalGroup % 2 ^ 40 + job % 4096 * 2 ^ 40))
  match s.cmd? q i with
  | none => s
  | some c =>
    let (w, o) := s.place c
    let s := if isReducing c.type && c.dataStarted && c.owns w o group then
        let l := c.landLoc w o group
        s.setSlotWord l 0 (putBit (s.slotWord l 0) 14 true)
      else s
    if c.type = 0x12 ∧ c.upd.computed = false ∧ c.outcome.isNone = true then s.putCmd { c with upd := { c.upd with reasons := c.upd.reasons ||| 0x10 } } else s

end Sys2Proof.Machine
end

