-- ==== Sys2Proof/Machine/Espalier.lean ====
section
/-! DEFINITION. Espalier: ownership entries, update programs, the compute pass, publication, the step guard and the apply
pass (spec/07_espalier.md R191 to R209). -/

namespace Sys2Proof.Machine

/-! ### Ownership entries (R191) -/

def owFirst (e : List Byte) : Nat := leAt e 0 8
def owGroups (e : List Byte) : Nat := leAt e 8 4
def owProg (e : List Byte) : Nat := byteAt e 12 % 16
def owGsize (e : List Byte) : Nat := bitsAt (byteAt e 12) 4 2
def owCur (e : List Byte) : Bool := bitAt (byteAt e 12) 6
def owValid (e : List Byte) : Bool := bitAt (byteAt e 12) 7
def owStepLog2 (e : List Byte) : Nat := byteAt e 14
def owState (e : List Byte) : Nat := leAt e 16 8
def owStage (e : List Byte) : Nat := leAt e 24 8
def owPub (e : List Byte) (slot : Bool) : Nat := if slot then leAt e 40 8 else leAt e 32 8
def owStepAddr (e : List Byte) : Nat := leAt e 48 8
def owStep (e : List Byte) : Nat := leAt e 56 6

/-- Address of a job's ownership entry under a bank. -/
def owAddr (bank : SMap Word) (job : Nat) : Nat := (smGet regReset bank rEspOwnBase).toNat / 64 * 64 + 64 * job

/-- The checks of an ownership entry that come before the program (R191): 0 when good. -/
def owCheck (e m : List Byte) (first : Nat) : Nat :=
  if byteAt e 13 ≠ complB 1 (byteAt e 12) ∨ owGsize e = 3 ∨ 2 ^ 45 ≤ owFirst e ∨ byteAt e 14 / 32 ≠ 0 ∨ byteAt e 15 ≠ 0
     ∨ leAt e 62 2 ≠ 0 then stData
  else if 16 < owStepLog2 e ∨ owState e % 256 ≠ 0 ∨ owStage e % 256 ≠ 0 ∨ owPub e false % 256 ≠ 0 ∨ owPub e true % 256 ≠ 0
     ∨ owStepAddr e % 128 ≠ 0 then stInvalid
  else if owGroups e ≠ mapGroups m ∨ owGsize e ≠ mapGsize m ∨ owFirst e ≠ first then stMismatch
  else 0

/-- The entry after an applied step (R207). -/
def owCommitted (e : List Byte) (step : Nat) : List Byte :=
  let b := byteAt e 12 % 64 + 64 * b2n (!owCur e) + 128
  e.take 12 ++ toLE b 1 ++ toLE (complB 1 b) 1 ++ sliceB e 14 42 ++ toLE step 6 ++ toLE 0 2

/-! ### Update programs (R194, R195, R198) -/

def pgHead (img : List Byte) : Nat := leAt img 0 4
def pgLen (img : List Byte) : Nat := bitsAt (pgHead img) 0 7
def pgPlanes (img : List Byte) : Nat := bitsAt (pgHead img) 8 2
/-- Format of plane p: 2 for W (p = 0). -/
def pgFmt (img : List Byte) (p : Nat) : Nat := if p = 0 then 2 else bitsAt (pgHead img) (8 + 2 * p) 2
def pgPub (img : List Byte) : Nat := bitsAt (pgHead img) 16 4
def pgGsize (img : List Byte) : Nat := bitsAt (pgHead img) 20 2
def pgConst (img : List Byte) (n : Nat) : F32 := BitVec.ofNat 32 (leAt img (16 + 4 * n) 4)
def pgWord (img : List Byte) (i : Nat) : Nat := leAt img (144 + 4 * i) 4
def pgWords (img : List Byte) : List Nat := (List.range (pgLen img)).map (pgWord img)

def wOp (w : Nat) : Nat := bitsAt w 0 8
def wRd (w : Nat) : Nat := bitsAt w 8 4
def wRa (w : Nat) : Nat := bitsAt w 12 4
def wRb (w : Nat) : Nat := bitsAt w 16 4
def wRc (w : Nat) : Nat := bitsAt w 20 4
def wImm (w : Nat) : Nat := bitsAt w 24 8

/-- What an operation uses: RD, RA, RB, RC, and of IMM 0 nothing, 1 a plane, 2 a constant, 3 the mode, 4 plane and mode
(R198). -/
def opShape (op : Nat) : Option (Bool × Bool × Bool × Bool × Nat) :=
  match op with
  | 0x01 => some (true, false, false, false, 0)
  | 0x02 => some (true, false, false, false, 0)
  | 0x03 => some (true, false, false, false, 1)
  | 0x04 => some (true, false, false, false, 2)
  | 0x05 => some (false, true, false, false, 3)
  | 0x06 => some (false, true, false, false, 4)
  | 0x07 => some (false, true, false, false, 0)
  | 0x10 => some (true, true, false, false, 0)
  | 0x11 => some (true, true, true, false, 0)
  | 0x12 => some (true, true, true, false, 0)
  | 0x13 => some (true, true, true, false, 0)
  | 0x14 => some (true, true, true, false, 0)
  | 0x15 => some (true, true, true, true, 0)
  | 0x16 => some (true, true, true, true, 0)
  | 0x17 => some (true, true, false, false, 0)
  | 0x18 => some (true, true, false, false, 0)
  | 0x19 => some (true, true, true, false, 0)
  | 0x1A => some (true, true, true, false, 0)
  | 0x1B => some (true, true, false, false, 0)
  | 0x1C => some (true, true, false, false, 0)
  | 0x1D => some (true, true, false, false, 0)
  | 0x1E => some (true, true, true, false, 0)
  | 0x1F => some (true, true, true, true, 0)
  | 0x20 => some (true, true, false, false, 0)
  | _ => none

/-- One instruction word is well formed for a number of planes (R195). -/
def wordOk (planes w : Nat) : Bool :=
  match opShape (wOp w) with
  | none => false
  | some (rd, ra, rb, rc, k) =>
    let imm := wImm w
    let plane := decide (1 ≤ imm % 4) && decide (imm % 4 ≤ planes)
    (rd || wRd w == 0) && (ra || wRa w == 0) && (rb || wRb w == 0) && (rc || wRc w == 0)
      && (match k with
          | 0 => imm == 0
          | 1 => decide (imm < 4) && plane
          | 2 => decide (imm < 48)
          | 3 => decide (imm < 2)
          | _ => decide (imm < 8) && plane)

/-- An image of 512 bytes passes the checks of R195. -/
def progOk (img : List Byte) : Bool :=
  let h := pgHead img
  let ws := pgWords img
  let planes := pgPlanes img
  let fmtOk := [1, 2, 3].all (fun p =>
    let f := pgFmt img p
    f != 3 && (if p ≤ planes then f != 0 else f == 0))
  let pubs := ws.filter (fun w => wOp w == 0x07)
  leAt img 4 4 == complB 4 h && decide (1 ≤ pgLen img) && decide (pgLen img ≤ 64) && !bitAt h 7 && decide (h / 2 ^ 22 = 0)
    && fmtOk && decide (pgPub img ≤ 8) && pgGsize img != 3 && (pgPub img == 8 || pgGsize img == 0)
    && leAt img 8 8 == 0 && (img.drop 400).all (· == 0)
    && (List.range (64 - pgLen img)).all (fun i => pgWord img (pgLen img + i) == 0)
    && ws.all (wordOk planes)
    && decide ((ws.filter (fun w => wOp w == 0x05)).length ≤ 1)
    && [1, 2, 3].all (fun p => decide ((ws.filter (fun w => wOp w == 0x06 && wImm w % 4 == p)).length ≤ 1))
    && decide (pubs.length ≤ 1) && (pubs.isEmpty || pgPub img != 0)

/-- The store instruction of a plane: its number and its mode; W is plane 0. -/
def pgStore (img : List Byte) (p : Nat) : Option (Nat × Bool) :=
  ((pgWords img).zipIdx.find? (fun (w, _) =>
    if p = 0 then wOp w == 0x05 else wOp w == 0x06 && wImm w % 4 == p)).map (fun (w, i) =>
      (i, if p = 0 then bitAt (wImm w) 0 else bitAt (wImm w) 2))

def pgHasPub (img : List Byte) : Bool := (pgWords img).any (fun w => wOp w == 0x07)

/-- Offset of plane p in a state record, and the record's length (R192). -/
def planeOff (img : List Byte) : Nat → Nat
  | 0 => 0
  | p + 1 => planeOff img p + resLen (pgFmt img p)

def stateLen (img : List Byte) : Nat := planeOff img (pgPlanes img + 1)

/-! ### The arithmetic of programs (R197, R198) -/

def f32Below (a b : F32) : Bool := decide (orderKey a < orderKey b)
def f32Abs (a : F32) : F32 := a &&& 0x7FFFFFFF#32
def f32Neg (a : F32) : F32 := a ^^^ 0x80000000#32

/-- An arithmetic operation on operands none of which is NaN. -/
def alu (op : Nat) (a b c : F32) : F32 :=
  match op with
  | 0x10 => a
  | 0x11 => addF32 a b
  | 0x12 => subF32 a b
  | 0x13 => mulF32 a b
  | 0x14 => divF32 a b
  | 0x15 => fmaF32 a b c
  | 0x16 => fnmaF32 a b c
  | 0x17 => sqrtF32 a
  | 0x18 => rsqrtF32 a
  | 0x19 => if f32Below a b then b else a
  | 0x1A => if f32Below b a then b else a
  | 0x1B => f32Abs a
  | 0x1C => f32Neg a
  | 0x1D => if orderKey a = 0x80000000 then 0#32 else if a.getLsbD 31 then 0xBF800000#32 else 0x3F800000#32
  | 0x1E => if f32Below (f32Abs b) a then f32Abs b else if f32Below a (f32Neg (f32Abs b)) then f32Neg (f32Abs b) else a
  | _ => exp2Tab a

/-- The registers and stores of one element while its program runs. -/
structure Elem where
  regs : List F32
  stored : List (Nat × F32)
  pub : Option F32
deriving DecidableEq, Repr

/-- One instruction: `ldg` is the landed gradient, `plane` the values of W and the planes, `k` the constants and scalars. -/
def espStep (ldg : F32) (plane : Nat → F32) (k : Nat → F32) (x : Elem) (w : Nat) : Elem :=
  let r := fun i => x.regs.getD i 0#32
  let a := r (wRa w)
  let b := r (wRb w)
  let c := r (wRc w)
  let isNan := fun (v : F32) => (f32Val v).isNan
  let put := fun (v : F32) => { x with regs := x.regs.set (wRd w) v }
  match wOp w with
  | 0x01 => put ldg
  | 0x02 => put (plane 0)
  | 0x03 => put (plane (wImm w % 4))
  | 0x04 => put (k (wImm w))
  | 0x05 => { x with stored := (0, a) :: x.stored }
  | 0x06 => { x with stored := (wImm w % 4, a) :: x.stored }
  | 0x07 => { x with pub := some a }
  | 0x1F => put (if !isNan a && !a.getLsbD 31 then b else c)
  | op =>
    let (ua, ub, uc) := match opShape op with
      | some (_, ua, ub, uc, _) => (ua, ub, uc)
      | none => (false, false, false)
    if (ua && isNan a) || (ub && isNan b) || (uc && isNan c) then put f32Nan else put (alu op a b c)

/-- A whole program for one element (R196). -/
def runProg (img : List Byte) (ldg : F32) (plane : Nat → F32) (k : Nat → F32) : Elem :=
  (pgWords img).foldl (espStep ldg plane k) { regs := List.replicate 16 0#32, stored := [], pub := none }

/-! ### The landed gradient (R64, R173, R199) -/

/-- The side entries of an element of group g, in the side table of the role it belongs to: VALUEs in table order. -/
def State.sideValues (s : State) (c : Cmd) (g pos : Nat) : List Bf16 :=
  let (w, o) := s.place c
  let p := c.roleOf g
  let table := mapSide (c.mapOf o p)
  ((List.range (c.sideCountOf o p)).filter (fun j =>
    s.readNat (table + 16 * j) 4 == c.ownIdx w o g && s.readNat (table + 16 * j + 6) 1 == pos)).map (fun j =>
      BitVec.ofNat 16 (s.readNat (table + 16 * j + 8) 2))

/-- A read of a role's side table is flagged (spec/01_engine_and_step.md R39). -/
def State.sideFlagged (s : State) (c : Cmd) (o p : Nat) : Bool := s.flagged (mapSide (c.mapOf o p)) (16 * c.sideCountOf o p)

/-- The exact value of an element of a finite group in Exact mode (R199). -/
def State.sumExact (s : State) (c : Cmd) (g pos : Nat) : Dy :=
  let (w, o) := s.place c
  let l := c.landLoc w o g
  let st := s.slotWord l 0
  let side := if stOut st then s.sideValues c g pos else []
  side.foldl (fun a v => a.add (bf16Dy v)) ⟨signed 64 (s.slotWord l (1 + pos)), stExp st⟩

/-- The binary32 value of an element of an owned group as LDG gives it, and the state after the counts of Relaxed side
sums (R173, R199). -/
def State.ldg (s : State) (c : Cmd) (g pos : Nat) : F32 × State :=
  let (w, o) := s.place c
  let l := c.landLoc w o g
  let st := s.slotWord l 0
  if stNan st then (f32Nan, s)
  else if stInf st then (f32Inf (stNeg st), s)
  else if c.exact then ((s.sumExact c g pos).f32, s)
  else
    let word := s.slotF32 l pos
    let side := if stOut st then s.sideValues c g pos else []
    if side.isEmpty then (word, s)
    else
      let sum := side.foldl (fun a v => addF32 a (bf16ToF32 v)) 0#32
      (addF32 word sum, s.ndet rNdetSum side.length c.step c.job)

/-! ### Publication (R201 to R203) -/

/-- round(a / b) to an integer, ties to even; b is positive. -/
def rneQuot (a b : Dy) : Int :=
  let s := a.e - b.e
  let n := if 0 ≤ s then a.m.natAbs * 2 ^ s.toNat else a.m.natAbs
  let d := if 0 ≤ s then b.m.natAbs else b.m.natAbs * 2 ^ (-s).toNat
  let q := rneDiv n d
  if a.m < 0 then -(q : Int) else (q : Int)

/-- An asymmetric INT4 group: its side record and its codes (R76, R203). -/
def int4Encode (xs : List F32) : List Byte × List Nat :=
  let fin := (xs.filter f32Finite).map f32Dy
  let lo := fin.foldl (fun a x => if x.lt a then x else a) Dy.zero
  let hi := fin.foldl (fun a x => if a.lt x then x else a) Dy.zero
  let d := hi.sub lo
  let s : Bf16 := if d.isZero then 0x3F80#16
    else
      let r := ratBf16 false d.m.natAbs 15 d.e
      if r = 0#16 then 1#16 else r
  let z : Int := if d.isZero then 0 else max 0 (min 15 (rneQuot lo.neg (bf16Dy s)))
  let codes := xs.map (fun x =>
    match f32Val x with
    | .nan => z.toNat
    | .inf n => if n then 0 else 15
    | .fin _ _ _ => if d.isZero then 0 else (max 0 (min 15 (rneQuot (f32Dy x) (bf16Dy s) + z))).toNat)
  (toLE s.toNat 2 ++ toLE z.toNat 1 ++ toLE 0 1 ++ toLE codes.sum 2 ++ toLE 0 2, codes)

/-- Element and side bytes of a unit of published values: a block of 32, or for INT4 one group (R202). -/
def publish (fmt : Nat) (xs : List F32) : List Byte × List Byte :=
  if fmt = 1 then (xs.flatMap (fun x => toLE (f32ToBf16 x).toNat 2), [])
  else if isMx fmt then
    let (sc, ps) := mxEncode fmt (xs.map f32Val)
    (packBits (mxFmt fmt).width ps, toLE sc 1)
  else if fmt = 8 then
    let (side, codes) := int4Encode xs
    (packBits 4 codes, side)
  else ([], [])

/-! ### The compute pass (R192, R196, R200, R204, R208) -/

/-- One storage block of owned elements: the role it belongs to, its record number in that role's area, and the bucket
offset of its first element. -/
structure EBlk where
  role : Nat
  rec_ : Nat
  off : Nat
deriving DecidableEq, Repr

/-- Groups a role's area holds before the role's own range (DEDUCED, log 20), and its whole count. -/
def Cmd.roleBase (c : Cmd) (w o p : Nat) : Nat := c.beforeRole w o p (fun x => (ownedRange c.ng c.hedges w x).2)

def Cmd.roleTotal (c : Cmd) (w o p : Nat) : Nat :=
  if p = o then (ownedRange c.ng c.hedges w o).2
  else (((c.roles w o).filter (· ≠ o)).map (fun x => (ownedRange c.ng c.hedges w x).2)).sum

/-- Every storage block of a place, in role order. -/
def Cmd.espBlocks (c : Cmd) (w o : Nat) : List EBlk :=
  (c.roles w o).flatMap (fun p =>
    let r := ownedRange c.ng c.hedges w p
    (List.range (r.2 * c.g / 32)).map (fun j =>
      ({ role := p, rec_ := c.roleBase w o p * c.g / 32 + j, off := r.1 * c.g + 32 * j } : EBlk)))

def Cmd.ownOf (c : Cmd) (o p : Nat) : List Byte := if p = o then c.own else c.deputyOwn

/-- The program that runs on the elements of a role: the one its ownership entry's slot held when the step started (R191, R195,
spec/08_collectives.md R230). -/
def Cmd.progOf (c : Cmd) (o p : Nat) : List Byte := if p = o then c.prog else c.deputyProg

/-- Storage blocks processed together: one, or those of an INT4 group. -/
def unitBlocks (img : List Byte) : Nat := if pgHasPub img && pgPub img == 8 then int4Group (pgGsize img) / 32 else 1

/-- The next unit from a cursor: blocks of one role, within one INT4 group. -/
def Cmd.unitAt (c : Cmd) (w o cursor : Nat) : List EBlk :=
  match (c.espBlocks w o).drop cursor with
  | [] => []
  | b :: t =>
    let u := unitBlocks (c.progOf o b.role)
    b :: (t.take (u - 1 - b.rec_ % u)).takeWhile (fun x => decide (x.role = b.role) && decide (x.rec_ / u = b.rec_ / u))

/-- What the elements of a unit gave, and whether one of its reads was flagged. -/
structure UnitAcc where
  reasons : Nat
  nonfinite : Nat
  underflow : Nat
  pubs : List F32
  failed : Bool
deriving DecidableEq, Repr

/-- One element of a storage block (R196): its stores and publication; a padding element gives +0 everywhere. -/
def State.espElem (s : State) (c : Cmd) (img : List Byte) (scal : Nat → F32) (planes : List Blk) (b : EBlk) (i : Nat)
    (acc : UnitAcc) : Elem × UnitAcc × State :=
  let j := b.off + i
  if c.elements ≤ j then
    ({ regs := [], stored := [], pub := some 0#32 }, { acc with pubs := acc.pubs ++ [0#32] }, s)
  else
    let g := j / c.g
    let usesG := (pgWords img).any (fun w => wOp w == 0x01)
    let (v, s) := if usesG then s.ldg c g (j % c.g) else (0#32, s)
    let st := s.groupStatus c g
    let plane := fun p =>
      let k := planes.getD p zeroBlk
      if k.nan then f32Nan else (k.val i).f32
    let kOf := fun n => if n < 32 then pgConst img n else scal (n - 32)
    let x := runProg img v plane kOf
    let outs := x.stored.map (·.2) ++ x.pub.toList
    let bad := outs.any (fun y => !f32Finite y)
    let r1 := if usesG && !f32Finite v && !stInf st && !stNan st then 2 else 0
    let r2 := if bad && bankFld c.bank rEspCfg 1 1 == 1 then 4 else 0
    (x, { acc with reasons := acc.reasons ||| r1 ||| r2, nonfinite := acc.nonfinite + b2n bad
                   pubs := acc.pubs ++ [x.pub.getD 0#32] }, s)

/-- The elements of a storage block, from element i on. -/
def State.espElems (s : State) (c : Cmd) (img : List Byte) (scal : Nat → F32) (planes : List Blk) (b : EBlk) (acc : UnitAcc)
    (i : Nat) : Nat → List Elem × UnitAcc × State
  | 0 => ([], acc, s)
  | n + 1 =>
    let (x, acc, s) := s.espElem c img scal planes b i acc
    let (t, acc, s) := s.espElems c img scal planes b acc (i + 1) n
    (x :: t, acc, s)

/-- Random bits of the elements of a stochastic store (R200). -/
def State.storeBits (s : State) (c : Cmd) (ins off : Nat) : Nat → List Nat × State
  | 0 => ([], s)
  | n + 1 =>
    if c.elements ≤ off then
      let (t, s) := s.storeBits c ins (off + 1) n
      (0 :: t, s)
    else
      let (r, s) := s.bitsFor c.exact c.step (0x04 + 256 * ins) (c.paramBase + off) c.job
      let (t, s) := s.storeBits c ins (off + 1) n
      (r :: t, s)

/-- The bytes of plane p after its store (R200): `old` when the program does not store it. -/
def State.storePlane (s : State) (c : Cmd) (img : List Byte) (b : EBlk) (xs : List Elem) (p : Nat) (old : List Byte)
    (acc : UnitAcc) : List Byte × UnitAcc × State :=
  match pgStore img p with
  | none => (old, acc, s)
  | some (ins, m) =>
    let fmt := pgFmt img p
    let vals := xs.map (fun x => ((x.stored.find? (fun e => e.1 == p)).map (·.2)).getD 0#32)
    let (rs, s) := if m then s.storeBits c ins b.off 32 else (List.replicate 32 0, s)
    if vals.any (fun v => !f32Finite v) then
      (Blk.bytes { f := -160, q := List.replicate 32 0, nan := true } fmt, acc, s)
    else
      let ds := vals.map f32Dy
      let k := if m then encodeWith (resBits fmt) ds (fun f => List.zipWith (fun (d : Dy) r => d.srAt (-f) r) ds rs)
               else encodeBlock (resBits fmt) ds
      let under := ((List.zip ds k.q).filter (fun x => !x.1.isZero && x.2 == 0)).length
      (k.bytes fmt, { acc with underflow := acc.underflow + under }, s)

/-- The planes of a state record whose first n elements are the bucket's, none when one is invalid: also by a non-zero q of an
element beyond the bucket's count (R192, spec/05_coppice.md R143). -/
def recPlanes (img rec : List Byte) (n : Nat) : Option (List Blk) :=
  (List.range (pgPlanes img + 1)).mapM (fun p =>
    match parseBlk (pgFmt img p) true (sliceB rec (planeOff img p) (resLen (pgFmt img p))) with
    | none => none
    | some k => if (k.q.drop n).any (· != 0) then none else some k)

/-- The new bytes of planes p on of a record. -/
def State.storePlanes (s : State) (c : Cmd) (img : List Byte) (b : EBlk) (xs : List Elem) (rec : List Byte) (acc : UnitAcc)
    (p : Nat) : Nat → List Byte × UnitAcc × State
  | 0 => ([], acc, s)
  | n + 1 =>
    let (x, acc, s) := s.storePlane c img b xs p (sliceB rec (planeOff img p) (resLen (pgFmt img p))) acc
    let (t, acc, s) := s.storePlanes c img b xs rec acc (p + 1) n
    (x ++ t, acc, s)

/-- A block whose data cannot be used sets DATA_ERR; it stages nothing and publishes zeros (R204). -/
def UnitAcc.dataErr (a : UnitAcc) (failed : Bool) : UnitAcc :=
  { a with reasons := a.reasons ||| 8, pubs := a.pubs ++ List.replicate 32 0#32, failed := a.failed || failed }

/-- A read of the state record, the step scalars or the landing slot of a block is flagged (R204). -/
def State.blockFlagged (s : State) (c : Cmd) (o len : Nat) (b : EBlk) : Bool :=
  let (w, _) := s.place c
  let own := c.ownOf o b.role
  s.flagged (owState own + b.rec_ * len) len || s.flagged (owStepAddr own + 128 * (c.step % 2 ^ owStepLog2 own)) 64
    || s.slotFlagged (c.landLoc w o (b.off / c.g)) (slotWords c.g c.exact)

/-- One storage block of the compute pass: its elements run, its planes are staged. -/
def State.espBlock (s : State) (c : Cmd) (img : List Byte) (o : Nat) (b : EBlk) (acc : UnitAcc) : UnitAcc × State :=
  let own := c.ownOf o b.role
  let len := stateLen img
  if s.blockFlagged c o len b then (acc.dataErr true, s.raise causeMemory) else
  let old := s.read (owState own + b.rec_ * len) len
  let st := s.groupStatus c (b.off / c.g)
  let acc := if stInf st || stNan st then { acc with reasons := acc.reasons ||| 1 } else acc
  match recPlanes img old (c.elements - b.off) with
  | none => (acc.dataErr false, s)
  | some planes =>
    let scal := fun n => BitVec.ofNat 32 (s.readNat (owStepAddr own + 128 * (c.step % 2 ^ owStepLog2 own) + 4 * n) 4)
    let (xs, acc, s) := s.espElems c img scal planes b acc 0 32
    let (bytes, acc, s) := s.storePlanes c img b xs old acc 0 (pgPlanes img + 1)
    (acc, s.write (owStage own + b.rec_ * len) bytes)

/-- The blocks of a unit. -/
def State.espBlocksRun (s : State) (c : Cmd) (img : List Byte) (o : Nat) (acc : UnitAcc) : List EBlk → UnitAcc × State
  | [] => (acc, s)
  | b :: t =>
    let (acc, s) := s.espBlock c img o b acc
    s.espBlocksRun c img o acc t

/-- The records of this command are pushed into the copy stream, which keeps them: always while LGX_CKP_POLICY.ENABLE is 1
(spec/01_engine_and_step.md R26, spec/12_resilience.md R342). -/
def Cmd.copies (c : Cmd) : Bool := bankFld c.bank rCkpPolicy 0 1 == 1

/-- The copy stream accepts the pushes of some blocks: the image of the step before has begun or is committed, and the
64-record buffer has room (R341, R346). A push that no image holds, of step 0 or of a step whose image was refused, is accepted
too (DEDUCED, log 113). -/
def State.pushRoom (s : State) (c : Cmd) (n : Nat) : Bool :=
  !c.copies || ((c.step == 0 || s.ckpCovers (c.step - 1) || s.ckp.refused.any (fun r => r.1 == c.step - 1))
    && decide (s.ckp.pushes.length + n ≤ 64))

/-- The pushes of the records of a unit. -/
def State.pushBlocks (s : State) (c : Cmd) (o len : Nat) (blks : List EBlk) : State :=
  if !c.copies then s
  else { s with ckp := { s.ckp with pushes := s.ckp.pushes ++ blks.map (fun b =>
    { q := c.q, i := c.i, job := c.jobOf o b.role, rec_ := b.rec_, bytes := s.read (owState (c.ownOf o b.role) + b.rec_ * len) len }) } }

/-- Compute one unit of blocks at place (w, o): their pushes, their updates into staging, their publication into the other slot
(R196 to R205). -/
def State.computeUnit (s : State) (c : Cmd) (w o : Nat) (blks : List EBlk) : State :=
  let img := c.progOf o (blks.headD ⟨o, 0, 0⟩).role
  if (pgWords img).any (fun x => wOp x == 0x01) && blks.any (fun b => s.sideFlagged c o b.role) then s.memError c.q c.i .other else
  let u := unitBlocks img
  let s := s.pushBlocks c o (stateLen img) blks
  let acc0 : UnitAcc := { reasons := c.upd.reasons, nonfinite := c.upd.nonfinite, underflow := c.upd.underflow, pubs := [], failed := false }
  let (acc, s) := s.espBlocksRun c img o acc0 blks
  let s :=
    match blks with
    | [] => s
    | b0 :: _ =>
      if pgHasPub img then
        let own := c.ownOf o b0.role
        let fmt := pgPub img
        let base := owPub own (!owCur own)
        let n := c.roleTotal w o b0.role * c.g
        let (el, side) := publish fmt acc.pubs
        let s := s.write (base + b0.rec_ * 32 * fmtBits fmt / 8) el
        if side.isEmpty then s else s.write (base + sidePlaneAt fmt n + b0.rec_ / u * side.length) side
      else s
  let s := s.sat rEspNonfinite 0 32 (acc.nonfinite - c.upd.nonfinite)
  let cur := c.upd.cursor + blks.length
  s.putCmd { c with readError := c.readError || acc.failed, upd := { c.upd with
    cursor := cur, computed := decide ((c.espBlocks w o).length ≤ cur), reasons := acc.reasons
    nonfinite := acc.nonfinite, underflow := acc.underflow } }

/-- UPDATE_COMPUTE_PASS (R196, R208): the next unit of owned storage blocks; after the last one the local vote stands. -/
def effUpdateComputePass (q i : Nat) (s : State) : State :=
  match s.cmd? q i with
  | none => s
  | some c =>
    let (w, o) := s.place c
    if c.type != 0x12 || c.status.isSome || !c.dataStarted || c.upd.computed || !s.allDone c then s
    else
      let blks := c.unitAt w o c.upd.cursor
      if blks.isEmpty then s.putCmd { c with upd := { c.upd with computed := true } }
      else if !s.pushRoom c blks.length then s else s.computeUnit c w o blks

/-! ### The outcome (R205 to R207) and pending programs (R195, spec/13_control.md R377) -/

/-- A started step names a program slot, in its own entry or in that of DEPUTY_JOB, and its outcome is not decided. -/
def State.slotNamed (s : State) (slot : Nat) : Bool :=
  s.cmds.any (fun c => c.type == 0x12 && c.outcome.isNone
    && (owProg c.own == slot || (!c.deputyOwn.isEmpty && owProg c.deputyOwn == slot)))

/-- Load a program: a configuration CRC update and a new replay identity are due. -/
def State.setProg (s : State) (slot : Nat) (img : List Byte) : State :=
  ({ s with progs := s.progs.setIfInBounds slot (some img), replayStale := true }).setFld rCfgCtl 3 1 1

/-- Apply the pending program loads whose slot no undecided step names; each adds 1 to counter 252 + i. -/
def State.applyProgs (s : State) : State :=
  let ready := s.pends.filter (fun p => match p.slot with | none => false | some n => !s.slotNamed n)
  let s := { s with pends := s.pends.filter (fun p => !ready.contains p) }
  ready.foldl (fun s p =>
    match p.slot with
    | none => s
    | some n => (s.setProg n p.image).addEvc (252 + p.pair) 1) s

/-- The step result record of a command (R193). -/
def Cmd.resultRec (c : Cmd) (combined outcome : Nat) : List Byte :=
  toLE c.step 6 ++ toLE c.upd.reasons 1 ++ toLE combined 1 ++ toLE outcome 1 ++ toLE 0 7
    ++ toLE c.upd.nonfinite 8 ++ toLE c.upd.underflow 8 ++ toLE 0 32

/-- Write the step result record (R193) into the step slot of the job, and of DEPUTY_JOB on a deputy (spec/08_collectives.md
R230); both hold the chip's counts (DESIGN CHOICE, log 114). -/
def State.writeResult (s : State) (c : Cmd) (combined outcome : Nat) : State :=
  ([c.own, c.deputyOwn].filter (fun e => !e.isEmpty)).foldl (fun s e =>
    s.write (owStepAddr e + 128 * (c.step % 2 ^ owStepLog2 e) + 64) (c.resultRec combined outcome)) s

/-- A fused step is decided (R206). -/
def State.decideStep (s : State) (q i combined : Nat) (oc : Outcome') : State :=
  match s.cmd? q i with
  | none => s
  | some c =>
    if c.outcome.isSome || c.type != 0x12 then s
    else
      let s := s.writeResult c combined (match oc with | .applied => 0 | .withheld => 1 | .appliedSpecial => 2)
      let s := s.setFld rEspReasons 0 5 (s.fld rEspReasons 0 5 ||| combined)
      let s := s.putCmd { c with outcome := some oc }
      let s := match oc with
        | .withheld => (s.sat rEspWithheld 0 32 1).raise causeStepWithheld
        | _ => s.raise causeStepApplied
      s.applyProgs

/-- The outcome of combined reasons under GUARD values that are equal (R206): 8 and 16 are DATA_ERR and SDE. -/
def outcomeOf (combined : Nat) (guardApply : Bool) : Outcome' :=
  if combined = 0 then .applied
  else if 8 ≤ combined then .withheld
  else if guardApply then .appliedSpecial else .withheld

/-- A step whose collective fails is withheld (R206). -/
def State.withhold (s : State) (q i : Nat) : State :=
  match s.cmd? q i with
  | none => s
  | some c => if c.type = 0x12 then s.decideStep q i c.upd.reasons .withheld else s

def applies (o : Option Outcome') : Bool :=
  match o with
  | some .applied => true
  | some .appliedSpecial => true
  | _ => false

/-- The end of an apply pass (R207): the ownership entries are written, LGX_ESP_APPLIED advances and Coppice commits. -/
def State.endApply (s : State) (c : Cmd) : State :=
  let s := s.write (owAddr c.bank c.job) (owCommitted c.own c.step)
  let s := if c.deputyOwn.isEmpty then s
    else s.write (owAddr c.bank (leAt c.table 4 2 % 4096)) (owCommitted c.deputyOwn c.step)
  let s := (s.wr rEspApplied (s.rd rEspApplied + 1)).commitBucket c
  let s := { s with job := { s.job with lastStep := some c.step } }
  match s.cmd? c.q c.i with
  | none => s
  | some c => s.putCmd { c with upd := { c.upd with applied := true } }

/-- APPLY_PASS (R207): the next staged block overwrites its state record once its old bytes are copied; after the last one
the ownership entry is written and Coppice commits. -/
def effApplyPass (q i : Nat) (s : State) : State :=
  match s.cmd? q i with
  | none => s
  | some c =>
    let (w, o) := s.place c
    if !applies c.outcome || c.upd.applied || s.ckp.pushes.any (fun p => p.q == q && p.i == i) then s
    else
      match (c.espBlocks w o).drop c.upd.applyCursor with
      | b :: rest =>
        let own := c.ownOf o b.role
        let len := stateLen (c.progOf o b.role)
        let from_ := owStage own + b.rec_ * len
        let next := { c with upd := { c.upd with applyCursor := c.upd.applyCursor + 1 } }
        let s := if s.flagged from_ len then (s.putCmd next).memError q i .other
          else (s.write (owState own + b.rec_ * len) (s.read from_ len)).putCmd next
        if rest.isEmpty then s.endApply c else s
      | [] => s.endApply c

end Sys2Proof.Machine
end

