-- ==== Sys2Proof/Machine/Carding.lean ====
section
/-! DEFINITION. Carding and the Feed expander: code lengths, records, zero runs, segments, the compressed destination and
the expansion of one segment (spec/10_compression.md R290 to R306). -/

namespace Sys2Proof.Machine

/-! ### Code lengths and canonical codes (R296, R297) -/

/-- A node of the Huffman merge: its weight, its lowest symbol and its symbols. -/
structure HNode where
  weight : Nat
  low : Nat
  leaves : List Nat
deriving DecidableEq, Repr

def HNode.lighter (a b : HNode) : Bool := decide (a.weight < b.weight) || (a.weight == b.weight && decide (a.low < b.low))

def hInsert (n : HNode) : List HNode → List HNode
  | [] => [n]
  | x :: t => if n.lighter x then n :: x :: t else x :: hInsert n t

/-- One more bit for each symbol of a list. -/
def bumpLens (lens : List Nat) (syms : List Nat) : List Nat :=
  lens.zipIdx.map (fun (l, i) => if syms.contains i then l + 1 else l)

/-- Merge the two lightest nodes until one remains. -/
def huffman : Nat → List HNode → List Nat → List Nat
  | n + 1, a :: b :: t, lens =>
    let m : HNode := { weight := a.weight + b.weight, low := min a.low b.low, leaves := a.leaves ++ b.leaves }
    huffman n (hInsert m t) (bumpLens lens m.leaves)
  | _, _, lens => lens

/-- The Kraft sum in units of 2^-12. -/
def kraft (lens : List Nat) : Nat := (lens.map (fun l => if l = 0 then 0 else 2 ^ (12 - l))).sum

/-- The present symbol with the largest length below 12, the higher symbol on a tie. -/
def growable (lens : List Nat) : Option Nat :=
  (lens.zipIdx.foldl (fun (m : Option (Nat × Nat)) (l, i) =>
    if l = 0 ∨ 12 ≤ l then m else
    match m with
    | none => some (l, i)
    | some (l', i') => if l' ≤ l then some (l, i) else some (l', i')) none).map (·.2)

/-- Lengthen codes until the Kraft sum is at most 1. -/
def fitKraft : Nat → List Nat → List Nat
  | 0, lens => lens
  | n + 1, lens =>
    if kraft lens ≤ 4096 then lens else
    match growable lens with
    | none => lens
    | some i => fitKraft n (bumpLens lens [i])

/-- The code lengths of a histogram of 256 counts (R296). -/
def codeLengths (cnt : List Nat) : List Nat :=
  let present := (cnt.zipIdx.filter (fun (c, _) => c != 0)).map (fun (c, i) => ({ weight := c, low := i, leaves := [i] } : HNode))
  let zero := List.replicate 256 0
  match present with
  | [] => zero
  | [x] => bumpLens zero x.leaves
  | _ =>
    let lens := huffman 255 (present.foldl (fun acc n => hInsert n acc) []) zero
    fitKraft 3072 (lens.map (fun l => min l 12))

def histogram (b : List Byte) : List Nat := (List.range 256).map (fun s => (b.filter (fun x => x.toNat == s)).length)

/-- A table of 256 lengths is valid (R297). -/
def lensOk (lens : List Nat) : Bool :=
  lens.all (fun l => decide (l ≤ 12)) && lens.any (· != 0) && decide (kraft lens ≤ 4096)

/-- The canonical codes: symbol, length and code, in ascending order of length and symbol (R297). -/
def canonical (lens : List Nat) : List (Nat × Nat × Nat) :=
  let order := (List.range 12).flatMap (fun k => (lens.zipIdx.filter (fun (l, _) => l == k + 1)).map (fun (l, i) => (i, l)))
  (order.foldl (fun (acc : List (Nat × Nat × Nat)) (i, l) =>
    match acc with
    | [] => [(i, l, 0)]
    | (j, l', c) :: t => (i, l, (c + 1) * 2 ^ (l - l')) :: (j, l', c) :: t) []).reverse

/-- The bits of a code, most significant first. -/
def codeBits (l c : Nat) : List Bool := (List.range l).map (fun k => bitAt c (l - 1 - k))

/-- The bitstream of transformed bytes. -/
def streamBits (lens : List Nat) (b : List Byte) : List Bool :=
  let codes := canonical lens
  b.flatMap (fun x =>
    match codes.find? (fun e => e.1 == x.toNat) with
    | some (_, l, c) => codeBits l c
    | none => [])

/-- Decode a bitstream: the bits of the code begun so far are `l` of value `c`; none on an invalid code. -/
def decodeBits (codes : List (Nat × Nat × Nat)) : List Bool → Nat → Nat → List Byte → Option (List Byte)
  | [], l, _, acc => if l = 0 then some acc.reverse else none
  | b :: t, l, c, acc =>
    let c := 2 * c + b2n b
    match codes.find? (fun e => e.2.1 == l + 1 && e.2.2 == c) with
    | some (i, _, _) => decodeBits codes t 0 0 (BitVec.ofNat 8 i :: acc)
    | none => if 12 ≤ l + 1 then none else decodeBits codes t (l + 1) c acc

/-! ### Zero runs (R295) -/

/-- Cut bytes into elements of w bytes. -/
def cutElems (w : Nat) : Nat → List Byte → List (List Byte)
  | 0, _ => []
  | n + 1, b => if b.isEmpty then [] else b.take w :: cutElems w n (b.drop w)

/-- The token stream of a list of elements, with n zero elements counted so far. -/
def zeroRun : List (List Byte) → Nat → List Byte
  | [], n => if n = 0 then [] else [BitVec.ofNat 8 n]
  | e :: t, n =>
    if e.all (· == 0) then (if n + 1 = 255 then 255#8 :: zeroRun t 0 else zeroRun t (n + 1))
    else BitVec.ofNat 8 n :: (e ++ zeroRun t 0)

/-- Decode a token stream into E elements, m of which are emitted: none when it does not give exactly E, or holds a literal
zero element (R304). -/
def unrun (w e : Nat) : Nat → List Byte → Nat → Option (List Byte)
  | 0, b, m => if b.isEmpty && m == e then some [] else none
  | _ + 1, [], m => if m = e then some [] else none
  | f + 1, n :: t, m =>
    let k := m + n.toNat
    if m = e ∨ e < k then none
    else
      let z := List.replicate (n.toNat * w) 0#8
      if n.toNat = 255 ∨ k = e then (unrun w e f t k).map (fun x => z ++ x)
      else
        let lit := t.take w
        if lit.length < w ∨ lit.all (· == 0) then none
        else (unrun w e f (t.drop w) (k + 1)).map (fun x => z ++ lit ++ x)

/-- The element width W of zero runs, and its WIDTH code. -/
def runWidth (fmt : Nat) : Nat := if fmt = 9 then 4 else if fmt = 1 then 2 else 1
def widthCode (fmt : Nat) : Nat := if fmt = 9 then 2 else if fmt = 1 then 1 else 0

/-! ### Records (R298, R299, R304) -/

/-- 256-byte units of a record with a bitstream of n bits. -/
def recUnits (n : Nat) : Nat := cdiv (160 + cdiv n 8) 256

/-- The record of transformed bytes: segment number, plain size, KIND, ZERO_BASE, WIDTH code and BASE_STEP. -/
def cardRecord (seg orig kind : Nat) (zeroBase : Bool) (width baseStep : Nat) (t : List Byte) : List Byte :=
  let lens := codeLengths (histogram t)
  let bits := streamBits lens t
  let key := kind + 4 * b2n zeroBase + 8 * width
  let body := toLE seg 4 ++ toLE (orig - 1) 2 ++ toLE key 1 ++ toLE (complB 1 key) 1 ++ toLE baseStep 6 ++ toLE 0 2
    ++ toLE bits.length 4 ++ toLE (complB 4 bits.length) 4 ++ toLE 0 8
    ++ (List.range 128).map (fun i => BitVec.ofNat 8 (lens.getD (2 * i) 0 + 16 * lens.getD (2 * i + 1) 0))
    ++ packBits 1 (bits.map b2n)
  sliceB body 0 (256 * recUnits bits.length)

/-- The transformed bytes of a record under every check of R304 but those of the base: the KIND the table asks for, the
WIDTH code, segment number and plain size. Under KIND 2 the answer is the plain bytes. -/
def openRecord (kind width w seg orig units : Nat) (r : List Byte) : Option (List Byte) :=
  let key := byteAt r 6
  let bits := leAt r 16 4
  let lens := (List.range 256).map (fun s => bitsAt (byteAt r (32 + s / 2)) (4 * (s % 2)) 4)
  let stream := sliceB r 160 (cdiv bits 8)
  let all := (List.range bits).map (fun k => bitAt (byteAt stream (k / 8)) (k % 8))
  let padOk := decide (leNat stream / 2 ^ bits = 0) && (r.drop (160 + cdiv bits 8)).all (· == 0)
  if byteAt r 7 ≠ complB 1 key ∨ leAt r 20 4 ≠ complB 4 bits ∨ key / 32 ≠ 0 ∨ leAt r 14 2 ≠ 0 ∨ leAt r 24 8 ≠ 0
     ∨ key % 4 ≠ kind ∨ bitsAt key 3 2 ≠ width ∨ leAt r 0 4 ≠ seg ∨ leAt r 4 2 + 1 ≠ orig ∨ lensOk lens = false
     ∨ 256 * units < 160 + cdiv bits 8 ∨ 8 * orig < 9 * 256 * units ∨ padOk = false then none
  else
    match decodeBits (canonical lens) all 0 0 [] with
    | none => none
    | some t => if kind = 1 then (if t.length = orig then some t else none) else unrun w (orig / w) (t.length + 1) t 0

def xorBytes (a b : List Byte) : List Byte := List.zipWith (· ^^^ ·) a b

/-! ### The output's planes and items (spec/08_collectives.md R218, R226, spec/10_compression.md R290) -/

/-- Items that the ranges of a command divide: groups for a reducing command, else elements. -/
def Cmd.nItems (c : Cmd) : Nat := if isReducing c.type then c.ng else c.elements

/-- First and end element of an item range. -/
def Cmd.elemsOf (c : Cmd) (r : Nat × Nat) : Nat × Nat :=
  if isReducing c.type then (min c.elements (r.1 * c.g), min c.elements ((r.1 + r.2) * c.g)) else (r.1, r.1 + r.2)

def isPly (f : Nat) : Bool := f == 10 || f == 11

/-- The format of the source: a Ply wire format has a bfloat16 source (R215). -/
def Cmd.srcFmt (c : Cmd) : Nat := if isPly c.inFmt then 1 else c.inFmt

/-- The wire format of a sender. -/
def Cmd.wireFmt (c : Cmd) : Nat := if c.outFmt = 0 then c.inFmt else c.outFmt

/-- The wire format a RECV names (spec/09_fabric.md R271). -/
def Cmd.recvFmt (c : Cmd) : Nat := if c.inFmt = 0 then c.outFmt else c.inFmt

/-- The sender converts. -/
def Cmd.converts (c : Cmd) : Bool := c.srcFmt != c.wireFmt && c.srcFmt != 0 && c.wireFmt != 0

/-- The format of the plain bytes of the output: what a SEND sends, what a RECV or an ALL_TO_ALL holds when it has landed, Ply
codes as bfloat16 unless they are compressed (spec/03_quantiser.md R107, R311), and else OUT_FMT. -/
def Cmd.planeFmt (c : Cmd) : Nat :=
  if c.type = 0x16 then c.wireFmt
  else if c.type = 0x17 then (if isPly c.recvFmt && c.compress == 0 then 1 else c.recvFmt)
  else if c.type = 0x14 then
    (if !c.converts then c.srcFmt else if isPly c.wireFmt then 1 else c.wireFmt)
  else c.outFmt

/-- Elements and bytes of a unit of the scale or side plane; 0 bytes when the format has none. -/
def Cmd.sideUnit (c : Cmd) : Nat := if isMx c.planeFmt then 32 else if c.planeFmt = 8 then int4Group c.int4 else 1
def Cmd.sideBytes (c : Cmd) : Nat := if isMx c.planeFmt then 1 else if c.planeFmt = 8 then 8 else 0

/-- Offset of the side plane in the output, and its length. -/
def Cmd.sideAtOff (c : Cmd) : Nat := sidePlaneAt c.planeFmt c.elements
def Cmd.sideLen (c : Cmd) : Nat := sidePlaneBytes c.planeFmt c.int4 c.elements

/-- Byte offsets, first and end, of elements a to b in a plane: a unit belongs to the owner of its first element. -/
def Cmd.planeRange (c : Cmd) (plane a b : Nat) : Nat × Nat :=
  if plane = 0 then (cdiv (a * fmtBits c.planeFmt) 8, cdiv (b * fmtBits c.planeFmt) 8)
  else (c.sideAtOff + cdiv a c.sideUnit * c.sideBytes, c.sideAtOff + cdiv b c.sideUnit * c.sideBytes)

/-- The byte spans of an item range: offset in the output and length. -/
def Cmd.spans (c : Cmd) (r : Nat × Nat) : List (Nat × Nat) :=
  let (a, b) := c.elemsOf r
  ([0, 1].map (fun p => let (lo, hi) := c.planeRange p a b; (lo, hi - lo))).filter (fun x => x.2 != 0)

/-- Plane, and its first element that a byte at an offset of the output holds. -/
def Cmd.elemAt (c : Cmd) (off : Nat) : Nat :=
  if c.sideBytes ≠ 0 ∧ c.sideAtOff ≤ off then (off - c.sideAtOff) / c.sideBytes * c.sideUnit
  else off * 8 / fmtBits c.planeFmt

/-- The item of an element. -/
def Cmd.itemAt (c : Cmd) (off : Nat) : Nat := if isReducing c.type then c.elemAt off / c.g else c.elemAt off

/-- Plain size of the output (R291). -/
def Cmd.plainSize (c : Cmd) : Nat :=
  upTo 256 (if c.sideLen = 0 then planeBytes c.planeFmt c.elements else c.sideAtOff + c.sideLen)

/-! ### Segments and the compressed destination (R290 to R293) -/

/-- A segment: its number, its slot in the plain layout, its owner's position and Hedge index. -/
structure Seg where
  num : Nat
  off : Nat
  len : Nat
  p : Nat
  w : Nat
deriving DecidableEq, Repr

/-- The item ranges that the planes are cut by, with their owners. -/
def Cmd.segRanges (c : Cmd) : List (Nat × Nat × (Nat × Nat)) :=
  if c.type = 0x12 ∨ c.type = 0x13 then
    (List.range 8).flatMap (fun p => (List.range c.hedges).map (fun w => (p, w, ownedRange c.nItems c.hedges w p)))
  else [(0, 0, (0, c.elements))]

/-- The segments of the output in order. -/
def Cmd.segments (c : Cmd) : List Seg :=
  let planes := if c.sideBytes = 0 then [0] else [0, 1]
  let cuts := planes.flatMap (fun pl => c.segRanges.flatMap (fun (p, w, r) =>
    let (a, b) := c.elemsOf r
    let (lo, hi) := c.planeRange pl a b
    (cutRange 65536 lo ((hi - lo) / 65536 + 1) (hi - lo)).map (fun x => (x.1, x.2, p, w))))
  cuts.zipIdx.map (fun ((off, len, p, w), j) => ({ num := j, off := off, len := len, p := p, w := w } : Seg))

def Cmd.segOf (c : Cmd) (j : Nat) : Option Seg := c.segments.find? (fun g => g.num == j)

/-- Offsets from DST of the landing area and of the segment table. -/
def Cmd.landOff (c : Cmd) : Nat := (if c.compress = 3 then 1 else 2) * c.plainSize
def Cmd.tableOff (c : Cmd) : Nat := (if c.compress = 3 then 2 else 3) * c.plainSize

/-- The segment that an offset of the landing area or of the table belongs to. -/
def Cmd.segAtOff (c : Cmd) (off : Nat) : Option Seg :=
  if c.tableOff + 64 ≤ off then c.segOf ((off - c.tableOff - 64) / 4)
  else c.segments.find? (fun g => decide (c.landOff + g.off ≤ off) && decide (off < c.landOff + g.off + g.len))

def Cmd.tableAddr (c : Cmd) : Nat := c.dst + c.tableOff
def State.tabStep (s : State) (c : Cmd) : Nat := s.readNat c.tableAddr 6
def State.tabKey (s : State) (c : Cmd) : Nat := s.readNat (c.tableAddr + 6) 1
def State.tabCur (s : State) (c : Cmd) : Nat := if c.compress = 3 then 0 else s.tabKey c % 2
def State.tabValid (s : State) (c : Cmd) : Bool := bitAt (s.tabKey c) 1

/-- The checks of the table's header (R292): 0 when good. -/
def State.tabCheck (s : State) (c : Cmd) : Nat :=
  let h := s.read c.tableAddr 64
  if byteAt h 7 ≠ complB 1 (byteAt h 6) ∨ byteAt h 6 / 16 ≠ 0 ∨ leAt h 12 4 ≠ complB 4 (leAt h 8 4) ∨ leAt h 16 48 ≠ 0 then stData
  else if bitsAt (byteAt h 6) 2 2 ≠ c.compress ∨ leAt h 8 4 ≠ c.segments.length then stMismatch
  else 0

/-- Entry j of the table, and its fields. -/
def State.entry (s : State) (c : Cmd) (j : Nat) : Nat := s.readNat (c.tableAddr + 64 + 4 * j) 4
def enOk (e : Nat) : Bool := e / 65536 == complB 2 (e % 65536)
def enState (e : Nat) : Nat := e % 4
def enDamaged (e : Nat) : Bool := bitAt e 2
def enUnits (e : Nat) : Nat := bitsAt e 3 8
def mkEntry (st : Nat) (damaged : Bool) (units : Nat) : Nat :=
  let v := st + 4 * b2n damaged + 8 * units
  v + 65536 * complB 2 v
def State.setEntry (s : State) (c : Cmd) (j st : Nat) (damaged : Bool) (units : Nat) : State :=
  s.writeNat (c.tableAddr + 64 + 4 * j) 4 (mkEntry st damaged units)

/-- An entry that waits for the expander (R301): OWED and neither DAMAGED nor mismatched. -/
def State.owed (s : State) (c : Cmd) (j : Nat) : Bool :=
  let e := s.entry c j
  enOk e && enState e == 2 && !enDamaged e

/-- Change the STATE of every entry that has one to another (R302). -/
def State.turnEntries (s : State) (c : Cmd) (old new : Nat) : State :=
  c.segments.foldl (fun s g =>
    let e := s.entry c g.num
    if enOk e && enState e == old then s.setEntry c g.num new (enDamaged e) (enUnits e) else s) s

/-! ### Sources of plain and base bytes (R226, R294) -/

/-- The address in a publication slot of a byte of the output that role p of place (w, o) owns (spec/07_espalier.md R201). -/
def Cmd.pubAt (c : Cmd) (w o p : Nat) (slot : Bool) (off : Nat) : Nat :=
  let own := c.ownOf o p
  let (a, b) := c.elemsOf (ownedRange c.nItems c.hedges w p)
  let before := c.roleBase w o p * c.g
  if c.sideBytes ≠ 0 ∧ c.sideAtOff ≤ off then
    owPub own slot + sidePlaneAt c.outFmt (c.roleTotal w o p * c.g) + before / c.sideUnit * c.sideBytes
      + (off - (c.planeRange 1 a b).1)
  else owPub own slot + before * fmtBits c.outFmt / 8 + (off - (c.planeRange 0 a b).1)

/-- The address of the base bytes of a segment on its sender: none for the zero base, and under COMPRESS 3 (R294). -/
def State.senderBaseAt (s : State) (c : Cmd) (w o : Nat) (g : Seg) : Option Nat :=
  if c.compress = 3 then none
  else if c.compress = 2 then some (c.base + g.off)
  else if !s.tabValid c then none
  else
    let own := c.ownOf o g.p
    if c.type = 0x12 ∧ owStep own = s.tabStep c then some (c.pubAt w o g.p (owCur own) g.off)
    else some (c.dst + s.tabCur c * c.plainSize + g.off)

/-- n bytes at an address, zeros for none. -/
def State.readOr0 (s : State) (a : Option Nat) (n : Nat) : List Byte :=
  match a with
  | some a => s.read a n
  | none => List.replicate n 0#8

/-- The base bytes of a segment on its sender. -/
def State.senderBase (s : State) (c : Cmd) (w o : Nat) (g : Seg) : List Byte := s.readOr0 (s.senderBaseAt c w o g) g.len

/-- A read of n bytes at an address, if there is one, is flagged. -/
def State.flaggedAt (s : State) (a : Option Nat) (n : Nat) : Bool :=
  match a with
  | some a => s.flagged a n
  | none => false

/-! ### Carding (R299) -/

/-- Code one segment: the bytes that travel and UNITS, with the counters. -/
def State.cardSegment (s : State) (c : Cmd) (g : Seg) (plain base : List Byte) : (List Byte × Nat) × State :=
  let w := runWidth c.planeFmt
  let kind := if c.compress = 3 then 2 else 1
  let zeroBase := c.compress == 1 && !s.tabValid c
  let t := if kind = 2 then zeroRun (cutElems w g.len plain) 0 else xorBytes plain base
  let width := if kind = 2 then widthCode c.planeFmt else 0
  let baseStep := if c.compress = 1 ∧ zeroBase = false then s.tabStep c else 2 ^ 48 - 1
  let r := cardRecord g.num g.len kind zeroBase width baseStep t
  let units := r.length / 256
  let raw := bankFld c.bank rCrdCfg 1 1 == 1 || decide (8 * g.len < 9 * 256 * units)
  let back := (openRecord kind width w g.num g.len units r).map (fun x => if kind = 2 then x else xorBytes x base)
  let bad := !raw && bankFld c.bank rCrdCfg 0 1 == 1 && back != some plain
  let s := if bad then (s.sat rCrdEvents 0 16 1).raise causeSelfCheck else s
  let s := s.wr rCrdIn (s.rd rCrdIn + BitVec.ofNat 64 g.len)
  if raw || bad then ((plain, 0), (s.sat rCrdSegs 32 32 1).wr rCrdOut (s.rd rCrdOut + BitVec.ofNat 64 g.len))
  else ((r, units), (s.sat rCrdSegs 0 32 1).wr rCrdOut (s.rd rCrdOut + BitVec.ofNat 64 r.length))

/-! ### The expander (R303 to R306) -/

/-- Mark a segment DAMAGED (R305); `baseOnly` when only the base checks failed. -/
def State.damage (s : State) (c : Cmd) (j : Nat) (baseOnly : Bool) : State :=
  let e := s.entry c j
  let s := s.setEntry c j (enState e) true (enUnits e)
  let s := if baseOnly then s.sat rExpErr 16 16 1 else s.sat rExpErr 0 16 1
  let s := s.wr rExpErrAt (BitVec.ofNat 64 (j + c.job * 2 ^ 32 + c.q * 2 ^ 44))
  ({ s with damaged := if s.damaged.contains (c.dst, j) then s.damaged else (c.dst, j) :: s.damaged }).raise causeSegment

/-- The base checks of R304. -/
def baseAgrees (x : Out) (r : List Byte) : Bool :=
  let flag := bitAt (byteAt r 6) 2
  if x.cmd.compress = 1 then flag == x.zeroBase && (flag || leAt r 8 6 == x.oldStep) else !flag

/-- The address of the base that the expander takes for a segment: none for the zero base, and under COMPRESS 3 (R294,
R303). -/
def State.expandBaseAt (s : State) (x : Out) (g : Seg) : Option Nat :=
  let c := x.cmd
  if c.compress = 3 ∨ (c.compress = 1 ∧ x.zeroBase = true) then none
  else if c.compress = 2 then some (c.base + g.off)
  else some (c.dst + (1 - s.tabCur c) * c.plainSize + g.off)

/-- Bytes of a segment's landing slot that the expander reads. -/
def State.recordLen (s : State) (c : Cmd) (g : Seg) : Nat :=
  let u := enUnits (s.entry c g.num)
  if u = 0 then g.len else 256 * u

/-- A read of the record, or of the base of a coded one, is flagged (R305). -/
def State.expandFlagged (s : State) (x : Out) (g : Seg) : Bool :=
  s.flagged (x.cmd.dst + x.cmd.landOff + g.off) (s.recordLen x.cmd g)
    || (enUnits (s.entry x.cmd g.num) != 0 && s.flaggedAt (s.expandBaseAt x g) g.len)

/-- The plain bytes of an OWED segment: none when a check other than the base's fails; with them, whether the base checks
pass. -/
def State.expand (s : State) (x : Out) (g : Seg) : Option (List Byte) × Bool :=
  let c := x.cmd
  let units := enUnits (s.entry c g.num)
  let land := c.dst + c.landOff + g.off
  if units = 0 then (some (s.read land g.len), true)
  else
    let r := s.read land (256 * units)
    let kind := if c.compress = 3 then 2 else 1
    let width := if kind = 2 then widthCode c.planeFmt else 0
    match openRecord kind width (runWidth c.planeFmt) g.num g.len units r with
    | none => (none, true)
    | some t =>
      if c.compress = 3 then (some t, baseAgrees x r)
      else if c.compress = 1 && x.badBase.contains g.num then (none, baseAgrees x r)
      else (some (xorBytes t (s.readOr0 (s.expandBaseAt x g) g.len)), baseAgrees x r)

/-- Expand an OWED segment into the committed plain slot, or mark it DAMAGED. -/
def State.expandSeg (s : State) (x : Out) (g : Seg) : State :=
  let c := x.cmd
  let e := s.entry c g.num
  if !enOk e then s.damage c g.num false
  else if enState e != 2 || enDamaged e then s
  else if s.expandFlagged x g then (s.raise causeMemory).damage c g.num false
  else
    match s.expand x g with
    | (some plain, true) =>
      let s := s.write (c.dst + s.tabCur c * c.plainSize + g.off) plain
      let s := s.setEntry c g.num 3 false (enUnits e)
      ({ s with damaged := s.damaged.filter (fun d => d != (c.dst, g.num)) }).sat rExpSegs 0 32 1
    | (some _, false) => s.damage c g.num true
    | (none, _) => s.damage c g.num false

/-- The source of the Row phase of a gather is ready (spec/08_collectives.md R208, R228, R229). -/
def State.gatherReady (s : State) (c : Cmd) : Bool :=
  c.dataStarted && (match c.type with
    | 0x10 => s.allDone c
    | 0x11 => s.allDone c
    | 0x12 => c.upd.computed
    | 0x13 => true
    | _ => false)

/-- The segments that this chip codes itself for a command: those it owns, all of them at the root of a BROADCAST (R300). -/
def State.mySegments (s : State) (c : Cmd) : List Seg :=
  let (w, o) := s.place c
  if c.type = 0x15 then (if c.peer = s.job.rank then c.segments else [])
  else if c.type = 0x12 ∨ c.type = 0x13 then c.segments.filter (fun g => g.w == w && (c.roles w o).contains g.p)
  else []

/-- This chip's own landing of a command waits for its slots (R301). -/
def State.landingWaits (s : State) (c : Cmd) : Bool :=
  c.status.isNone && c.dataStarted && !c.gat.rowStarted && (c.type == 0x15 || s.gatherReady c)

/-- The segments of a destination that a landing waits on, of a held chunk or of this chip's own (R301). -/
def State.waitedOn (s : State) (dst : Nat) : List Seg :=
  (s.cmds.filter (fun d => d.dst == dst && d.compress != 0)).flatMap (fun d =>
    ((s.held.filter (fun h => h.hdr.kind == 6 && h.hdr.job == d.job)).flatMap (fun h => h.pkts.map (·.hdr.offset))).filterMap
      d.segAtOff
    ++ (if s.landingWaits d then s.mySegments d else []))

/-- The segment a landing waits on (R301). -/
def State.wanted (s : State) (c : Cmd) : Option Seg :=
  ((s.waitedOn c.dst).filterMap (fun g => c.segOf g.num)).find? (fun g => s.owed c g.num)

/-- The segment the expander takes next in the background (R306). -/
def State.nextOwed (s : State) (x : Out) : Option Seg :=
  match s.wanted x.cmd with
  | some g => some g
  | none => x.cmd.segments.find? (fun g =>
      let e := s.entry x.cmd g.num
      if enOk e then s.owed x.cmd g.num else !s.damaged.contains (x.cmd.dst, g.num))

/-- EXPAND_BACKGROUND (R306): the next OWED segment of the output that the command at (q, i) committed. -/
def effExpandBackground (q i : Nat) (s : State) : State :=
  match s.outs.find? (fun x => x.cmd.q == q && x.cmd.i == i) with
  | none => s
  | some x =>
    match s.nextOwed x with
    | none => s
    | some g => s.expandSeg x g

/-! ### Drawing pieces (spec/01_engine_and_step.md R33, R34, spec/10_compression.md R303) -/

/-- The tag of an outbound beat. -/
def beatTag (kind q job : Nat) (scale runEnd last : Bool) (piece offset validM1 : Nat) : BitVec 128 :=
  BitVec.ofNat 128 (kind + 4 * q + 256 * job + 2 ^ 20 * b2n scale + 2 ^ 21 * b2n runEnd + 2 ^ 22 * b2n last
    + 2 ^ 32 * (piece % 2 ^ 32) + 2 ^ 64 * (offset % 65536) + 2 ^ 80 * validM1)

/-- The data beats of a run of bytes. -/
def dataBeats (p : Piece) (scale : Bool) (off : Nat) : Nat → List Byte → List (BitVec 128 × List Byte)
  | 0, _ => []
  | n + 1, b =>
    if b.isEmpty then [] else
    let x := b.take 512
    (beatTag 0 p.q p.job scale false false p.num off (x.length - 1), sliceB x 0 512)
      :: dataBeats p scale (off + 512) n (b.drop 512)

/-- Beats of a piece's element bytes, or of its scale bytes. -/
def Piece.beats (p : Piece) (scale : Bool) (b : List Byte) : List (BitVec 128 × List Byte) :=
  dataBeats p scale 0 (b.length / 512 + 1) b

/-- Output offsets that a piece covers: element bytes, then scale or side bytes. -/
def overlaps (a la b lb : Nat) : Bool := decide (a < b + lb) && decide (b < a + la) && la != 0 && lb != 0

/-- The segments that cover part of a piece. -/
def Cmd.segsOver (c : Cmd) (off len : Nat) : List Seg := c.segments.filter (fun g => overlaps g.off g.len off len)

/-- A segment that cannot be delivered: DAMAGED, or its entry's complement mismatches (R293, R303). -/
def State.segBad (s : State) (c : Cmd) (g : Seg) : Bool :=
  s.damaged.contains (c.dst, g.num) || enDamaged (s.entry c g.num) || !enOk (s.entry c g.num)

/-- Bring the segments of a part into the plain slot, in order, up to the first that cannot be delivered: an OWED one is
expanded, any other is read back (R303). The answer is the segments that could be. -/
def State.bringSegs (s : State) (x : Out) : List Seg → List Seg × State
  | [] => ([], s)
  | g :: t =>
    let s := if s.owed x.cmd g.num then s.expandSeg x g else s.sat rExpSegs 32 32 1
    if s.segBad x.cmd g then ([], s)
    else
      let (r, s) := s.bringSegs x t
      (g :: r, s)

/-- Part of a piece of an expanded output: the segments it needs are expanded first, and the beats end before the first that
fails (R303, R305); whether the whole part was drawn. -/
def State.drawPart (s : State) (x : Out) (p : Piece) (scale : Bool) (off len : Nat) : Bool × State :=
  let c := x.cmd
  let segs := c.segsOver off len
  let (good, s) := s.bringSegs x segs
  let n := match segs.drop good.length with
    | g :: _ => (g.off - off) / 512 * 512
    | [] => len
  let b := s.read (c.dst + s.tabCur c * c.plainSize + off) n
  (decide (n = len), { s with feedOut := s.feedOut ++ p.beats scale b })

/-- PIECE_DRAW: the tiles draw a live piece (R303). Nothing is delivered of a piece that a DAMAGED segment covers; of one
whose segment is found damaged as it is drawn, nothing further (R305). -/
def effPieceDraw (q i piece : Nat) (s : State) : State :=
  match s.pieces.find? (fun p => p.q == q && p.i == i && p.num == piece) with
  | none => s
  | some p =>
    match s.outs.find? (fun x => x.cmd.q == q && x.cmd.i == i) with
    | none =>
      { s with feedOut := s.feedOut ++ p.beats false (s.read p.addr p.len) ++ p.beats true (s.read p.sideAddr p.sideLen) }
    | some x =>
      let cover := x.cmd.segsOver p.offset p.len ++ (if p.sideLen = 0 then [] else x.cmd.segsOver p.sideOffset p.sideLen)
      let s := cover.foldl (fun s g => if enOk (s.entry x.cmd g.num) then s else s.damage x.cmd g.num false) s
      if cover.any (s.segBad x.cmd) then s
      else
      let (ok, s) := s.drawPart x p false p.offset p.len
      if ok && p.sideLen != 0 then (s.drawPart x p true p.sideOffset p.sideLen).2 else s

end Sys2Proof.Machine
end

