-- ==== Sys2Proof/Machine/Gather.lean ====
section
/-! DEFINITION. The output side of the collectives: conversion of finished sums, the gather paths, pieces and Feed tokens,
transposition, the commit fence, the outcome and repeats (spec/08_collectives.md R226, R229, R234, R238 to R245,
spec/09_fabric.md R269, spec/10_compression.md R300 to R302). -/

namespace Sys2Proof.Machine

/-! ### The output buffer and its staging (R240) -/

/-- The output is transposed as it lands. -/
def Cmd.transposed (c : Cmd) : Bool :=
  c.transpose && (c.type == 0x10 || c.type == 0x12 || c.type == 0x13 || c.type == 0x15)

/-- Write output bytes at an offset: to DST, or to the staging of an output to be transposed. -/
def State.outWrite (s : State) (q i off : Nat) (b : List Byte) : State :=
  match s.cmd? q i with
  | none => s
  | some c =>
    if c.transposed then s.putCmd { c with gat := { c.gat with stage := memWrite c.gat.stage off b } }
    else s.write (c.dst + off) b

/-- Read output bytes back. -/
def State.outRead (s : State) (c : Cmd) (off n : Nat) : List Byte :=
  if c.transposed then (List.range n).map (fun k => smGet memDefault c.gat.stage (off + k)) else s.read (c.dst + off) n

/-- Element bits of a staged output. -/
def Cmd.stagedElem (c : Cmd) (k : Nat) : Nat :=
  let w := fmtBits c.outFmt
  let lo := k * w / 8
  let hi := cdiv ((k + 1) * w) 8
  leNat ((List.range (hi - lo)).map (fun j => smGet memDefault c.gat.stage (lo + j))) / 2 ^ (k * w - 8 * lo) % 2 ^ w

/-- Write the transposed output to DST (R240): VEC_LEN vectors of V elements; an MX format is decoded and re-encoded in blocks
of 32 along the new vectors. -/
def State.transposeOut (s : State) (c : Cmd) : State :=
  let n := c.elements
  let v := n / c.vecLen
  let old := fun (k : Nat) => (k % v) * c.vecLen + k / v
  let ks := List.range n
  if isMx c.outFmt then
    let scale := fun (k : Nat) => (smGet memDefault c.gat.stage (c.sideAtOff + k / 32)).toNat
    let blocks := (List.range (n / 32)).map (fun j =>
      mxEncode c.outFmt ((List.range 32).map (fun t =>
        let k := old (32 * j + t)
        mxDecode c.outFmt (scale k) (c.stagedElem k))))
    (s.write c.dst (packBits (fmtBits c.outFmt) (blocks.flatMap (·.2)))).write (c.dst + c.sideAtOff)
      (blocks.map (fun b => BitVec.ofNat 8 b.1))
  else s.write c.dst (packBits (fmtBits c.outFmt) (ks.map (fun k => c.stagedElem (old k))))

/-! ### Finished sums (R229) -/

/-- The bytes of one element of a finished sum. -/
def State.sumBytes (s : State) (c : Cmd) (g pos : Nat) : List Byte × State :=
  let st := s.groupStatus c g
  let (v, s) := s.ldg c g pos
  if c.outFmt = 9 then (toLE v.toNat 4, s)
  else if c.exact && !(stInf st || stNan st) then (toLE (s.sumExact c g pos).bf16.toNat 2, s)
  else (toLE (f32ToBf16 v).toNat 2, s)

/-- The bytes of elements first to first + n of the bucket. -/
def State.sumRun (s : State) (c : Cmd) (first : Nat) : Nat → List Byte × State
  | 0 => ([], s)
  | n + 1 =>
    let (b, s) := s.sumBytes c (first / c.g) (first % c.g)
    let (t, s) := s.sumRun c (first + 1) n
    (b ++ t, s)

/-- Bytes of a landing slot. -/
def Cmd.slotBytes (c : Cmd) : Nat := 8 * slotWords c.g c.exact

/-- Write the owned ranges of ALL_REDUCE and REDUCE_SCATTER to the output. -/
def State.writeSums (s : State) (c : Cmd) : State :=
  let (w, o) := s.place c
  (c.roles w o).foldl (fun s p =>
    let r := ownedRange c.ng c.hedges w p
    if c.outFmt = 12 then
      (items r).foldl (fun s g =>
        s.write (c.dst + g * c.slotBytes) ((List.range (c.slotBytes / 8)).flatMap (fun n =>
          toLE (s.slotWord (c.landLoc w o g) n) 8))) s
    else
      let (a, b) := c.elemsOf r
      let (bytes, s) := s.sumRun c a (b - a)
      s.outWrite c.q c.i (a * fmtBits c.outFmt / 8) bytes) s

/-! ### Drafts of a gather (R226, R241, R300) -/

/-- Bytes padded with zeros to a multiple of 4 (R262; DEDUCED, log 21). -/
def pad4 (b : List Byte) : List Byte := sliceB b 0 (upTo 4 b.length)

/-- The packets of a span of bytes. -/
def spanDrafts (hop off : Nat) (b : List Byte) : List Draft :=
  (byteDrafts off (pad4 b)).map (fun d => { d with hop := hop })

/-- Part i of p of a list, cut as ranges are. -/
def subList {α : Type} (l : List α) (p i : Nat) : List α :=
  let (f, n) := split l.length p i
  (l.drop f).take n

/-- Bytes of a segment as it travels, from the landing area. -/
def State.segBytes (s : State) (c : Cmd) (g : Seg) : List Byte :=
  let u := enUnits (s.entry c g.num)
  s.read (c.dst + c.landOff + g.off) (if u = 0 then g.len else 256 * u)

/-- The packets of n bytes of memory at an address, none when a read of them is flagged: their data is not used
(spec/01_engine_and_step.md R39). -/
def State.memDrafts (s : State) (hop off addr n : Nat) : List Draft :=
  if s.flagged addr n then [] else copiedFrom addr off n (spanDrafts hop off (s.read addr n))

/-- The reads that a command makes for what it sends: a flagged one is the command's (R244, spec/01_engine_and_step.md R39). -/
def State.noteReads (s : State) (c : Cmd) (spans : List (Nat × Nat)) : State :=
  if spans.any (fun x => s.flagged x.1 x.2) then s.memError c.q c.i .other else s

/-- The packets of a list of segments, from the landing area. -/
def State.segDrafts (s : State) (c : Cmd) (hop : Nat) (gs : List Seg) : List Draft :=
  gs.flatMap (fun g => s.memDrafts hop (c.landOff + g.off) (c.dst + c.landOff + g.off) (s.segBytes c g).length)

/-- Runs of consecutive numbers: first and length. -/
def numRuns : List Nat → List (Nat × Nat)
  | [] => []
  | n :: t =>
    match numRuns t with
    | (m, k) :: r => if n + 1 = m ∧ k < 1024 then (n, k + 1) :: r else (n, 1) :: (m, k) :: r
    | [] => [(n, 1)]

/-- The packets of the table entries of a list of segments. -/
def State.entryDrafts (s : State) (c : Cmd) (hop : Nat) (gs : List Seg) : List Draft :=
  (numRuns (gs.map (·.num))).flatMap (fun r =>
    s.memDrafts hop (c.tableOff + 64 + 4 * r.1) (c.tableAddr + 64 + 4 * r.1) (4 * r.2))

/-- Where the bytes of a part of a gather come from: the staging of an output to be transposed, or memory from the address
that an offset has. -/
inductive PartSrc where
  | stage
  | addr (a : Nat)
deriving DecidableEq, Repr

/-- The packets of a span of a part. -/
def State.partDrafts (s : State) (c : Cmd) (hop : Nat) (src : Nat → PartSrc) (x : Nat × Nat) : List Draft :=
  match src x.1 with
  | .stage => spanDrafts hop x.1 (s.outRead c x.1 x.2)
  | .addr a => s.memDrafts hop x.1 a x.2

/-- The memory that a span of a part is read from. -/
def partReads (src : Nat → PartSrc) (x : Nat × Nat) : List (Nat × Nat) :=
  match src x.1 with
  | .stage => []
  | .addr a => [(a, x.2)]

/-- The memory that segments and their entries are sent from. -/
def State.segReads (s : State) (c : Cmd) (gs : List Seg) : List (Nat × Nat) :=
  gs.flatMap (fun g => [(c.dst + c.landOff + g.off, (s.segBytes c g).length), (c.tableAddr + 64 + 4 * g.num, 4)])

/-- Send a part of a gather to a rank: spans of bytes, or segments and then their entries. -/
def State.sendPart (s : State) (c : Cmd) (dst port ring hop : Nat) (spans : List (Nat × Nat))
    (src : Nat → PartSrc) (segs : List Seg) : State :=
  if c.compress = 0 then
    (s.noteReads c (spans.flatMap (partReads src))).sendDrafts c 6 dst port ring c.gat.rep true
      (spans.flatMap (s.partDrafts c hop src))
  else
    ((s.noteReads c (s.segReads c segs)).sendDrafts c 6 dst port ring c.gat.rep true (s.segDrafts c hop segs)).sendDrafts c 6
      dst port ring c.gat.rep true (s.entryDrafts c hop segs)

/-- Send drafts to every other present member of this chip's Hedge (R234, R269, R281): by multicast to those in the physical
Hedge, and to stand-ins elsewhere one by one. -/
def State.hedgecast (s : State) (c : Cmd) (kind ring rep : Nat) (copy : Bool) (ds : List Draft) : State :=
  let (w, o) := s.place c
  let ranks := ((List.range 8).filter (fun p => p ≠ o)).filterMap (c.rankAt w)
  let phys := ranks.filterMap (fun r => match s.xlat r with | .ok x => some (r, x) | _ => none)
  let near := phys.filter (fun x => x.2 / 8 == s.selfHedge)
  let far := ranks.filter (fun r => !near.any (fun x => x.1 == r))
  let mask := (near.map (fun x => 2 ^ (x.2 % 8))).sum
  let s := if mask = 0 then s else (cutChunks ds [] 0).foldl (fun s chunk =>
    s.emit (some (c.q, c.i)) copy 16 (mkPkts kind 0 s.job.rank c.job ring rep mask true false chunk) (chunk.map (·.mem))
      (near.map (fun x => (x.1, x.2 % 8)))) s
  far.foldl (fun s r => s.sendDrafts c kind r 16 ring rep copy ds) s

/-! ### Pieces and Feed tokens (R238, R239, spec/01_engine_and_step.md R34) -/

/-- Bytes of the output that have landed, of a transfer whose length its sender gives. -/
def Cmd.landedBytes (c : Cmd) : Nat :=
  (c.gat.got.filter (fun x => decide (x.1 < 2 ^ 48))).foldl (fun m x => max m (x.1 + x.2)) 0

/-- Elements of an MX array whose two planes take n bytes: the most blocks of 32 that do (spec/02_formats.md R74; DEDUCED,
log 121). -/
def mxElems (f n : Nat) : Nat :=
  let top := n / (4 * fmtBits f + 1)
  32 * (((List.range 257).map (fun k => top - k)).find? (fun nb => decide (sidePlaneAt f (32 * nb) + nb ≤ n))).getD 0

/-- Elements and bytes of a row of e elements: element bytes, then scale bytes (R232). -/
def rowSize (f e : Nat) : Nat := planeBytes f e + (if isMx f then cdiv e 32 else 0)

/-- Elements of a row of n bytes. -/
def rowElems (f n : Nat) : Nat := if isMx f then n / (4 * fmtBits f + 1) * 32 else 8 * n / max 1 (fmtBits f)

/-- The runs of element bytes of the output that this chip delivers: byte offset, bytes, and where the scale or side bytes of
its first unit lie. An output in MX rows has one run for each row, whose scale bytes follow its element bytes (DEDUCED,
log 121). -/
def State.outRuns (s : State) (c : Cmd) : List (Nat × Nat × Nat) :=
  let f := c.planeFmt
  if c.type = 0x11 then
    let (w, o) := s.place c
    (c.roles w o).map (fun p =>
      let r := ownedRange c.ng c.hedges w p
      if c.outFmt = 12 then (r.1 * c.slotBytes, r.2 * c.slotBytes, 0)
      else
        let (a, b) := c.elemsOf r
        (a * fmtBits f / 8, (b - a) * fmtBits f / 8, 0))
  else if c.type = 0x14 ∧ isMx f = true then
    let e := rowElems c.srcFmt c.rowBytes
    let n := rowSize f e
    (List.range (c.landedBytes / max 1 n)).map (fun r => (r * n, planeBytes f e, r * n + planeBytes f e))
  else if c.type = 0x17 ∧ c.compress = 0 ∧ isMx f = true then
    let e := mxElems f c.landedBytes
    [(0, planeBytes f e, sidePlaneAt f e)]
  else if c.type = 0x14 ∨ (c.type = 0x17 ∧ c.compress = 0) then [(0, c.landedBytes, 0)]
  else [(0, planeBytes f c.elements, c.sideAtOff)]

/-- Cut n bytes into pieces: offset, length and RUN_END (R238). -/
def cutPieces (exact : Bool) (v n : Nat) : List (Nat × Nat × Bool) :=
  if !exact || v == 0 then (cutRange 65536 0 (n / 65536 + 1) n).map (fun x => (x.1, x.2, true))
  else if v ≤ 65536 then
    let k := 65536 / v * v
    (cutRange k 0 (n / k + 1) n).map (fun x => (x.1, x.2, true))
  else
    (cutRange v 0 (n / v + 1) n).flatMap (fun x =>
      (cutRange 65536 x.1 (x.2 / 65536 + 1) x.2).map (fun y => (y.1, y.2, y.1 + y.2 == x.1 + x.2)))

/-- The pieces of a command's output. -/
def State.piecesOf (s : State) (c : Cmd) : List Piece :=
  let w := fmtBits c.planeFmt
  let vl := if c.transposed then c.elements / c.vecLen else c.vecLen
  let cuts := (s.outRuns c).flatMap (fun r => (cutPieces c.exact (vl * w / 8) r.2.1).map (fun x => (r, x)))
  let addr := c.dst + (if c.compress = 0 then 0 else s.tabCur c * c.plainSize)
  cuts.zipIdx.map (fun (((base, _, side), off, len, re), j) =>
    let s0 := cdiv (cdiv (8 * off) (max 1 w)) c.sideUnit * c.sideBytes
    let s1 := cdiv (cdiv (8 * (off + len)) (max 1 w)) c.sideUnit * c.sideBytes
    ({ q := c.q, i := c.i, job := c.job, num := j, addr := addr + base + off, len := len
       sideAddr := addr + side + s0, sideLen := s1 - s0, offset := base + off, sideOffset := side + s0
       runEnd := re, last := j + 1 == cuts.length } : Piece))

/-- The token of a piece. -/
def Piece.token (p : Piece) : BitVec 128 × List Byte :=
  (beatTag 1 p.q p.job false p.runEnd p.last p.num 0 511,
   sliceB (toLE p.addr 8 ++ toLE p.len 4 ++ toLE p.sideLen 4) 0 512)

/-- The pieces of a command become live (R245, R302): the segment table is committed and the tokens are issued. -/
def State.goLive (s : State) (q i : Nat) : State :=
  match s.cmd? q i with
  | none => s
  | some c =>
    if c.gat.live then s
    else
      let s := if c.compress = 0 then s
        else
          let (w, o) := s.place c
          let key := s.tabKey c
          let cur := if c.compress = 3 then 0 else 1 - key % 2
          let key' := cur + 2 + 4 * c.compress
          let bad := if s.tabValid c then (s.damaged.filter (fun d => d.1 == c.dst)).map (·.2) else []
          let out : Out := { cmd := c, w := w, o := o, oldStep := s.tabStep c, zeroBase := !s.tabValid c, badBase := bad
                             owesDigest := c.digest }
          let s := s.write c.tableAddr (toLE c.step 6 ++ toLE key' 1 ++ toLE (complB 1 key') 1)
          let s := s.turnEntries c 1 2
          { s with outs := s.outs.filter (fun x => x.cmd.dst != c.dst) ++ [out]
                   damaged := s.damaged.filter (fun d => d.1 != c.dst) }
      let s := s.putCmd { c with gat := { c.gat with live := true } }
      if c.feed && c.planeFmt != 0 && c.type != 0x18 then
        let ps := s.piecesOf c
        { s with pieces := s.pieces.filter (fun p => !(p.q == q && p.i == i)) ++ ps
                 feedOut := s.feedOut ++ ps.map Piece.token }
      else s

/-- A withheld step or a failed command leaves no staged segment (R302). -/
def State.dropStaged (s : State) (c : Cmd) : State :=
  if c.compress = 0 || c.gat.live then s else s.turnEntries c 1 0

/-! ### Votes and the commit fence (R244, R245, spec/09_fabric.md R269) -/

/-- A VOTE payload. -/
structure VoteMsg where
  step : Nat
  job : Nat
  good : Bool
  row : Bool
  guard : Bool
  mixed : Bool
  rep : Nat
  reasons : Nat
  origin : Nat
  hops : Nat
deriving DecidableEq, Repr

def VoteMsg.bytes (v : VoteMsg) : List Byte :=
  toLE v.step 6 ++ toLE v.job 2
    ++ toLE (b2n v.good + 2 * b2n v.row + 4 * b2n v.guard + 8 * b2n v.mixed + 16 * v.rep) 1 ++ toLE v.reasons 1
    ++ toLE v.origin 2 ++ toLE v.hops 2 ++ toLE 0 2

def parseVote (b : List Byte) : Option VoteMsg :=
  let f := byteAt b 8
  if b.length ≠ 16 ∨ leAt b 6 2 / 4096 ≠ 0 ∨ byteAt b 9 / 32 ≠ 0 ∨ leAt b 10 2 / 2 ^ 14 ≠ 0 ∨ leAt b 12 2 / 2 ^ 14 ≠ 0
     ∨ leAt b 14 2 ≠ 0 then none
  else some { step := leAt b 0 6, job := leAt b 6 2, good := bitAt f 0, row := bitAt f 1, guard := bitAt f 2
              mixed := bitAt f 3, rep := f / 16, reasons := byteAt b 9, origin := leAt b 10 2, hops := leAt b 12 2 }

/-- The engine's GUARD value for a command (spec/07_espalier.md R205). -/
def Cmd.guardApply (c : Cmd) : Bool := bankFld c.bank rEspCfg 0 1 == 1

/-- The commands whose pieces wait for a fence of the group (DEDUCED, log 22): all but SEND and RECV. -/
def Cmd.hasFence (c : Cmd) : Bool := usesBlock c.type && c.type != 0x16 && c.type != 0x17

/-- A single VOTE chunk to a rank. -/
def State.sendVote (s : State) (c : Cmd) (dst : Nat) (v : VoteMsg) : State :=
  s.emit (some (c.q, c.i)) false 16 (mkPkts 0x11 dst s.job.rank c.job 0 0 0 false false
    [{ offset := 0, hop := 0, contrib := 0, payload := v.bytes }])

/-- Every segment of a compressed output is here: its entry and its bytes. -/
def State.allSegs (_s : State) (c : Cmd) : Bool :=
  c.segments.all (fun g =>
    c.gat.got.any (fun x => decide (x.1 ≤ c.tableOff + 64 + 4 * g.num) && decide (c.tableOff + 68 + 4 * g.num ≤ x.1 + x.2))
      && (let u := enUnits (_s.entry c g.num)
          let n := ((c.gat.got.filter (fun x =>
            decide (c.landOff + g.off ≤ x.1) && decide (x.1 < c.landOff + g.off + g.len))).map (·.2)).sum
          decide ((if u = 0 then g.len else 256 * u) ≤ n)))

/-- The whole output has been received or supplied by this chip. -/
def State.outputHere (s : State) (c : Cmd) : Bool :=
  let sum := (c.gat.got.map (·.2)).sum
  match c.type with
  | 0x11 => true
  | 0x14 => c.gat.bad == false && c.moved && c.gat.hedgeStarted
  | 0x18 => c.moved
  | _ => if c.compress = 0 then decide (planeBytes c.outFmt c.elements + c.sideLen ≤ sum) else s.allSegs c

/-- This chip's vote for a Hedge (R244). -/
def Cmd.ownVote (c : Cmd) (o : Nat) : VoteRec :=
  { at_ := o, row := false, good := !c.gat.bad && !c.readError, guard := c.guardApply, mixed := false
    reasons := if c.type = 0x12 then c.upd.reasons else 0 }

/-- Form the vote once the last chunk is here and this chip has sent its part (R244). -/
def State.formVote (s : State) (q i : Nat) : State :=
  match s.cmd? q i with
  | none => s
  | some c =>
    if !c.hasFence || c.gat.voteFormed || c.status.isSome || !c.gat.rowStarted || !c.gat.hedgeStarted || !s.outputHere c then s
    else
      let (w, o) := s.place c
      let s := if c.transposed then s.transposeOut c else s
      let v := c.ownVote o
      let s := s.putCmd { c with gat := { c.gat with voteFormed := true, votes := v :: c.gat.votes } }
      let msg : VoteMsg := { step := c.step, job := c.job, good := v.good, row := false, guard := v.guard, mixed := false
                             rep := c.gat.rep, reasons := v.reasons, origin := w, hops := 0 }
      s.hedgecast c 0x11 0 0 false [{ offset := 0, hop := 0, contrib := 0, payload := msg.bytes }]

/-- The Hedge result of the votes held. -/
def foldVotes (guard : Bool) (w : Nat) (vs : List VoteRec) : VoteRec :=
  { at_ := w, row := true, good := vs.all (·.good), guard := guard
    mixed := vs.any (fun v => v.mixed || v.guard != guard)
    reasons := vs.foldl (fun m v => m ||| v.reasons) 0 }

def VoteRec.msg (v : VoteRec) (c : Cmd) (hops : Nat) : VoteMsg :=
  { step := c.step, job := c.job, good := v.good, row := true, guard := v.guard, mixed := v.mixed, rep := c.gat.rep
    reasons := v.reasons, origin := v.at_, hops := hops }

/-- Send a Hedge result one Hedge on in direction d, for every role of this chip. -/
def State.rowVote (s : State) (c : Cmd) (v : VoteRec) (d hops : Nat) : State :=
  if hops = 0 then s else
  let (w, o) := s.place c
  (c.roles w o).foldl (fun s p => s.sendVote c (c.standAt (rowStep c.hedges w d) p) (v.msg c hops)) s

/-- A good fence (R206, R228, R245): the outcome of a fused step, or the output goes live; the status is decided. -/
def State.goodFence (s : State) (q i : Nat) (reasons : Nat) (equal : Bool) : State :=
  match s.cmd? q i with
  | none => s
  | some c =>
    if c.type = 0x12 then
      let oc : Outcome' := if equal then outcomeOf reasons c.guardApply else .withheld
      let s := s.decideStep q i reasons oc
      if applies (some oc) then (s.goLive q i).failCmd q i stOk 0
      else
        let s := s.dropStaged c
        if equal then s.failCmd q i stWithheld 0 else s.failCmd q i stMismatch 0
    else
      let s := s.goLive q i
      if c.cut ≠ 0 then s.failCmd q i stExhausted (min (2 ^ 32 - 1) c.cut) else s.failCmd q i stOk 0

/-- A bad fence (R245): the gather is repeated, or the command fails and a fused step is withheld. -/
def State.badFence (s : State) (q i : Nat) : State :=
  match s.cmd? q i with
  | none => s
  | some c =>
    if c.gat.rep < bankFld c.bank rColCfg 0 4 then
      let g : Gat := { Gat.init with rep := c.gat.rep + 1 }
      (s.putCmd { c with gat := g, moved := false }).sat rColEvents 16 8 1
    else (s.withhold q i).failCmd q i stData s.ownRank

/-- Fold this chip's Hedge and complete the fence when every result is held (R269). -/
def State.fence (s : State) (q i : Nat) : State :=
  match s.cmd? q i with
  | none => s
  | some c =>
    if c.status.isSome || !c.gat.voteFormed || c.gat.fenceGood.isSome then s
    else
      let (w, o) := s.place c
      let present := (List.range 8).filter (fun p => (c.rankAt w p).isSome)
      let hedge := c.gat.votes.filter (fun v => !v.row)
      let (c, s) :=
        if !c.gat.hedgeFolded && present.all (fun p => hedge.any (fun v => v.at_ == p)) then
          let r := foldVotes c.guardApply w hedge
          let c := { c with gat := { c.gat with hedgeFolded := true, votes := c.gat.votes ++ [r] } }
          let s := s.putCmd c
          (c, (s.rowVote c r 0 (cdiv (c.hedges - 1) 2)).rowVote c r 1 ((c.hedges - 1) / 2))
        else (c, s)
      let _ := o
      let rows := c.gat.votes.filter (·.row)
      if !allIn (0, c.hedges) (fun x => rows.any (fun v => v.at_ == x)) then s
      else
        match s.cmd? q i with
        | none => s
        | some c =>
          let good := rows.all (·.good)
          let reasons := rows.foldl (fun m v => m ||| v.reasons) 0
          let equal := rows.all (fun v => !v.mixed && v.guard == c.guardApply)
          let s := s.putCmd { c with gat := { c.gat with fenceGood := some good } }
          if good then s.goodFence q i reasons equal else s.badFence q i

/-- Form the vote and fold what is held. -/
def State.fenceOn (s : State) (q i : Nat) : State := (s.formVote q i).fence q i

/-- VOTE (R269): recorded, folded, or forwarded on the Row. A vote of a higher repeat is held, one of a lower repeat is
discarded (R245). -/
def effVote (src seq : Nat) (mc : Bool) (s : State) : State :=
  match s.heldChunk 0x11 src seq mc with
  | none => s
  | some h =>
    match s.cmdOfJob h.hdr.job with
    | none => s
    | some c =>
      if !s.passable h then s
      else
        match parseVote h.payload with
        | none => s.badPayload h c.q c.i
        | some v =>
          if c.gat.rep < v.rep && c.status.isNone then s
          else
            let s := (s.accept h).progress c.q c.i src true
            if v.rep < c.gat.rep || c.status.isSome then s
            else
              match s.cmd? c.q c.i, c.placeOf src with
              | some c, some (ws, os) =>
                let r : VoteRec := { at_ := if v.row then v.origin else os, row := v.row, good := v.good, guard := v.guard
                                     mixed := v.mixed, reasons := v.reasons }
                if c.gat.votes.any (fun x => x.row == r.row && x.at_ == r.at_) then s
                else
                  let s := s.putCmd { c with gat := { c.gat with votes := c.gat.votes ++ [r] } }
                  let w := (s.place c).1
                  let s := if v.row && decide (1 < v.hops) then
                      s.rowVote c r (if rowStep c.hedges ws 0 = w then 0 else 1) (v.hops - 1) else s
                  s.fence c.q c.i
              | _, _ => s

/-! ### Gather phases (R226, R228, R300) -/

/-- Where the plain bytes of a span that this chip owns in role p are. -/
def Cmd.gatherSource (c : Cmd) (w o p off : Nat) : PartSrc :=
  if c.type = 0x12 then .addr (c.pubAt w o p (!owCur (c.ownOf o p)) off)
  else if c.type = 0x10 then (if c.transposed then .stage else .addr (c.dst + off))
  else .addr (c.src + off)

/-- Where the output's bytes are. -/
def Cmd.outSource (c : Cmd) (off : Nat) : PartSrc := if c.transposed then .stage else .addr (c.dst + off)

/-- Copy a span of this chip's into its output; flagged bytes are not used (spec/01_engine_and_step.md R39). -/
def State.copySpan (s : State) (c : Cmd) (off from_ n : Nat) : State :=
  if s.flagged from_ n then s.memError c.q c.i .other else s.outWrite c.q c.i off (s.read from_ n)

/-- Remember spans of the output as supplied here. -/
def State.addGot (s : State) (q i : Nat) (xs : List (Nat × Nat)) : State :=
  match s.cmd? q i with
  | none => s
  | some c => s.putCmd { c with gat := { c.gat with got := c.gat.got ++ xs.filter (fun x => !c.gat.got.contains x) } }

/-- Code this chip's segments, whose plain bytes lie at the addresses given, into its own landing area and table (R299, R300).
One with a flagged read is not coded (spec/01_engine_and_step.md R39). -/
def State.ownSegments (s : State) (c : Cmd) (gs : List Seg) (source : Seg → Nat) : State :=
  let (w, o) := s.place c
  gs.foldl (fun s g =>
    if s.flagged (source g) g.len || s.flaggedAt (s.senderBaseAt c w o g) g.len then s.memError c.q c.i .other else
    let ((b, units), s) := s.cardSegment c g (s.read (source g) g.len) (s.senderBase c w o g)
    let s := s.write (c.dst + c.landOff + g.off) b
    let s := s.setEntry c g.num 1 false units
    s.addGot c.q c.i [(c.landOff + g.off, b.length), (c.tableOff + 64 + 4 * g.num, 4)]) s

/-- The Row phase of a gather: this chip's owned ranges enter the output and leave in both directions. -/
def State.gatherRow (s : State) (c : Cmd) : State :=
  let (w, o) := s.place c
  let s := if c.type = 0x10 ∨ c.type = 0x11 then s.writeSums c else s
  match s.cmd? c.q c.i with
  | none => s
  | some c =>
    let s := s.putCmd { c with gat := { c.gat with rowStarted := true, hedgeStarted := c.type == 0x11 } }
    if c.type = 0x11 then s
    else
      (c.roles w o).foldl (fun s p =>
        let r := ownedRange c.nItems c.hedges w p
        let mine := c.segments.filter (fun g => g.p == p && g.w == w)
        let s := if c.compress = 0 then
            let s := if c.type = 0x10 then s
              else (c.spans r).foldl (fun s x =>
                match c.gatherSource w o p x.1 with
                | .addr a => s.copySpan c x.1 a x.2
                | .stage => s) s
            s.addGot c.q c.i (c.spans r)
          else s.ownSegments c mine (fun g => match c.gatherSource w o p g.off with | .addr a => a | .stage => 0)
        if c.hedges = 1 then s
        else [0, 1].foldl (fun s d =>
          s.sendPart c (c.standAt (rowStep c.hedges w d) p) (rowPort d) (14 + d) 1 (c.spans (half r d))
            (c.gatherSource w o p) (subList mine 2 d)) s) s

/-- The span of the output that a range of items needs is here. -/
def State.rangeHere (s : State) (c : Cmd) (p : Nat) : Bool :=
  if c.compress = 0 then
    (c.spans (eighth c.nItems p)).all (fun x =>
      decide (x.2 ≤ ((c.gat.got.filter (fun y => decide (x.1 ≤ y.1) && decide (y.1 < x.1 + x.2))).map (·.2)).sum))
  else
    (c.segments.filter (fun g => g.p == p)).all (fun g =>
      c.gat.got.any (fun x => decide (x.1 ≤ c.tableOff + 64 + 4 * g.num) && decide (c.tableOff + 68 + 4 * g.num ≤ x.1 + x.2))
      && decide ((s.segBytes c g).length ≤ ((c.gat.got.filter (fun x =>
            decide (c.landOff + g.off ≤ x.1) && decide (x.1 < c.landOff + g.off + g.len))).map (·.2)).sum))

/-- Rings of a gather (R247). -/
def Cmd.gatherRings (c : Cmd) : Nat := if isReducing c.type then c.redRings else c.ringCount (fmtBits c.outFmt)

/-- The Hedge phase of a gather: every stripe of this chip's eighths leaves. -/
def State.gatherHedge (s : State) (c : Cmd) : State :=
  let (w, o) := s.place c
  let s := s.putCmd { c with gat := { c.gat with hedgeStarted := true } }
  (c.roles w o).foldl (fun s p =>
    (List.range c.gatherRings).foldl (fun s k =>
      match c.nextGather k w p o with
      | none => s
      | some b =>
        s.sendPart c (c.standAt w b) (ringPort k o b) k 1 (c.spans (subRange (eighth c.nItems p) c.gatherRings k))
          c.outSource (subList (c.segments.filter (fun g => g.p == p)) c.gatherRings k)) s) s

/-- GATHER_PHASE_START: the Row phase, then the Hedge phase once the whole eighth is held. Own segments wait while the
expander still owes their slots (R301). -/
def effGatherPhaseStart (q i : Nat) (s : State) : State :=
  match s.cmd? q i with
  | none => s
  | some c =>
    let (w, o) := s.place c
    if c.status.isSome || !s.gatherReady c then s
    else if !c.gat.rowStarted then
      (if c.compress != 0 && (s.mySegments c).any (fun g => s.owed c g.num) then s else (s.gatherRow c).fenceOn q i)
    else if !c.gat.hedgeStarted && (c.roles w o).all (s.rangeHere c) then (s.gatherHedge c).fenceOn q i
    else s

/-! ### Broadcast and merge (R234, R235) -/

/-- The place of a command's root. -/
def Cmd.rootPlace (c : Cmd) : Nat × Nat := (c.placeOf c.peer).getD (0, 0)

/-- The item halves of a broadcast: every owned range cut by direction. -/
def Cmd.castHalves (c : Cmd) : List (Nat × (Nat × Nat)) :=
  (List.range 8).flatMap (fun p => (List.range c.hedges).flatMap (fun w =>
    [0, 1].map (fun d => (d, half (ownedRange c.elements c.hedges w p) d))))

/-- Send drafts of a root along the Row in direction d and to this chip's Hedge. -/
def State.castOn (s : State) (c : Cmd) (d hop : Nat) (ds : List Draft) : State :=
  let w := (s.place c).1
  let ds := ds.map (fun x => { x with hop := hop })
  let s := s.hedgecast c 6 (14 + d) c.gat.rep true ds
  if hop ≤ c.hedges - 1 ∧ 1 < c.hedges then
    s.sendDrafts c 6 (c.standAt (rowStep c.hedges w d) c.rootPlace.2) (rowPort d) (14 + d) c.gat.rep true ds
  else s

/-- The root of a broadcast sends everything, once the expander owes none of its slots (R301). -/
def State.castRoot (s : State) (c : Cmd) : State :=
  if c.compress != 0 && (s.mySegments c).any (fun g => s.owed c g.num) then s else
  let s := s.putCmd { c with gat := { c.gat with rowStarted := true, hedgeStarted := true } }
  let s :=
    if c.compress = 0 then
      let all := c.spans (0, c.elements)
      let s := all.foldl (fun s x => s.copySpan c x.1 (c.src + x.1) x.2) s
      let s := s.addGot c.q c.i all
      c.castHalves.foldl (fun s x =>
        s.castOn c x.1 1 ((c.spans x.2).flatMap (fun y => s.memDrafts 1 y.1 (c.src + y.1) y.2))) s
    else
      let s := s.ownSegments c c.segments (fun g => c.src + g.off)
      [0, 1].foldl (fun s d =>
        let gs := subList c.segments 2 d
        (s.castOn c d 1 (s.segDrafts c 1 gs)).castOn c d 1 (s.entryDrafts c 1 gs)) s
  s.fenceOn c.q c.i

/-- The root has every member's list: it merges them and sends the record (R235); lists that disagree fail the command
(spec/04_topiary.md R128). -/
def State.mergeRoot (s : State) (q i : Nat) : State :=
  match s.cmd? q i with
  | none => s
  | some c =>
    if c.moved || c.status.isSome || !allIn (0, c.members) (fun m => c.counts.any (fun x => x.1 == m)) then s
    else
      let lists := (List.range c.members).map (fun m =>
        parseTRec ((c.counts.find? (fun x => x.1 == m)).map (·.2) |>.getD []))
      if !mergeAgrees lists then s.failCmd q i stMismatch 0
      else
        let (r, s) := s.mergeRun lists false c.exact c.step c.job
        let s := s.writeTRec c.dst r
        let s := s.putCmd { c with moved := true, gat := { c.gat with rowStarted := true, hedgeStarted := true } }
        (s.castOn c 0 1 (copiedFrom c.dst 0 r.bytes.length (spanDrafts 1 0 r.bytes))).fenceOn q i

/-! ### WRITE chunks (R226, R234, R240, R300, R301) -/

/-- Where a span that begins at or below an offset ends; the bytes beyond it are padding. -/
def clipTo (spans : List (Nat × Nat)) (off : Nat) : Nat :=
  match spans.find? (fun x => decide (x.1 ≤ off) && decide (off < x.1 + x.2)) with
  | some x => x.1 + x.2 - off
  | none => 0

/-- The spans that a chunk of a gather or broadcast on a ring was cut from. -/
def Cmd.sentSpans (c : Cmd) (ring off : Nat) : List (Nat × Nat) :=
  let x := c.itemAt off
  if c.type = 0x15 then
    match c.castHalves.find? (fun h => decide (h.2.1 ≤ x) && decide (x < h.2.1 + h.2.2)) with
    | some h => c.spans h.2
    | none => []
  else
    let p := eighthOf c.nItems x
    if ring < 14 then
      let e := eighth c.nItems p
      c.spans (subRange e c.gatherRings (splitIndex e.2 c.gatherRings (x - e.1)))
    else c.spans (half (ownedRange c.nItems c.hedges (hedgeOf c.nItems c.hedges p x) p) (ring - 14))

/-- Bytes of a packet that belong to the output. -/
def Cmd.clip (c : Cmd) (ring off n : Nat) : Nat :=
  if c.type = 0x18 then n
  else if c.compress = 0 then min n (clipTo (c.sentSpans ring off) off)
  else if c.tableOff ≤ off then n
  else match c.segAtOff off with
    | some g => min n (c.landOff + g.off + g.len - off)
    | none => 0

/-- Store the packets of a WRITE chunk. -/
def State.landWrite (s : State) (c : Cmd) (h : Held) : State :=
  h.pkts.foldl (fun s p =>
    let off := p.hdr.offset
    let n := c.clip h.hdr.ring off p.payload.length
    let b := p.payload.take n
    let s := if c.compress = 0 && c.type != 0x18 then s.outWrite c.q c.i off b else s.write (c.dst + off) b
    s.addGot c.q c.i [(off, n)]) s

/-- The packets of a chunk as the next hop sends them; they have landed in memory unless they wait to be transposed. -/
def Held.redraft (h : Held) (c : Cmd) : List Draft :=
  h.pkts.map (fun p =>
    ({ offset := p.hdr.offset, hop := h.hdr.hop + 1, contrib := 0, payload := p.payload
       mem := if c.transposed then []
         else [(c.dst + p.hdr.offset, c.clip h.hdr.ring p.hdr.offset p.payload.length)] } : Draft))

/-- Forward a chunk of a gather, a broadcast or a merged record unchanged (R226, R234). Of a broadcast only a Row receiver
casts: one whose chunk comes from another Hedge of the group. -/
def State.passWrite (s : State) (c : Cmd) (h : Held) : State :=
  let (w, o) := s.place c
  let ring := h.hdr.ring
  let ds := h.redraft c
  if c.type = 0x15 ∨ c.type = 0x18 then
    if h.hdr.mcast ∨ ring < 14 ∨ (c.placeOf h.hdr.src).map (·.1) = some w then s else s.castOn c (ring - 14) (h.hdr.hop + 1) ds
  else
    let p := if c.compress = 0 then eighthOf c.nItems (c.itemAt h.hdr.offset)
      else match c.segAtOff h.hdr.offset with | some g => g.p | none => o
    if ring < 14 then
      match c.nextGather ring w p o with
      | none => s
      | some b => s.sendDrafts c 6 (c.standAt w b) (ringPort ring o b) ring c.gat.rep true ds
    else if h.hdr.hop < c.hedges - 1 then
      s.sendDrafts c 6 (c.standAt (rowStep c.hedges w (ring - 14)) p) (rowPort (ring - 14)) ring c.gat.rep true ds
    else s

/-- A WRITE chunk of a gather phase, a broadcast or a merge. -/
def State.gatherWrite (s : State) (c : Cmd) (h : Held) : State :=
  if c.gat.rep < h.hdr.rep then s
  else if h.hdr.rep < c.gat.rep then (s.accept h).progress c.q c.i h.hdr.src true
  else if c.compress != 0 && h.pkts.any (fun p => match c.segAtOff p.hdr.offset with
      | some g => s.owed c g.num
      | none => false) then s
  else
    let s := ((s.accept h).progress c.q c.i h.hdr.src true).landWrite c h
    match s.cmd? c.q c.i with
    | none => s
    | some c =>
      let s := s.passWrite c h
      let s :=
        if c.type = 0x18 then
          (match s.cmd? c.q c.i with
          | none => s
          | some c => s.putCmd { c with moved := decide (tRecLen (parseTRec (s.read c.aux 128)).k ≤ (c.gat.got.map (·.2)).sum)
                                        gat := { c.gat with rowStarted := true, hedgeStarted := true } })
        else if c.type = 0x15 then
          (match s.cmd? c.q c.i with
          | none => s
          | some c => s.putCmd { c with gat := { c.gat with rowStarted := true, hedgeStarted := true } })
        else s
      s.fenceOn c.q c.i

end Sys2Proof.Machine
end

