-- ==== Sys2Proof/Machine/Transfer.lean ====
section
/-! DEFINITION. Transfers that are not reductions, the data phase of every command, and what takes a WRITE, COUNT, TOPK, READY
or CANCEL chunk (spec/08_collectives.md R231 to R235, R246, spec/03_quantiser.md R106, R107, spec/09_fabric.md R271). -/

namespace Sys2Proof.Machine

/-! ### Formats on the wire (R215, R232) -/

/-- The value of an element pattern; `scale` is its block's scale byte. -/
def fmtVal (f scale p : Nat) : FV :=
  if f = 1 then bf16Val (BitVec.ofNat 16 p)
  else if f = 9 then f32Val (BitVec.ofNat 32 p)
  else if isMx f then mxDecode f scale p
  else .nan

/-- The values of n elements: element bytes and scale bytes. -/
def decodeVals (f n : Nat) (el sc : List Byte) : List FV :=
  (List.range n).map (fun k => fmtVal f (byteAt sc (k / 32)) (packedAt (fmtBits f) el k))

/-- Count a special activation input (R106). -/
def State.actSpecial (s : State) (n : Nat) : State :=
  if n = 0 then s else (s.sat rQntActSpecial 0 32 n).raise causeActSpecial

/-- Blocks of 32 values. -/
def blocks32 : Nat → List FV → List (List FV)
  | 0, _ => []
  | n + 1, vs => if vs.isEmpty then [] else vs.take 32 :: blocks32 n (vs.drop 32)

/-- Values encoded in a wire format: element bytes and scale bytes. `j` is the transfer offset of the first element. The
descriptor's format code says whether the codes are Ply-8 or Ply-4, and FORMAT of LGX_QNT_ACT_CFG_t is not read (DESIGN CHOICE,
log 110). -/
def State.encodeVals (s : State) (c : Cmd) (f j : Nat) (vs : List FV) : (List Byte × List Byte) × State :=
  if isPly f then
    let cs := vs.zipIdx.map (fun (v, k) => actCode (f == 11) (s.actExp c.bank c.actSet (j + k)) v)
    ((packBits (fmtBits f) (cs.map (fun x => unsigned (fmtBits f) x.1)), []), s.actSpecial (cs.filter (·.2)).length)
  else if isMx f then
    let bs := (blocks32 vs.length vs).map (mxEncode f)
    ((packBits (fmtBits f) (bs.flatMap (·.2)), bs.map (fun b => BitVec.ofNat 8 b.1)), s)
  else if f = 1 then ((vs.flatMap (fun v => toLE (f32ToBf16 v.f32).toNat 2), []), s)
  else ((vs.flatMap (fun v => toLE v.f32.toNat 4), []), s)

/-- The BF16 value of a received Ply code (R107). -/
def State.actValue (s : State) (c : Cmd) (j : Nat) (code : Int) : Bf16 := (⟨code, s.actExp c.bank c.actSet j⟩ : Dy).bf16

/-- The codes in a byte of a Ply stream. -/
def plyCodes (f : Nat) (b : Byte) : List Int :=
  if f = 11 then [signed 4 (b.toNat % 16), signed 4 (b.toNat / 16)] else [signed 8 b.toNat]

/-! ### ALL_TO_ALL (R231, R232) -/

def Cmd.rowElemCount (c : Cmd) : Nat := rowElems c.srcFmt c.rowBytes

/-- Bytes of a row on the wire, and as the receiver writes it. -/
def Cmd.wireRow (c : Cmd) : Nat := if c.converts then rowSize c.wireFmt c.rowElemCount else c.rowBytes
def Cmd.landRow (c : Cmd) : Nat :=
  if c.converts then (if isPly c.wireFmt then 2 * c.rowElemCount else rowSize c.wireFmt c.rowElemCount) else c.rowBytes

/-- This chip's member index. -/
def State.selfIndex (s : State) (c : Cmd) : Nat := (c.indexOf s.job.rank).getD 0

/-- Rows in slots first to first + n of the send count array. -/
def State.sendRows (s : State) (c : Cmd) (first n : Nat) : Nat :=
  ((List.range n).map (fun k => s.readNat (c.aux + 4 * (first + k)) 4)).sum

/-- The count words for a destination member. -/
def State.countWords (s : State) (c : Cmd) (d : Nat) : List Byte := s.read (c.aux + 4 * c.slots * d) (4 * c.slots)

/-- Where the received words of a source lie (R231). -/
def Cmd.countAt (c : Cmd) (u : Nat) : Nat := 4 * c.slots * u

/-- Rows received from a member. -/
def Cmd.rowsFrom (c : Cmd) (u : Nat) : Nat :=
  let w := ((c.counts.find? (fun x => x.1 == u)).map (·.2)).getD []
  ((List.range c.slots).map (fun k => leAt w (4 * k) 4)).sum

/-- Rows of the members before u. -/
def Cmd.rowsBefore (c : Cmd) (u : Nat) : Nat := ((List.range u).map c.rowsFrom).sum

/-- Rows that fit DST_CAP. -/
def Cmd.rowCap (c : Cmd) : Nat := if c.landRow = 0 then 2 ^ 64 else c.dstCap / c.landRow

/-- Every member's counts are here. -/
def Cmd.countsHere (c : Cmd) : Bool := allIn (0, c.members) (fun u => c.counts.any (fun x => x.1 == u))

/-- One row of the source converted for the wire, at transfer offset j. -/
def State.wireRowOf (s : State) (c : Cmd) (j : Nat) (b : List Byte) : List Byte × State :=
  if !c.converts then (b, s)
  else
    let e := c.rowElemCount
    let ((el, sc), s) := s.encodeVals c c.wireFmt j (decodeVals c.srcFmt e b (b.drop (planeBytes c.srcFmt e)))
    (el ++ sc, s)

/-- The wire bytes of n rows from a row of SRC; `k` rows of the transfer come before them. -/
def State.wireRows (s : State) (c : Cmd) (src k : Nat) : Nat → List Byte × State
  | 0 => ([], s)
  | n + 1 =>
    let (b, s) := s.wireRowOf c (k * c.rowElemCount) (s.read (c.src + src * c.rowBytes) c.rowBytes)
    let (t, s) := s.wireRows c (src + 1) (k + 1) n
    (b ++ t, s)

/-- Write the bytes of a source's row stream from a stream offset on, with the capacity cut of R232. -/
def State.landRows (s : State) (c : Cmd) (u off : Nat) (b : List Byte) : State :=
  let base := c.rowsBefore u
  b.zipIdx.foldl (fun s (x, k) =>
    let t := off + k
    let row := t / max 1 c.wireRow
    let at_ := t % max 1 c.wireRow
    if c.rowCap ≤ base + row ∨ c.rowsFrom u ≤ row then s
    else if c.converts && isPly c.wireFmt then
      let per := if c.wireFmt = 11 then 2 else 1
      (plyCodes c.wireFmt x).zipIdx.foldl (fun s (v, m) =>
        let e := per * at_ + m
        if c.rowElemCount ≤ e then s
        else s.write (c.dst + (base + row) * c.landRow + 2 * e)
          (toLE (s.actValue c (row * c.rowElemCount + e) v).toNat 2)) s
    else s.write (c.dst + (base + row) * c.landRow + at_) [x]) s

/-- The stream of a source is here in full. -/
def Cmd.streamHere (c : Cmd) (u : Nat) : Bool :=
  decide (c.rowsFrom u * c.wireRow ≤ ((c.gat.got.filter (fun x => x.1 / 2 ^ 48 == u + 1)).map (·.2)).sum)

/-- When every row is here the output is complete (R231, R232). -/
def State.rowsDone (s : State) (q i : Nat) : State :=
  match s.cmd? q i with
  | none => s
  | some c =>
    if !c.moved || c.gat.hedgeStarted || !allIn (0, c.members) c.streamHere then s
    else
      let total := c.rowsBefore c.members
      let kept := min total c.rowCap
      let g := { c.gat with rowStarted := true, hedgeStarted := true, got := c.gat.got ++ [(0, kept * c.landRow)] }
      (s.putCmd { c with gat := g, cut := (total - kept) * c.landRow }).fenceOn q i

/-- The row phase: every destination's rows leave, this chip's own are written (R231). -/
def State.rowsPhase (s : State) (q i : Nat) : State :=
  match s.cmd? q i with
  | none => s
  | some c =>
    if c.moved || c.status.isSome || !c.dataStarted || !c.countsHere then s
    else
      let m := s.selfIndex c
      let s := s.putCmd { c with moved := true }
      let s := (List.range c.members).foldl (fun s d =>
        let n := s.sendRows c (d * c.slots) c.slots
        let first := s.sendRows c 0 (d * c.slots)
        let from_ := c.src + first * c.rowBytes
        if s.flagged from_ (n * c.rowBytes) then s.memError q i .other else
        let (b, s) := s.wireRows c first 0 n
        if d = m then (s.landRows c m 0 b).addGot q i [((m + 1) * 2 ^ 48, b.length)]
        else
          let ds := spanDrafts 0 0 b
          s.sendDrafts c 6 (c.member d).rank 16 0 c.gat.rep true (if c.converts then ds else copiedFrom from_ 0 b.length ds)) s
      s.rowsDone q i

/-- The count phase (R231). -/
def State.countPhase (s : State) (q i : Nat) : State :=
  match s.cmd? q i with
  | none => s
  | some c =>
    if s.flagged c.aux (4 * c.members * c.slots) then s.memError q i .other else
    let m := s.selfIndex c
    let own := s.countWords c m
    let s := s.write (c.aux + 4 * c.members * c.slots + c.countAt m) own
    let s := s.putCmd { c with counts := c.counts ++ [(m, own)] }
    (List.range c.members).foldl (fun s d =>
      if d = m then s
      else s.sendDrafts c 7 (c.member d).rank 16 0 0 true (copiedFrom (c.aux + 4 * c.slots * d) (c.countAt m) (4 * c.slots)
        (byteDrafts (c.countAt m) (s.countWords c d)))) s

/-- COUNT_CHUNK (R231): a member's count words. -/
def effCountChunk (src seq : Nat) (s : State) : State :=
  match s.heldChunk 7 src seq false with
  | none => s
  | some h =>
    match s.cmdOfJob h.hdr.job with
    | none => s
    | some c =>
      if !s.passable h || c.type != 0x14 then s
      else
        let s' := (s.accept h).progress c.q c.i src true
        match s'.cmd? c.q c.i, c.indexOf src with
        | some c, some u =>
          if c.status.isSome || c.counts.any (fun x => x.1 == u) then s'
          else
            let s' := s'.write (c.aux + 4 * c.members * c.slots + c.countAt u) (sliceB h.payload 0 (4 * c.slots))
            (s'.putCmd { c with counts := c.counts ++ [(u, sliceB h.payload 0 (4 * c.slots))] }).rowsPhase c.q c.i
        | _, _ => s'

/-- Rows of a source arrive; they wait until every member's counts are here. -/
def State.rowWrite (s : State) (c : Cmd) (h : Held) : State :=
  match c.indexOf h.hdr.src with
  | none => s
  | some u =>
    if c.gat.rep < h.hdr.rep || !c.countsHere then s
    else if h.hdr.rep < c.gat.rep then (s.accept h).progress c.q c.i h.hdr.src true
    else
      let s := (s.accept h).progress c.q c.i h.hdr.src true
      let s := h.pkts.foldl (fun s p =>
        let n := min p.payload.length (c.rowsFrom u * c.wireRow - p.hdr.offset)
        (s.landRows c u p.hdr.offset (p.payload.take n)).addGot c.q c.i [((u + 1) * 2 ^ 48 + p.hdr.offset, n)]) s
      s.rowsDone c.q c.i

/-! ### SEND and RECV (R233, spec/09_fabric.md R271) -/

/-- Bytes that a send takes in the receiver's DST. -/
def Cmd.sendLen (c : Cmd) : Nat :=
  if isPly c.wireFmt then 2 * c.elements
  else if isMx c.wireFmt then sidePlaneAt c.wireFmt c.elements + cdiv c.elements 32
  else planeBytes c.wireFmt c.elements

/-- A SEND's output on the wire: its element plane and its scale plane. -/
def State.sendPlanes (s : State) (c : Cmd) : (List Byte × List Byte) × State :=
  let n := c.elements
  let el := s.read c.src (planeBytes c.srcFmt n)
  let sc := if isMx c.srcFmt then s.read (c.src + sidePlaneAt c.srcFmt n) (cdiv n 32) else []
  if c.converts then s.encodeVals c c.wireFmt 0 (decodeVals c.srcFmt n el sc) else ((el, sc), s)

/-- Segments of a SEND coded straight into packets (spec/10_compression.md R300): drafts of the segments, and the bytes of the
entries. -/
def State.sendSegs (s : State) (c : Cmd) (plain : List Byte) (ds : List Draft) (es : List Byte) :
    List Seg → (List Draft × List Byte) × State
  | [] => ((ds, es), s)
  | g :: t =>
    let ((b, units), s) := s.cardSegment c g (sliceB plain g.off g.len) []
    s.sendSegs c plain (ds ++ spanDrafts 0 (c.landOff + g.off) b) (es ++ toLE (mkEntry 1 false units) 4) t

/-- The memory that a SEND reads: its element plane and its scale plane. -/
def Cmd.sendReads (c : Cmd) : List (Nat × Nat) :=
  (c.src, planeBytes c.srcFmt c.elements)
    :: (if isMx c.srcFmt then [(c.src + sidePlaneAt c.srcFmt c.elements, cdiv c.elements 32)] else [])

/-- READY or CANCEL payloads. -/
def readyBytes (matchNo fmt cap : Nat) : List Byte := toLE matchNo 4 ++ toLE fmt 1 ++ toLE 0 3 ++ toLE cap 8
def cancelBytes (matchNo reason : Nat) : List Byte := toLE matchNo 4 ++ toLE reason 1 ++ toLE 0 11

/-- Send a marker to the peer. -/
def State.sendMarker (s : State) (c : Cmd) (kind : Nat) (b : List Byte) : State :=
  s.emit (some (c.q, c.i)) false 16 (mkPkts kind c.peer s.job.rank c.job 0 0 0 false false
    [{ offset := c.tag, hop := 0, contrib := 0, payload := b }])

/-- A SEND with its ready marker sends, or cancels (R233). -/
def State.sendGo (s : State) (q i : Nat) : State :=
  match s.cmd? q i with
  | none => s
  | some c =>
    match c.ready with
    | none => s
    | some (_, fmt, cap) =>
      if !c.dataStarted || c.moved || c.status.isSome then s
      else
        let reason := if cap < c.sendLen then 1 else if fmt ≠ c.wireFmt then 2 else 0
        if reason ≠ 0 then
          (((s.sendMarker c 0x14 (cancelBytes c.matchNo reason)).sat rColEvents 24 8 1).failCmd q i stMismatch 0)
        else if c.sendReads.any (fun x => s.flagged x.1 x.2) then s.memError q i .other
        else
          let ((el, sc), s) := s.sendPlanes c
          let s := s.putCmd { c with moved := true }
          let at_ := sidePlaneAt c.wireFmt c.elements
          if c.compress = 0 then
            let from_ (off : Nat) (ds : List Draft) (n : Nat) : List Draft :=
              if c.converts then ds else copiedFrom (c.src + off) off n ds
            s.sendDrafts c 6 c.peer 16 0 0 true
              (from_ 0 (spanDrafts 0 0 el) el.length ++ (if sc.isEmpty then [] else from_ at_ (spanDrafts 0 at_ sc) sc.length))
          else
            let plain := if sc.isEmpty then el else sliceB el 0 at_ ++ sc
            let ((ds, es), s) := s.sendSegs c plain [] [] c.segments
            (s.sendDrafts c 6 c.peer 16 0 0 true ds).sendDrafts c 6 c.peer 16 0 0 true (byteDrafts (c.tableOff + 64) es)

/-- READY (R271): the SEND that it matches may go. -/
def effReady (src seq : Nat) (s : State) : State :=
  match s.heldChunk 0x13 src seq false with
  | none => s
  | some h =>
    match s.cmdOfJob h.hdr.job with
    | none => s
    | some c =>
      let b := h.payload
      if !s.passable h || c.type != 0x16 || c.peer != src || c.tag != h.hdr.offset || leAt b 0 4 != c.matchNo then s
      else
        let s := (s.accept h).progress c.q c.i src true
        match s.cmd? c.q c.i with
        | none => s
        | some c => (s.putCmd { c with ready := some (leAt b 0 4, byteAt b 4 % 16, leAt b 8 8) }).sendGo c.q c.i

/-- CANCEL (R233): the RECV completes with the configuration-mismatch status. -/
def effCancel (src seq : Nat) (s : State) : State :=
  match s.heldChunk 0x14 src seq false with
  | none => s
  | some h =>
    match s.cmdOfJob h.hdr.job with
    | none => s
    | some c =>
      if !s.passable h || c.type != 0x17 || c.peer != src || c.tag != h.hdr.offset || leAt h.payload 0 4 != c.matchNo then s
      else
        let s := (s.accept h).progress c.q c.i src true
        if c.status.isSome then s else (s.sat rColEvents 24 8 1).failCmd c.q c.i stMismatch 0

/-- A WRITE chunk of a SEND: written at its offset, Ply codes as bfloat16 (R107), within DST_CAP. -/
def State.recvWrite (s : State) (c : Cmd) (h : Held) : State :=
  if c.compress != 0 && h.pkts.any (fun p => match c.segAtOff p.hdr.offset with
      | some g => s.owed c g.num
      | none => false) then s
  else
    let s := (s.accept h).progress c.q c.i h.hdr.src true
    h.pkts.foldl (fun s p =>
      let off := p.hdr.offset
      if c.compress != 0 then
        (s.write (c.dst + off) p.payload).addGot c.q c.i [(off, p.payload.length)]
      else if isPly c.recvFmt then
        let per := if c.recvFmt = 11 then 2 else 1
        let n := min (per * p.payload.length) (c.dstCap / 2 - per * off)
        let codes := p.payload.flatMap (plyCodes c.recvFmt)
        (s.write (c.dst + 2 * per * off) ((codes.take n).zipIdx.flatMap (fun (v, k) =>
          toLE (s.actValue c (per * off + k) v).toNat 2))).addGot c.q c.i [(2 * per * off, 2 * n)]
      else
        let n := min p.payload.length (c.dstCap - off)
        (s.write (c.dst + off) (p.payload.take n)).addGot c.q c.i [(off, n)]) s

/-! ### TOPK_MERGE (R235) -/

/-- Length of the partial list at AUX_ADDR. -/
def State.listLen (s : State) (c : Cmd) : Nat := tRecLen (parseTRec (s.read c.aux 128)).k

/-- A member's partial list leaves for the root; the root keeps its own. -/
def State.listPhase (s : State) (q i : Nat) : State :=
  match s.cmd? q i with
  | none => s
  | some c =>
    let b := s.read c.aux (s.listLen c)
    if s.flagged c.aux (s.listLen c) then s.memError q i .other
    else if c.peer = s.job.rank then
      let m := s.selfIndex c
      (if c.counts.any (fun x => x.1 == m) then s
       else s.putCmd { c with counts := c.counts ++ [(m, b)] }).mergeRoot q i
    else s.sendDrafts c 8 c.peer 16 0 0 true (copiedFrom c.aux 0 b.length (byteDrafts 0 b))

/-- TOPK_CHUNK (R235): a member's partial list at the root. -/
def effTopkChunk (src seq : Nat) (s : State) : State :=
  match s.heldChunk 8 src seq false with
  | none => s
  | some h =>
    match s.cmdOfJob h.hdr.job with
    | none => s
    | some c =>
      if !s.passable h || c.type != 0x18 then s
      else
        let s' := (s.accept h).progress c.q c.i src true
        match s'.cmd? c.q c.i, c.indexOf src with
        | some c, some u =>
          if c.status.isSome || c.counts.any (fun x => x.1 == u) then s'
          else (s'.putCmd { c with counts := c.counts ++ [(u, h.payload)] }).mergeRoot c.q c.i
        | _, _ => s'

/-! ### WRITE_CHUNK -/

/-- WRITE_CHUNK: the target is the command running under the packet's job identifier (spec/09_fabric.md R263). -/
def effWriteChunk (src seq : Nat) (mc : Bool) (s : State) : State :=
  match s.heldChunk 6 src seq mc with
  | none => s
  | some h =>
    match s.cmdOfJob h.hdr.job with
    | none => s
    | some c =>
      if !s.passable h then s
      else if c.status.isSome then (s.accept h).progress c.q c.i src true
      else
        match c.type with
        | 0x10 => s.gatherWrite c h
        | 0x12 => s.gatherWrite c h
        | 0x13 => s.gatherWrite c h
        | 0x15 => s.gatherWrite c h
        | 0x18 => s.gatherWrite c h
        | 0x14 => s.rowWrite c h
        | 0x17 => if c.peer = src then s.recvWrite c h else s
        | _ => s

/-! ### The data phase (R228, R246, spec/01_engine_and_step.md R45) -/

/-- The launch time has come (R45, spec/14_registers.md R417). -/
def State.launchReady (s : State) (c : Cmd) : Bool := c.launchAt == 0 || (s.timeValid && decide (c.launchAt ≤ s.now))

/-- The launch registers of a command with a launch time (R45). -/
def State.launchMarks (s : State) (c : Cmd) : State :=
  if c.launchAt = 0 then s
  else
    let s := s.wr rLaunchLast (BitVec.ofNat 64 s.now)
    if !c.late then s
    else
      let s := s.setFld rLaunchLate c.q 1 1
      let slip := s.now - c.launchAt
      (if (s.rd rLaunchSlip).toNat < slip then s.wr rLaunchSlip (BitVec.ofNat 64 slip) else s).raise causeLateLaunch

/-- A bucket in memory is read and converted beat by beat (spec/03_quantiser.md R91). -/
def State.convMemory (s : State) (q i : Nat) : State :=
  match s.cmd? q i with
  | none => s
  | some c =>
    if c.srcFeed then s
    else
      (List.range c.beatCount).foldl (fun s b =>
        match s.cmd? q i with
        | none => s
        | some c =>
          if c.status.isSome || c.conv.beats.contains b then s
          else if s.copyHolds c then s.putCmd (c.stalled 2 b)
          else
            let xs := (items (1024 * b, min 1024 (c.elements - 1024 * b))).map (fun j =>
              s.gradOf c j (BitVec.ofNat 16 (s.readNat (c.src + 2 * j) 2)))
            let s := s.convBeat (c.stalled 0 b) b xs
            (s.zeroAcc c b).convCheck q i) s

/-- What the data phase of a command does. -/
def State.dataPhase (s : State) (q i : Nat) : State :=
  match s.cmd? q i with
  | none => s
  | some c =>
    match c.type with
    | 0x10 => ((s.initLanding c).convMemory q i).sendOwn q i
    | 0x11 => ((s.initLanding c).convMemory q i).sendOwn q i
    | 0x12 => ((s.initLanding c).convMemory q i).sendOwn q i
    | 0x14 => s.countPhase q i
    | 0x15 => if c.peer = s.job.rank then s.castRoot c else s
    | 0x16 => s.sendGo q i
    | 0x17 => s.sendMarker c 0x13 (readyBytes c.matchNo c.recvFmt c.dstCap)
    | 0x18 => s.listPhase q i
    | _ => s

/-- What a repeat of the data phase does after a bad fence (R245), or when conversion waited for the copy stream. -/
def State.dataAgain (s : State) (q i : Nat) : State :=
  match s.cmd? q i with
  | none => s
  | some c =>
    match c.type with
    | 0x10 => (s.convMemory q i).sendOwn q i
    | 0x11 => (s.convMemory q i).sendOwn q i
    | 0x12 => (s.convMemory q i).sendOwn q i
    | 0x14 => s.rowsPhase q i
    | 0x15 => if c.peer = s.job.rank && !c.gat.rowStarted then s.castRoot c else s
    | 0x18 => if c.peer = s.job.rank then s.mergeRoot q i else s
    | _ => s

/-- DATA_PHASE_START (R246): the waits are met, the lead is complete and the launch time has come. -/
def effDataPhaseStart (q i : Nat) (s : State) : State :=
  match s.cmd? q i with
  | none => s
  | some c =>
    if c.status.isSome || !usesBlock c.type then s
    else if c.dataStarted then s.dataAgain q i
    else if !s.launchReady c then s
    else if isReducing c.type && !c.leadComplete then s
    else if isReducing c.type && !s.bucketFree c then s
    else
      let s := (s.launchMarks c).putCmd { c with dataStarted := true, dataAt := s.now }
      s.dataPhase q i

end Sys2Proof.Machine
end

