-- ==== Sys2Proof/Machine/Digest.lean ====
section
/-! DEFINITION. Digest sites, digest records, the numbering of commands and the replay identity (spec/02_formats.md R78, R79,
spec/11_reproducibility.md R316, R324 to R328). -/

namespace Sys2Proof.Machine

/-! ### Items (R79, R324, R325) -/

/-- One digest item, with the element index that places it in a part (R325). -/
structure DItem where
  elem : Nat
  index : Nat
  bits : Nat
deriving DecidableEq, Repr

/-- Items of a run of n elements in a format, from element index k0: the elements' patterns, and one item for each unit of the
scale or side plane. -/
def planeItems (fmt unit sb k0 n : Nat) (el side : List Byte) : List DItem :=
  (List.range n).map (fun i => ({ elem := k0 + i, index := k0 + i, bits := packedAt (fmtBits fmt) el i } : DItem))
    ++ (if sb = 0 then [] else (List.range (cdiv n unit)).map (fun j =>
        let u := k0 / unit + j
        ({ elem := u * unit, index := 2 ^ 63 + u, bits := leAt side (j * sb) sb } : DItem)))

/-- Items of a group record from its header and codes: `n` of its elements belong to the bucket. -/
def recItems (g k n : Nat) (header : List Byte) (codes : List Int) : List DItem :=
  (List.range n).map (fun i => ({ elem := k * g + i, index := k * g + i, bits := unsigned 64 (codes.getD i 0) } : DItem))
    ++ [{ elem := k * g, index := 2 ^ 63 + k, bits := leAt header 0 4 }]

/-- Elements of group g that belong to the bucket, and the global number of the group. -/
def Cmd.groupLen (c : Cmd) (g : Nat) : Nat := min c.g (c.elements - g * c.g)
def Cmd.globalGroup (c : Cmd) (g : Nat) : Nat := c.paramBase / c.g + g

/-- LEAD: each group's lead byte and class. Its index g has no bit 63, so it lies in part g >> LOG2_PART (DEDUCED, log 56). -/
def leadItems (c : Cmd) : List DItem :=
  (List.range c.ng).map (fun g =>
    let v := c.agreed g
    let k := c.globalGroup g
    ({ elem := k, index := k, bits := leadB v + 256 * leadC v } : DItem))

/-- CODES of a dense bucket: this chip's contribution records. -/
def State.codeItems (s : State) (c : Cmd) : List DItem :=
  (List.range c.ng).flatMap (fun g =>
    match s.ownRec c g with
    | none => []
    | some r => recItems c.g (c.globalGroup g) (c.groupLen g) r.header (r.codesOf c.g))

/-- CODES of a sparse bucket: every element's code, and a header for each group with any entry. -/
def State.sparseItems (s : State) (c : Cmd) : List DItem :=
  (List.range (cdiv c.elements c.selBlock)).flatMap (fun b =>
    match parseSparse c.selBlock c.elements (s.read (c.sparseAt b) (16 + 8 * c.selK)) with
    | none => []
    | some (r, _) =>
      let off := b * c.selBlock
      let n := min c.selBlock (c.elements - off)
      let code := fun (i : Nat) => ((r.entries.find? (fun e => e.1 == i)).map (·.2)).getD 0
      (List.range n).map (fun i =>
        ({ elem := c.paramBase + off + i, index := c.paramBase + off + i, bits := unsigned 64 (code i) } : DItem))
      ++ ((List.range (cdiv n c.g)).filter (fun j => r.entries.any (fun e => e.1 / c.g == j))).map (fun j =>
        let g := off / c.g + j
        let h : Rec := { exp := c.expOf g, inf := false, neg := false, nan := false, out := false, zero := false
                         cls := r.cls, codes := [] }
        ({ elem := c.globalGroup g * c.g, index := 2 ^ 63 + c.globalGroup g, bits := leNat h.header } : DItem)))

/-- RESID: the committed residuals of the bucket, as the entry just written names them. -/
def State.residItems (s : State) (c : Cmd) : List DItem :=
  let e := s.entryOf c
  let n := bkElements e
  if !bkHolds e then (List.range n).map (fun i => ({ elem := c.paramBase + i, index := c.paramBase + i, bits := 0 } : DItem))
  else
    let base := bkSlot e (bkCur e)
    let f := bkCurFmt e
    (List.range (blockCount n)).flatMap (fun j =>
      let rec_ := s.read (base + planeLen n + j * resLen f) (resLen f)
      let w := if f = 2 then 2 else 1
      (List.range (min 32 (n - 32 * j))).map (fun i =>
        let k := c.paramBase + 32 * j + i
        ({ elem := k, index := k, bits := unsigned 64 (signed (8 * w) (leAt rec_ (4 + w * i) w)) } : DItem))
      ++ [({ elem := c.paramBase + 32 * j, index := 2 ^ 63 + c.paramBase / 32 + j, bits := leAt rec_ 0 4 } : DItem)])

/-- The words of a landed group as integers. -/
def State.sumWords (s : State) (c : Cmd) (l : Loc) : List Int :=
  (List.range c.g).map (fun i =>
    if c.exact then signed 64 (s.slotWord l (1 + i)) else signed 32 (s.slotF32 l i).toNat)

/-- Items of one landed group (R79, Bobbin sums). -/
def State.sumItems (s : State) (c : Cmd) (g : Nat) : List DItem :=
  let (w, o) := s.place c
  let l := c.landLoc w o g
  let st := s.slotWord l 0
  let ws := s.sumWords c l
  let inf := stInf st && !stNan st
  let h : Rec := { exp := stExp st, inf := inf, neg := stNeg st, nan := stNan st, out := stOut st
                   zero := ws.all (· == 0) && !stOut st, cls := sumClass ws, codes := [] }
  recItems c.g (c.globalGroup g) (c.groupLen g) h.header (if inf || stNan st then List.replicate c.g 0 else ws)

/-- SUMS: the landed sums of every owned group. -/
def State.sumsItems (s : State) (c : Cmd) : List DItem :=
  let (w, o) := s.place c
  (c.ownedGroups w o).flatMap (s.sumItems c)

/-- The output index of element 0. -/
def Cmd.outBase (c : Cmd) : Nat := if isReducing c.type then c.paramBase else 0

/-- PUB: the owner's published weights. -/
def State.pubItems (s : State) (c : Cmd) : List DItem :=
  let (w, o) := s.place c
  if c.outFmt = 0 then [] else
  ((c.roles w o).filter (fun p => pgHasPub (c.progOf o p))).flatMap (fun p =>
    let (a, b) := c.elemsOf (ownedRange c.ng c.hedges w p)
    let rd := fun (pl : Nat) =>
      let (lo, hi) := c.planeRange pl a b
      if hi = lo then [] else s.read (c.pubAt w o p (!owCur (c.ownOf o p)) lo) (hi - lo)
    planeItems c.outFmt c.sideUnit c.sideBytes (c.paramBase + a) (b - a) (rd 0) (if c.sideBytes = 0 then [] else rd 1))

/-- STATE: every owned element's stored planes, and each plane block's header. -/
def State.stateItems (s : State) (c : Cmd) : List DItem :=
  let (w, o) := s.place c
  (c.espBlocks w o).flatMap (fun b =>
    let img := c.progOf o b.role
    let np := pgPlanes img + 1
    let own := c.ownOf o b.role
    let rec_ := s.read (owState own + b.rec_ * stateLen img) (stateLen img)
    let q := fun (p i : Nat) =>
      let n := if pgFmt img p = 2 then 2 else 1
      unsigned 16 (signed (8 * n) (leAt rec_ (planeOff img p + 4 + n * i) n))
    let k := c.paramBase + b.off
    (List.range (min 32 (c.elements - b.off))).map (fun i =>
      ({ elem := k + i, index := k + i, bits := ((List.range np).map (fun p => q p i * 2 ^ (16 * p))).sum } : DItem))
    ++ (List.range np).map (fun p =>
      ({ elem := k, index := 2 ^ 63 + 4 * (k / 32) + p, bits := leAt rec_ (planeOff img p) 4 } : DItem)))

/-- The element count of a RECV's output, from the bytes that have landed (R74, R233). -/
def recvElems (f len : Nat) : Nat := if isMx f then mxElems f len else 8 * len / max 1 (fmtBits f)

/-- OUTPUT of an ALL_TO_ALL: its rows one after another. -/
def State.rowItems (s : State) (c : Cmd) : List DItem :=
  let f := c.planeFmt
  let e := if c.converts then c.rowElemCount else rowElems f c.rowBytes
  let n := min (c.rowsBefore c.members) c.rowCap
  (List.range n).flatMap (fun r =>
    let b := s.read (c.dst + r * c.landRow) c.landRow
    planeItems f 32 (if isMx f then 1 else 0) (r * e) e b (b.drop (planeBytes f e)))

/-- OUTPUT of a whole buffer of n elements of a format at an address. -/
def State.bufItems (s : State) (f int4 k0 n addr : Nat) : List DItem :=
  let unit := if isMx f then 32 else if f = 8 then int4Group int4 else 1
  let sb := if isMx f then 1 else if f = 8 then 8 else 0
  planeItems f unit sb k0 n (s.read addr (planeBytes f n)) (s.read (addr + sidePlaneAt f n) (sidePlaneBytes f int4 n))

/-- OUTPUT: the output as written. A fused step whose program publishes nothing has none (spec/07_espalier.md R196). -/
def State.outItems (s : State) (c : Cmd) : List DItem :=
  match c.type with
  | 0x11 =>
    let (w, o) := s.place c
    if c.outFmt = 12 then s.sumsItems c
    else (c.roles w o).flatMap (fun p =>
      let (a, b) := c.elemsOf (ownedRange c.ng c.hedges w p)
      let wd := fmtBits c.outFmt / 8
      planeItems c.outFmt 1 0 (c.paramBase + a) (b - a) (s.read (c.dst + a * wd) ((b - a) * wd)) [])
  | 0x14 => s.rowItems c
  | 0x16 => []
  | 0x17 =>
    s.bufItems c.planeFmt c.int4 0 (recvElems c.planeFmt c.landedBytes) c.dst
  | 0x18 =>
    (List.range (tRecLen (parseTRec (s.read c.dst 128)).k / 8)).map (fun j => ({ elem := 0, index := j, bits := s.readNat (c.dst + 8 * j) 8 } : DItem))
  | _ =>
    if c.type = 0x12 ∧ (c.outFmt = 0 ∨ pgHasPub c.prog = false) then [] else
    let l := s.bufItems c.outFmt c.int4 c.outBase c.elements c.dst
    if c.transposed && isReducing c.type then
      let v := c.elements / c.vecLen
      l.map (fun x => if x.index < 2 ^ 63 then
          let t := x.index - c.outBase
          let k := c.outBase + (t % v) * c.vecLen + t / v
          { x with elem := k, index := k }
        else x)
    else l

/-- OUTPUT of a compressed command: the plain bytes of every segment that is DONE (spec/10_compression.md R306). -/
def State.plainItems (s : State) (x : Out) : List DItem :=
  let c := x.cmd
  if c.type = 0x12 ∧ pgHasPub c.prog = false then [] else
  let l := s.bufItems c.planeFmt c.int4 c.outBase c.elements (c.dst + s.tabCur c * c.plainSize)
  let bad := c.segments.filter (s.segBad c)
  l.filter (fun y =>
    let off := if y.index < 2 ^ 63 then (y.index - c.outBase) * fmtBits c.planeFmt / 8
      else c.sideAtOff + (y.index - 2 ^ 63 - c.outBase / c.sideUnit) * c.sideBytes
    !bad.any (fun g => decide (g.off ≤ off) && decide (off < g.off + g.len)))

/-! ### Records (R326, R327) -/

/-- Bytes 0 to 39 of a record. -/
def recHead (c : Cmd) (site rank part : Nat) (items : List DItem) : List Byte :=
  let lp := bankFld c.bank rDigRingCfg 16 6
  toLE c.step 6 ++ toLE (c.job + 4096 * (if site = 7 then c.gat.rep else 0)) 2
    ++ toLE (if isReducing c.type then c.bucketNo else 0) 4 ++ toLE site 1 ++ toLE (lp + 64 * b2n c.exact) 1
    ++ toLE c.ordinal 2 ++ toLE rank 2 ++ toLE part 6 ++ toLE items.length 8
    ++ toLE (ld64 (items.map (fun x => (BitVec.ofNat 64 x.index, BitVec.ofNat 64 x.bits)))).toNat 8

/-- The parts that occur, in ascending order. -/
def partsOf (lp : Nat) (items : List DItem) : List Nat := ((items.map (fun x => x.elem / 2 ^ lp)).eraseDups).mergeSort

/-- The unit that forms a site's records (R328): 0 Sequencer, 1 Feed expander, 2 Quantiser, 3 Coppice, 4 Bobbin,
5 Espalier. -/
def siteUnit (site compress : Nat) : Nat :=
  match site with
  | 1 => 0
  | 2 => 2
  | 3 => 3
  | 4 => 4
  | 5 => 5
  | 6 => 5
  | _ => if compress = 0 then 0 else 1

/-- Form the records of one site of a command, when its digest is on and the site is enabled (R324). -/
def State.formSite (s : State) (c : Cmd) (site : Nat) (items : List DItem) : State :=
  let cfg := (smGet regReset c.bank rDigRingCfg).toNat
  if !c.digest || !bitAt cfg 5 || !bitAt cfg (8 + site - 1) then s
  else
    let lp := bankFld c.bank rDigRingCfg 16 6
    let recs := (partsOf lp items).map (fun part =>
      ({ bytes := recHead c site s.job.rank part (items.filter (fun x => x.elem / 2 ^ lp == part))
         unit := siteUnit site c.compress, q := c.q, i := c.i, base := (smGet regReset c.bank rDigRingBase).toNat, cfg := cfg } : DigestRec))
    { s with digests := s.digests ++ recs }

/-- The site has been reached on this chip and its digest is not formed yet (R324). -/
def State.siteDue (s : State) (c : Cmd) (site : Nat) : Bool :=
  !c.digested.contains (if site = 7 then site + 16 * c.gat.rep else site) &&
    (match site with
     | 1 => isReducing c.type && c.leadComplete
     | 2 => isReducing c.type && c.conv.done
     | 3 => c.type == 0x12 && c.upd.applied
     | 4 => isReducing c.type && c.dataStarted && s.allDone c
     | 5 => c.type == 0x12 && c.upd.computed
     | 6 => c.type == 0x12 && c.upd.applied
     | _ => c.gat.live && c.compress == 0)

/-- The items of a site. -/
def State.siteItems (s : State) (c : Cmd) (site : Nat) : List DItem :=
  match site with
  | 1 => leadItems c
  | 2 => if c.sparse then s.sparseItems c else s.codeItems c
  | 3 => s.residItems c
  | 4 => s.sumsItems c
  | 5 => s.pubItems c
  | 6 => s.stateItems c
  | _ => s.outItems c

/-- Form a site's records once. -/
def State.reachSite (s : State) (q i site : Nat) : State :=
  match s.cmd? q i with
  | none => s
  | some c =>
    if !c.digest || !s.siteDue c site then s
    else
      (s.formSite c site (s.siteItems c site)).putCmd
        { c with digested := (if site = 7 then site + 16 * c.gat.rep else site) :: c.digested }

/-- Form every digest that is due (R324): the sites of each command in order, then the outputs of compressed commands whose
last segment is expanded (spec/10_compression.md R306). -/
def State.formDigests (s : State) : State :=
  let s := s.cmds.foldl (fun s c => [1, 2, 3, 4, 5, 6, 7].foldl (fun s site => s.reachSite c.q c.i site) s) s
  s.outs.foldl (fun s x =>
    if !x.owesDigest || x.cmd.segments.any (fun g => s.owed x.cmd g.num) then s
    else
      let s := s.formSite x.cmd 7 (s.plainItems x)
      { s with outs := s.outs.map (fun y => if y == x then { y with owesDigest := false } else y) }) s

/-- Some record of a command waits for the ring under STALL (R328). -/
def State.digestWaits (s : State) (q i : Nat) : Bool := s.digests.any (fun d => d.q == q && d.i == i)

/-- The digest ring is full for a record. -/
def State.ringFull (s : State) (d : DigestRec) : Bool :=
  decide (2 ^ (d.cfg % 32) ≤ (s.fld rDigRingHead 0 32 + 2 ^ 32 - s.fld rDigRingTail 0 32) % 2 ^ 32)

/-- A unit holds the handshake of a record that waits for room under STALL; its data path stalls behind it (R328). -/
def State.digestHolds (s : State) (unit : Nat) : Bool :=
  s.digests.any (fun d => d.unit == unit && bitAt d.cfg 6 && s.ringFull d)

/-- DIGEST_RECORD (R326, R328): the oldest formed record is written, dropped when the ring is full, or left waiting under
STALL. -/
def effDigestRecord (s : State) : State :=
  match s.digests with
  | [] => s
  | d :: t =>
    if s.ringFull d then
      (if bitAt d.cfg 6 then s else { s with digests := t }.sat rDigRingDrop 0 32 1)
    else
      let b := d.bytes ++ toLE (s.rd rNdetTotal).toNat 8 ++ toLE s.now 8 ++ toLE 0 4
      let b := b ++ toLE (crc32c b).toNat 4
      let h := s.fld rDigRingHead 0 32
      ({ s with digests := t }.write (d.base + 64 * (h % 2 ^ (d.cfg % 32))) b).setFld rDigRingHead 0 32 ((h + 1) % 2 ^ 32)

/-! ### The replay identity (R316) -/

/-- Entries of the loaded skein: 256 bytes each. -/
def skeinEntry (img : List Byte) (e : Nat) : List Byte := sliceB img (64 + 256 * e) 256
def skeinCount (img : List Byte) : Nat := leAt img 2 2

/-- A skein entry's bytes in the replay stream. -/
def replayEntry (e : List Byte) : List Byte :=
  let p := sliceB e 64 128
  let p := patchB p 56 (List.replicate 6 0#8)
  let p := patchB p 74 (toLE (byteAt p 74 % 128) 1)
  let p := patchB p 76 (List.replicate 4 0#8)
  let p := patchB p 90 (toLE (byteAt p 90 / 4 * 4) 1)
  toLE (byteAt e 0) 1 ++ toLE 0 3 ++ sliceB p 48 16 ++ sliceB p 72 56

/-- The member tables that a skein names, in order of first naming. -/
def State.skeinTables (s : State) (img : List Byte) : List Byte :=
  let addrs := ((List.range (skeinCount img)).map (fun e => leAt (skeinEntry img e) 104 8)).filter (· != 0)
  addrs.eraseDups.flatMap (fun a => s.read a (16 + 8 * s.readNat a 2))

/-- The byte stream of the replay identity. -/
def State.replayStream (s : State) (img : List Byte) : List Byte :=
  toLE (s.rd rRndSeed).toNat 8 ++ toLE (s.fld rCtrl 0 1) 1 ++ toLE 0 7
    ++ (List.range (skeinCount img)).flatMap (fun e => replayEntry (skeinEntry img e))
    ++ s.skeinTables img
    ++ (List.range 16).flatMap (fun n => match s.progs.getD n none with
        | none => []
        | some p => toLE n 4 ++ sliceB p 0 512)
    ++ (List.range 64).flatMap (fun n => toLE (s.rd (rQntPolicy n)).toNat 8)
    ++ (List.range 8).flatMap (fun t =>
        toLE (s.rd (rQntActCfg t)).toNat 4 ++ s.read (s.rd (rQntActBase t)).toNat (s.fld (rQntActCfg t) 0 16 + 1))
    ++ toLE (s.rd rEspCfg).toNat 4

/-- Recompute the identity before a command starts, when it is stale (R316): VALID says that a skein is loaded. -/
def State.refreshReplay (s : State) : State :=
  if !s.replayStale then s
  else
    let img := (s.skein.map (·.2)).getD []
    { s with replayStale := false }.wr rReplayId
      (BitVec.ofNat 64 ((crc32c (s.replayStream img)).toNat + 2 ^ 32 * b2n s.skein.isSome))

end Sys2Proof.Machine
end

