-- ==== Sys2Proof/Machine/Start.lean ====
section
/-! DEFINITION. The checks of descriptors and parameter blocks at fetch and at start, and the start of a command
(spec/13_control.md R381 to R389, spec/08_collectives.md R215, R216, R230, spec/14_registers.md R405, R406, R411). -/

namespace Sys2Proof.Machine

/-! ### Checks at fetch (spec/13_control.md R382, R387, spec/08_collectives.md R214 to R216) -/

/-- The listed descriptor types (R387). -/
def knownType (t : Nat) : Bool := t == 0x01 || usesBlock t || t == 0x19 || t == 0x20 || t == 0x21 || t == 0x28

/-- The byte offset of the first key field of a descriptor that does not hold (R381, R382). -/
def descFault (d : List Byte) : Option Nat :=
  if byteAt d 1 ≠ complB 1 (byteAt d 0) then some 1
  else if byteAt d 2 / 64 ≠ 0 then some 2
  else if byteAt d 3 ≠ complB 1 (byteAt d 2) then some 3
  else if leAt d 6 2 ≠ complB 2 (leAt d 4 2) then some 6
  else if dType d = 0x19 ∧ leAt d 14 2 ≠ 0 then some 14
  else if dOvr d = false ∧ dType d ≠ 0x19 ∧ dArg d ≠ 0 then some 32
  else if dOvr d = false ∧ dStepOvr d ≠ 0 then some 40
  else if byteAt d 46 / 2 ≠ 0 then some 46
  else if byteAt d 47 ≠ 0 then some 47
  else none

/-- The byte offset of the first field of a collective parameter block that fails the key check (R214, R216 order 1). -/
def blockFault (p : List Byte) : Option Nat :=
  if leAt p 48 8 / 2 ^ 45 ≠ 0 then some 53
  else if leAt p 62 2 ≠ 0 then some 62
  else if leAt p 76 4 ≠ complB 4 (leAt p 72 4) then some 76
  else if byteAt p 83 / 64 ≠ 0 then some 83
  else if byteAt p 90 / 128 ≠ 0 then some 90
  else if leAt p 108 6 / 2 ^ 45 ≠ 0 then some 113
  else if leAt p 114 2 ≠ 0 then some 114
  else if leAt p 120 8 ≠ 0 then some 120
  else none

/-- The formats a command may name (R215). -/
def formatsOk (t i o : Nat) : Bool :=
  let any := fun (f : Nat) => decide (f ≤ 7) || f == 9 || isPly f
  match t with
  | 0x10 => i == 1 && (o == 1 || o == 9)
  | 0x11 => i == 1 && (o == 1 || o == 9 || o == 12)
  | 0x12 => i == 1 && decide (o ≤ 9)
  | 0x13 => i == o && decide (1 ≤ i) && decide (i ≤ 9)
  | 0x15 => i == o && decide (1 ≤ i) && decide (i ≤ 9)
  | 0x14 => any i && any o
  | 0x16 => any i && any o && (i != 0 || o != 0)
  | 0x17 => any i && any o && (i != 0 || o != 0)
  | _ => true

/-- The COMPRESS values a command accepts (spec/10_compression.md R288). -/
def compressOk (t k : Nat) : Bool :=
  match k with
  | 0 => true
  | 3 => t == 0x13 || t == 0x15 || t == 0x16 || t == 0x17
  | _ => t == 0x12 || t == 0x13 || t == 0x15

/-- A command record whose only contents are the descriptor and the parameter block. -/
def Cmd.make (q i : Nat) (d p : List Byte) (bank : SMap Word) (now : Nat) : Cmd :=
  { q := q, i := i, desc := d, param := p, table := [], map := [], deputyMap := [], own := [], deputyOwn := [], prog := [], deputyProg := [], bank := bank
    dataStarted := false, dataAt := now, watchAt := now, warned := false, lastFrom := [], late := false, lead := Lead.init
    conv := Conv.init, red := Red.init, upd := Upd.init, gat := Gat.init, outcome := none, readError := false, status := none
    entry := 0, counts := [], ready := none, matchNo := 0, moved := false, cut := 0, digested := []
    ordinal := 0 }

/-- Commands whose ELEMENTS are checked. -/
def usesElements (t : Nat) : Bool := isReducing t || t == 0x13 || t == 0x15 || t == 0x16

/-- The first field outside its permitted range or use (R216 order 2, R219, R288). -/
def rangeFault (c : Cmd) : Option Nat :=
  let t := c.type
  let group := t != 0x16 && t != 0x17
  let cut := c.transpose && (t == 0x10 || t == 0x12 || t == 0x13 || t == 0x15)
  if usesElements t && c.elements == 0 then some 48
  else if !formatsOk t c.inFmt c.outFmt then some 75
  else if cut && (c.outFmt == 8 || c.compress != 0) then some 74
  else if group && leAt c.param 40 8 == 0
      && (c.rankBase % 8 != 0 || decide (65536 < c.rankBase + 8 * (c.hedgesField % 2 ^ 14))) then some 80
  else if group && leAt c.param 40 8 == 0 && (c.hedgesField == 0 || decide (8192 < c.hedgesField)) then some 82
  else if isReducing t && c.sparse && (c.selK == 0 || decide (64 < c.selK)) then some 88
  else if isReducing t && c.sparse && (decide (c.selLog2 < 9) || decide (16 < c.selLog2)) then some 89
  else if !compressOk t c.compress then some 90
  else if c.compress != 0 && decide (2 ^ 40 < planeBytes c.planeFmt c.elements) then some 90
  else if (c.inFmt == 8 || c.outFmt == 8) && t != 0x18 && c.int4 == 3 then some 90
  else if isReducing t && decide (2 ^ 45 < c.paramBase + c.elements) then some 108
  else none

/-- A member table breaks a rule of R230. -/
def tableBad (t : List Byte) : Bool :=
  let m := leAt t 0 2
  let h := leAt t 2 2
  let ms := (List.range m).map (tableEntry t)
  decide (m < 2) || decide (m = 65536) || h == 0 || decide (8192 < h) || leAt t 6 2 != complB 2 m || leAt t 8 8 != 0
    || decide (4096 ≤ leAt t 4 2)
    || (List.range m).any (fun i =>
        byteAt t (21 + 8 * i) != complB 1 (byteAt t (20 + 8 * i)) || leAt t (22 + 8 * i) 2 != 0)
    || ms.any (fun x => decide (h ≤ x.w) || decide (8 ≤ x.o))
    || decide (¬ (ms.map (·.rank)).Nodup) || decide (¬ (ms.map (fun x => 8 * x.w + x.o)).Nodup)
    || (List.range h).any (fun w => decide ((ms.filter (fun x => x.w == w)).length < 2))

/-- Owned ranges in elements that begin on unit boundaries; `tail` admits a last unit cut short by ELEMENTS. -/
def Cmd.rangesWhole (c : Cmd) (unit : Nat) (tail : Bool) : Bool :=
  (List.range 8).all (fun p => (List.range c.hedges).all (fun w =>
    let (a, b) := c.elemsOf (ownedRange c.nItems c.hedges w p)
    a == b || (a % unit == 0 && (b % unit == 0 || (tail && b == c.elements)))))

/-- The fields of R216 order 2 whose check needs the group size or the owned ranges (R219, spec/10_compression.md R288). -/
def wholeFault (c : Cmd) : Option Nat :=
  let group := c.type != 0x16 && c.type != 0x17
  if c.compress != 0 && c.sideBytes != 0 && group && (c.table.isEmpty || !tableBad c.table)
      && !c.rangesWhole c.sideUnit false then some 90
  else if isReducing c.type && c.paramBase % max 1 c.g != 0 then some 108
  else none

/-- The step-class registers that will serve a step as far as a fetch can tell: those of its bank, or for a step that begins
with it the values its boundary applies (spec/14_registers.md R405, R406; DEDUCED, log 115). -/
def State.bankAhead (s : State) (step : Nat) : Option (SMap Word) :=
  match s.bankFor step with
  | some b => some b
  | none => if s.stepCur < step then some (s.stepBoundary step).curBank else none

/-- A command record for the checks that need its bank and member table. -/
def State.cmdAhead (s : State) (d p : List Byte) : Option Cmd :=
  let c := Cmd.make 0 0 d p [] 0
  let ma := leAt p 40 8
  (s.bankAhead c.step).map (fun b =>
    { c with bank := b
             table := if ma = 0 ∨ c.type = 0x16 ∨ c.type = 0x17 then [] else s.read ma (16 + 8 * s.readNat ma 2) })

/-- The offending field that lies first, of two checks of one order. -/
def firstField (a b : Option Nat) : Option Nat :=
  match a, b with
  | some x, some y => some (min x y)
  | none, y => y
  | x, none => x

/-- The status and DETAIL of the first check at fetch that fails. -/
def State.fetchFail (s : State) (d p : List Byte) : Option (Nat × Nat) :=
  match descFault d with
  | some o => some (stData, o + 65536)
  | none =>
    if !knownType (dType d) then some (stUnsupported, 0)
    else if !usesBlock (dType d) then none
    else
      match blockFault p with
      | some o => some (stData, o)
      | none =>
        let c := Cmd.make 0 0 d p [] 0
        match firstField (rangeFault c) ((s.cmdAhead d p).bind wholeFault) with
        | some o => some (stInvalid, o)
        | none =>
          if c.compress ≠ 0 ∧ s.hasCarding = false then some (stAbsent, 0)
          else if isReducing c.type = true ∧ c.sparse = true ∧ s.kMax < c.selK ∧ s.grade = .c then some (stAbsent, 0)
          else none

/-! ### Checks at start (spec/08_collectives.md R216 orders 4 to 10) -/

/-- A register of the bank, or the chunk timeout, holds a value that fails the command. -/
def State.badRegister (s : State) (c : Cmd) : Bool :=
  let b := c.bank
  let out := fun (v lo hi : Nat) => decide (v < lo) || decide (hi < v)
  let warn := (smGet regReset b rColWarn).toNat
  let abort := (smGet regReset b rColAbort).toNat
  let red := isReducing c.type
  (red && out (bankFld b rQntStatCfg 0 5) 6 24) || (red && c.sparse && out (bankFld b rTopRingCfg 0 5) 6 20)
    || (red && out (bankFld b rCpcRingCfg 0 5) 6 20) || (red && out (bankFld b rPlyCfg 0 4) 4 6)
    || (red && decide (16 < bankFld b rPlyCfg 4 5)) || out warn 10000 1000000000
    || (abort != 0 && decide (abort ≤ warn))
    || (c.digest && (out (bankFld b rDigRingCfg 0 5) 6 26
          || (decide (45 < bankFld b rDigRingCfg 16 6) && bankFld b rDigRingCfg 16 6 != 63)))
    || (c.type == 0x12 && bankFld b rCkpPolicy 0 1 == 1 && (smGet regReset b rCkpSize).toNat % 458752 != 0)
    || out (s.fld rFabTimeout 0 24) 2000 10000000

/-- The memory of the records of a landing map: extension, pending area and side table (spec/06_ply_reduction.md R168). -/
def Cmd.mapAreas (c : Cmd) (m : List Byte) : List (Nat × Nat) :=
  if m.isEmpty then [] else
  [(mapExt m, 8 * slotWords c.g c.exact * (mapGroups m - mapSramGroups m)),
   (mapPend m, if c.hasRow then mapPendGroups m * (8 * (c.g + 1)) else 0), (mapSide m, 16 * mapSideEntries m)]

/-- The memory of an ownership entry's records for n elements: state, staging, publication slots and the step's scalars
(spec/07_espalier.md R191 to R193, R201). -/
def Cmd.ownAreas (c : Cmd) (e img : List Byte) (n : Nat) : List (Nat × Nat) :=
  if e.isEmpty then [] else
  let recs := cdiv n 32 * stateLen img
  let pub := if c.sideBytes = 0 then planeBytes c.outFmt n else sidePlaneAt c.outFmt n + sidePlaneBytes c.outFmt c.int4 n
  [(owState e, recs), (owStage e, recs), (owPub e false, pub), (owPub e true, pub),
   (owStepAddr e + 128 * (c.step % 2 ^ owStepLog2 e), 128)]

/-- The table entries that a reducing command reads at its start: landing maps, ownership entries, bucket entry and format
state word (R216 order 10). -/
def Cmd.entryAreas (c : Cmd) : List (Nat × Nat) :=
  let mapAt := fun (job : Nat) => (smGet regReset c.bank rBobMapBase).toNat / 64 * 64 + 64 * job
  let dj := leAt c.table 4 2 % 4096
  (mapAt c.job, 64) :: (if c.deputyMap.isEmpty then [] else [(mapAt dj, 64)])
    ++ (if c.own.isEmpty then [] else [(owAddr c.bank c.job, 64)])
    ++ (if c.deputyOwn.isEmpty then [] else [(owAddr c.bank dj, 64)])
    ++ [(bkAddr c.bank c.bucketNo, 32), (c.fmtAddr, 4)]

/-- The memory of a fused step's own data: tables, accumulator, code buffer, landings, residual slots, owned state. The code
buffer is taken at its length for the largest class (DESIGN CHOICE, log 122). -/
def State.stepAreas (s : State) (c : Cmd) : List (Nat × Nat) :=
  let (w, o) := s.place c
  let e := s.entryOf c
  let slot := fun (f : Nat) => if f = 0 then 0 else planeLen (bkElements e) + blockCount (bkElements e) * resLen f
  let total := fun (p : Nat) => c.roleTotal w o p * c.g
  let rows := ((c.roles w o).map (fun p => (eighth c.ng p).2)).sum
  let code := if c.sparse then c.sparseAt (cdiv c.elements (max 1 c.selBlock)) else c.rowOpAt 6 (if c.hasRow then rows else 0)
  c.entryAreas ++ (if c.aux = 0 then [] else [(c.aux, 4 * c.elements)]) ++ [(c.code, code - c.code)]
    ++ c.mapAreas c.map ++ c.mapAreas c.deputyMap
    ++ [(bkSlot e (bkCur e), if bkHolds e then slot (bkCurFmt e) else 0), (bkSlot e (!bkCur e), slot (bkFmt e))]
    ++ c.ownAreas c.own c.prog (total o)
    ++ (match (c.roles w o).find? (· ≠ o) with
        | some p => c.ownAreas c.deputyOwn c.deputyProg (total p)
        | none => [])

/-- The areas that a compressed command reads or writes: address and length (spec/10_compression.md R289). -/
def State.areas (s : State) (c : Cmd) : List (Nat × Nat) :=
  let (w, o) := s.place c
  let src := match c.type with
    | 0x12 => if c.srcFeed then [] else [(c.src, 2 * c.elements)]
    | 0x13 => (c.roles w o).flatMap (fun p =>
        (c.spans (ownedRange c.nItems c.hedges w p)).map (fun x => (c.src + x.1, x.2)))
    | 0x15 => if c.peer = s.job.rank then [(c.src, c.plainSize)] else []
    | 0x16 => c.sendReads
    | _ => []
  let dst := if c.type = 0x16 then [] else [(c.dst, c.tableOff + 64 + 4 * c.segments.length)]
  let base := if c.compress = 2 then [(c.base, c.plainSize)] else []
  let table := if c.table.isEmpty then [] else [(leAt c.param 40 8, 16 + 8 * c.members)]
  src ++ dst ++ base ++ table ++ (if c.type = 0x12 then s.stepAreas c else [])

/-- An area overlaps an enabled protected window (spec/10_compression.md R289). -/
def protectedHit (bank : SMap Word) (areas : List (Nat × Nat)) : Bool :=
  (List.range 8).any (fun i =>
    bankFld bank (rCrdProtLo i) 0 1 == 1 && areas.any (fun a =>
      let lo := bankFld bank (rCrdProtLo i) 12 52 * 4096
      let hi := (bankFld bank (rCrdProtHi i) 12 52 + 1) * 4096
      a.2 != 0 && decide (a.1 < hi) && decide (lo < a.1 + a.2)))

/-- The vector rules of R238 and R240: the offending field. -/
def vecFault (c : Cmd) : Option Nat :=
  let t := c.type
  let cut := c.transposed
  let bad := fun (v : Nat) =>
    (isMx c.outFmt && v % 32 != 0) || (c.outFmt == 8 && v % max 1 (int4Group c.int4) != 0)
  if c.feed && t != 0x18 && t != 0x16 && c.exact && c.vecLen == 0 then some 92
  else if c.feed && t != 0x18 && t != 0x16 && bad c.vecLen then some 92
  else if cut && (c.vecLen % 128 != 0 || c.vecLen == 0 || c.elements % max 1 c.vecLen != 0
      || c.elements / max 1 c.vecLen % 128 != 0) then some 92
  else none

/-- The member table that an identifier accepts after a re-form (spec/08_collectives.md R250): that of the last one to name
it. -/
def State.reformOf (s : State) (job : Nat) : Option (List Byte) :=
  (s.job.reforms.find? (fun r => decide (r.2.1 ≤ job) && decide (job ≤ r.2.2))).map (·.1)

/-- The memory of the member table that a command names. -/
def Cmd.tableAreas (c : Cmd) : List (Nat × Nat) := if c.table.isEmpty then [] else [(leAt c.param 40 8, c.table.length)]

/-- A read of some area is flagged (spec/01_engine_and_step.md R39). -/
def State.anyFlagged (s : State) (l : List (Nat × Nat)) : Bool := l.any (fun x => s.flagged x.1 x.2)

/-- The checks that need only the command and its bank, in the order of R216: status and DETAIL. -/
def State.earlyFail (s : State) (c : Cmd) : Option (Nat × Nat) :=
  let group := c.type != 0x16 && c.type != 0x17
  if s.badRegister c then some (stInvalid, 0)
  else if isReducing c.type && polBad c.bank c.policy then some (stInvalid, 0)
  else if (wholeFault c).isSome then (wholeFault c).map (fun o => (stInvalid, o))
  else if s.anyFlagged c.tableAreas then some (stData, s.ownRank)
  else if group && !c.table.isEmpty && tableBad c.table then some (stInvalid, 0)
  else if group && (s.reformOf c.job).any (· != c.table) then some (stMismatch, 0)
  else if group && (c.indexOf s.job.rank).isNone then some (stMismatch, 0)
  else if (c.type == 0x15 || c.type == 0x18) && (c.indexOf c.peer).isNone then some (stInvalid, 84)
  else if (vecFault c).isSome then (vecFault c).map (fun o => (stInvalid, o))
  else if isReducing c.type && c.sparse && !c.rangesWhole c.selBlock true then some (stInvalid, 89)
  else if c.type == 0x18 && !s.flagged c.aux 128 && decide (s.kMax < (parseTRec (s.read c.aux 128)).k) && s.grade == .c then
    some (stAbsent, 0)
  else none

/-- The landing map's own checks and its agreement with the group (spec/06_ply_reduction.md R168, R218). -/
def State.mapFail (s : State) (c : Cmd) (m : List Byte) (groups : Nat) : Option (Nat × Nat) :=
  let k := mapCheck m c.hasRow c.exact
  if k = stData then some (stData, s.ownRank)
  else if k ≠ 0 then some (k, 0)
  else if mapGroups m ≠ groups ∨ mapGsize m ≠ c.gsize ∨ mapSparse m ≠ c.sparse then some (stMismatch, 0)
  else none

/-- The ownership entry's checks in the order of spec/07_espalier.md R191, with those that the program decides (R76, R203,
R215). -/
def State.ownFail (s : State) (c : Cmd) (e m : List Byte) (first : Nat) : Option (Nat × Nat) :=
  let k := owCheck e m first
  let img := s.progs.getD (owProg e) none
  if k = stData then some (stData, s.ownRank)
  else if k ≠ 0 then some (k, 0)
  else
    match img with
    | none => some (stInvalid, 0)
    | some img =>
      if owValid e = true ∧ c.step ≤ owStep e then some (stMismatch, 0)
      else if pgPub img ≠ c.outFmt then some (stInvalid, 75)
      else if c.outFmt = 8 ∧ c.guardApply = true then some (stInvalid, 0)
      else if c.outFmt = 8 ∧ pgGsize img ≠ c.int4 then some (stMismatch, 0)
      else none

/-- The first of a list of checks that fails. -/
def firstFail : List (Option (Nat × Nat)) → Option (Nat × Nat)
  | [] => none
  | none :: t => firstFail t
  | some x :: _ => some x

/-- The tables of a reducing command (R216 order 10); a bucket entry that fails its own checks counts in FMT_ERR. A flagged
read of them is a failure of its own (spec/01_engine_and_step.md R39). -/
def State.tableFail (s : State) (c : Cmd) : Option (Nat × Nat) × Bool :=
  if s.anyFlagged c.entryAreas then (some (stData, s.ownRank), false) else
  let (w, o) := s.place c
  let others := (c.roles w o).filter (· ≠ o)
  let owned := fun (p : Nat) => ownedRange c.ng c.hedges w p
  let maps := [s.mapFail c c.map (owned o).2,
    if others.isEmpty then none else s.mapFail c c.deputyMap (others.map (fun p => (owned p).2)).sum]
  let first := fun (p : Nat) => c.paramBase + c.g * (owned p).1
  let owns := if c.type ≠ 0x12 then [] else
    [s.ownFail c c.own c.map (first o),
     match others with
     | [] => none
     | p :: _ => s.ownFail c c.deputyOwn c.deputyMap (first p)]
  match firstFail (maps ++ owns) with
  | some x => (some x, false)
  | none =>
    let e := s.entryOf c
    if bkBad e then (some (stData, s.ownRank), true)
    else if bkElements e ≠ c.elements then (some (stMismatch, 0), false)
    else if fmtWordBad (s.readNat c.fmtAddr 4) then (some (stData, s.ownRank), false)
    else (none, false)

/-- Job identifiers in a scope word. -/
def inScope (v job : Nat) : Bool := decide (bitsAt v 0 12 ≤ job) && decide (job ≤ bitsAt v 12 12)

/-- The checks of a compressed destination (spec/10_compression.md R289, R292), with the count of protected commands. -/
def State.compFail (s : State) (c : Cmd) : Option (Nat × Nat) × Bool :=
  if c.compress = 0 then (none, false)
  else if protectedHit c.bank (s.areas c) then (some (stInvalid, 0), true)
  else if c.type = 0x16 then (none, false)
  else if s.flagged c.tableAddr 64 then (some (stData, s.ownRank), false)
  else
    let k := s.tabCheck c
    if k = 0 then (none, false) else (some (k, if k = stData then s.ownRank else 0), false)

/-- The image of the step before was refused for size (spec/12_resilience.md R343). -/
def State.ckpFail (s : State) (c : Cmd) : Option (Nat × Nat) :=
  match s.ckp.refused with
  | none => none
  | some (t, n) =>
    if c.type = 0x12 ∧ c.step = t + 1 ∧ inScope (smGet regReset c.bank rCkpScope).toNat c.job = true then
      some (stExhausted, min n (2 ^ 32 - 1)) else none

/-- The reads of tables that a start makes. -/
def Cmd.startReads (c : Cmd) : List (Nat × Nat) :=
  c.tableAreas ++ (if isReducing c.type then c.entryAreas else [])
    ++ (if c.compress = 0 ∨ c.type = 0x16 then [] else [(c.tableAddr, 64)])

/-- Every start check of a collective: the first failure, and the state with what the checks count. A flagged read of a table
raises the memory-error event (spec/01_engine_and_step.md R39). -/
def State.startFail (s : State) (c : Cmd) : Option (Nat × Nat) × State :=
  let s := if s.anyFlagged c.startReads then s.raise causeMemory else s
  match s.earlyFail c with
  | some x => (some x, s)
  | none =>
    let (t, fmtErr) := if isReducing c.type then s.tableFail c else (none, false)
    let s := if fmtErr then s.sat rCpcEvents 0 16 1 else s
    match t with
    | some x => (some x, s)
    | none =>
      let (k, prot) := s.compFail c
      let s := if prot then s.sat rCrdEvents 16 16 1 else s
      match k with
      | some x => (some x, s)
      | none => (s.ckpFail c, s)

/-! ### Job identifiers and drains (spec/06_ply_reduction.md R179, spec/08_collectives.md R249) -/

def State.jobState (s : State) (job : Nat) : Nat := s.fld (rPlyJobst (job / 16)) (2 * (job % 16)) 2
def State.setJobState (s : State) (job v : Nat) : State := s.setFld (rPlyJobst (job / 16)) (2 * (job % 16)) 2 v

def State.drainOf (s : State) (job : Nat) : Option Drain := s.drains.find? (fun d => d.job == job)

/-- Put a drain record in its place, or add it. -/
def State.putDrain (s : State) (d : Drain) : State :=
  { s with drains := s.drains.filter (fun x => x.job != d.job) ++ [d] }

/-- The ranks that the member at place (w, o) can send to under a command: every member for reductions and all-to-all, whose
direct records may go to any; the peer of a SEND or RECV; else its Hedge, its Row neighbours and the root. -/
def Cmd.targets (c : Cmd) (w o : Nat) : List Nat :=
  let me := (c.rankAt w o).getD 0
  let all :=
    if isReducing c.type ∨ c.type = 0x14 then c.memberList.map (·.rank)
    else
      (List.range 8).filterMap (c.rankAt w)
        ++ (if c.hedges = 1 then [] else (c.roles w o).flatMap (fun p =>
            [c.standAt (rowStep c.hedges w 0) p, c.standAt (rowStep c.hedges w 1) p]))
        ++ (if c.type = 0x18 then [c.peer] else [])
  (all.filter (· ≠ me)).eraseDups

/-- The ranks that this chip's drain of a command awaits, and those it sends its marker to. -/
def State.awaits (s : State) (c : Cmd) : List Nat :=
  if c.type = 0x16 ∨ c.type = 0x17 then [c.peer]
  else (c.memberList.filter (fun m => m.rank != s.job.rank && (c.targets m.w m.o).contains s.job.rank)).map (·.rank)

def State.drainsTo (s : State) (c : Cmd) : List Nat :=
  if c.type = 0x16 ∨ c.type = 0x17 then [c.peer]
  else let (w, o) := s.place c; c.targets w o

/-- A command runs under its identifier: ACTIVE, with a drain record that collects early markers. -/
def State.openDrain (s : State) (c : Cmd) : State :=
  let skipped := ((s.drainOf c.job).map (·.skipped)).getD []
  (s.setJobState c.job 1).putDrain
    { job := c.job, await := s.awaits c, got := [], active := false, skipped := skipped, since := s.now, heard := [] }

/-! ### Starting (spec/13_control.md R383, spec/14_registers.md R405, R411) -/

/-- Indices of a queue that are not complete and lie before an index. -/
def State.olderOpen (s : State) (q i : Nat) : Bool :=
  let h := s.fld (rQHead q) 0 32
  let n := (i + 2 ^ 32 - h) % 2 ^ 32
  (List.range n).any (fun k => !(s.queue q).done.contains ((h + k) % 2 ^ 32))

/-- The conditions of R383 that do not depend on the type. -/
def State.mayStartDesc (s : State) (q : Nat) (f : Fetched) : Bool :=
  s.allAwake && decide ((s.queue q).st = .running) && decide (s.ctl.st = .running) && decide (s.inFlight q < 8)
    && f.fail.isNone && (!dFence f.desc || !s.olderOpen q f.index) && s.waitMet f.desc

/-- The next descriptor leaves the list of fetched ones. -/
def State.takeDesc (s : State) (q : Nat) : State :=
  s.setQueue q { s.queue q with fetched := (s.queue q).fetched.drop 1, onJob := false }

/-- The next descriptor meets a failure as it is about to start: it completes with it. -/
def State.failDesc (s : State) (q : Nat) (x : Nat × Nat) : State :=
  let k := s.queue q
  match k.fetched with
  | [] => s
  | f :: t => s.setQueue q { k with fetched := { f with fail := some x } :: t, onJob := false }

/-- The configuration comparison at a start (R411): whether the start may go on, and the state after it. -/
def State.cfgGate (s : State) : Bool × State :=
  if s.fld rCfgCtl 0 1 = 0 then (true, s)
  else if s.fld rCfgCtl 3 1 = 1 then (false, s)
  else if s.fld rCfgCrc 0 32 = s.fld rCfgRef 0 32 then (true, (s.setFld rCfgCtl 1 1 0).setFld rCfgCtl 2 1 0)
  else if s.fld rCfgCtl 2 1 = 1 then (false, s.setFld rCfgCtl 1 1 1)
  else (false, (((s.setFld rCfgCtl 1 1 1).setFld rCfgCtl 2 1 1).sat rCfgCtl 8 8 1).raise causeConfigCrc)

/-- A running command is put on the list. -/
def State.addCmd (s : State) (c : Cmd) : State := { s with cmds := s.cmds ++ [c] }

/-- The command record of a collective with everything its start reads (R383, R168, R191, R230). -/
def State.loadCmd (s : State) (q : Nat) (f : Fetched) (bank : SMap Word) : Cmd :=
  let c := Cmd.make q f.index f.desc f.param bank s.now
  let ma := leAt f.param 40 8
  let c := if ma = 0 ∨ c.type = 0x16 ∨ c.type = 0x17 then c else { c with table := s.read ma (16 + 8 * s.readNat ma 2) }
  let mapAt := fun (job : Nat) => s.read ((smGet regReset bank rBobMapBase).toNat / 64 * 64 + 64 * job) 64
  let dj := leAt c.table 4 2 % 4096
  let (w, o) := s.place c
  let deputy := isReducing c.type && (c.roles w o).any (· ≠ o)
  let own := if c.type = 0x12 then s.read (owAddr bank c.job) 64 else []
  let deputyOwn := if c.type = 0x12 ∧ deputy = true then s.read (owAddr bank dj) 64 else []
  let progIn := fun (e : List Byte) => if e.isEmpty then [] else (s.progs.getD (owProg e) none).getD []
  { c with
    map := if isReducing c.type then mapAt c.job else []
    deputyMap := if deputy then mapAt dj else []
    own := own, deputyOwn := deputyOwn, prog := progIn own, deputyProg := progIn deputyOwn
    late := c.launchAt != 0 && s.timeValid && decide (c.launchAt < s.now) }

/-- The match number of a SEND or RECV, and the counters after it (spec/08_collectives.md R233). -/
def State.takeMatch (s : State) (c : Cmd) : Cmd × State :=
  let k := c.peer * 65536 + c.tag
  let zero := fun (_ : Nat) => 0
  if c.type = 0x16 then
    let n := smGet zero s.matchTx k
    ({ c with matchNo := n }, { s with matchTx := smSet zero s.matchTx k ((n + 1) % 2 ^ 32) })
  else if c.type = 0x17 then
    let n := smGet zero s.matchRx k
    ({ c with matchNo := n }, { s with matchRx := smSet zero s.matchRx k ((n + 1) % 2 ^ 32) })
  else (c, s)

/-! ### The numbering of commands (spec/11_reproducibility.md R327) -/

/-- a − b mod 2^32. -/
def sub32 (a b : Nat) : Nat := (a + 2 ^ 32 - b) % 2 ^ 32

/-- Indices from a to b, mod 2^32. -/
def idxFrom (a b : Nat) : List Nat := (List.range (sub32 b a)).map (fun n => (a + n) % 2 ^ 32)

/-- A queue's ring size is valid, and the address of its descriptor n (spec/13_control.md R380). -/
def State.ringOk (s : State) (q : Nat) : Bool := decide (4 ≤ s.fld (rQCfg q) 0 5) && decide (s.fld (rQCfg q) 0 5 ≤ 16)
def State.descAt (s : State) (q n : Nat) : Nat :=
  (s.rd (rQBase q)).toNat / 256 * 256 + 64 * (n % 2 ^ s.fld (rQCfg q) 0 5)

/-- The collectives of a queue's ring that are not fetched yet and that software put there. -/
def State.ringRest (s : State) (q : Nat) : List Cmd :=
  let k := s.queue q
  if k.st = .disabled ∨ s.ringOk q = false then [] else
  (idxFrom k.nextFetch (s.fld (rQTail q) 0 32)).filterMap (fun n =>
    let d := s.read (s.descAt q n) 64
    let c := Cmd.make q n d (s.read (dParamAddr d) 128) [] 0
    if k.done.contains n || !usesBlock c.type
        || s.ordinals.any (fun x => x.q == q && x.i == n && x.job == c.job && x.step == c.step) then none
    else some c)

/-- COMMAND of a command that starts (R327): the number its skein entry gave it, or 0x8000 plus its place among those of its
job identifier and step that software queued, in lower queues and before it in its own. It keeps the number. -/
def State.numberOf (s : State) (c : Cmd) : Nat :=
  match s.ordinals.find? (fun x => x.q == c.q && x.i == c.i && x.job == c.job && x.step == c.step) with
  | none => 0x8000
  | some x =>
    if x.num < 0x8000 then x.num
    else
      let direct := s.ordinals.filter (fun y => y.job == x.job && y.step == x.step && decide (0x8000 ≤ y.num))
      let rest := (List.range c.q).flatMap s.ringRest
      0x8000 + (direct.filter (fun y => decide (y.q < x.q))).length
        + (rest.filter (fun y => y.job == x.job && y.step == x.step)).length
        + (direct.filter (fun y => y.q == x.q)).idxOf x

/-- A collective whose job identifier is free starts: the step boundary, the configuration comparison, the start checks
(R405, R411, R216). -/
def State.startCollective (s : State) (q : Nat) (f : Fetched) : State :=
  if !s.job.isOpen then s.failDesc q (stNoJob, 0)
  else
    let c0 := Cmd.make q f.index f.desc f.param [] s.now
    let s := if s.stepCur < c0.step then s.stepBoundary c0.step else s
    let (go, s) := s.cfgGate
    if !go then s
    else
      match s.bankFor c0.step with
      | none => s.failDesc q (stMismatch, 0)
      | some bank =>
        let c := s.loadCmd q f bank
        let (x, s) := s.startFail c
        match x with
        | some x => s.failDesc q x
        | none =>
          let s := s.refreshReplay
          let (c, s) := s.takeMatch { c with ordinal := s.numberOf c }
          ((s.takeDesc q).addCmd c).openDrain c

/-- The start of a collective descriptor of a type (R383, R179): it starts, or is recorded as pending on its identifier. -/
def State.startType (s : State) (t q : Nat) : State :=
  match s.nextDesc q with
  | none => s
  | some f =>
    if dType f.desc ≠ t ∨ s.mayStartDesc q f = false then s
    else
      let job := leAt f.param 72 2 % 4096
      let st := s.jobState job
      if st = 0 ∨ s.job.isOpen = false then s.startCollective q f
      else
        let s := s.setQueue q { s.queue q with onJob := true }
        if st = 2 then s.setJobState job 3 else s

/-- Commands that use no collective block start with the current bank (R406): the checks common to them, and what they do. -/
def State.startPlain (s : State) (t q : Nat) (needsJob gated : Bool) (run : State → Fetched → State) : State :=
  match s.nextDesc q with
  | none => s
  | some f =>
    if dType f.desc ≠ t ∨ s.mayStartDesc q f = false then s
    else if needsJob && !s.job.isOpen then s.failDesc q (stNoJob, 0)
    else
      let (go, s) := if gated then s.cfgGate else (true, s)
      if !go then s else run s f

/-- A plain command that is done as it starts: its status and DETAIL. -/
def State.doneAtOnce (s : State) (q : Nat) (f : Fetched) (x : Nat × Nat) : State :=
  let s := s.refreshReplay
  (s.takeDesc q).addCmd { Cmd.make q f.index f.desc f.param s.curBank s.now with status := some x }

/-! ### The descriptor types -/

def effAllReduce (q : Nat) (s : State) : State := s.startType 0x10 q
def effReduceScatter (q : Nat) (s : State) : State := s.startType 0x11 q
def effFusedStep (q : Nat) (s : State) : State := s.startType 0x12 q
def effAllGather (q : Nat) (s : State) : State := s.startType 0x13 q
def effAllToAll (q : Nat) (s : State) : State := s.startType 0x14 q
def effBroadcast (q : Nat) (s : State) : State := s.startType 0x15 q
def effSend (q : Nat) (s : State) : State := s.startType 0x16 q
def effRecv (q : Nat) (s : State) : State := s.startType 0x17 q
def effTopkMerge (q : Nat) (s : State) : State := s.startType 0x18 q

/-- NOP: waits and signals only (R387). -/
def effNop (q : Nat) (s : State) : State := s.startPlain 0x01 q false false (fun s f => s.doneAtOnce q f (stOk, 0))

/-- A read of the queue's next descriptor is flagged: the memory-error event, and DATA_ERROR (spec/01_engine_and_step.md
R39). -/
def State.failRead (s : State) (q : Nat) : State := (s.raise causeMemory).failDesc q (stData, s.ownRank)

/-- The block of a row command, with the STEP in force (spec/13_control.md R381). -/
def State.rowBlock (s : State) (d : List Byte) : List Byte :=
  let b := s.read (dParamAddr d) 96
  if dOvr d then patchB b 56 (toLE (dStepOvr d) 6) else b

/-- TOPIARY_ROW (spec/04_topiary.md R115 to R117, R133). On X4-C the checks of R116 come before the one of K (DESIGN CHOICE,
log 108). -/
def effTopiaryRow (q : Nat) (s : State) : State :=
  s.startPlain 0x20 q false true (fun s f =>
    let b := s.rowBlock f.desc
    if s.flagged (dParamAddr f.desc) 96 then s.failRead q else
    match tpCheck b with
    | some o => s.failDesc q (stInvalid, o)
    | none =>
      if s.kMax < tpK b then s.failDesc q (stAbsent, 0)
      else if (List.range (tpRows b)).any (fun r =>
          s.flagged (leAt b 0 8 + r * tpStride b) (tpRowLen b * (if tpBf16 b then 2 else 4))) then s.failRead q
      else (s.runRows b).doneAtOnce q f (stOk, 0))

/-- The address of list m of a merge (spec/13_control.md R388). -/
def State.listAt (s : State) (b : List Byte) (m : Nat) : Nat := s.readNat (leAt b 0 8 + 8 * m) 8

/-- The lists of a merge (spec/13_control.md R388). -/
def State.mergeInputs (s : State) (b : List Byte) : List TRec :=
  (List.range (leAt b 16 4)).map (fun m =>
    let a := s.listAt b m
    parseTRec (s.read a (tRecLen (parseTRec (s.read a 128)).k)))

/-- A read of a merge's addresses or lists is flagged (spec/01_engine_and_step.md R39). -/
def State.listsFlagged (s : State) (b : List Byte) : Bool :=
  s.flagged (leAt b 0 8) (8 * leAt b 16 4) || (List.range (leAt b 16 4)).any (fun m =>
    let a := s.listAt b m
    s.flagged a 128 || s.flagged a (tRecLen (parseTRec (s.read a 128)).k))

/-- TOPIARY_MERGE (spec/04_topiary.md R128 to R131, spec/13_control.md R387, R388). -/
def effTopiaryMerge (q : Nat) (s : State) : State :=
  s.startPlain 0x21 q true true (fun s f =>
    let b := s.read (dParamAddr f.desc) 64
    if s.flagged (dParamAddr f.desc) 64 then s.failRead q
    else if leAt b 16 4 = 0 ∨ 65536 < leAt b 16 4 then s.failDesc q (stInvalid, 16)
    else if byteAt b 20 / 2 ≠ 0 then s.failDesc q (stInvalid, 20)
    else if leAt b 21 43 ≠ 0 then s.failDesc q (stInvalid, 21)
    else if s.listsFlagged b then s.failRead q
    else
      let lists := s.mergeInputs b
      if s.grade = .c ∧ lists.any (fun r => decide (s.kMax < r.k)) = true then s.failDesc q (stAbsent, 0)
      else if !mergeAgrees lists then s.failDesc q (stMismatch, 0)
      else
        let (r, s) := s.mergeRun lists (bitAt (byteAt b 20) 0) (s.fld rCtrl 0 1 == 0) s.stepCur 0
        (s.writeTRec (leAt b 8 8) r).doneAtOnce q f (stOk, 0))

/-- FOLD (spec/05_coppice.md R154, spec/13_control.md R389). It waits while the slot it would write has still to be copied
(R152). -/
def effFold (q : Nat) (s : State) : State :=
  s.startPlain 0x28 q true true (fun s f =>
    let b := s.read (dParamAddr f.desc) 64
    if s.flagged (dParamAddr f.desc) 64 || ((foldFields b).isNone && s.foldFlagged b) then s.failRead q
    else if (foldFields b).isNone && s.slotHeld (s.foldEntry b) then s
    else
    let (x, s) := s.runFold b
    if isSuccess x.1 then s.doneAtOnce q f x else s.failDesc q x)

/-! ### RUN_SKEIN (spec/08_collectives.md R252, spec/11_reproducibility.md R327) -/

/-- The ordinal of a skein entry among the entries that name its job identifier (R327). -/
def skeinOrdinal (img : List Byte) (e : Nat) : Nat :=
  let job := fun (k : Nat) => leAt (skeinEntry img k) 136 2 % 4096
  ((List.range e).filter (fun k => job k == job e)).length

/-- A doorbell is refused (R380): bad ring size, more descriptors than the ring holds, or TAIL moving backward. -/
def State.badDoorbell (s : State) (q tail : Nat) : Bool :=
  !s.ringOk q || decide (2 ^ s.fld (rQCfg q) 0 5 < sub32 tail (s.fld (rQHead q) 0 32))
    || decide (2 ^ 31 ≤ sub32 tail (s.fld (rQTail q) 0 32))

/-- A write of TAIL (spec/13_control.md R380). -/
def State.ringTail (s : State) (q tail : Nat) : State :=
  if s.badDoorbell q tail then (s.sat (rQState q) 16 8 1).setFld rEvtQerr q 1 1 else s.setFld (rQTail q) 0 32 tail

/-- The descriptor an entry becomes (R252, R381). -/
def skeinDesc (ent : List Byte) (param step arg : Nat) : List Byte :=
  let d := sliceB ent 0 64
  let d := patchB d 8 (toLE param 8)
  let d := patchB d 32 (toLE arg 8)
  patchB d 40 (toLE step 6 ++ toLE (byteAt d 46 / 2 * 2 + 1) 1)

/-- Append entries from the command's entry on, n at most; it waits at a queue without room (R252). TAIL moves as a doorbell
moves it, so one of a queue with a bad ring size is refused and its descriptor is not written (DESIGN CHOICE, log 23); a
target queue above 63 fails the command (DESIGN CHOICE, log 23). -/
def State.appendSkein (s : State) (q i : Nat) : Nat → State
  | 0 => s
  | n + 1 =>
    match s.cmd? q i, s.skein with
    | some c, some (addr, img) =>
      if skeinCount img ≤ c.entry then s.failCmd q i stOk 0
      else
        let ent := skeinEntry img c.entry
        let tq := leAt ent 192 2
        let tail := s.fld (rQTail tq) 0 32
        let next := (tail + 1) % 2 ^ 32
        if 64 ≤ tq then s.failCmd q i stInvalid 0
        else if s.ringOk tq = false then ((s.ringTail tq next).putCmd { c with entry := c.entry + 1 }).appendSkein q i n
        else if 2 ^ s.fld (rQCfg tq) 0 5 ≤ sub32 tail (s.fld (rQHead tq) 0 32) then s
        else
          let off := leAt ent 200 8
          let step := dParamAddr c.desc % 2 ^ 48
          let arg := if off = 0 then 0 else (dArg c.desc + leAt img 8 8 + off) % 2 ^ 64
          let d := skeinDesc ent (addr + 64 + 256 * c.entry + 64) step arg
          let o : Ordinal := { job := leAt ent 136 2 % 4096, step := step, q := tq, i := tail, num := skeinOrdinal img c.entry }
          let s := if usesBlock (byteAt ent 0) then { s with ordinals := s.ordinals ++ [o] } else s
          (((s.write (s.descAt tq tail) d).ringTail tq next).putCmd { c with entry := c.entry + 1 }).appendSkein q i n
    | some _, none => s.failCmd q i stInvalid 0
    | none, _ => s

/-- RUN_SKEIN: every entry is appended to its queue; without a loaded skein it completes with the invalid-configuration status
(DESIGN CHOICE, log 23). -/
def effRunSkein (q : Nat) (s : State) : State :=
  s.startPlain 0x19 q true true (fun s f =>
    if s.skein.isNone then s.failDesc q (stInvalid, 0)
    else
      let s := s.refreshReplay
      let s := (s.takeDesc q).addCmd (Cmd.make q f.index f.desc f.param s.curBank s.now)
      s.appendSkein q f.index 4097)

/-- SKEIN_APPEND_RESUME: room has come in the queue at which a RUN_SKEIN waits. -/
def effSkeinAppendResume (q i : Nat) (s : State) : State :=
  match s.cmd? q i with
  | none => s
  | some c => if c.type ≠ 0x19 ∨ c.status.isSome = true then s else s.appendSkein q i 4097

end Sys2Proof.Machine
end

