-- ==== Sys2Proof/Machine/Queue.lean ====
section
/-! DEFINITION. Doorbells, fetch, completion, drains of job identifiers, queue states, event counters and the progress
watchdog (spec/13_control.md R380 to R392, spec/06_ply_reduction.md R179, R180, spec/08_collectives.md R248, R249). -/

namespace Sys2Proof.Machine

/-! ### Doorbells and fetch (spec/13_control.md R380, R382, R383) -/

/-- QUEUE_DOORBELL (R380, spec/15_bringup_power.md R420). -/
def effQueueDoorbell (q : Nat) (tail : BitVec 32) (s : State) : State :=
  if 64 ≤ q then s else s.access (rQTail q) (fun s => (s.ringTail q tail.toNat).respond 0)

/-- A directly appended collective is numbered as it is fetched (spec/11_reproducibility.md R327). -/
def State.number (s : State) (q i : Nat) (d p : List Byte) : State :=
  let c := Cmd.make q i d p [] 0
  if !usesBlock c.type then s
  else if s.ordinals.any (fun x => x.q == q && x.i == i && x.job == c.job && x.step == c.step) then s
  else { s with ordinals := s.ordinals ++ [{ job := c.job, step := c.step, q := q, i := i, num := 0x8000 }] }

/-- The next descriptor of a queue and its parameter block are read and checked. A flagged read of either raises the
memory-error event and fails the descriptor (spec/01_engine_and_step.md R39); one whose 64 bytes cannot be used does nothing
they might ask for. -/
def State.fetchNext (s : State) (q : Nat) : State :=
  let k := s.queue q
  let n := k.nextFetch
  let s := s.setQueue q { k with nextFetch := (n + 1) % 2 ^ 32 }
  if k.done.contains n then s
  else
    let lost := s.flagged (s.descAt q n) 64
    let d := if lost then List.replicate 64 0#8 else s.read (s.descAt q n) 64
    let lostBlock := !lost && usesBlock (dType d) && s.flagged (dParamAddr d) 128
    let p := if usesBlock (dType d) && !lostBlock then s.read (dParamAddr d) 128 else []
    let s := if lost || lostBlock then s.raise causeMemory else s.number q n d p
    let fail := if lost || lostBlock then some (stData, s.ownRank) else s.fetchFail d p
    let k := s.queue q
    s.setQueue q { k with fetched := k.fetched ++ [{ index := n, desc := d, param := p, fail := fail }] }

/-- DESCRIPTOR_FETCH (R382, R383): a running queue fetches at most eight descriptors ahead of its HEAD. -/
def effDescriptorFetch (q : Nat) (s : State) : State :=
  let k := s.queue q
  let n := k.nextFetch
  if decide (64 ≤ q) || !s.allAwake || decide (k.st ≠ .running) || !s.ringOk q || decide (n = s.fld (rQTail q) 0 32)
      || decide (8 < sub32 n (s.fld (rQHead q) 0 32)) then s
  else s.fetchNext q

/-! ### Chunks and drain markers (spec/06_ply_reduction.md R180) -/

/-- What R180 does with a chunk before its consumer sees it. -/
inductive Sorted where
  | use
  | hold
  | stray
deriving DecidableEq, Repr

/-- A chunk for a job identifier from a rank: it belongs to the running collective, to the next one, or to a completed one. -/
def State.sortChunk (s : State) (job src : Nat) : Sorted :=
  match s.drainOf job with
  | none => if (s.cmdOfJob job).isSome then .use else .hold
  | some d =>
    if d.skipped.contains src then .stray
    else if d.got.contains src then .hold
    else if (s.cmdOfJob job).isSome then .use
    else if d.active then .stray else .hold

/-- A chunk's consumer behind the sorting of R180. -/
def State.sorted (s : State) (kind src seq : Nat) (mc : Bool) (f : State → State) : State :=
  match s.heldChunk kind src seq mc with
  | none => s
  | some h =>
    match s.sortChunk h.hdr.job src with
    | .use => f s
    | .hold => s
    | .stray => if s.passable h then s.stray h else s

/-- A queue whose next descriptor is recorded as pending on a job identifier. -/
def State.pendsOn (s : State) (job q : Nat) : Bool :=
  (s.queue q).onJob && (match s.nextDesc q with
    | none => false
    | some f => f.fail.isNone && leAt f.param 72 2 % 4096 == job)

def State.anyPending (s : State) (job : Nat) : Bool := (List.range 64).any (s.pendsOn job)

/-- The identifier is free: the pending collective of the lowest queue that may start does so (R179). -/
def State.startPending (s : State) (job : Nat) : State :=
  (List.range 64).foldl (fun s q =>
    if s.jobState job = 0 && s.pendsOn job q then
      match s.nextDesc q with
      | none => s
      | some f => if s.mayStartDesc q f then s.startCollective q f else s
    else s) s

/-- The drain fence completes when every awaited marker is here (spec/08_collectives.md R249). -/
def State.settleDrain (s : State) (job : Nat) : State :=
  match s.drainOf job with
  | none => s
  | some d =>
    if !d.active || !d.await.all (fun r => d.got.contains r) then s
    else
      let rest := s.drains.filter (fun x => x.job != job)
      let keep : List Drain := if d.skipped.isEmpty then []
        else [{ job := job, await := [], got := [], active := false, skipped := d.skipped, since := s.now, heard := [] }]
      (({ s with drains := rest ++ keep }).setJobState job 0).startPending job

/-- The payload of a drain marker (spec/09_fabric.md R270). -/
def drainBytes (job : Nat) : List Byte := toLE job 2 ++ toLE 0 14

/-- Ranks that a re-form or a restore in progress does not await (R250, spec/12_resilience.md R350). -/
def State.lostRanks (s : State) : List Nat := s.mbx.toList.flatMap (fun x => if x.begun then x.ranks else [])

/-- A command that names an identifier completes: its markers leave and the identifier drains (R249). -/
def State.beginDrain (s : State) (c : Cmd) : State :=
  let s := s.setJobState c.job (if s.anyPending c.job then 3 else 2)
  let s := ((s.drainsTo c).filter (fun r => !s.lostRanks.contains r)).foldl (fun s r =>
    s.emit none false 16 (mkPkts 0x12 r s.job.rank c.job 0 0 0 false true
      [{ offset := 0, hop := 0, contrib := 0, payload := drainBytes c.job }])) s
  match s.drainOf c.job with
  | none => s
  | some d => (s.putDrain { d with active := true, since := s.now }).settleDrain c.job

/-- A marker is recorded for the current drain; a RECV from its sender has all its data (R233). -/
def State.takeMarker (s : State) (h : Held) (d : Drain) : State :=
  let src := h.hdr.src
  let s := (s.accept h).putDrain { d with got := src :: d.got }
  match s.cmdOfJob d.job with
  | none => s.settleDrain d.job
  | some c =>
    let s := s.progress c.q c.i src true
    if c.type = 0x17 ∧ c.peer = src ∧ c.status.isNone = true then (s.goLive c.q c.i).failCmd c.q c.i stOk 0 else s

/-- DRAIN (R249, R270): a marker is accepted for the current drain, held for the next one, or counted as stray. -/
def effDrain (src seq : Nat) (s : State) : State :=
  match s.heldChunk 0x12 src seq false with
  | none => s
  | some h =>
    if !s.passable h then s
    else if h.payload ≠ drainBytes (leAt h.payload 0 2 % 4096) then
      ((s.accept h).sat (rPortErr h.port) 16 8 1).raise causeFormat
    else
      let job := leAt h.payload 0 2
      match s.drainOf job with
      | none => s
      | some d =>
        if d.skipped.contains src then (s.putDrain { d with skipped := d.skipped.erase src }).stray h
        else if d.got.contains src then s
        else if d.active || s.jobState job == 1 then s.takeMarker h d
        else s

/-! ### Completion (spec/13_control.md R384, R385, R386, R394) -/

/-- The queue stops on a failure (R385): its index and status are recorded. -/
def State.stopQueue (s : State) (q i st : Nat) : State :=
  let s := (s.wr (rQErr q) (BitVec.ofNat 64 (i % 2 ^ 32 + st * 2 ^ 32))).setFld rEvtQerr q 1 1
  if (s.queue q).st = .running then s.setQueue q { s.queue q with st := .error } else s

/-- HEAD passes completed descriptors in queue order (R383). -/
def State.advanceHead (s : State) (q : Nat) : Nat → State
  | 0 => s
  | n + 1 =>
    let h := s.fld (rQHead q) 0 32
    let k := s.queue q
    if k.done.contains h then
      ((s.setQueue q { k with done := k.done.filter (· != h) }).setFld (rQHead q) 0 32 ((h + 1) % 2 ^ 32)).advanceHead q n
    else s

/-- A stop named the descriptor: it completes with the re-formed status, whatever its queue does (spec/08_collectives.md
R250). -/
def Fetched.reformed (f : Fetched) : Bool := f.fail == some (stReformed, 0)

/-- The registers of a queue that are staged apply (spec/14_registers.md R404). -/
def State.applyQueue (s : State) (q : Nat) : State :=
  s.applyStaged (fun k => decide (classOf k = .descriptor) && queueOf k == q)

/-- A drain of a queue completes when nothing of it runs (R386); what is staged for a queue that becomes DISABLED applies at
once (spec/14_registers.md R404). -/
def State.settleQueue (s : State) (q : Nat) : State :=
  let k := s.queue q
  if k.st = .draining ∧ s.inFlight q = 0 ∧ k.fetched.any Fetched.reformed = false then
    let s := s.setQueue q { k with st := if k.enPend then .running else .disabled, enPend := false, onJob := false, fetched := []
                                   nextFetch := s.fld (rQHead q) 0 32 }
    if k.enPend then s else s.applyQueue q
  else s

/-- QUIESCING ends when nothing runs, no image is in progress and no accepted CHECKPOINT waits for its image (R398). -/
def State.settleQuiesce (s : State) : State :=
  if s.ctl.st = .quiescing ∧ s.cmds.isEmpty = true ∧ s.ckp.image.isNone = true ∧ s.ckp.pairs.isEmpty = true then
    (s.enter .quiesced).answer else s

/-- The steps of R384 and R385 for a descriptor: write-back, signal, interrupt, and the stop of its queue. `mute` completions
signal nothing (R382, R385). -/
def State.finish (s : State) (q i : Nat) (d : List Byte) (st detail : Nat) (late mute aborted : Bool) : State :=
  let signal := dSignalEn d && (isSuccess st || dSignalAlways d) && !mute
  let s := s.write (s.descAt q i + 48)
    (toLE st 1 ++ toLE (1 + 2 * b2n late + 4 * b2n signal) 1 ++ toLE 0 2 ++ toLE detail 4 ++ toLE s.now 8)
  let s := if signal then s.addEvc (dSignalCtr d) (BitVec.ofNat 64 (dSignalAdd d)) else s
  let s := if dIrq d then s.setFld rEvtQdone q 1 1 else s
  let s := if !isSuccess st && !dContinue d && !aborted then s.stopQueue q i st else s
  let k := s.queue q
  (s.setQueue q { k with done := k.done ++ [i] }).advanceHead q (k.done.length + 1)

/-- What the end of a command does to its resources before the write-back: a failed fused step is withheld, staged segments
are dropped (R206, spec/10_compression.md R302). -/
def State.closeCmd (s : State) (c : Cmd) (st : Nat) : State :=
  if isSuccess st then s else (s.withhold c.q c.i).dropStaged c

/-- A command record that has its status completes. -/
def State.completeCmd (s : State) (c : Cmd) (st detail : Nat) : State :=
  let s := s.closeCmd c st
  let s := s.finish c.q c.i c.desc st detail c.late false false
  let s := s.dropCmd c.q c.i
  let s := if usesBlock c.type then s.beginDrain c else s
  (s.settleQueue c.q).settleQuiesce

/-- The status of a command that has one, or of a SEND whose chunks are all acknowledged. -/
def State.statusOf (s : State) (c : Cmd) : Option (Nat × Nat) :=
  if c.status.isSome then c.status
  else if c.type = 0x16 ∧ c.moved = true ∧ s.outbox.any (fun x => x.owner == some (c.q, c.i)) = false then some (stOk, 0)
  else none

/-- Nothing that must precede completion is outstanding: a multicast of the command unacknowledged (spec/09_fabric.md
R270), an applied step not yet applied here (spec/07_espalier.md R207), or a digest held back under STALL
(spec/11_reproducibility.md R328). -/
def State.mayComplete (s : State) (c : Cmd) : Bool :=
  !s.digestWaits c.q c.i && !s.outbox.any (fun x => x.owner == some (c.q, c.i) && x.mc)
    && (!applies c.outcome || (c.upd.applied && c.gat.live))

/-- The residuals of a reducing command that is not fused commit when it completes with a good status
(spec/05_coppice.md R149); its RESID digest is formed then. -/
def State.commitAtEnd (s : State) (c : Cmd) (st : Nat) : State :=
  if (c.type = 0x10 ∨ c.type = 0x11) ∧ st = stOk ∧ c.digested.contains 3 = false then
    let s := s.commitBucket c
    let s := s.formSite c 3 (s.residItems c)
    s.putCmd { c with digested := 3 :: c.digested }
  else s

/-- DESCRIPTOR_COMPLETE (R384): the command at index i of queue q has its status, or its descriptor failed a check. -/
def effDescriptorComplete (q i : Nat) (s : State) : State :=
  let k := s.queue q
  match k.fetched.find? (fun f => f.index == i && f.fail.isSome) with
  | some f =>
    if k.st ≠ .running ∧ f.reformed = false then s
    else
      let (st, detail) := f.fail.getD (0, 0)
      let s := s.setQueue q { k with fetched := k.fetched.filter (fun x => x.index != i) }
      (s.finish q i f.desc st detail false (st == stData && bitAt detail 16) false).settleQueue q
  | none =>
    match s.cmd? q i with
    | none => s
    | some c =>
      match s.statusOf c with
      | none => s
      | some (st, detail) =>
        let s := if s.mayComplete c then s.commitAtEnd c st else s
        match s.cmd? q i with
        | none => s
        | some c => if s.mayComplete c then s.completeCmd c st detail else s

/-! ### Queue control (R385, R386) -/

/-- A queue in ERROR returns to RUNNING. -/
def State.resumeQueue (s : State) (q : Nat) : State :=
  if (s.queue q).st = .error then s.setQueue q { s.queue q with st := .running } else s

/-- QUEUE_RESUME (R385). -/
def effQueueResume (q : Nat) (s : State) : State :=
  if 64 ≤ q then s else s.access (rQCtl q) (fun s => (s.resumeQueue q).respond 0)

/-- One unstarted descriptor completes with ABORTED. -/
def State.abortDesc (s : State) (q i : Nat) (d : List Byte) : State := s.finish q i d stAborted 0 false true true

/-- A fetched descriptor of an aborted queue: one that a stop has named keeps the status it failed with first (R394; DEDUCED,
log 60). -/
def State.abortFetched (s : State) (q : Nat) (f : Fetched) : State :=
  if f.reformed then s.finish q f.index f.desc stReformed 0 false false true else s.abortDesc q f.index f.desc

/-- The DRAIN_PENDING states follow what is still recorded as pending (R179). -/
def State.notePending (s : State) : State :=
  s.drains.foldl (fun s d =>
    if d.active then s.setJobState d.job (if s.anyPending d.job then 3 else 2) else s) s

/-- Every descriptor of a queue in ERROR up to TAIL that has not started completes with ABORTED. -/
def State.abortQueue (s : State) (q : Nat) : State :=
  let k := s.queue q
  if k.st ≠ .error then s
  else
    let tail := s.fld (rQTail q) 0 32
    let s := s.setQueue q { k with st := .running, fetched := [], nextFetch := tail, onJob := false }
    let s := k.fetched.foldl (fun s f => s.abortFetched q f) s
    let s := (idxFrom k.nextFetch tail).foldl (fun s n =>
      if k.done.contains n then s else s.abortDesc q n (s.read (s.descAt q n) 64)) s
    s.notePending

/-- QUEUE_ABORT (R385). -/
def effQueueAbort (q : Nat) (s : State) : State :=
  if 64 ≤ q then s else s.access (rQCtl q) (fun s => (s.abortQueue q).respond 0)

/-- A queue leaves DISABLED (R386): HEAD becomes TAIL (DEDUCED, log 14). -/
def State.runQueue (s : State) (q : Nat) : State :=
  let tail := s.fld (rQTail q) 0 32
  (s.setFld (rQHead q) 0 32 tail).setQueue q
    { s.queue q with st := .running, fetched := [], nextFetch := tail, done := [], onJob := false }

/-- A write of ENABLE takes effect on the queue's state (R386). -/
def State.enableQueue (s : State) (q : Nat) (en : Bool) : State :=
  let k := s.queue q
  match k.st, en with
  | .disabled, true => s.runQueue q
  | .disabled, false => s
  | .running, true => s
  | .error, true => s
  | .running, false => ((s.setQueue q { k with st := .draining, onJob := false }).notePending).settleQueue q
  | .error, false => ((s.setQueue q { k with st := .draining, onJob := false }).notePending).settleQueue q
  | .draining, true => s.setQueue q { k with enPend := true }
  | .draining, false => if k.enPend then (s.setQueue q { k with enPend := false }).sat (rQState q) 8 8 1 else s

/-- A write of ENABLE, which has no staged copy. -/
def State.writeEnable (s : State) (q : Nat) (en : Bool) : State :=
  (((s.setFld (rQCfg q) 5 1 (b2n en)).setFld rCfgCtl 3 1 1).enableQueue q en).settleQuiesce

/-- QUEUE_ENABLE_WRITE (R386). -/
def effQueueEnableWrite (q : Nat) (en : Bool) (s : State) : State :=
  if 64 ≤ q then s else s.access (rQCfg q) (fun s => (s.writeEnable q en).respond 0)

/-! ### Event counters (R390 to R392) -/

/-- EVENT_COUNTER_WRITE. -/
def effEventCounterWrite (c : Nat) (v : Word) (s : State) : State :=
  if 256 ≤ c then s else s.access (rEvc c) (fun s => (s.setEvc c v).respond 0)

/-- EVENT_COUNTER_ADD. -/
def effEventCounterAdd (c : Nat) (v : Word) (s : State) : State :=
  if 256 ≤ c then s else s.access (rEvcAdd c) (fun s => (s.addEvc c v).respond 0)

/-! ### The progress watchdog (spec/08_collectives.md R248) -/

/-- Ranks of a multicast chunk's positions. -/
def State.maskRanks (s : State) (c : Cmd) (mask : Nat) : List Nat :=
  let w := (s.place c).1
  ((List.range 8).filterMap (c.rankAt w)).filter (fun r =>
    match s.xlat r with
    | .ok x => bitAt mask (x % 8)
    | _ => false)

/-- Ranks with an awaited item of a command: acknowledgements, votes and Row results, the records that every member sends to
the owners of a sparse bucket, counts and rows, lists, and the peer of a transfer. Which members will send side or spill
records of a dense bucket is not known before they come (DEDUCED, log 123). -/
def State.awaitedRanks (s : State) (c : Cmd) : List Nat :=
  let (w, o) := s.place c
  let acks := (s.outbox.filter (fun x => x.owner == some (c.q, c.i) && x.seq.isSome)).flatMap (fun x =>
    match x.pkts with
    | [] => []
    | p :: _ => if x.mc then s.maskRanks c p.hdr.mask else [p.hdr.dst])
  let votes := if !c.hasFence then [] else
    (List.range 8).filterMap (fun p =>
      if c.gat.votes.any (fun v => !v.row && v.at_ == p) then none else c.rankAt w p)
  let rows := if !c.hasFence || c.hedges == 1 || c.gat.fenceGood.isSome then [] else
    (c.roles w o).flatMap (fun p => [c.standAt (rowStep c.hedges w 0) p, c.standAt (rowStep c.hedges w 1) p])
  let sparse := if isReducing c.type && c.sparse && c.dataStarted && !s.allDone c then c.memberList.map (·.rank) else []
  let other := match c.type with
    | 0x14 => (c.memberList.zipIdx.filter (fun (_, u) =>
        !c.counts.any (fun x => x.1 == u) || !c.streamHere u)).map (fun (m, _) => m.rank)
    | 0x16 => if c.ready.isNone then [c.peer] else []
    | 0x17 => [c.peer]
    | 0x18 => if c.peer = s.job.rank then
        (c.memberList.zipIdx.filter (fun (_, u) => !c.counts.any (fun x => x.1 == u))).map (fun (m, _) => m.rank) else [c.peer]
    | _ => []
  (acks ++ votes ++ rows ++ sparse ++ other).filter (· != s.job.rank)

/-- The rank whose item has waited longest, the lowest on a tie; this chip's own when it awaits nobody. -/
def State.straggler (s : State) (c : Cmd) : Nat :=
  let since := fun (r : Nat) => max c.dataAt (smGet (fun _ => 0) c.lastFrom r)
  ((s.awaitedRanks c).foldl (fun (m : Option Nat) r =>
    match m with
    | none => some r
    | some b => if since r < since b ∨ (since r = since b ∧ r < b) then some r else some b) none).getD s.job.rank

/-- The watchdog of a running collective has reached a number of ticks. -/
def State.watchReached (s : State) (c : Cmd) (n : Nat) : Bool :=
  usesBlock c.type && c.status.isNone && s.timeValid && decide (c.watchAt + n ≤ s.now)

/-- WATCHDOG_WARN: once for a command. -/
def effWatchdogWarn (q i : Nat) (s : State) : State :=
  match s.cmd? q i with
  | none => s
  | some c =>
    if c.warned || !s.watchReached c (smGet regReset c.bank rColWarn).toNat then s
    else
      let v := s.straggler c % 65536 + c.job * 2 ^ 16 + q * 2 ^ 28 + 2 ^ 63
      (((s.putCmd { c with warned := true }).wr rColStraggler (BitVec.ofNat 64 v)).sat rColEvents 0 8 1).raise causeStraggler

/-- WATCHDOG_ABORT: the command is stopped. -/
def effWatchdogAbort (q i : Nat) (s : State) : State :=
  match s.cmd? q i with
  | none => s
  | some c =>
    let lim := (smGet regReset c.bank rColAbort).toNat
    if lim = 0 ∨ s.watchReached c lim = false then s
    else
      let rank := s.fld rColStraggler 0 16
      let s := s.sat rColEvents 8 8 1
      let s := if isReducing c.type then (s.reportShort q i rank).failCmd q i stContrib rank else s.failCmd q i stTimeout rank
      (s.withhold q i).dropStaged c

/-! ### Memory reads and the Feed (spec/01_engine_and_step.md R35, R39) -/

/-- A span of memory holds the unit of an address. -/
def inSpan (a n addr : Nat) : Bool := n != 0 && decide (memUnit a ≤ memUnit addr) && decide (memUnit addr ≤ memUnit (a + n - 1))

/-- The segments that the expander still owes whose record, or the base of a coded one, holds an address (spec/10_compression.md
R305). -/
def State.owedAt (s : State) (x : Out) (addr : Nat) : List Seg :=
  x.cmd.segments.filter (fun g => s.owed x.cmd g.num
    && (inSpan (x.cmd.dst + x.cmd.landOff + g.off) (s.recordLen x.cmd g) addr
      || (enUnits (s.entry x.cmd g.num) != 0 && (s.expandBaseAt x g).any (fun a => inSpan a g.len addr))))

/-- MEMORY_READ_RESPONSE (R36, R39): a response with the uncorrectable-error flag raises the memory-error event and fails its
command, or marks the segments whose record or base it was read for (spec/10_compression.md R305); every read of its unit is
flagged until a write covers it (DEDUCED, log 105). The data of a good one is used by the command it serves. -/
def effMemoryReadResponse (q i : Nat) (kind : ReadKind) (addr : Word) (unc : Bool) (s : State) : State :=
  if !unc || !s.allAwake then s
  else
    let s := ({ s with memFail := some addr.toNat, badUnits := memUnit addr.toNat :: s.badUnits.filter (· != memUnit addr.toNat) }).raise causeMemory
    match s.outs.find? (fun x => x.cmd.q == q && x.cmd.i == i && !(s.owedAt x addr.toNat).isEmpty) with
    | some x => (s.owedAt x addr.toNat).foldl (fun s g => s.damage x.cmd g.num false) s
    | none =>
      match s.cmd? q i with
      | some c => s.readFailed c kind
      | none => s

/-- FEED_STALL_TICK (R35): a microsecond in which an outbound beat waited for the tiles. -/
def effFeedStallTick (s : State) : State :=
  if s.feedOut.isEmpty then s else s.wr rFeedStall (s.rd rFeedStall + 1)

end Sys2Proof.Machine
end

