-- ==== Sys2Proof/Machine/Mailbox.lean ====
section
/-! DEFINITION. The mailbox pairs: requests, responses and which command of a pair may act (spec/13_control.md R371 to R375,
R398, spec/15_bringup_power.md R422). -/

namespace Sys2Proof.Machine

/-! ### Requests and responses (R371, R372) -/

/-- The request a pair copied at its doorbell. -/
def State.request (s : State) (m : Nat) : List Byte := (s.mbx.getD m Mbx.reset).request

def rqOpcode (b : List Byte) : Nat := leAt b 0 2
def rqSeq (b : List Byte) : Nat := leAt b 2 2
def rqLen (b : List Byte) : Nat := byteAt b 4

/-- Body bytes of a request from body offset a: bytes beyond LEN read as 0 (R371). -/
def rqAt (b : List Byte) (a n : Nat) : Nat := leAt (b.take (8 + rqLen b)) (8 + a) n

def State.begun (s : State) (m : Nat) : Bool := (s.mbx.getD m Mbx.reset).begun

def State.setBegun (s : State) (m : Nat) (v : Bool) : State :=
  { s with mbx := s.mbx.setIfInBounds m { s.mbx.getD m Mbx.reset with begun := v } }

/-- A command that lasts has begun: what it keeps until its response. -/
def State.begin (s : State) (m wait : Nat) (ranks : List Nat) : State :=
  { s with mbx := s.mbx.setIfInBounds m { request := s.request m, begun := true, wait := wait, ranks := ranks } }

/-- A pair is BUSY. -/
def State.mbxBusy (s : State) (m : Nat) : Bool := s.fld (rMbxState m) 0 1 == 1

/-- The bytes of a pair's request area. -/
def State.requestArea (s : State) (m : Nat) : List Byte := (List.range 64).flatMap (fun k => toLE (s.fld (rMbxReq m k) 0 32) 4)

/-- Fill a response area. -/
def State.putResponse (s : State) (m : Nat) (b : List Byte) : State :=
  (List.range 64).foldl (fun s k => s.wr (rMbxRsp m k) (BitVec.ofNat 64 (leAt b (4 * k) 4))) s

/-- Post a response (R372): the area is written, BUSY clears, DONE is set and MBX_DONE raised. -/
def State.post (s : State) (m st : Nat) (body : List Byte) : State :=
  let r := s.request m
  let b := toLE (rqOpcode r) 2 ++ toLE (rqSeq r) 2 ++ toLE body.length 1 ++ toLE st 1 ++ toLE (complB 2 (rqOpcode r)) 2 ++ body
  ((((s.putResponse m b).setFld (rMbxState m) 0 1 0).setFld (rMbxState m) 1 1 1).setBegun m false).raise causeMbxDone

/-- A response without a body. -/
def State.postStatus (s : State) (m st : Nat) : State := s.post m st []

/-! ### Opcodes (R374, R376) -/

/-- The opcodes of R376 with their serial mark. -/
def opcodeSerial (o : Nat) : Option Bool :=
  match o with
  | 0x0001 => some false
  | 0x0002 => some false
  | 0x0010 => some true
  | 0x0011 => some true
  | 0x0012 => some true
  | 0x0013 => some true
  | 0x0014 => some false
  | 0x0015 => some true
  | 0x0016 => some true
  | 0x0020 => some false
  | 0x0021 => some false
  | 0x0022 => some true
  | 0x0030 => some false
  | 0x0031 => some false
  | 0x0032 => some true
  | 0x0040 => some true
  | _ => none

/-- Another pair is BUSY with a serial command (R374). -/
def State.serialBusy (s : State) (m : Nat) : Bool :=
  (List.range 4).any (fun k => k != m && s.mbxBusy k && opcodeSerial (rqOpcode (s.request k)) == some true)

/-- A doorbell of a pair (R372, R373, R375): the request is copied; a bad header is answered at once, and so
is a serial command while another pair is BUSY with one (R374). -/
def State.doorbell (s : State) (m seq : Nat) : State :=
  if s.mbxBusy m then s.sat (rMbxState m) 8 8 1
  else if s.spindle.closed then s
  else
    let r := s.requestArea m
    let s := { s with mbx := s.mbx.setIfInBounds m { Mbx.reset with request := r } }
    let s := (s.setFld (rMbxState m) 0 1 1).setFld (rMbxState m) 16 16 (rqSeq r)
    if seq ≠ rqSeq r ∨ leAt r 6 2 ≠ complB 2 (rqOpcode r) ∨ 248 < rqLen r then s.postStatus m stData
    else if (s.spindle.loaded = true ∨ rqOpcode r = 0x0040) ∧ s.spindle.halted = false
        ∧ opcodeSerial (rqOpcode r) = some true ∧ s.serialBusy m = true then s.postStatus m stBusy
    else s

/-- Commands that would start data movement complete with QUIESCED in that state (R398). -/
def movesData (o : Nat) : Bool := o == 0x0021 || o == 0x0022 || o == 0x0016 || o == 0x0015 || o == 0x0040

/-- Another serial command has begun (R374). -/
def State.serialRuns (s : State) (m : Nat) : Bool :=
  (List.range 4).any (fun k => k != m && s.begun k && s.mbxBusy k && opcodeSerial (rqOpcode (s.request k)) == some true)

/-- Spindle takes the command of a pair whose copied request has an opcode: the boot ROM refuses all but two, and the checks
that come before the opcode's own apply; else the opcode acts. -/
def State.takeCmd (s : State) (m op : Nat) (act : List Byte → State → State) : State :=
  let r := s.request m
  if 4 ≤ m ∨ s.awake 2 = false ∨ s.mbxBusy m = false ∨ s.begun m = true ∨ s.spindle.closed = true ∨ s.spindle.halted = true
     ∨ rqOpcode r ≠ op then s
  else if s.spindle.loaded = false ∧ op ≠ 0x0001 ∧ op ≠ 0x0040 then s.postStatus m stUnsupported
  else if opcodeSerial op = some true ∧ s.serialRuns m = true then s.postStatus m stBusy
  else if movesData op = true ∧ s.ctl.st = .quiesced then s.postStatus m stQuiesced
  else act r s

end Sys2Proof.Machine
end

