-- ==== Sys2Proof/Machine/Checkpoint.lean ====
section
/-! DEFINITION. The Checkpoint engine: images, buddy copies, parity, the two-phase commit, and the choice and load of a
restore (spec/12_resilience.md R333 to R356, spec/11_reproducibility.md R322, R323). -/

namespace Sys2Proof.Machine

/-! ### The area and the group (R337, R338) -/

/-- U, and where generation g and its parts begin. -/
def unitLen (size : Nat) : Nat := size / 7
def genAt (base size g : Nat) : Nat := base + g * (2 * size + 65536 + unitLen size)
def buddyAt (base size g : Nat) : Nat := genAt base size g + size
def parityAt (base size g : Nat) : Nat := genAt base size g + 2 * size
def unitAt (base size g : Nat) : Nat := genAt base size g + 2 * size + 65536

/-- The applied registers of the current bank. -/
def State.ckpBase (s : State) : Nat := (s.rd rCkpBase).toNat / 65536 * 65536
def State.ckpSize (s : State) : Nat := (s.rd rCkpSize).toNat
def polRankBase (p : Nat) : Nat := bitsAt p 16 16
def polHedges (p : Nat) : Nat := bitsAt p 32 14
def scopeJobs (v : Nat) : List Nat := (List.range (bitsAt v 12 12 + 1 - bitsAt v 0 12)).map (fun n => bitsAt v 0 12 + n)
def scopeBuckets (v : Nat) : Nat := bitsAt v 32 32

/-- Hedge index and position of a rank in the checkpoint group. -/
def ckpPlace (p rank : Nat) : Nat × Nat := ((rank - polRankBase p) / 8, (rank - polRankBase p) % 8)
def ckpRank (p w o : Nat) : Nat := polRankBase p + 8 * w + o

/-- The position is absent after a re-form (R230, R340). -/
def State.absent (s : State) (w o : Nat) : Bool :=
  let t := (s.job.reforms.head?.map (·.1)).getD []
  !t.isEmpty && !(List.range (leAt t 0 2)).any (fun i => (tableEntry t i).w == w && (tableEntry t i).o == o)

/-- The rank that stands at a place of the checkpoint group: the deputy of an absent position. -/
def State.ckpStand (s : State) (p w o : Nat) : Nat :=
  ckpRank p w ((((List.range 8).map (fun k => (o + k) % 8)).find? (fun x => !s.absent w x)).getD o)

/-- The members of the checkpoint group that are present. -/
def State.ckpRanks (s : State) (p : Nat) : List Nat :=
  (List.range (polHedges p)).flatMap (fun w => ((List.range 8).filter (fun o => !s.absent w o)).map (ckpRank p w))

/-- Some position of this chip's Hedge is absent. -/
def State.gapHere (s : State) (p : Nat) : Bool := (List.range 8).any (s.absent (ckpPlace p s.job.rank).1)

/-- Write far-tier bytes and count them. -/
def State.farWrite (s : State) (a : Nat) (b : List Byte) : State := (s.write a b).addF rCkpBytes 0 64 b.length

/-- The checkpoint-exposed event (R340, R353). -/
def State.exposed (s : State) : State := (s.setFld rCkpStatus 52 1 1).raise causeCkpExposed

/-! ### Messages and passes (R345, R347, R351, spec/09_fabric.md R263, R269) -/

/-- Send a message of Spindle firmware to a rank: it travels as a MGMT packet, whose bytes the fabric does not read (DESIGN
CHOICE, log 26). -/
def State.sendMgmt (s : State) (dst : Nat) (m : Msg) : State :=
  let b := Config.mgmtBytes s.free
  let body := sliceB b 0 (max 4 (min 4096 (upTo 4 b.length)))
  ({ s with sent := s.sent ++ [m], free := s.free + 1 }).emit none false 16
    (mkPkts 0x20 dst s.job.rank 0 0 0 0 false false [{ offset := 0, hop := 0, contrib := 0, payload := body }])

/-- The positions of its Hedge that this chip stands for (R230). -/
def State.ckpRoles (s : State) (p : Nat) : List Nat :=
  let w := (ckpPlace p s.job.rank).1
  (List.range 8).filter (fun x => s.ckpStand p w x == s.job.rank)

/-- The members present in a Hedge of the checkpoint group. -/
def State.ckpHedge (s : State) (p w : Nat) : List Nat := ((List.range 8).filter (fun o => !s.absent w o)).map (ckpRank p w)

/-- A message of the two passes: a restore fence, or a prepare vote. -/
def passMsg (fence : Bool) (dst step : Nat) (row : Bool) (origin hops : Nat) : Msg :=
  if fence then .restoreFence dst step row origin hops else .prepareVote dst step row origin hops

/-- The fences, or the votes, held. -/
def State.passHeld (s : State) (fence : Bool) : List (Nat × Nat) := if fence then s.ckp.fence else s.ckp.votes

/-- Record that ranks have restored to, or prepared, a step. -/
def State.addPass (s : State) (fence : Bool) (ranks : List Nat) (step : Nat) : State :=
  let old := s.passHeld fence
  let new := old ++ (ranks.filter (fun r => !old.contains (r, step))).map (fun r => (r, step))
  if fence then { s with ckp := { s.ckp with fence := new } } else { s with ckp := { s.ckp with votes := new } }

def State.sendPass (s : State) (fence : Bool) (dsts : List Nat) (step : Nat) (row : Bool) (origin hops : Nat) : State :=
  dsts.foldl (fun s r => s.sendMgmt r (passMsg fence r step row origin hops)) s

/-- Send the result of a Hedge one Hedge on in direction d, for every position this chip stands for. -/
def State.rowPass (s : State) (fence : Bool) (p step origin d hops : Nat) : State :=
  if hops = 0 then s
  else
    let w := rowStep (polHedges p) (ckpPlace p s.job.rank).1 d
    s.sendPass fence (((s.ckpRoles p).map (s.ckpStand p w)).eraseDups) step true origin hops

/-- The Hedge pass: a member has prepared, or restored; once every member of this chip's Hedge has, the Hedge's result goes
both ways around the Row. -/
def State.joinPass (s : State) (fence : Bool) (p rank step : Nat) : State :=
  if (s.passHeld fence).contains (rank, step) then s
  else
    let s := s.addPass fence [rank] step
    let (w, h) := ((ckpPlace p s.job.rank).1, polHedges p)
    let mates := s.ckpHedge p w
    if mates.contains rank && mates.all (fun r => (s.passHeld fence).contains (r, step)) then
      (s.rowPass fence p step w 0 (cdiv (h - 1) 2)).rowPass fence p step w 1 ((h - 1) / 2)
    else s

/-- A message of a pass: recorded, and, in the Row pass, sent one Hedge on. -/
def State.takePass (s : State) (fence : Bool) (p step : Nat) : Voice → State
  | .member src => s.joinPass fence p src step
  | .hedge src origin hops =>
    let rs := s.ckpHedge p origin
    if rs.all (fun r => (s.passHeld fence).contains (r, step)) then s
    else
      let s := s.addPass fence rs step
      let back := rowStep (polHedges p) (ckpPlace p src).1 0 == (ckpPlace p s.job.rank).1
      s.rowPass fence p step origin (if back then 0 else 1) (hops - 1)

/-- This chip's own vote, or fence, goes to every other member of its Hedge. -/
def State.castPass (s : State) (fence : Bool) (p step : Nat) : State :=
  let w := (ckpPlace p s.job.rank).1
  (s.sendPass fence ((s.ckpHedge p w).filter (· != s.job.rank)) step false w 0).joinPass fence p s.job.rank step

/-! ### Sections (R335) -/

/-- The ownership entry of a job under the current bank, its program, and its state record length and count. -/
def State.jobEntry (s : State) (job : Nat) : List Byte := s.read (owAddr s.curBank job) 64
def State.jobProg (s : State) (job : Nat) : List Byte := (s.progs.getD (owProg (s.jobEntry job)) none).getD []
def State.jobElems (s : State) (job : Nat) : Nat := owGroups (s.jobEntry job) * gsizeOf (owGsize (s.jobEntry job))
def State.jobRecs (s : State) (job : Nat) : Nat := s.jobElems job / 32

/-- Bytes of one publication slot of a job. -/
def State.pubLen (s : State) (job : Nat) : Nat :=
  let img := s.jobProg job
  let n := s.jobElems job
  let f := pgPub img
  if f = 0 then 0
  else if sidePlaneBytes f (pgGsize img) n = 0 then planeBytes f n else sidePlaneAt f n + sidePlaneBytes f (pgGsize img) n

/-- The bucket entry of a bucket under the current bank. -/
def State.bucketEntry (s : State) (b : Nat) : List Byte := s.read (bkAddr s.curBank b) 32

/-- Length of the residual section of a bucket entry, 0 when it is omitted. -/
def residLen (e : List Byte) : Nat :=
  if !bkHolds e then 0 else planeLen (bkElements e) + blockCount (bkElements e) * resLen (bkCurFmt e)

/-- States in a random lane image: those of the lanes and the dormant ones (spec/11_reproducibility.md R323). -/
def State.laneImageLen (s : State) : Nat := s.laneCount + s.dormant.length

/-- Type, id and length of every section of an image, in order. -/
def State.sectionList (s : State) (policy scope : Nat) : List (Nat × Nat × Nat) :=
  let jobs := scopeJobs scope
  let nb := scopeBuckets scope
  [(1, 0, 32 * jobs.length)]
    ++ jobs.map (fun j => (2, j, s.jobRecs j * stateLen (s.jobProg j)))
    ++ jobs.map (fun j => (3, j, upTo 256 (s.pubLen j) + s.pubLen j))
    ++ [(4, 0, 32 * nb)]
    ++ (if bitAt policy 3 then (List.range nb).filterMap (fun b =>
          let n := residLen (s.bucketEntry b)
          if n = 0 then none else some (5, b, n)) else [])
    ++ [(6, 0, 4 * nb), (7, 0, 32 + 32 * s.laneImageLen)]

/-- Place sections one after another on multiples of 64 KiB from an offset: the table, and the end. -/
def layOut (off : Nat) : List (Nat × Nat × Nat) → List (Nat × Nat × Nat × Nat) × Nat
  | [] => ([], off)
  | (t, i, n) :: l =>
    let (r, e) := layOut (off + upTo 65536 n) l
    ((t, i, off, n) :: r, e)

/-- A random lane state in an image (spec/11_reproducibility.md R322). -/
def Xo.bytes (x : Xo) : List Byte := toLE x.s0.toNat 8 ++ toLE x.s1.toNat 8 ++ toLE x.s2.toNat 8 ++ toLE x.s3.toNat 8
def Xo.parse (b : List Byte) : Xo :=
  { s0 := BitVec.ofNat 64 (leAt b 0 8), s1 := BitVec.ofNat 64 (leAt b 8 8), s2 := BitVec.ofNat 64 (leAt b 16 8)
    s3 := BitVec.ofNat 64 (leAt b 24 8) }

/-- The random lane image. -/
def State.laneImage (s : State) : List Byte :=
  let n := s.laneImageLen
  toLE n 4 ++ toLE (complB 4 n) 4 ++ toLE s.lanes.seed.toNat 8 ++ toLE s.laneCount 4 ++ toLE 0 12
    ++ (List.range s.laneCount).flatMap (fun l => (s.laneState l).1.bytes) ++ s.dormant.flatMap Xo.bytes

/-- The bytes of a section that is read when the image begins. -/
def State.sectionBytes (s : State) (step t id n : Nat) : List Byte :=
  match t with
  | 1 =>
    (scopeJobs (s.rd rCkpScope).toNat).flatMap (fun j =>
      let e := s.jobEntry j
      sliceB e 0 16 ++ sliceB e 56 8 ++ toLE j 2 ++ toLE 0 6)
  | 3 =>
    let e := s.jobEntry id
    let l := s.pubLen id
    sliceB (s.read (owPub e false) l) 0 (upTo 256 l) ++ s.read (owPub e true) l
  | 4 => (List.range (n / 32)).flatMap (fun b => sliceB (s.bucketEntry b) 16 16 ++ toLE b 4 ++ toLE 0 12)
  | 6 =>
    let base := (s.rd rQntFmtBase).toNat / 4 * 4
    (List.range (n / 4)).flatMap (fun b =>
      match s.ckp.words.find? (fun x => x.1 == step && x.2.1 == b) with
      | some x => toLE x.2.2 4
      | none => s.read (base + 4 * b) 4)
  | 7 => s.laneImage
  | _ => []

/-! ### Headers (R334) -/

/-- Bytes 48 to 63 of a header in a state. -/
def stateField (st now : Nat) : List Byte := toLE st 1 ++ toLE (complB 1 st) 1 ++ toLE 0 6 ++ toLE now 8

/-- Write the STATE of an image at an address. -/
def State.setImageState (s : State) (a st : Nat) : State := s.farWrite (a + 48) (stateField st s.now)

/-- The section table, with the CRC of each section as the image holds it. -/
def State.tableBytes (s : State) (a : Nat) (secs : List (Nat × Nat × Nat × Nat)) : List Byte :=
  secs.flatMap (fun (t, i, off, n) =>
    toLE t 1 ++ toLE (complB 1 t) 1 ++ toLE 0 2 ++ toLE i 4 ++ toLE off 8 ++ toLE n 8
      ++ toLE (crc64 (s.read (a + off) n)).toNat 8)

/-- Write header and table of an image in a state. -/
def State.writeHeader (s : State) (m : CkpImage) (st : Nat) : State :=
  let a := genAt m.base m.size m.gen
  let f := b2n m.exact + 2 * b2n (bitAt m.policy 3)
  let head := toLE 0x44524F50 4 ++ toLE 1 2 ++ toLE m.sections.length 2 ++ toLE m.step 6 ++ toLE s.job.rank 2
    ++ toLE (s.rd rRndSeed).toNat 8 ++ toLE m.replay 4 ++ toLE f 1 ++ toLE (complB 1 f) 1 ++ toLE 0 2
    ++ toLE m.length 8
  let tab := s.tableBytes a m.sections
  let b := head ++ toLE (crc64 (head ++ tab)).toNat 8 ++ stateField st s.now
  s.farWrite a (sliceB b 0 256 ++ tab)

/-! ### Beginning an image (R341 to R343, R346) -/

/-- The step whose image is due: the one before a fused step whose compute pass is ready, or one that the host driver asked
for. -/
def State.ckpDue (s : State) : Option Nat :=
  let auto := if s.ctl.st ≠ .running then none else
    s.cmds.find? (fun c => c.type == 0x12 && c.status.isNone && c.dataStarted && !c.upd.computed && c.copies && c.step != 0 && s.allDone c
      && !s.ckpCovers (c.step - 1))
  match auto with
  | some c => some (c.step - 1)
  | none => (s.ckp.pairs.find? (fun p => !s.ckpCovers p.2)).map (·.2)

/-- Fused steps of a step whose image is refused that run and have not computed (R343). -/
def State.failRefused (s : State) (step excess : Nat) : State :=
  s.cmds.foldl (fun s c =>
    if c.type == 0x12 && c.step == step + 1 && !c.upd.computed && inScope (smGet regReset c.bank rCkpScope).toNat c.job
    then s.failCmd c.q c.i stExhausted (min excess (2 ^ 32 - 1)) else s) s

/-- Answer the mailbox pairs that wait for the image of a step. -/
def State.answerPairs (s : State) (step st : Nat) (body : List Byte) : State :=
  let ps := s.ckp.pairs.filter (fun p => p.2 == step)
  let s := { s with ckp := { s.ckp with pairs := s.ckp.pairs.filter (fun p => p.2 != step) } }
  ps.foldl (fun s p => s.post p.1 st body) s

/-- Every waiting pair is answered BUSY: a restore drops the image it waits for (DEDUCED, log 29). -/
def State.dropPairs (s : State) : State := s.ckp.pairs.foldl (fun s p => s.answerPairs p.2 stBusy []) s

/-- The image of a step begins in the free generation: its header is WRITING, and the sections that are read directly are
copied. -/
def State.beginImage (s : State) (step : Nat) : State :=
  let policy := (s.rd rCkpPolicy).toNat
  let scope := (s.rd rCkpScope).toNat
  let (secs, len) := layOut 65536 (s.sectionList policy scope)
  let size := s.ckpSize
  if size < len ∨ 2040 < secs.length then
    let excess := if size < len then len - size else secs.length - 2040
    let s := { s with ckp := { s.ckp with refused := some (step, excess), genWait := false } }
    (((s.sat rCkpEvents 24 8 1).raise causeCkpFailed).failRefused step excess).answerPairs step stExhausted []
  else
    let gen := if s.fld rCkpStatus 48 1 = 1 then 1 - s.fld rCkpStatus 49 1 else 0
    let a := genAt s.ckpBase size gen
    let resid := secs.filterMap (fun (t, i, off, n) =>
      if t = 5 then some (off, bkSlot (s.bucketEntry i) (bkCur (s.bucketEntry i)), n) else none)
    let m : CkpImage :=
      { step := step, gen := gen, base := s.ckpBase, size := size, policy := policy, scope := scope, sections := secs
        length := len, exact := bankFld ((s.bankFor step).getD s.curBank) rCtrl 0 1 == 0, replay := s.fld rReplayId 0 32, recs := [], resid := resid, written := false, badTwice := false
        prepared := false }
    let s := secs.foldl (fun s (t, i, off, n) =>
      if t = 2 ∨ t = 5 then s else s.farWrite (a + off) (s.sectionBytes step t i n)) s
    let s := (s.writeHeader m 1).setFld rCkpStatus 50 2 1
    let words := s.ckp.words.filter (fun x => decide (step < x.1))
    let s := { s with ckp := { s.ckp with image := some m, refused := none, genWait := false, words := words } }
    if bitAt policy 2 && s.gapHere policy then s.exposed else s

/-- CKP_IMAGE_BEGIN (R341, R343, R346): by Spindle firmware; an image that must wait for the previous commit is counted
once. -/
def effCkpImageBegin (s : State) : State :=
  if !s.firmware || !s.allAwake then s
  else
    match s.ckpDue with
    | none => s
    | some step =>
      if s.ckp.image.isSome then
        (if s.ckp.genWait then s
         else { s with ckp := { s.ckp with genWait := true } }.sat rCkpEvents 16 8 1)
      else s.beginImage step

/-! ### The copy stream (R341, spec/07_espalier.md R208) -/

/-- Where a state record lies in an image. -/
def State.recordAt (s : State) (m : CkpImage) (job n : Nat) : Option Nat :=
  (m.sections.find? (fun x => x.1 == 2 && x.2.1 == job)).map (fun x =>
    genAt m.base m.size m.gen + x.2.2.1 + n * stateLen (s.jobProg job))

/-- Copy one state record into an image. -/
def State.copyRecord (s : State) (m : CkpImage) (job n : Nat) (b : List Byte) : CkpImage × State :=
  if m.recs.contains (job, n) then (m, s)
  else
    match s.recordAt m job n with
    | none => (m, s)
    | some a => ({ m with recs := (job, n) :: m.recs }, s.farWrite a b)

/-- CKP_PUSH_ACK (R341): the oldest pushed record is written to the own image and acknowledged. -/
def effCkpPushAck (s : State) : State :=
  match s.ckp.pushes with
  | [] => s
  | p :: t =>
    let s := { s with ckp := { s.ckp with pushes := t } }
    match s.ckp.image with
    | none => s
    | some m =>
      if m.written then s
      else
        let (m, s) := s.copyRecord m p.job p.rec_ p.bytes
        { s with ckp := { s.ckp with image := some m } }

/-- The rest of an image by the engine's own reads: state records and residual slots. -/
def State.copyRest (s : State) (m : CkpImage) : State :=
  let (m, s) := (scopeJobs m.scope).foldl (fun (m, s) j =>
    let e := s.jobEntry j
    let len := stateLen (s.jobProg j)
    (List.range (s.jobRecs j)).foldl (fun (m, s) n => s.copyRecord m j n (s.read (owState e + n * len) len)) (m, s)) (m, s)
  let a := genAt m.base m.size m.gen
  let s := m.resid.foldl (fun s (off, src, n) => s.farWrite (a + off) (s.read src n)) s
  { s with ckp := { s.ckp with image := some { m with resid := [] } } }

/-! ### Prepare and commit (R344, R345) -/

/-- The resource word of the far-tier path (R358; DEDUCED, log 27). -/
def farTierWord : BitVec 32 := mkRes 7 8 0 0 false

/-- The ranks that take this member's buddy copy: its buddy, and that of every absent position it is deputy of; the deputy of
an absent buddy stands for it (R338, R340). -/
def State.buddies (s : State) (policy : Nat) : List Nat :=
  let (w, o) := ckpPlace policy s.job.rank
  let h := polHedges policy
  if bitAt policy 1 && decide (1 < h) then
    (((List.range 8).filter (fun p => s.ckpStand policy w p == s.job.rank || p == o)).map
      (fun p => s.ckpStand policy ((w + 1) % h) p)).eraseDups
  else []

/-- Streams of a whole image: its buddy copies and its seven units, with zeros beyond LENGTH (R338, R339). -/
def State.sendCopies (s : State) (m : CkpImage) : State :=
  let (w, o) := ckpPlace m.policy s.job.rank
  let a := genAt m.base m.size m.gen
  let u := unitLen m.size
  let buddy := (s.buddies m.policy).map (fun r => Msg.stream r m.step a m.length 0)
  let units := if bitAt m.policy 2 && !s.gapHere m.policy then
    (List.range 7).map (fun i =>
      let n := min u (m.length - i * u)
      Msg.stream (ckpRank m.policy w (if i < o then i else i + 1)) m.step (a + i * u) n (u - n)) else []
  { s with sent := s.sent ++ buddy ++ units }

/-- What a holder's read-back of the sections it has written found (R344), and whether the copy stays WRITING. `bad` gives the
address and length of every section that mismatched: each counts and is rewritten once. A second mismatch is a fault event of
the far-tier path. -/
def State.readBack (s : State) (policy : Nat) (bad : List (Nat × Nat)) (badTwice : Bool) : Bool × State :=
  if !bitAt policy 4 || bad.isEmpty then (false, s)
  else
    let s := bad.foldl (fun s (a, n) => ((s.sat rCkpEvents 0 8 1).raise causeReadback).farWrite a (s.read a n)) s
    if badTwice then (true, s.fault { word := farTierWord, atOnce := false, row := 0, col := 0 }) else (false, s)

/-- The sections of an image whose numbers are listed. -/
def pickSpans (spans : List (Nat × Nat)) (bad : List Nat) : List (Nat × Nat) := bad.eraseDups.filterMap (fun k => spans[k]?)

/-- The own image is written whole, with read-back; after a second mismatch it stays WRITING, and who waits for it is told
(R344, spec/13_control.md R376). -/
def State.writeImage (s : State) (m : CkpImage) (bad : List Nat) (badTwice : Bool) : State :=
  let s := s.copyRest m
  match s.ckp.image with
  | none => s
  | some m =>
    let a := genAt m.base m.size m.gen
    let spans := m.sections.map (fun (_, _, off, n) => (a + off, n))
    let (stays, s) := (s.writeHeader m 1).readBack m.policy (pickSpans spans bad) badTwice
    if stays then
      { s with ckp := { s.ckp with image := some { m with written := true, badTwice := true } } }.answerPairs m.step stData []
    else
      let s := { s with ckp := { s.ckp with image := some { m with written := true } } }
      s.sendCopies m

/-- Every member of the group has prepared: COMMITTED is written here, the holders are told, and waiting pairs are
answered. -/
def State.tryCommit (s : State) : State :=
  match s.ckp.image with
  | none => s
  | some m =>
    if !m.prepared || !(s.ckpRanks m.policy).all (fun r => s.ckp.votes.contains (r, m.step)) then s
    else
      let (w, o) := ckpPlace m.policy s.job.rank
      let s := s.setImageState (genAt m.base m.size m.gen) 3
      let s := (s.buddies m.policy).foldl (fun s r => s.sendMgmt r (.commitNotice r m.step false)) s
      let rows := if bitAt m.policy 2 && !s.gapHere m.policy then
        ((List.range 8).filter (· != o)).map (ckpRank m.policy w) else []
      let s := rows.foldl (fun s r => s.sendMgmt r (.commitNotice r m.step true)) s
      let v := m.step % 2 ^ 48 + 2 ^ 48 + m.gen * 2 ^ 49 + b2w (bitAt m.policy 2 && s.gapHere m.policy) 52
      let s := (s.wr rCkpStatus (BitVec.ofNat 64 v)).raise causeCkpCommitted
      let s := { s with ckp := { s.ckp with
        image := none, genWait := false, votes := s.ckp.votes.filter (fun x => decide (m.step < x.2)) } }
      (s.answerPairs m.step stOk (toLE m.step 8)).settleQuiesce

/-- CKP_PREPARE (R344, R345): the own image is finished; when the buddy and every row holder have reported, the header is
PREPARED and the vote is sent in the two passes of R269. The arguments are the numbers of the sections whose read-back
mismatched, whether one did so again, and who has reported. -/
def effCkpPrepare (bad : List Nat) (badTwice buddy rows : Bool) (s : State) : State :=
  match s.ckp.image with
  | none => s
  | some m =>
    if !s.allAwake then s
    else
      let s := if m.written then s else s.writeImage m bad badTwice
      match s.ckp.image with
      | none => s
      | some m =>
        let buddyOk := buddy || !bitAt m.policy 1 || polHedges m.policy == 1
        let rowsOk := rows || !bitAt m.policy 2 || s.gapHere m.policy
        if m.prepared || m.badTwice || !buddyOk || !rowsOk then s
        else
          let s := (s.setImageState (genAt m.base m.size m.gen) 2).setFld rCkpStatus 50 2 2
          let s := { s with ckp := { s.ckp with image := some { m with prepared := true } } }
          (s.castPass false m.policy m.step).tryCommit

/-- CKP_PREPARE_VOTE (R345): a vote of a member of the Hedge, or the result of a Hedge in the Row pass. -/
def effCkpPrepareVote (voice : Voice) (step : Nat) (s : State) : State :=
  if !s.allAwake then s
  else
    let p := match s.ckp.image with
      | some m => m.policy
      | none => (s.rd rCkpPolicy).toNat
    (s.takePass false p step voice).tryCommit

/-! ### Copies held for others (R338, R339, R345) -/

/-- The generation that holds, or is to hold, copies of a step. -/
def State.genFor (s : State) (step : Nat) : Nat :=
  match s.ckp.image with
  | some m => if m.step = step then m.gen else 1 - m.gen
  | none =>
    if s.fld rCkpStatus 48 1 = 0 then 0
    else if s.fld rCkpStatus 0 48 = step then s.fld rCkpStatus 49 1 else 1 - s.fld rCkpStatus 49 1

/-- The generation whose copy is of a step. -/
def heldGen (l : Vector (Option Nat) 2) (step : Nat) : Option Nat := (List.range 2).find? (fun g => l.getD g none == some step)

/-- STATE of a parity header. -/
def State.setParityState (s : State) (a st : Nat) : State := s.farWrite (a + 10) (toLE st 1 ++ toLE (complB 1 st) 1)

/-- CKP_COMMIT_NOTICE (R345). -/
def effCkpCommitNotice (parity : Bool) (step : Nat) (s : State) : State :=
  if !s.awake 13 then s
  else if parity then
    match heldGen s.ckp.parityStep step with
    | none => s
    | some g => s.setParityState (parityAt s.ckpBase s.ckpSize g) 3
  else
    match heldGen s.ckp.buddyStep step with
    | none => s
    | some g => s.setImageState (buddyAt s.ckpBase s.ckpSize g) 3

/-- This chip's parity header (R339). -/
def parityHeader (step row hedge st mask : Nat) (crcs : List Nat) (pcrc : Nat) : List Byte :=
  toLE step 6 ++ toLE row 1 ++ toLE (complB 1 row) 1 ++ toLE hedge 2 ++ toLE st 1 ++ toLE (complB 1 st) 1
    ++ toLE mask 1 ++ toLE (complB 1 mask) 1 ++ toLE 0 2 ++ crcs.flatMap (fun x => toLE x 8) ++ toLE pcrc 8

/-- The bytes of a unit received so far. -/
def State.unitBytes (s : State) (position step n : Nat) : List Byte :=
  match s.ckp.units.find? (fun x => x.1 == position && x.2.1 == step) with
  | none => List.replicate n 0#8
  | some (_, _, m) => (List.range n).map (smGet memDefault m)

/-- Hold a part of a unit. -/
def State.holdUnit (s : State) (position step off : Nat) (b : List Byte) : State :=
  let old := match s.ckp.units.find? (fun x => x.1 == position && x.2.1 == step) with
    | none => []
    | some (_, _, m) => m
  let rest := s.ckp.units.filter (fun x => !(x.1 == position && x.2.1 == step))
  { s with ckp := { s.ckp with units := rest ++ [(position, step, memWrite old off b)] } }

def State.dropUnit (s : State) (position step : Nat) : State :=
  { s with ckp := { s.ckp with units := s.ckp.units.filter (fun x => !(x.1 == position && x.2.1 == step)) } }

/-- A whole unit is XORed into the parity unit of its step; the first one starts it from zero (R339). The header is PREPARED
once all seven are in (DEDUCED, log 28) and the read-back of the unit has passed (R344). -/
def State.foldUnit (s : State) (position step : Nat) (bad badTwice : Bool) : State :=
  let base := s.ckpBase
  let size := s.ckpSize
  let policy := (s.rd rCkpPolicy).toNat
  let (w, o) := ckpPlace policy s.job.rank
  let g := s.genFor step
  let n := unitLen size
  let fresh := s.ckp.parityStep.getD g none != some step
  let a := parityAt base size g
  let mask := if fresh then 0 else s.readNat (a + 12) 1
  if bitAt mask position then s.dropUnit position step
  else
    let old := if fresh then List.replicate n 0#8 else s.read (unitAt base size g) n
    let b := s.unitBytes position step n
    let new := xorBytes old b
    let crcs := (List.range 8).map (fun p =>
      if p = position then (crc64 b).toNat else if fresh then 0 else s.readNat (a + 16 + 8 * p) 8)
    let mask := mask + 2 ^ position
    let whole := mask == 255 - 2 ^ o
    let s := s.farWrite (unitAt base size g) new
    let (stays, s) := s.readBack policy (if whole && bad then [(unitAt base size g, n)] else []) badTwice
    let whole := whole && !stays
    let head := parityHeader step o w (if whole then 2 else 1) mask crcs (crc64 new).toNat
    let s := s.farWrite a (sliceB head 0 65536)
    let s := { s with ckp := { s.ckp with parityStep := s.ckp.parityStep.setIfInBounds g (some step) } }
    let s := s.dropUnit position step
    if whole then
      ((List.range 8).filter (· != o)).foldl (fun s p =>
        s.sendMgmt (ckpRank policy w p) (.report (ckpRank policy w p) step true)) s
    else s

/-! ### Usable images (R336) -/

def imLen (h : List Byte) : Nat := leAt h 32 8
def imStep (h : List Byte) : Nat := leAt h 8 6
def imState (h : List Byte) : Nat := byteAt h 48

/-- A header and table pass R336, for a STATE in a list. -/
def imageUsable (h : List Byte) (seed : Nat) (states : List Nat) : Bool :=
  let n := leAt h 6 2
  let tab := sliceB h 256 (32 * n)
  decide (leAt h 0 4 = 0x44524F50) && decide (leAt h 4 2 = 1) && decide (1 ≤ n) && decide (n ≤ 2040)
    && decide (byteAt h 29 = complB 1 (byteAt h 28)) && decide (byteAt h 28 < 4) && decide (leAt h 30 2 = 0)
    && decide (byteAt h 49 = complB 1 (imState h)) && decide (leAt h 50 6 = 0) && decide (imState h < 4)
    && (sliceB h 64 192).all (· == 0)
    && (List.range n).all (fun i => byteAt tab (32 * i + 1) == complB 1 (byteAt tab (32 * i)) && leAt tab (32 * i + 2) 2 == 0)
    && decide (leAt h 40 8 = (crc64 (h.take 40 ++ tab)).toNat) && decide (leAt h 16 8 = seed) && states.contains (imState h)

/-- The header and table at an address. -/
def State.imageHead (s : State) (a : Nat) : List Byte := s.read a 65536

/-- Section entry i of a header: type, id, offset, length, CRC. -/
def imSection (h : List Byte) (i : Nat) : Nat × Nat × Nat × Nat × Nat :=
  let a := 256 + 32 * i
  (byteAt h a, leAt h (a + 4) 4, leAt h (a + 8) 8, leAt h (a + 16) 8, leAt h (a + 24) 8)

def imSections (h : List Byte) : List (Nat × Nat × Nat × Nat × Nat) := (List.range (leAt h 6 2)).map (imSection h)

/-- Every section of the image at an address passes its CRC. -/
def State.sectionsGood (s : State) (a : Nat) : Bool :=
  (imSections (s.imageHead a)).all (fun (_, _, off, n, crc) => (crc64 (s.read (a + off) n)).toNat == crc)

/-! ### The choice of a step (R347) -/

/-- This chip's inventory: its own images, the buddy copies it holds, and its parity units. -/
def State.ownInventory (s : State) : List InvEntry :=
  let base := s.ckpBase
  let size := s.ckpSize
  let seed := (s.rd rRndSeed).toNat
  (List.range 2).flatMap (fun g =>
    let im := fun (k : InvKind) (a : Nat) =>
      let h := s.imageHead a
      ({ kind := k, rank := leAt h 14 2, step := imStep h, usable := imageUsable h seed [2, 3]
         committed := imState h == 3, prepared := imState h == 2, mask := 0 } : InvEntry)
    let p := s.read (parityAt base size g) 88
    let st := byteAt p 10
    let good := decide (byteAt p 7 = complB 1 (byteAt p 6)) && decide (byteAt p 11 = complB 1 st)
      && decide (byteAt p 13 = complB 1 (byteAt p 12)) && decide (byteAt p 6 < 8) && decide (leAt p 8 2 < 2 ^ 14)
      && decide (leAt p 14 2 = 0) && decide (st < 4)
    [im .own (genAt base size g), im .buddy (buddyAt base size g),
     ({ kind := .parity, rank := leAt p 8 2 * 8 + byteAt p 6, step := leAt p 0 6, usable := good && (st == 2 || st == 3)
        committed := st == 3, prepared := st == 2, mask := byteAt p 12 } : InvEntry)])

/-- The inventory of every holder, and the sources that have failed: rank, step and kind. -/
abbrev Inv := List (Nat × List InvEntry)
abbrev Failed := List (Nat × Nat × InvKind)

def ownUsable (inv : Inv) (bad : Failed) (q t : Nat) : Bool :=
  !bad.contains (q, t, .own) && inv.any (fun x => x.1 == q && x.2.any (fun e => e.kind == .own && e.rank == q && e.step == t && e.usable))

def buddyUsable (inv : Inv) (bad : Failed) (q t : Nat) : Bool :=
  !bad.contains (q, t, .buddy) && inv.any (fun x => x.2.any (fun e => e.kind == .buddy && e.rank == q && e.step == t && e.usable))

def parityUsable (policy : Nat) (inv : Inv) (bad : Failed) (q t : Nat) : Bool :=
  let (w, o) := ckpPlace policy q
  !bad.contains (q, t, .parity) && ((List.range 8).filter (· != o)).all (fun p =>
    let r := ckpRank policy w p
    ownUsable inv bad r t && inv.any (fun x => x.1 == r
      && x.2.any (fun e => e.kind == .parity && e.rank == w * 8 + p && e.step == t && e.usable && bitAt e.mask o)))

/-- The steps of usable COMMITTED headers, highest first. -/
def restoreSteps (inv : Inv) : List Nat :=
  ((inv.flatMap (fun x => (x.2.filter (fun e => e.usable && e.committed)).map (·.step))).eraseDups).mergeSort (fun a b => decide (b ≤ a))

/-- R347: the highest step that every rank of the group has a source for. -/
def restoreStep (policy : Nat) (ranks : List Nat) (inv : Inv) (bad : Failed) : Option Nat :=
  (restoreSteps inv).find? (fun t =>
    ranks.all (fun q => ownUsable inv bad q t || buddyUsable inv bad q t || parityUsable policy inv bad q t))

/-- The source of a rank's image of a step: 0 its own copy, 1 a buddy copy, 2 parity (R347). -/
def sourceOf (inv : Inv) (bad : Failed) (q t : Nat) : Nat :=
  if ownUsable inv bad q t then 0 else if buddyUsable inv bad q t then 1 else 2

/-! ### Loading an image (R350) -/

/-- A record of the image does not fit the target's tables (R350). -/
def State.recordMismatch (s : State) (a : Nat) : Bool :=
  (imSections (s.imageHead a)).any (fun (t, _, off, n, _) =>
    if t = 1 then (List.range (n / 32)).any (fun i =>
      let r := s.read (a + off + 32 * i) 32
      let e := s.jobEntry (leAt r 24 2 % 4096)
      owFirst r != owFirst e || owGroups r != owGroups e || owGsize r != owGsize e)
    else if t = 4 then (List.range (n / 32)).any (fun i =>
      let r := s.read (a + off + 32 * i) 32
      leAt r 0 6 != bkElements (s.bucketEntry (leAt r 16 4)))
    else false)

/-- The random lane image at an address is refused (spec/11_reproducibility.md R322). -/
def State.lanesBad (s : State) (a n : Nat) : Bool :=
  let h := s.read a 32
  let k := leAt h 0 4
  leAt h 4 4 != complB 4 k || k == 0 || decide (4096 < k) || decide (n < 32 + 32 * k) || leAt h 8 8 != (s.rd rRndSeed).toNat

/-- The random lanes from an image (spec/11_reproducibility.md R323). -/
def State.loadLanes (s : State) (a : Nat) : State :=
  let k := leAt (s.read a 32) 0 4
  let xs := (List.range k).map (fun l => Xo.parse (s.read (a + 32 + 32 * l) 32))
  let n := s.laneCount
  let drawn := (xs.take n).zipIdx.foldl (fun m (x, l) =>
    smSet (fun l => (laneStart s.lanes.seed l, 0)) m l (x, 0)) ([] : SMap (Xo × Nat))
  { s with lanes := { s.lanes with started := true, drawn := drawn }, dormant := xs.drop n }

/-- The sections of an image go to this chip's own structures; RESID after BUCKETS. Without residuals the entries are written
with VALID clear, and the loss of an entry's residuals is a repair event (spec/05_coppice.md R153; on every member, DESIGN
CHOICE, log 112). -/
def State.loadSection (s : State) (a : Nat) (resid : Bool) (x : Nat × Nat × Nat × Nat × Nat) : State :=
  let (t, id, off, n, _) := x
  match t with
  | 1 => (List.range (n / 32)).foldl (fun s i =>
      let r := s.read (a + off + 32 * i) 32
      let at_ := owAddr s.curBank (leAt r 24 2 % 4096)
      (s.write at_ (sliceB r 0 16)).write (at_ + 56) (sliceB r 16 8)) s
  | 2 => s.write (owState (s.jobEntry id)) (s.read (a + off) n)
  | 3 =>
    let e := s.jobEntry id
    let l := s.pubLen id
    (s.write (owPub e false) (s.read (a + off) l)).write (owPub e true) (s.read (a + off + upTo 256 l) l)
  | 4 => (List.range (n / 32)).foldl (fun s i =>
      let r := s.read (a + off + 32 * i) 32
      let at_ := bkAddr s.curBank (leAt r 16 4)
      let s := s.write (at_ + 16) (sliceB r 0 16)
      let e := s.read at_ 32
      if resid || !bkValid e then s
      else
        let s := s.write at_ (bkInvalid e)
        if bkHolds e then s.raise causeRepair else s) s
  | 5 => s.write (bkSlot (s.bucketEntry id) (bkCur (s.bucketEntry id))) (s.read (a + off) n)
  | 6 => s.write ((s.rd rQntFmtBase).toNat / 4 * 4) (s.read (a + off) n)
  | 7 => s.loadLanes (a + off)
  | _ => s

def State.loadSections (s : State) (a : Nat) : State :=
  let h := s.imageHead a
  (imSections h).foldl (fun s x => s.loadSection a (bitAt (byteAt h 28) 1) x) s

/-! ### The restore command (R347 to R356) -/

/-- A restore ends with a status: what it held goes. -/
def State.endRestore (s : State) (r : Restore) (st : Nat) (body : List Byte) : State :=
  let s := if r.engineCause then
      (s.addF rAvail 0 48 ((s.now - s.rep.detected.getD r.startedAt) / 1000)).sat rAvail 48 16 1 else s
  ({ s with restore := none, rep := { s.rep with detected := none }
            ckp := { s.ckp with fence := [], inv := [], failed := [] } }).post r.pair st body

/-- Discard an image, or a parity unit, of a later step (R348). -/
def State.discardAbove (s : State) (t : Nat) : State :=
  let base := s.ckpBase
  let size := s.ckpSize
  let s := (List.range 2).foldl (fun s g =>
    let s := [genAt base size g, buddyAt base size g].foldl (fun s a =>
      let h := s.read a 256
      if leAt h 0 4 = 0x44524F50 ∧ imState h ≠ 0 ∧ t < imStep h then (s.setImageState a 0).sat rCkpEvents 8 8 1 else s) s
    let p := s.read (parityAt base size g) 16
    if byteAt p 10 ≠ 0 ∧ byteAt p 11 = complB 1 (byteAt p 10) ∧ t < leAt p 0 6 then
      (s.setParityState (parityAt base size g) 0).sat rCkpEvents 8 8 1 else s) s
  let keep := fun (x : Option Nat) => x.filter (fun n => decide (n ≤ t))
  { s with ckp := { s.ckp with buddyStep := s.ckp.buddyStep.map keep, parityStep := s.ckp.parityStep.map keep } }

/-- The generation whose own image is of a step. -/
def State.ownGen (s : State) (t : Nat) : Nat :=
  let seed := (s.rd rRndSeed).toNat
  ((List.range 2).find? (fun g =>
    let h := s.imageHead (genAt s.ckpBase s.ckpSize g)
    imageUsable h seed [2, 3] && imStep h == t)).getD (s.genFor t)

/-- The image at an address is a usable one of a step, and every section passes its CRC (R336). -/
def State.imageGood (s : State) (a t : Nat) : Bool :=
  imageUsable (s.imageHead a) (s.rd rRndSeed).toNat [2, 3] && imStep (s.imageHead a) == t && s.sectionsGood a

/-- The image of a step in this chip's own slot is loaded and the restore fence is joined (R350, R351). -/
def State.loadImage (s : State) (t : Nat) : State :=
  match s.restore with
  | none => s
  | some r =>
    let a := genAt s.ckpBase s.ckpSize (s.ownGen t)
    if s.recordMismatch a then s.endRestore r stMismatch []
    else if (imSections (s.imageHead a)).any (fun (ty, _, off, n, _) => ty == 7 && s.lanesBad (a + off) n) then
      (s.raise causeRankState).endRestore r stData []
    else
      ({ s.loadSections a with restore := some { r with loaded := true } }).castPass true (s.rd rCkpPolicy).toNat t

/-- This chip holds a usable own image. -/
def Restore.holds (r : Restore) (me : Nat) : Bool :=
  (r.own.getD []).any (fun e => e.kind == .own && e.rank == me && e.usable)

/-- The command names a rank as lost or moving. -/
def Restore.names (r : Restore) (q : Nat) : Bool := r.lost != 0xFFFF && r.lost == q

/-- The new chip of a migrated rank, and the stand-in that it leaves (R356). -/
def Restore.arrives (r : Restore) (me : Nat) : Bool := r.migrate && r.names me && !r.holds me
def Restore.leaves (r : Restore) (me : Nat) : Bool := r.migrate && r.names me && r.holds me

/-- Every inventory that this chip decides from. -/
def State.allInv (s : State) (r : Restore) : Inv := (s.job.rank, r.own.getD []) :: s.ckp.inv

/-- Send this chip's inventory, and the sources it knows to have failed, to every member of the group (R347); a stand-in also
sends it to the new chip that takes its rank. -/
def State.tell (s : State) : State :=
  match s.restore with
  | none => s
  | some r =>
    let me := s.job.rank
    let dsts := (s.ckpRanks (s.rd rCkpPolicy).toNat).filter (fun q => q != me || r.leaves me)
    dsts.foldl (fun s q => s.sendMgmt q (.inventory q (r.own.getD []) s.ckp.failed)) s

/-- A source has failed: no member decides on it again (R347, R354; that a renewed inventory says so is a DESIGN CHOICE,
log 124). -/
def State.failSource (s : State) (q t : Nat) (k : InvKind) : State :=
  ({ s with ckp := { s.ckp with failed := s.ckp.failed ++ [(q, t, k)] } }).tell

/-- The rank of this chip's Hedge, other than its own, whose image is to come from parity. -/
def State.parityFor (s : State) (r : Restore) (t : Nat) : Option Nat :=
  let p := (s.rd rCkpPolicy).toNat
  (s.ckpHedge p (ckpPlace p s.job.rank).1).find? (fun q => q != s.job.rank && sourceOf (s.allInv r) s.ckp.failed q t == 2)

/-- A row holder rebuilds a position's unit from its parity unit and the six units it has gathered (R354). The rank whose unit
fails UNIT_CRC is named. -/
def State.rebuild (s : State) (t : Nat) : Option Nat × State :=
  match s.restore with
  | none => (none, s)
  | some r =>
    match s.parityFor r t with
    | none => (none, s)
    | some q =>
      let policy := (s.rd rCkpPolicy).toNat
      let (_, o) := ckpPlace policy s.job.rank
      let (_, d) := ckpPlace policy q
      let n := unitLen s.ckpSize
      let others := (List.range 8).filter (fun p => p != o && p != d)
      if !others.all (fun p => s.ckp.units.any (fun x => x.1 == p && x.2.1 == t)) then (none, s)
      else
        let g := (heldGen s.ckp.parityStep t).getD 0
        let b := others.foldl (fun acc p => xorBytes acc (s.unitBytes p t n)) (s.read (unitAt s.ckpBase s.ckpSize g) n)
        let s := others.foldl (fun s p => s.dropUnit p t) s
        if (crc64 b).toNat = s.readNat (parityAt s.ckpBase s.ckpSize g + 16 + 8 * d) 8 then
          (none, { s with sent := s.sent ++ [Msg.rebuilt q t b] })
        else (some q, s)

/-- What this chip sends for another rank whose own image is not usable (R347, R353, R354): the buddy copy it holds, or, as a
member of its Hedge, its own units to the other row holders. -/
def State.serveRank (s : State) (t q : Nat) : State :=
  match s.restore with
  | none => s
  | some r =>
    let policy := (s.rd rCkpPolicy).toNat
    let (w, o) := ckpPlace policy s.job.rank
    let (wq, d) := ckpPlace policy q
    let src := sourceOf (s.allInv r) s.ckp.failed q t
    if q = s.job.rank ∨ src = 0 ∨ r.served.contains (q, src, t) then s
    else
      let r := { r with served := r.served ++ [(q, src, t)] }
      if src = 1 then
        match (List.range 2).find? (fun g =>
          let h := s.imageHead (buddyAt s.ckpBase s.ckpSize g)
          imageUsable h (s.rd rRndSeed).toNat [2, 3] && imStep h == t && leAt h 14 2 == q) with
        | none => s
        | some g =>
          let a := buddyAt s.ckpBase s.ckpSize g
          { s with restore := some r, sent := s.sent ++ [Msg.stream q t a (imLen (s.imageHead a)) 0] }
      else if w ≠ wq then s
      else
        let a := genAt s.ckpBase s.ckpSize (s.ownGen t)
        let u := unitLen s.ckpSize
        let len := imLen (s.imageHead a)
        let units := ((List.range 8).filter (fun p => p != o && p != d)).map (fun p =>
          let i := if p < o then p else p - 1
          let n := min u (len - i * u)
          Msg.stream (ckpRank policy w p) t (a + i * u) n (u - n))
        { s with restore := some r, sent := s.sent ++ units }

/-- What this chip sends for every rank that needs it. -/
def State.serve (s : State) (t : Nat) : Option Nat × State :=
  ((s.ckpRanks (s.rd rCkpPolicy).toNat).foldl (fun s q => s.serveRank t q) s).rebuild t

/-- Waiting pairs are told, and the image in progress goes: a step has been chosen. -/
def State.dropImage (s : State) : State := ({ s with ckp := { s.ckp with image := none, votes := [] } }).dropPairs

/-- Act on the chosen step (R348, R350, R353, R356). On a migrate the stand-in sends its own image to its rank and is done
(DEDUCED, log 125); every other member keeps its state; the new chip awaits the image. -/
def State.settleOn (s : State) (r : Restore) (t src : Nat) : State :=
  let me := s.job.rank
  let r := { r with chosen := some t, loaded := false, source := if r.arrives me && src == 0 then 1 else src, rows := [] }
  let s := { (s.dropImage.discardAbove t) with restore := some r }
  if r.leaves me then
    let a := genAt s.ckpBase s.ckpSize (s.ownGen t)
    ({ s with sent := s.sent ++ [Msg.stream me t a (imLen (s.imageHead a)) 0] }).endRestore r stOk (toLE t 8)
  else if r.migrate && !r.arrives me then
    ({ s with restore := some { r with loaded := true } }).castPass true (s.rd rCkpPolicy).toNat t
  else if src = 0 ∧ r.arrives me = false then s.loadImage t
  else s

/-- Choose the step and act on it. An own image with a section that fails its CRC, or a unit rebuilt wrong, takes that source
out and the choice is made again; `fuel` bounds how often (R347, R354). With no step, nothing changes but that the command ends
(R349). -/
def State.choose (s : State) : Nat → State
  | 0 => s
  | n + 1 =>
    match s.restore with
    | none => s
    | some r =>
      let policy := (s.rd rCkpPolicy).toNat
      let me := s.job.rank
      match restoreStep policy (s.ckpRanks policy) (s.allInv r) s.ckp.failed with
      | none => s.endRestore r stData []
      | some t =>
        let src := sourceOf (s.allInv r) s.ckp.failed me t
        let stands := decide (r.chosen = some t) && (r.loaded || r.source == src || (r.arrives me && src == 0))
        if !stands && src == 0 && !r.migrate && !s.imageGood (genAt s.ckpBase s.ckpSize (s.ownGen t)) t then
          (s.failSource me t .own).choose n
        else
          match (if stands then s else s.settleOn r t src).serve t with
          | (none, s) => s
          | (some q, s) => (s.failSource q t .parity).choose n

/-- The inventories this chip awaits: those of every surviving member, and, on a migrate, that of the stand-in. -/
def State.survivors (s : State) (r : Restore) : List Nat :=
  let me := s.job.rank
  (s.ckpRanks (s.rd rCkpPolicy).toNat).filter (fun q => if q = me then r.arrives me else !r.names q || r.migrate)

/-- Work of the jobs has ended and no identifier drains. -/
def State.workEnded (s : State) : Bool := !s.cmds.any (fun c => usesBlock c.type) && !s.drains.any (·.active)

/-- Every member has restored (R351, R433, spec/14_registers.md R405): the command completes at step t. -/
def State.finishRestore (s : State) : State :=
  match s.restore with
  | none => s
  | some r =>
    match r.chosen with
    | none => s
    | some t =>
      let policy := (s.rd rCkpPolicy).toNat
      if !r.loaded || !(s.ckpRanks policy).all (fun q => s.ckp.fence.contains (q, t)) then s
      else
        let s := s.discardAbove t
        let gen := s.ownGen t
        let s := s.wr rCkpStatus (BitVec.ofNat 64 (t % 2 ^ 48 + 2 ^ 48 + gen * 2 ^ 49))
        let s := if r.lost = 0xFFFF then s else (s.dropTo r.lost).zeroWindow r.lost
        let s := if r.lost ≠ 0xFFFF ∧ (ckpPlace policy r.lost).1 = (ckpPlace policy s.job.rank).1
          then s.exposed else s
        let s := s.stepBoundary t
        let s := { s with job := { s.job with lastStep := some t }, matchTx := [], matchRx := [], ordinals := []
                          ckp := { s.ckp with refused := none, pushes := [], words := [], units := [], genWait := false } }
        s.endRestore r stOk (toLE t 8)

/-- Choose, and finish if every fence is here already. -/
def State.chooseAll (s : State) : State :=
  match s.restore with
  | none => s
  | some r => (s.choose (8 * (restoreSteps (s.allInv r)).length + 8)).finishRestore

/-- This chip reads its headers and, as a surviving member, sends the inventory (R347). -/
def State.takeStock (s : State) : State :=
  match s.restore with
  | none => s
  | some r =>
    if r.own.isSome then s
    else
      let r := { r with own := some s.ownInventory }
      let s := { s with restore := some r }
      if !r.names s.job.rank || r.leaves s.job.rank then s.tell else s

/-- Take stock once work has ended and, when no member is lost, this chip's image in progress has committed (R352); choose once
every inventory is here. -/
def State.restoreOn (s : State) : State :=
  match s.restore with
  | none => s
  | some r =>
    if r.chosen.isSome || !s.workEnded || (r.lost == 0xFFFF && s.ckp.image.any (fun m => !m.badTwice)) then s
    else
      let s := s.takeStock
      match s.restore with
      | none => s
      | some r => if (s.survivors r).all (fun q => s.ckp.inv.any (fun x => x.1 == q)) then s.chooseAll else s

/-- RESTORE_INVENTORY (R347): a member's inventory, kept even when it comes before this chip's own RESTORE. One that names failed
sources renews the choice (DESIGN CHOICE, log 124). -/
def effRestoreInventory (rank : Nat) (x : Inventory) (s : State) : State :=
  let ⟨headers, failed⟩ := x
  let c := s.ckp
  let inv := if c.inv.any (fun x => x.1 == rank) && !failed.isEmpty then c.inv
    else c.inv.filter (fun x => x.1 != rank) ++ [(rank, headers)]
  let new := failed.filter (fun x => !c.failed.contains x)
  let s := { s with ckp := { c with inv := inv, failed := c.failed ++ new } }
  match s.restore with
  | none => s
  | some r => if r.chosen.isNone then s.restoreOn else if new.isEmpty then s else s.chooseAll

/-- The image that this chip awaits has arrived whole in its own slot: verified, COMMITTED and loaded (R353); a failure goes to
the next source (R347). -/
def State.standInLoad (s : State) (r : Restore) (t : Nat) : State :=
  let a := genAt s.ckpBase s.ckpSize (s.genFor t)
  if s.imageGood a t then ((s.setImageState a 3).loadImage t).finishRestore
  else
    let k : InvKind := match sourceOf (s.allInv r) s.ckp.failed s.job.rank t with
      | 0 => .own
      | 1 => .buddy
      | _ => .parity
    ((s.setImageState a 0).failSource s.job.rank t k).chooseAll

/-- The restore awaits bytes of this chip's image from a source. -/
def State.fetching (s : State) (step source : Nat) : Option Restore :=
  match s.restore with
  | none => none
  | some r => if r.chosen = some step ∧ r.loaded = false ∧ r.source = source then some r else none

/-- BUDDY_COPY (R338, R353): a part of a member's own image is written into the buddy copy slot, or, on a chip that fetches its
image, into its own slot. The last part is verified and reported; `bad` and `badTwice` are what its read-back found (R344). -/
def effBuddyCopy (step offset : Nat) (b : List Byte) (last : Bool) (bad : List Nat) (badTwice : Bool) (s : State) : State :=
  if !s.awake 13 then s
  else
    let base := s.ckpBase
    let size := s.ckpSize
    let g := s.genFor step
    match s.fetching step 1 with
    | some r =>
      let s := s.farWrite (genAt base size g + offset) b
      if last then s.standInLoad r step else s
    | none =>
      let a := buddyAt base size g
      let s := s.farWrite (a + offset) b
      if !last then s
      else
        let spans := (imSections (s.imageHead a)).map (fun (_, _, off, n, _) => (a + off, n))
        let (stays, s) := s.readBack (s.rd rCkpPolicy).toNat (pickSpans spans bad) badTwice
        if stays then s
        else
          let s := s.setImageState a 2
          let rank := leAt (s.read a 16) 14 2
          ({ s with ckp := { s.ckp with buddyStep := s.ckp.buddyStep.setIfInBounds g (some step) } }).sendMgmt rank
            (.report rank step false)

/-- A parity unit of a step held here already includes a position's unit. -/
def State.folded (s : State) (position step : Nat) : Bool :=
  match heldGen s.ckp.parityStep step with
  | none => false
  | some g => bitAt (s.readNat (parityAt s.ckpBase s.ckpSize g + 12) 1) position

/-- PARITY_UNIT (R339, R354): an image unit of a position. The row holder folds it into its parity unit; in a restore, the chip
that awaits its image places the rebuilt unit of row `position`, and a row holder gathers the units it rebuilds from. -/
def effParityUnit (position step offset : Nat) (b : List Byte) (last bad badTwice : Bool) (s : State) : State :=
  if !s.awake 13 || decide (8 ≤ position) then s
  else
    match s.fetching step 2 with
    | some r =>
      let (_, o) := ckpPlace (s.rd rCkpPolicy).toNat s.job.rank
      let unit := if position < o then position else position - 1
      let s := s.farWrite (genAt s.ckpBase s.ckpSize (s.genFor step) + unit * unitLen s.ckpSize + offset) b
      if !last then s
      else
        let rows := if r.rows.contains position then r.rows else position :: r.rows
        let r := { r with rows := rows }
        let s := { s with restore := some r }
        if rows.length = 7 then s.standInLoad r step else s
    | none =>
      let s := s.holdUnit position step offset b
      if !last then s
      else
        match s.restore with
        | none => s.foldUnit position step bad badTwice
        | some r =>
          if r.chosen = some step then
            match s.rebuild step with
            | (none, s) => s
            | (some q, s) => (s.failSource q step .parity).chooseAll
          else if r.chosen.isSome || s.folded position step then s
          else s.foldUnit position step bad badTwice

/-- RESTORE_FENCE (R351): a fence comes, of a member of the Hedge or of a whole Hedge that has restored to a step; with the last
one, or with none to come, the restore finishes. -/
def effRestoreFence (fence : Option (Voice × Nat)) (s : State) : State :=
  match fence with
  | some (v, step) => (s.takePass true (s.rd rCkpPolicy).toNat step v).finishRestore
  | none => s.finishRestore

end Sys2Proof.Machine
end

