-- ==== Sys2Proof/Machine/Control.lean ====
section
/-! DEFINITION. The mailbox opcodes, the heartbeat, and the ends of route changes, closings and re-forms
(spec/13_control.md R374 to R379, spec/08_collectives.md R250, spec/09_fabric.md R284, R433, spec/12_resilience.md R347 to
R356). -/

namespace Sys2Proof.Machine

/-! ### Stopping commands (spec/08_collectives.md R250, spec/13_control.md R376) -/

/-- Which queued and running commands a stop names: every command of the job, or the collectives of a range of job
identifiers. -/
inductive StopOf where
  | job
  | ids (first last : Nat)
deriving DecidableEq, Repr

/-- A command of a type and job identifier is named. RUN_SKEIN, TOPIARY_MERGE and FOLD need an open job and so belong to it
(R393). -/
def StopOf.names (x : StopOf) (t job : Nat) : Bool :=
  match x with
  | .job => usesBlock t || t == 0x19 || t == 0x21 || t == 0x28
  | .ids a b => usesBlock t && decide (a ≤ job) && decide (job ≤ b)

/-- Groups of a command that are reported short when it is stopped. -/
def State.shortOf (s : State) (c : Cmd) : Nat :=
  if isReducing c.type && !c.upd.computed && c.status.isNone then (s.shortGroups c).length else 0

/-- Stop one running command: re-formed, its shortfalls reported, an undecided step withheld. -/
def State.stopCmd (s : State) (c : Cmd) : State :=
  let s := if c.status.isSome then s else (s.failCmd c.q c.i stReformed 0).reportShort c.q c.i s.ownRank
  (s.withhold c.q c.i).dropStaged c

/-- Fetch what a queue still holds up to its TAIL. -/
def State.fetchUpTo (s : State) (q : Nat) : Nat → State
  | 0 => s
  | n + 1 => (s.fetchNext q).fetchUpTo q n

/-- Stop the queued commands of one queue: they complete with the re-formed status, whatever the queue's state (log 60). -/
def State.stopQueued (s : State) (x : StopOf) (q : Nat) : State :=
  if (s.queue q).st ≠ .disabled then
    let s := if s.ringOk q then s.fetchUpTo q (sub32 (s.fld (rQTail q) 0 32) (s.queue q).nextFetch) else s
    let k := s.queue q
    let mark := fun (f : Fetched) =>
      if f.fail.isNone && x.names (dType f.desc) (leAt f.param 72 2 % 4096) then { f with fail := some (stReformed, 0) } else f
    let fs := k.fetched.map mark
    let headFails := match fs with
      | [] => false
      | f :: _ => f.fail.isSome
    s.setQueue q { k with fetched := fs, onJob := k.onJob && !headFails }
  else s

/-- A mailbox command reads memory: when a read meets the uncorrectable-error flag, nothing of it is used and the command ends
with the data-error status (spec/01_engine_and_step.md R39). -/
def State.reading (s : State) (m : Nat) (areas : List (Nat × Nat)) (act : State → State) : State :=
  if s.anyFlagged areas then (s.raise causeMemory).postStatus m stData else act s

/-- Stop the commands that a stop names; the number of groups reported short. -/
def State.stopAll (s : State) (x : StopOf) : State × Nat :=
  let run := s.cmds.filter (fun c => x.names c.type c.job)
  let short := (run.map s.shortOf).sum
  let s := run.foldl State.stopCmd s
  (((List.range 64).foldl (fun s q => s.stopQueued x q) s).notePending, short)

/-- A rank is no longer awaited by a drain of an identifier in a range (R249). -/
def Drain.giveUp (first last rank : Nat) (d : Drain) : Drain :=
  if decide (first ≤ d.job) && decide (d.job ≤ last) && d.await.contains rank && !d.got.contains rank then
    { d with await := d.await.filter (· != rank), skipped := rank :: d.skipped } else d

/-- A rank that a stop of a range of identifiers does not await: its marker is not waited for, and what was sent to it is
dropped (R433). -/
def State.giveUpIn (s : State) (first last rank : Nat) : State :=
  ({ s with drains := s.drains.map (Drain.giveUp first last rank) }).dropTo rank

/-- Every drain looks whether it is complete. -/
def State.settleDrains (s : State) : State := (s.drains.map (·.job)).foldl State.settleDrain s

/-! ### What ends when work ends -/

/-- The job closes (R376, R405): the skein goes, a step boundary is taken, the response gives the shortfalls. -/
def State.closeNow (s : State) (m : Nat) : State :=
  let short := (s.mbx.getD m Mbx.reset).wait
  let s := { s with job := { s.job with isOpen := false }, skein := none, replayStale := true
                    pends := s.pends.filter (fun p => p.slot.isSome) }
  ((s.stepBoundary s.stepCur).setFld rCfgCtl 3 1 1).post m stOk (toLE short 4)

/-- A re-form ends: the window entries of the ranks it lost start from zero (spec/09_fabric.md R433). -/
def State.reformNow (s : State) (m : Nat) : State :=
  let x := s.mbx.getD m Mbx.reset
  (x.ranks.foldl (fun s r => (s.dropTo r).zeroWindow r) s).post m stOk (toLE x.wait 4)

/-- Nothing of a range of identifiers runs or drains. -/
def State.idsEnded (s : State) (first last : Nat) : Bool :=
  let mine := fun (j : Nat) => decide (first ≤ j) && decide (j ≤ last)
  !s.cmds.any (fun c => usesBlock c.type && mine c.job) && !s.drains.any (fun d => d.active && mine d.job)

/-- A pair whose command waits for work to end. -/
def State.settlePair (s : State) (m : Nat) : State :=
  if !s.begun m then s
  else
    let r := s.request m
    match rqOpcode r with
    | 0x0011 => if s.workEnded && !s.cmds.any (fun c => c.type == 0x19) then s.closeNow m else s
    | 0x0015 => if s.idsEnded (rqAt r 0 2) (rqAt r 2 2) then s.reformNow m else s
    | _ => s

/-- Load a skein: a configuration CRC update and a new replay identity are due (R316, spec/14_registers.md R410). -/
def State.setSkein (s : State) (addr : Nat) (img : List Byte) : State :=
  ({ s with skein := some (addr, img), replayStale := true }).setFld rCfgCtl 3 1 1

/-- A RUN_SKEIN of the loaded skein is still appending. -/
def State.appending (s : State) : Bool := s.cmds.any (fun c => c.type == 0x19 && c.status.isNone)

/-- Apply a pending skein once nothing appends (R377). -/
def State.applySkein (s : State) : State :=
  if s.appending then s
  else
    match s.pends.find? (fun p => p.slot.isNone) with
    | none => s
    | some p =>
      let s := { s with pends := s.pends.filter (fun x => x.slot.isSome) }
      (s.setSkein p.addr p.image).addEvc (252 + p.pair) 1

/-- What follows the end of a command, a drain or an append. -/
def State.settleWork (s : State) : State :=
  (((List.range 4).foldl State.settlePair s.applySkein).restoreOn).settleQuiesce

/-- SILENT_MEMBER_EXPIRY (R376): during CLOSE_JOB, a member silent for LGX_COL_ABORT ticks is no longer awaited. -/
def effSilentMemberExpiry (job rank : Nat) (s : State) : State :=
  let lim := (s.rd rColAbort).toNat
  let closing := (List.range 4).any (fun m => s.begun m && rqOpcode (s.request m) == 0x0011)
  match s.drainOf job with
  | none => s
  | some d =>
    if !closing || !d.active || lim = 0 || !s.timeValid || !d.await.contains rank || d.got.contains rank
        || decide (s.now < max d.since (smGet (fun _ => 0) d.heard rank) + lim) then s
    else ((s.giveUpIn job job rank).settleDrain job).settleWork

/-! ### Queries -/

/-- GET_INFO: the boot ROM answers with zeros (spec/15_bringup_power.md R422). -/
def effGetInfo (m : Nat) (s : State) : State :=
  s.takeCmd m 0x0001 (fun _ s =>
    let p := s.spindle
    if p.loaded then s.post m stOk (toLE p.minor 1 ++ toLE p.major 1 ++ toLE p.svn 2 ++ toLE (Config.firmwareBuild s.free).toNat 4)
    else s.post m stOk (toLE 0 8))

/-- A resource word of TYPE 7 names a unit that the grade lacks: Carding 4 and the Feed expander 5 (DEDUCED, log 27). -/
def State.unitAbsent (s : State) (w : BitVec 32) : Bool :=
  !s.hasCarding && resType w == 7 && (resUnit w == 4 || resUnit w == 5)

/-- Every fault resource of the chip (spec/12_resilience.md R358). -/
def State.resources (s : State) : List (BitVec 32) :=
  let lanes := fun (t n : Nat) => (List.range 16).flatMap (fun p => (List.range n).map (fun l => mkRes t p l 0 false))
  let all := lanes 1 9 ++ lanes 2 264 ++ (List.range 17).map (fun i => mkRes 3 0 i 0 false)
    ++ (List.range 7).flatMap (fun g => (List.range 66).map (fun b => mkRes 4 g b 0 false))
    ++ (List.range 9).map (fun u => mkRes 7 u 0 0 false)
  all.filter (fun w => !s.unitAbsent w)

/-- The 16-byte record of a resource: its word, ratio, margin in hundredths of a percent, and events in the window. -/
def State.healthRecord (s : State) (w : BitVec 32) : List Byte :=
  let c := s.age.laps.find? (fun c => c.word == w)
  let r := match c with | none => 0 | some c => min (2 ^ 32 - 1) (ratio s.age.reference c.period)
  let mg : Int := match c with
    | none => 0
    | some c => max (-32768) (min 32767 (((targetOf w : Int) - (c.period : Int)) * 10000 / (targetOf w : Int)))
  let win := 1000000 * s.fld rRepCfg 0 16
  let n := ((s.eventsOf w).filter (fun e => decide (s.now - e.1 ≤ win))).length
  toLE w.toNat 4 ++ toLE r 4 ++ toLE (unsigned 16 mg) 2 ++ toLE (min 65535 n) 2 ++ toLE 0 4

/-- HEALTH_QUERY. -/
def effHealthQuery (m : Nat) (s : State) : State :=
  s.takeCmd m 0x0002 (fun r s =>
    let dest := rqAt r 0 8
    if dest % 256 ≠ 0 then s.postStatus m stInvalid
    else
      let rs := if dest = 0 then [] else s.resources
      let s := s.write dest (rs.flatMap s.healthRecord)
      s.post m stOk (toLE (s.rd rAgeStatus).toNat 8 ++ toLE (s.fld rRepStatus 0 32) 4 ++ toLE (s.rd rCkpStatus).toNat 8
        ++ toLE rs.length 4))

/-! ### The job -/

/-- OPEN_JOB (R376, R405, spec/02_formats.md R83). -/
def effOpenJob (m : Nat) (s : State) : State :=
  s.takeCmd m 0x0010 (fun r s =>
    let seed := BitVec.ofNat 64 (rqAt r 0 8)
    let first := rqAt r 10 2
    let last := rqAt r 12 2
    if s.job.isOpen then s.postStatus m stBusy
    else if last < first ∨ 4096 ≤ last then s.postStatus m stInvalid
    else
      let s := s.wr rRndSeed seed
      let s := { s with
        job := { isOpen := true, rank := rqAt r 8 2, first := first, last := last, lastStep := none, reforms := [] }
        lanes := { started := true, seed := seed, drawn := [] }, dormant := [], ordinals := [], matchTx := [], matchRx := []
        replayStale := true }
      (s.stepBoundary 0).postStatus m stOk)

/-- CLOSE_JOB (R376). -/
def effCloseJob (m : Nat) (s : State) : State :=
  s.takeCmd m 0x0011 (fun _ s =>
    if !s.job.isOpen then s.postStatus m stNoJob
    else
      let (s, short) := s.stopAll .job
      (s.begin m short []).settleWork)

/-- Copy rank-translation entries from memory. -/
def State.copyRanks (s : State) (src first : Nat) : Nat → State
  | 0 => s
  | n + 1 => (s.wr (rRank first) (BitVec.ofNat 64 (s.readNat src 8))).copyRanks (src + 8) (first + 1) n

/-- Zero the window table (spec/09_fabric.md R267). -/
def State.zeroWindows (s : State) : State :=
  { s with mem := s.mem.filter (fun e => decide (65536 * 64 ≤ (e.1 + 2 ^ 64 - s.winAt 0) % 2 ^ 64)) }

/-- SET_RANKS (R376). -/
def effSetRanks (m : Nat) (s : State) : State :=
  s.takeCmd m 0x0012 (fun r s =>
    if !s.cmds.isEmpty then s.postStatus m stBusy
    else if 65536 < rqAt r 8 2 + rqAt r 10 4 then s.postStatus m stInvalid
    else s.reading m [(rqAt r 0 8, 8 * rqAt r 10 4)] (fun s =>
      (((s.copyRanks (rqAt r 0 8) (rqAt r 8 2) (rqAt r 10 4)).zeroWindows).setFld rCfgCtl 3 1 1).postStatus m stOk))

/-- Take a pending load; one that replaces another is counted (R377). -/
def State.pend (s : State) (p : PendLoad) : State :=
  let s := if s.pends.any (fun x => x.slot == p.slot) then s.loseTarget else s
  { s with pends := s.pends.filter (fun x => x.slot != p.slot) ++ [p] }

/-- Where the member tables that an image names lie. -/
def State.skeinTableAreas (s : State) (img : List Byte) : List (Nat × Nat) :=
  (((List.range (skeinCount img)).filter (fun e => usesBlock (byteAt (skeinEntry img e) 0))).map
    (fun e => leAt (skeinEntry img e) 104 8)).filterMap
      (fun a => if a = 0 then none else some (a, 16 + 8 * s.readNat a 2))

/-- A member table that an image names breaks a rule. -/
def State.skeinTablesBad (s : State) (img : List Byte) : Bool := (s.skeinTableAreas img).any (fun x => tableBad (s.read x.1 x.2))

/-- Reserved bytes of a skein image are 0 (R251). -/
def skeinReservedOk (img : List Byte) : Bool :=
  (sliceB img 16 48).all (· == 0) && (List.range (skeinCount img)).all (fun e =>
    let x := skeinEntry img e
    leAt x 194 6 == 0 && (sliceB x 208 48).all (· == 0))

/-- LOAD_SKEIN (R376, R377, spec/08_collectives.md R251, R252). -/
def effLoadSkein (m : Nat) (s : State) : State :=
  s.takeCmd m 0x0013 (fun r s =>
    let addr := rqAt r 0 8
    let len := rqAt r 8 4
    let img := s.read addr len
    let n := skeinCount img
    let tables := if s.flagged addr len then [] else s.skeinTableAreas img
    s.reading m ((addr, len) :: tables) (fun s =>
    if leAt img 0 2 ≠ 1 ∨ n = 0 ∨ 4096 < n ∨ len < 64 + 256 * n ∨ skeinReservedOk img = false ∨ s.skeinTablesBad img = true then
      s.postStatus m stInvalid
    else if leAt img 4 4 ≠ (crc32c (patchB img 4 (toLE 0 4))).toNat
        ∨ (List.range n).any (fun e => (descFault (sliceB (skeinEntry img e) 0 64)).isSome) = true then s.postStatus m stData
    else if s.appending then (s.pend { slot := none, image := img, addr := addr, pair := m }).post m stPending (toLE n 2)
    else (s.setSkein addr img).post m stOk (toLE n 2)))

/-- LOAD_PROGRAM (R376, R377, spec/07_espalier.md R195). -/
def effLoadProgram (m : Nat) (s : State) : State :=
  s.takeCmd m 0x0014 (fun r s =>
    let slot := rqAt r 0 1
    let src := rqAt r 8 8
    let img := s.read src 512
    s.reading m [(src, 512)] (fun s =>
    if 16 ≤ slot ∨ rqAt r 1 7 ≠ 0 ∨ progOk img = false then s.postStatus m stInvalid
    else if s.slotNamed slot then (s.pend { slot := some slot, image := img, addr := src, pair := m }).postStatus m stPending
    else (s.setProg slot img).postStatus m stOk))

/-- The ranks of a member table. -/
def tableRanks (table : List Byte) : List Nat := (List.range (leAt table 0 2)).map (fun i => (tableEntry table i).rank)

/-- The members that a range of identifiers loses: those of its running commands and of its last member table, and every rank
that its chunks or markers concern, which the new table does not name. -/
def State.lostIn (s : State) (first last : Nat) (table : List Byte) : List Nat :=
  let ms := tableRanks table
  let mine := fun (j : Nat) => decide (first ≤ j) && decide (j ≤ last)
  let seen := (s.cmds.filter (fun c => usesBlock c.type && mine c.job)).flatMap (fun c => c.memberList.map (·.rank))
    ++ (s.job.reforms.filter (fun x => mine x.2.1 || mine x.2.2)).flatMap (fun x => tableRanks x.1)
    ++ (s.drains.filter (fun d => mine d.job)).flatMap (·.await)
    ++ (s.outbox.filter (fun x => !x.mc && (match x.pkts with | [] => false | p :: _ => mine p.hdr.job))).map (·.dst)
  (seen.filter (fun r => !ms.contains r && r != s.job.rank)).eraseDups

/-- REFORM_GROUP (R376, spec/08_collectives.md R250). -/
def effReformGroup (m : Nat) (s : State) : State :=
  s.takeCmd m 0x0015 (fun r s =>
    let first := rqAt r 0 2
    let last := rqAt r 2 2
    let at_ := rqAt r 8 8
    let table := s.read at_ (16 + 8 * s.readNat at_ 2)
    if !s.job.isOpen then s.postStatus m stNoJob
    else if last < first ∨ 4096 ≤ last ∨ rqAt r 4 4 ≠ 0 then s.postStatus m stInvalid
    else s.reading m [(at_, table.length)] (fun s =>
      if tableBad table = true then s.postStatus m stInvalid
      else
        let lost := s.lostIn first last table
        let (s, short) := s.stopAll (.ids first last)
        let lost := (lost ++ s.lostIn first last table).eraseDups
        let s := s.begin m short lost
        let s := lost.foldl (fun s x => s.giveUpIn first last x) s
        let s := { s with job := { s.job with reforms := (table, first, last) :: s.job.reforms } }
        (s.settleDrains).settleWork))

/-! ### Route changes (spec/09_fabric.md R284) -/

/-- ROUTE_CHANGE: events 2 to 5 of R284; it completes when the epoch it left is retired. -/
def effRouteChange (m : Nat) (s : State) : State :=
  s.takeCmd m 0x0016 (fun _ s =>
    let target := if s.draining then (s.epoch + 2) % 4 else (s.epoch + 1) % 4
    (effEpochAdvance s).begin m target [])

/-- The draining epoch is retired: a route change that waits for it is answered, and a pending ADVANCE applies. -/
def State.endEpoch (s : State) : State :=
  let s := (List.range 4).foldl (fun s m =>
    if s.begun m && rqOpcode (s.request m) == 0x0016 && (s.mbx.getD m Mbx.reset).wait == s.epoch
    then s.post m stOk (toLE s.epoch 1) else s) s
  s.retireEpoch

/-- EPOCH_DRAIN_POLL (R284 event 4): the sums of EPOCH_INJ and EPOCH_EJ over every chip, which VC3 has brought, are equal. -/
def effEpochDrainPoll (injSum ejSum : Nat) (s : State) : State :=
  if s.firmware && s.awake 5 && s.draining && injSum == ejSum then s.endEpoch else s

/-- Discard the packets of an epoch wherever they are (R284 event 5). -/
def State.dropEpoch (s : State) (e : Nat) : State :=
  let old := s.txq.filter (fun t => t.pkt.hdr.epoch == e)
  let s := { s with txq := s.txq.filter (fun t => t.pkt.hdr.epoch != e) }
  old.foldl (fun s t =>
    let s := match t.inPort with
      | none => s
      | some p => s.release p t.heldVc (charge t.pkt.hdr.len)
    s.sat rFabEvents 16 8 1) s

/-- EPOCH_MAX_EXPIRY (R284 event 5). -/
def effEpochMaxExpiry (s : State) : State :=
  if s.timeValid && s.draining && decide (s.epochAt + 1000 * s.fld rFabTimers 47 14 ≤ s.now)
  then (s.dropEpoch ((s.epoch + 3) % 4)).endEpoch else s

/-! ### Checkpoints and restores -/

/-- Values of CKP_POLICY that the register tables refuse (spec/12_resilience.md R368). -/
def ckpRefused (policy scope base size : Nat) : Bool :=
  base % 65536 != 0 || size % 458752 != 0 || bitsAt policy 5 11 != 0 || decide (policy / 2 ^ 46 ≠ 0)
    || polRankBase policy % 8 != 0 || polHedges policy == 0 || decide (8192 < polHedges policy)
    || decide (bitsAt scope 12 12 < bitsAt scope 0 12) || bitsAt scope 24 8 != 0

/-- Stage one register for the next step boundary, or apply it while no job is open (spec/14_registers.md R405). -/
def State.putStep (s : State) (k v : Nat) : State :=
  if s.job.isOpen then s.stage k (BitVec.ofNat 64 v) (BitVec.allOnes 64)
  else { (s.wr k (BitVec.ofNat 64 v)) with staged := smErase k s.staged }

/-- CKP_POLICY (R376). -/
def effCkpPolicy (m : Nat) (s : State) : State :=
  s.takeCmd m 0x0020 (fun r s =>
    let policy := rqAt r 0 8
    let scope := rqAt r 8 8
    let base := rqAt r 16 8
    let size := rqAt r 24 8
    if ckpRefused policy scope base size then s.postStatus m stInvalid
    else
      (((((s.putStep rCkpPolicy policy).putStep rCkpScope scope).putStep rCkpBase base).putStep rCkpSize size).setFld rCfgCtl 3 1
        1).postStatus m stOk)

/-- CHECKPOINT (R376, spec/12_resilience.md R341, R343): it joins the image in progress, or asks for the last applied step. -/
def effCheckpoint (m : Nat) (s : State) : State :=
  s.takeCmd m 0x0021 (fun _ s =>
    let wait := fun (t : Nat) => ({ (s.begin m 0 []) with ckp := { s.ckp with pairs := s.ckp.pairs ++ [(m, t)] } } : State)
    if !s.job.isOpen then s.postStatus m stNoJob
    else
      match s.ckp.image with
      | some i => if i.badTwice then s.postStatus m stData else wait i.step
      | none =>
        match s.job.lastStep with
        | none => s.postStatus m stInvalid
        | some t =>
          if s.fld rCkpStatus 48 1 = 1 ∧ s.fld rCkpStatus 0 48 = t then s.post m stOk (toLE t 8) else wait t)

/-- RESTORE (R376, spec/12_resilience.md R347, R350): work is stopped and lost members are not awaited; the inventory follows
once work has ended. -/
def effRestore (m : Nat) (s : State) : State :=
  s.takeCmd m 0x0022 (fun r s =>
    let opt := rqAt r 0 1
    let lost := rqAt r 2 2
    if 4 ≤ opt ∨ rqAt r 1 1 ≠ 0 then s.postStatus m stInvalid
    else if !s.job.isOpen then s.postStatus m stNoJob
    else
      let (s, _) := s.stopAll .job
      let s := s.begin m 0 (if lost = 0xFFFF then [] else [lost])
      let s := if lost = 0xFFFF then s else s.giveUpIn 0 4095 lost
      let x : Restore :=
        { pair := m, startedAt := s.now, engineCause := bitAt opt 0, migrate := bitAt opt 1, lost := lost, own := none
          chosen := none, source := 0, rows := [], loaded := false, served := [] }
      (({ s with restore := some x } : State).settleDrains).settleWork)

/-! ### Repair (spec/12_resilience.md R360 to R363) -/

/-- REPAIR_REPORT. -/
def effRepairReport (m : Nat) (s : State) : State :=
  s.takeCmd m 0x0030 (fun r s =>
    (s.write (rqAt r 0 8) (s.rep.inUse.flatMap (fun w => toLE (mapEntry w) 8))).post m stOk (toLE s.rep.inUse.length 4))

/-- A word names a resource that the table of R363 has, with SPARE 0. -/
def wordOkRes (w : BitVec 32) : Bool :=
  let u := resUnit w
  let i := resIndex w
  resSpare w == 0 && bitsAt w.toNat 28 4 == 0 &&
    (match resType w with
     | 1 => decide (u < 16) && decide (i < 9)
     | 2 => decide (u < 16) && decide (i < 264)
     | 3 => decide (i < 17)
     | 4 => decide (u < 7) && decide (i < 66)
     | 5 => decide (u < 462) && decide (i < 1032)
     | 6 => decide (u < 462) && decide (i < 260)
     | 7 => decide (u < 9)
     | _ => false)

/-- REPAIR: whatever HOLD is. -/
def effRepair (m : Nat) (s : State) : State :=
  s.takeCmd m 0x0031 (fun r s =>
    let w := BitVec.ofNat 32 (rqAt r 0 4)
    if !wordOkRes w then s.postStatus m stInvalid
    else if s.unitAbsent w then s.postStatus m stAbsent
    else
      match s.repairFrom w [] with
      | (false, s) => s.postStatus m stExhausted
      | (true, s) => s.post m stOk (toLE ((s.rep.inUse.getLast?).getD 0).toNat 4))

/-- The entries of the repair map in memory up to the first whose VALID is clear, and whether a complement mismatched. -/
def State.readMap (s : State) (a : Nat) : Nat → List (BitVec 32) × Bool
  | 0 => ([], false)
  | n + 1 =>
    let v := s.readNat a 8
    let w := v % 2 ^ 32
    if v / 2 ^ 32 ≠ complB 4 w then ([], true)
    else if bitAt w 31 then
      let (ws, bad) := s.readMap (a + 8) n
      (BitVec.ofNat 32 w :: ws, bad)
    else ([], false)

/-- LOAD_REPAIR_MAP. -/
def effLoadRepairMap (m : Nat) (s : State) : State :=
  s.takeCmd m 0x0032 (fun _ s =>
    if s.job.isOpen then s.postStatus m stBusy
    else
      let a := s.fld rRepMapBase 16 48 * 65536
      let (ws, bad) := s.readMap a 8192
      s.reading m [(a, 8 * min 8192 (ws.length + 1))] (fun s =>
      if bad then (s.raise causeRepairMap).postStatus m stData
      else
        let s := ({ s with rep := { s.rep with inUse := ws } }).repStatus
        let s := ws.foldl (fun s w =>
          if resType w = 1 then s.setPort (resUnit w) ((s.port (resUnit w)).retire (resIndex w) true) else s) s
        s.post m stOk (toLE ws.length 4)))

/-! ### Firmware (R375, R379) -/

/-- FW_UPDATE. -/
def effFwUpdate (m : Nat) (s : State) : State :=
  s.takeCmd m 0x0040 (fun r s =>
    let src := rqAt r 0 8
    let len := rqAt r 8 4
    let h := s.read src 256
    let key := byteAt h 12
    let svn := leAt h 6 2
    if s.job.isOpen then s.postStatus m stBusy
    else s.reading m [(src, max 256 len)] (fun s =>
    if len ≠ 256 + leAt h 8 4 ∨ key ≠ s.fld rKeySlot 0 2 ∨ byteAt h 13 ≠ complB 1 key ∨ byteAt h 5 ≠ 3
        ∨ svn < s.spindle.best
        ∨ Config.signatureGood key (sliceB h 64 96) (sliceB h 0 64 ++ s.read (src + 256) (len - 256)) = false then
      s.postStatus m stSignature
    else
      let p := { s.spindle with loaded := true, minor := byteAt h 4, major := byteAt h 5, svn := svn, best := svn, lastBeat := s.now }
      ({ s with spindle := p }).post m stOk (toLE (byteAt h 4) 1 ++ toLE (byteAt h 5) 1 ++ toLE svn 2)))

/-- A request with an opcode that R376 does not list. -/
def effUnsupportedOpcode (m : Nat) (s : State) : State :=
  let o := rqOpcode (s.request m)
  if (opcodeSerial o).isSome then s else s.takeCmd m o (fun _ s => s.postStatus m stUnsupported)

/-- HEARTBEAT (R375). -/
def effHeartbeat (s : State) : State :=
  if s.awake 2 && !s.spindle.halted then { s with spindle := { s.spindle with lastBeat := s.now } } else s

/-- HEARTBEAT_TIMEOUT (R375): every busy pair completes, and the mailboxes stay closed until reset. -/
def effHeartbeatTimeout (s : State) : State :=
  if s.awake 2 && s.timeValid && !s.spindle.closed && decide (s.spindle.lastBeat + 100000000 ≤ s.now) then
    let s := (List.range 4).foldl (fun s m => if s.mbxBusy m then s.postStatus m stFirmware else s) s
    ({ s with spindle := { s.spindle with closed := true }, ckp := { s.ckp with pairs := [] }, restore := none }).raise causeSpindle
  else s

end Sys2Proof.Machine
end

