-- ==== Sys2Proof/Machine/Registers.lean ====
section
/-! DEFINITION. Accesses to the register window: what an offset and a width reach, writes with their staging, lock and bank
rules, reads that clear, bit aliases, boundaries, and the configuration CRC (spec/14_registers.md R401 to R416,
spec/00_scope.md R14 to R17). -/

namespace Sys2Proof.Machine

/-! ### What an access reaches (R401, R414 to R416) -/

/-- The bits of one register that an access covers: n bits from register bit lo, at data bit pos. -/
structure Part where
  key : Nat
  lo : Nat
  n : Nat
  pos : Nat
deriving DecidableEq, Repr

def Part.mask (p : Part) : Word := BitVec.ofNat 64 ((2 ^ p.n - 1) * 2 ^ p.lo)

/-- The data of an access as register bits of a part, and back. -/
def Part.place (p : Part) (v : Nat) : Word := BitVec.ofNat 64 (bitsAt v p.pos p.n * 2 ^ p.lo)
def Part.take (p : Part) (v : Nat) : Nat := bitsAt v p.lo p.n * 2 ^ p.pos

/-- What an access reaches: nothing, with the kind of LGX_BUS_ERR; one bit through its alias; or registers. -/
inductive Target where
  | bad (kind : Nat)
  | single (p : Part)
  | regs (ps : List Part)
deriving DecidableEq, Repr

/-- The part that a 32-bit half at an offset covers. -/
def halfPart (o pos : Nat) : Option Part :=
  (rowAt o).map (fun _ => ({ key := regBase o, lo := 8 * (o - regBase o), n := 32, pos := pos } : Part))

/-- An offset and a width of 64 or 32 bits. -/
def target (o : Nat) (wide : Bool) : Target :=
  if 0x400000 ≤ o then .bad 0
  else if 0x200000 ≤ o then
    let b := (o - 0x200000) / 32
    if wide ∨ o % 4 ≠ 0 ∨ (rowAt b).isNone = true then .bad 3
    else .single { key := regBase b, lo := 8 * (b - regBase b) + o % 32 / 4, n := 1, pos := 0 }
  else if o % (if wide then 8 else 4) ≠ 0 then .bad 1
  else if wide = true ∧ 0x100000 ≤ o ∧ o < 0x180000 then
    .regs [{ key := rRank ((o - 0x100000) / 8), lo := 0, n := 64, pos := 0 }]
  else if (wide = true ∧ 0x0A0000 ≤ o ∧ o < 0x100000) ∨ (wide = false ∧ 0x120000 ≤ o ∧ o < 0x180000) then .bad 1
  else
    match halfPart o 0, (if wide then halfPart (o + 4) 32 else none) with
    | some a, some b => if a.key = b.key then .regs [{ a with n := 64 }] else .regs [a, b]
    | some a, none => if wide then .bad 0 else .regs [a]
    | none, _ => .bad 0

/-! ### Writes (R404 to R407, R412) -/

/-- The port of a port register. -/
def portOf (key : Nat) : Nat := (key - 0x080000) / 0x1000
def isPortReg (key : Nat) : Bool := decide (0x080000 ≤ key) && decide (key < 0x090000)
def isQueueReg (key : Nat) : Bool := decide (0x020000 ≤ key) && decide (key < 0x021000)

/-- A configuration CRC update is outstanding (R410). -/
def State.crcDue (s : State) : State := s.setFld rCfgCtl 3 1 1

/-- What follows the application of a port's registers: a port held DOWN, or allowed up (spec/09_fabric.md R285). -/
def State.portApplied (s : State) (p : Nat) : State :=
  if s.fld (rPortCtl p) 0 1 = 0 then s.portDown p true else s.tryStart p

/-- Write bits that apply at once; an older staged copy of them is dropped (R404). -/
def State.applyNow (s : State) (key : Nat) (v mask : Word) : State := (s.merge key v mask).unstage key mask

/-- Write the bits of a mask whose fields have a class: staged, or applied at once where the class allows it. -/
def State.writeClass (s : State) (key : Nat) (v mask : Word) (c : Applied) : State :=
  if mask = 0 then s
  else
    match c with
    | .none => s
    | .now => s.merge key v mask
    | .step => if s.job.isOpen then s.stage key v mask else { s.applyNow key v mask with replayStale := true }
    | .descriptor => if (s.queue (queueOf key)).st = .disabled then s.applyNow key v mask else s.stage key v mask
    | .packet =>
      if isPortReg key && (s.port (portOf key)).link == .down then (s.applyNow key v mask).portApplied (portOf key)
      else s.stage key v mask

/-- Fields of a row with write access: RW, and RWL. -/
def RegRow.classMask (r : RegRow) (c : Applied) (locked : Bool) : Word :=
  r.maskOf (fun f => decide (f.app = c) && (decide (f.acc = .rw) || (decide (f.acc = .rwl) && !locked)))

/-- A write under the access codes, the lock and the classes; a write of RWL fields under the lock counts. -/
def State.writeFields (s : State) (r : RegRow) (key : Nat) (v mask : Word) : State :=
  let locked := s.fld rLock 0 1 == 1
  let s := if locked && (r.maskOf (fun f => decide (f.acc = .rwl)) &&& mask) != 0 then s.sat rLock 8 8 1 else s
  if s.absentReg key then s
  else
    let classes : List Applied := [.now, .step, .descriptor, .packet]
    let s := classes.foldl (fun s c => s.writeClass key v (mask &&& r.classMask c locked) c) s
    if r.covered && classes.any (fun c => (mask &&& r.classMask c locked) != 0) then s.crcDue else s

/-- The banks of the current and the draining epoch may not be written (spec/09_fabric.md R283). -/
def State.bankLocked (s : State) (b : Nat) : Bool := b == s.epoch % 2 || (s.draining && b == (s.epoch + 3) % 2)

/-- The bank of a route or Row register. -/
def bankOf (key : Nat) : Option Nat :=
  if 0x0A0000 ≤ key ∧ key < 0x0E0000 then some 0
  else if 0x0E0000 ≤ key ∧ key < 0x120000 then some 1
  else if key = rFabRow 0 then some 0 else if key = rFabRow 1 then some 1 else none

/-- Compare the configuration CRC with the reference at a write of the reference (R411). -/
def State.compareRef (s : State) : State :=
  let s := { s with ctl := { s.ctl with refCompare := false } }
  if s.fld rCfgCrc 0 32 = s.fld rCfgRef 0 32 then (s.setFld rCfgCtl 1 1 0).setFld rCfgCtl 2 1 0 else s.setFld rCfgCtl 1 1 1

/-- A write of LGX_CFG_REF: the comparison waits for an outstanding update. -/
def State.writeRef (s : State) (v mask : Word) : State :=
  let s := s.merge rCfgRef v mask
  if s.fld rCfgCtl 0 1 = 0 then s
  else if s.fld rCfgCtl 3 1 = 1 then { s with ctl := { s.ctl with refCompare := true } }
  else s.compareRef

/-- Discard the staged value of the register that LGX_STAGED_ADDR names (R408). -/
def State.cancelStaged (s : State) : State :=
  match s.viewed with
  | none => s
  | some k => { s with staged := smErase k s.staged }.crcDue

/-- Write a register: the ones whose write acts, then the ordinary ones. -/
def State.writeReg (s : State) (key : Nat) (v mask : Word) : State :=
  let bit := fun (n : Nat) => mask.getLsbD n && v.getLsbD n
  if 0x400000 ≤ key then (s.stage key v mask).crcDue
  else
    match rowAt key with
    | none => s
    | some r =>
      if 0x010000 ≤ key ∧ key < 0x011000 ∧ key % 0x400 = 0x200 then s.doorbell ((key - 0x010000) / 0x400) (v.toNat % 65536)
      else if isQueueReg key && key % 0x40 == 0x0C then s.ringTail (queueOf key) (v.toNat % 2 ^ 32)
      else if isQueueReg key && key % 0x40 == 0x08 then
        let s := s.writeFields r key v (mask &&& ~~~(0x20#64))
        if mask.getLsbD 5 then s.writeEnable (queueOf key) (v.getLsbD 5) else s
      else if isQueueReg key && key % 0x40 == 0x18 then
        let s := if bit 0 then s.resumeQueue (queueOf key) else s
        if bit 1 then s.abortQueue (queueOf key) else s
      else if 0x030000 ≤ key ∧ key < 0x030800 then
        s.setEvc ((key - 0x030000) / 8) ((s.rd key &&& ~~~mask) ||| (v &&& mask))
      else if 0x030800 ≤ key ∧ key < 0x031000 then s.addEvc ((key - 0x030800) / 8) (v &&& mask)
      else if 0x031000 ≤ key ∧ key < 0x031080 then
        let k := (key - 0x031000) / 0x10
        let s := s.writeFields r key v mask
        let s := if key % 0x10 = 0 then { s with ctl := { s.ctl with watchRead := s.ctl.watchRead.setIfInBounds k false } } else s
        s.checkWatches
      else if key = rStagedCtl then (if bit 0 then s.cancelStaged else s)
      else if key = rCfgRef then s.writeRef v mask
      else if key = rCfgCtl then
        let s := s.writeFields r key v mask
        if s.fld rCfgCtl 0 1 = 0 then s.setFld rCfgCtl 2 1 0 else s
      else if key = rFabSelf then effFabSelfWrite (BitVec.ofNat 20 v.toNat) s
      else if key = rFabEpoch then (if bit 4 then effEpochAdvance s else s)
      else if isPortReg key && key % 0x1000 == 4 then
        let s := s.writeFields r key v mask
        if bit 2 then effPortRetrain (portOf key) s else s
      else
        match bankOf key with
        | some b => if s.bankLocked b then s.sat rFabEvents 28 4 1 else s.writeFields r key v mask
        | none => s.writeFields r key v mask

/-- The mailbox pair whose request area holds an offset. -/
def requestPair (o : Nat) : Option Nat :=
  if 0x010000 ≤ o ∧ o < 0x011000 ∧ o % 0x400 < 0x100 then some ((o - 0x010000) / 0x400) else none

/-- A write that reaches registers: a request area is closed while its pair is BUSY (spec/13_control.md R373). -/
def State.writeAt (s : State) (o : Nat) (ps : List Part) (v : Nat) : State :=
  match requestPair o with
  | some m =>
    if s.mbxBusy m then s.sat (rMbxState m) 8 8 1 else ps.foldl (fun s p => s.merge p.key (p.place v) p.mask) s
  | none => ps.foldl (fun s p => s.writeReg p.key (p.place v) p.mask) s

/-- REGISTER_WRITE (R401 to R407, R412, R414). A bit written through its alias follows the bit's access code. -/
def effRegisterWrite (o : Nat) (wide : Bool) (value : Word) (s : State) : State :=
  let v := if wide then value.toNat else value.toNat % 2 ^ 32
  match target o wide with
  | .bad k => if s.ctl.resetOn then s else s.busError o k
  | .single p => s.access o (fun s => (s.writeReg p.key (p.place (v % 2)) p.mask).respond 0)
  | .regs ps => s.access o (fun s => (s.writeAt o ps v).respond 0)

/-! ### Reads (R401, R402, R413, R414) -/

/-- Clear the RC bits of a mask that a sample read as 1; a cleared FIRED lets its watch be armed again. -/
def State.clearRead (s : State) (key : Nat) (sample mask : Word) : State :=
  let v := s.rd key
  let clr := v &&& sample &&& mask
  let s := if clr = 0 then s else s.wr key (v &&& ~~~clr)
  if 0x031000 ≤ key ∧ key < 0x031080 ∧ key % 0x10 = 8 ∧ clr.getLsbD 9 = true then
    { s with ctl := { s.ctl with watchRead := s.ctl.watchRead.setIfInBounds ((key - 0x031000) / 0x10) true } }
  else s

/-- The RC bits of a register, all of them or those of its flag fields. -/
def rcMask (key : Nat) (flags : Bool) : Word :=
  match rowAt key with
  | none => 0
  | some r => r.maskOf (fun f => decide (f.acc = .rc) && (f.flag || !flags))

/-- REGISTER_READ_CLEAR (R401, R402, R408, R413, R414): the sample of every register the access covers, then the clearing. -/
def effRegisterReadClear (o : Nat) (wide : Bool) (s : State) : State :=
  match target o wide with
  | .bad k => if s.ctl.resetOn then s else s.busError o k
  | .single p => s.access o (fun s =>
      let x := s.view p.key
      (s.clearRead p.key x (p.mask &&& rcMask p.key true)).respond (BitVec.ofNat 64 (p.take x.toNat)))
  | .regs ps => s.access o (fun s =>
      let data := (ps.map (fun p => p.take (s.view p.key).toNat)).sum
      (ps.foldl (fun t p => t.clearRead p.key (s.view p.key) (p.mask &&& rcMask p.key false)) s).respond (BitVec.ofNat 64 data))

/-- BUS_ERROR_ACCESS (R401, spec/01_engine_and_step.md R42, R43): an access of a refused size, one to an unoccupied offset,
one to a unit that is not awake, or a refused alias access. An access that is none of these is not this command. -/
def effBusErrorAccess (o width : Nat) (_isWrite : Bool) (s : State) : State :=
  if s.ctl.resetOn then s
  else if width ≠ 32 ∧ width ≠ 64 then s.busError o 1
  else
    match target o (width == 64) with
    | .bad k => s.busError o k
    | _ => if s.awake (wakeOf o) then s else s.busError o 2

/-! ### Boundaries (R404) -/

/-- PACKET_BOUNDARY_APPLY: the staged values of a port (0 to 15) or of the Router (16). -/
def effPacketBoundaryApply (block : Nat) (s : State) : State :=
  if 16 < block ∨ s.awake 5 = false then s
  else
    let mine := fun (k : Nat) => decide (classOf k = .packet) && packetBlock k == block
    let had := s.hasStaged mine
    let s := s.applyStaged mine
    if block < 16 && had then s.portApplied block else s

/-- DESCRIPTOR_BOUNDARY_APPLY: the staged values of a queue. -/
def effDescriptorBoundaryApply (q : Nat) (s : State) : State :=
  if 64 ≤ q ∨ s.awake 3 = false then s
  else s.applyStaged (fun k => decide (classOf k = .descriptor) && queueOf k == q)

/-- STAGED_CANCEL (R408). -/
def effStagedCancel (s : State) : State := s.access rStagedCtl (fun s => (s.writeReg rStagedCtl 1 1).respond 0)

/-- LOCK_WRITE (R412). -/
def effLockWrite (value : Bool) (s : State) : State :=
  s.access rLock (fun s => (s.writeReg rLock (BitVec.ofNat 64 (b2n value)) 0xFFFFFFFF).respond 0)

/-- CFG_REF_WRITE (R411). -/
def effCfgRefWrite (value : BitVec 32) (s : State) : State :=
  s.access rCfgRef (fun s => (s.writeReg rCfgRef (BitVec.setWidth 64 value) 0xFFFFFFFF).respond 0)

/-! ### The configuration CRC (R409, R410) -/

/-- Every register of the map with its row, by rising offset. -/
def allRegs : List (Nat × RegRow) :=
  (regRows.flatMap (fun r => (List.range r.count).map (fun k => (r.base + r.stride * k, r)))).mergeSort
    (fun a b => decide (a.1 ≤ b.1))

/-- The covered bits of a row. -/
def RegRow.crcMask (r : RegRow) : Word :=
  if r.covered then r.maskOf (fun f => decide (f.acc = .rw) || decide (f.acc = .rwl) || decide (f.acc = .ws)) else 0

/-- The byte stream of the configuration CRC over the values a function gives. -/
def State.cfgStream (s : State) (value : Nat → Word) : List Byte :=
  allRegs.flatMap (fun (k, r) => toLE (value k &&& r.crcMask).toNat (r.width / 8))
    ++ (List.range 65536).flatMap (fun n => toLE (value (rRank n)).toNat 8)
    ++ (match s.skein with
        | none => []
        | some (_, img) => img)
    ++ (List.range 16).flatMap (fun n => match s.progs.getD n none with
        | none => []
        | some p => sliceB p 0 512)

/-- CFG_CRC_UPDATE (R410): both CRCs are formed, and a comparison that waited is made. -/
def effCfgCrcUpdate (s : State) : State :=
  if !s.awake 1 then s
  else
    let crc := (crc32c (s.cfgStream s.rd)).toNat
    let stg := (crc32c (s.cfgStream s.stagedValue)).toNat
    let s := (s.wr rCfgCrc (BitVec.ofNat 64 (crc + stg * 2 ^ 32))).setFld rCfgCtl 3 1 0
    if s.ctl.refCompare then s.compareRef else s

end Sys2Proof.Machine
end

