-- ==== Sys2Proof/Machine/Power.lean ====
section
/-! DEFINITION. Reset, the wake order, the quiesce and wake requests, and the global counter (spec/01_engine_and_step.md R44,
R49, R50, spec/13_control.md R398, R399, spec/14_registers.md R417, spec/15_bringup_power.md R419 to R421, R426). -/

namespace Sys2Proof.Machine

/-! ### Reset and the wake order -/

/-- RESET_ASSERT (R49): everything on the engine is abandoned; memory keeps its bytes, SRAM contents are undefined until the
wake of their unit zeroes them, and what is fused stays. -/
def effResetAssert (s : State) : State :=
  { State.reset with
    mem := s.mem, bobbinFree := some s.free, free := s.free + 1, grade := s.grade, stepMajor := s.stepMajor
    stepMinor := s.stepMinor, pending := s.pending
    ctl := { Ctl.reset with quiesceReq := s.ctl.quiesceReq, wakeReq := s.ctl.wakeReq } }

/-- RESET_DEASSERT (R419): the wake order begins; the target is QUIESCED when the quiesce request is asserted. -/
def effResetDeassert (quiesce wake : Bool) (s : State) : State :=
  if !s.ctl.resetOn then s
  else
    { s with ctl := { s.ctl with resetOn := false, wakeStep := 0, st := .waking, toQuiesce := quiesce, recorded := false
                                 quiesceReq := quiesce, wakeReq := wake } }

/-- WAKING ends: the engine goes to the latest target and answers (R399, R420). -/
def State.leaveWaking (s : State) : State :=
  let s := { s with ctl := { s.ctl with recorded := false } }
  (s.enter (if s.ctl.toQuiesce then .quiesced else .running)).answer

/-- The wake step after an acknowledgement: the units absent on the grade, 14 and 15, are skipped (R421). -/
def State.nextWake (s : State) : Nat :=
  if s.ctl.wakeStep = 12 ∧ s.hasCarding = false then 15 else s.ctl.wakeStep + 1

/-- The canaries of a unit that wakes: their periods replace those read before (R421); nothing is re-planned. -/
def State.wakeSweep (s : State) (laps : List Canary) : State :=
  let ref := match laps.find? (fun c => resType c.word == 8) with
    | none => s.age.reference
    | some c => c.period
  let new := laps.filter (fun c => resType c.word != 8)
  { s with age := { s.age with reference := ref, laps := s.age.laps.filter (fun c => !new.any (fun d => d.word == c.word)) ++ new } }

/-- UNIT_WAKE_ACK (R421, R431): the next unit of the order acknowledges; `faults` are its self-test mismatches and `laps` its
canary sweep. No spare is taken into use during the wake order. -/
def effUnitWakeAck (faults : List FaultRec) (laps : List Canary) (s : State) : State :=
  if s.ctl.resetOn ∨ 16 ≤ s.ctl.wakeStep then s
  else
    let n := s.nextWake
    let s := (s.faults faults).wakeSweep laps
    let s := { s with ctl := { s.ctl with wakeStep := n } }
    let s := if n = 7 then { s with bobbin := [], bobbinFree := none } else s
    if n = 16 then s.leaveWaking else s

/-! ### The quiesce and wake requests (R398, R399) -/

/-- A new target takes effect by the state the engine is in. -/
def State.newTarget (s : State) (quiesce : Bool) : State :=
  let s := { s with ctl := { s.ctl with toQuiesce := quiesce } }
  match s.ctl.st with
  | .waking => if s.ctl.recorded then s.loseTarget else { s with ctl := { s.ctl with recorded := true } }
  | .running => if quiesce then (s.enter .quiescing).settleQuiesce else s
  | .quiescing => if quiesce then s else (s.enter .running).answer
  | .quiesced => if quiesce then s else s.enter .waking

/-- CONTROL_INPUT_CHANGE. -/
def effControlInputChange (quiesce wake : Bool) (s : State) : State :=
  let t := if quiesce then true else if wake then false else s.ctl.toQuiesce
  let old := s.ctl.toQuiesce
  let s := { s with ctl := { s.ctl with quiesceReq := quiesce, wakeReq := wake } }
  if s.ctl.resetOn ∨ t = old then s else s.newTarget t

/-- WAKING_COMPLETE: the canary sweep and the self-test of every unit end, after the wake order. -/
def effWakingComplete (faults : List FaultRec) (laps : List Canary) (s : State) : State :=
  if s.ctl.resetOn ∨ s.ctl.st ≠ .waking ∨ s.ctl.wakeStep ≠ 16 then s
  else
    let ref := match laps.find? (fun c => resType c.word == 8) with
      | none => s.age.reference
      | some c => c.period
    let rest := laps.filter (fun c => resType c.word != 8)
    let s := if rest.isEmpty then s else if s.firmware then s.sweep ref rest else s.recordSweep ref rest
    (s.faults faults).leaveWaking

/-! ### The global counter (R44, R417) -/

/-- Every time recorded before the first sample begins at it: no timeout or watchdog ran before (R417, R420). -/
def State.rebase (s : State) (v : Nat) : State :=
  { s with
    cmds := s.cmds.map (fun c => { c with dataAt := v, watchAt := v })
    outbox := s.outbox.map (fun x => { x with sentAt := v })
    partials := s.partials.map (fun x => { x with since := v })
    txq := s.txq.map (fun x => { x with since := v })
    drains := s.drains.map (fun x => { x with since := v })
    ports := s.ports.map (fun x => { x with resyncAt := v, syncAt := v, auditAt := v })
    ctl := { s.ctl with offsetAt := v }, epochAt := v, spindle := { s.spindle with lastBeat := v }
    rep := { s.rep with lastSelftest := v, events := s.rep.events.map (fun e => (e.1, e.2.map (fun x => (v, x.2))))
                        detected := s.rep.detected.map (fun _ => v) }
    age := { s.age with lastSweep := v, firstSweep := s.age.firstSweep.map (fun _ => v)
                        history := s.age.history.map (fun e => (e.1, e.2.map (fun x => (v, x.2.1, x.2.2)))) } }

/-- The compute pass of a fused step is ready and the copy stream does not accept its pushes (spec/07_espalier.md R208). -/
def State.copyStalls (s : State) (c : Cmd) : Bool :=
  let (w, o) := s.place c
  let blks := c.unitAt w o c.upd.cursor
  c.type == 0x12 && c.status.isNone && c.dataStarted && !c.upd.computed && s.allDone c && !blks.isEmpty
    && !s.pushRoom c blks.length

/-- The counters that add one for each tick of a wait (spec/03_quantiser.md R90, spec/05_coppice.md R152,
spec/07_espalier.md R208, spec/11_reproducibility.md R328; DESIGN CHOICE, log 7). -/
def State.tickWaits (s : State) (n : Nat) : State :=
  let waits := fun (k : Nat) (still : Cmd → Bool) => s.cmds.any (fun c => c.conv.stall == k && c.status.isNone && still c)
  let late := waits 1 (fun c => !c.leadReady c.conv.stallBeat)
  let copy := waits 2 s.copyHolds
  let push := s.cmds.any s.copyStalls
  let dig := match s.digests with
    | [] => false
    | d :: _ => s.ringFull d && bitAt d.cfg 6
  let add := fun (b : Bool) (r : Nat) (s : State) => if b && n != 0 then s.addF r 0 64 n else s
  add dig rDigStall (add push rEspCopyWait (add copy rCpcCopyWait (add late rQntLate s)))

/-- GLOBAL_COUNTER_SAMPLE: the view never runs backward; a backward step or a jump of the X4 counter is recorded. -/
def effGlobalCounterSample (value : Word) (s : State) : State :=
  if !s.awake 1 then s
  else if !s.timeValid then
    let s := { s with ctl := { s.ctl with lastSample := value } }
    (((s.rebase value.toNat).wr rGcnt value).setFld rGcntState 0 1 1)
  else
    let old := s.ctl.lastSample.toNat
    let s := { s with ctl := { s.ctl with lastSample := value } }
    let s :=
      if value.toNat < old then (s.setFld rGcntState 1 1 1).raise causeHealth
      else if 1000000 < value.toNat - old then (s.setFld rGcntState 2 1 1).raise causeHealth
      else s
    if s.now < value.toNat then (s.tickWaits (value.toNat - s.now)).wr rGcnt value else s

end Sys2Proof.Machine
end

