-- ==== Sys2Proof/Machine/TestAccess.lean ====
section
/-! DEFINITION. The test instruments (spec/15_bringup_power.md R429, R430). An instrument that needs LGX_DEBUG.ENABLE reads as
a one-bit bypass while it is 0. -/

namespace Sys2Proof.Machine

/-- An instrument shifts out words. -/
def State.shiftOut (s : State) (l : List Nat) : State := { s with jtag := l }

/-- The one-bit bypass. -/
def State.bypass (s : State) : State := s.shiftOut [0]

/-- LGX_DEBUG.ENABLE. -/
def State.debugOn (s : State) : Bool := s.fld rDebug 0 1 == 1

/-- An instrument that needs ENABLE. -/
def State.instrument (s : State) (f : State → State) : State :=
  if s.ctl.resetOn then s else if s.debugOn then f s else s.bypass

/-- Laps of a canary over 2^20 global-counter ticks (spec/12_resilience.md R364). -/
def lapCount (period : Nat) : Nat := if period = 0 then 0 else 2 ^ 44 / period

/-- CANARY_READOUT: the last lap count of the reference canary, then every canary's word and lap count. -/
def effCanaryReadout (s : State) : State :=
  if s.ctl.resetOn then s
  else s.shiftOut (lapCount s.age.reference :: s.age.laps.flatMap (fun c => [c.word.toNat, lapCount c.period]))

/-- HEALTH_READOUT: LGX_REP_STATUS, LGX_AGE_STATUS, and the fault-event count of every resource. -/
def effHealthReadout (s : State) : State :=
  if s.ctl.resetOn then s
  else s.shiftOut ([(s.rd rRepStatus).toNat, (s.rd rAgeStatus).toNat]
    ++ s.resources.flatMap (fun w => [w.toNat, (s.eventsOf w).length]))

/-- REGISTER_PORT: reads and writes as the control bus does; writes need ENABLE. The answer leaves through the test port. -/
def effRegisterPort (o : Nat) (wide isWrite : Bool) (value : Word) (s : State) : State :=
  if s.ctl.resetOn then s
  else if isWrite && !s.debugOn then s.bypass
  else
    let old := s.bus
    let s := if isWrite then effRegisterWrite o wide value s else effRegisterReadClear o wide s
    { s with bus := old, jtag := [s.bus.data.toNat] }

/-- A mismatch that the self-test of a resource can report: the resource's own, or one of its spares'. -/
def selfTestOf (word : BitVec 32) (f : FaultRec) : Bool :=
  let t := resType word
  resType f.word == t && resUnit f.word == resUnit word
    && (resIndex f.word == resIndex word || (decide (1 ≤ t) && decide (t ≤ 4) && decide (spareIndex t 0 ≤ resIndex f.word)))

/-- SELF_TEST_START: the self-test vectors of one resource, spares included; `faults` are their mismatches. The instrument of
a unit that the grade lacks reads as bypass. -/
def effSelfTestStart (word : BitVec 32) (faults : List FaultRec) (s : State) : State :=
  s.instrument (fun s =>
    if s.unitAbsent word then s.bypass
    else
      (s.faults (faults.filter (selfTestOf word))).shiftOut [(faults.filter (selfTestOf word)).length])

/-- SRAM_MARCH_TEST: allowed in QUIESCED with no job open; the bank reads as zero afterwards (DESIGN CHOICE, log 31). -/
def effSramMarchTest (group bank : Nat) (fail : Bool) (s : State) : State :=
  s.instrument (fun s =>
    if s.ctl.st ≠ .quiesced ∨ s.job.isOpen = true then s.bypass
    else
      let s := { s with bobbin := s.bobbin.filter (fun e => Config.bobbinBank e.1 != 66 * group + bank) }
      s.shiftOut [b2n fail])

/-- LANE_LOOPBACK: one lane of a port that LGX_PORT_CTL.ENABLE = 0 holds DOWN; it shifts out the errors of the pattern. -/
def effLaneLoopback (p lane errors : Nat) (s : State) : State :=
  s.instrument (fun s =>
    if 16 ≤ p ∨ 9 ≤ lane ∨ s.fld (rPortCtl p) 0 1 = 1 then s.bypass else s.shiftOut [errors])

/-- SPINDLE_HALT (R430): Spindle stops, and with it its heartbeat; its SRAM and processor state are shifted out. -/
def effSpindleHalt (s : State) : State :=
  s.instrument (fun s =>
    let s := { s with spindle := { s.spindle with halted := true }, free := s.free + 1 }
    s.shiftOut ((List.range 524288).map (fun n => (Config.spindleWord s.free n).toNat)))

end Sys2Proof.Machine
end

