-- ==== Sys2Proof/Machine/Meanings.lean ====
section
/-! DEFINITION. The meaning of every command: the effect of its row, with what holds for many rows at once: nothing happens
while reset is asserted (spec/01_engine_and_step.md R49), chunks are sorted by the drain of their job identifier
(spec/06_ply_reduction.md R180), digests that have become due are formed (spec/11_reproducibility.md R324), and commands that
wait for work to end look whether it has (spec/13_control.md R376). A command whose occasion is not given changes nothing
(DEDUCED, log 3). -/

namespace Sys2Proof.Machine

/-- A command is a completed step of the engine. -/
def done (s : State) : Host.Outcome State Fault Refusal := .next s

/-- What holds after every command: QUIESCING has ended when nothing runs (spec/13_control.md R398), and a watch whose counter
has reached its value has fired (R392). -/
def State.settled (s : State) : State := s.settleQuiesce.checkWatches

/-- A command has its effect unless reset is asserted. -/
def State.live (s : State) (f : State → State) : State := if s.ctl.resetOn then s else (f s).settled

/-- The units that a command works in, by the numbers that a record keeps of the unit that formed it (R328): 0 Sequencer, 1 Feed
expander, 2 Quantiser, 3 Coppice, 4 Bobbin, 5 Espalier. Where one of them holds a handshake for a record that finds the ring full
under STALL, its data path stalls: the command changes nothing, and comes again (spec/11_reproducibility.md R328). -/
def State.working (units : List Nat) (f : State → State) (s : State) : State := if units.any s.digestHolds then s else f s

/-- RESET_ASSERT (spec/01_engine_and_step.md R49). -/
def execResetAssert (s : State) : Host.Outcome State Fault Refusal :=
  done (effResetAssert s)

/-- RESET_DEASSERT (spec/15_bringup_power.md R419). -/
def execResetDeassert (heldNs : Nat) (quiesce wake : Bool) (s : State) : Host.Outcome State Fault Refusal :=
  if s.ctl.resetOn = true ∧ heldNs < 100 then .fault .resetHeldTooShort else done (effResetDeassert quiesce wake s)

/-- UNIT_WAKE_ACK (spec/15_bringup_power.md R421). -/
def execUnitWakeAck (faults : List FaultRec) (laps : List Canary) (s : State) : Host.Outcome State Fault Refusal :=
  done (s.live (effUnitWakeAck faults laps))

/-- CONTROL_INPUT_CHANGE (spec/13_control.md R398). -/
def execControlInputChange (quiesce wake : Bool) (s : State) : Host.Outcome State Fault Refusal :=
  done (if s.ctl.resetOn then effControlInputChange quiesce wake s else (effControlInputChange quiesce wake s).settled)

/-- WAKING_COMPLETE (spec/13_control.md R398). -/
def execWakingComplete (faults : List FaultRec) (laps : List Canary) (s : State) : Host.Outcome State Fault Refusal :=
  done (s.live (effWakingComplete faults laps))

/-- POWER_ANSWER (spec/01_engine_and_step.md R47). -/
def execPowerAnswer (grant : Bool) (s : State) : Host.Outcome State Fault Refusal :=
  done (s.live (effPowerAnswer grant))

/-- POWER_MANAGER_TIMEOUT (spec/01_engine_and_step.md R47). -/
def execPowerManagerTimeout (s : State) : Host.Outcome State Fault Refusal :=
  done (s.live effPowerManagerTimeout)

/-- GLOBAL_COUNTER_SAMPLE (spec/14_registers.md R417). -/
def execGlobalCounterSample (value : Word) (s : State) : Host.Outcome State Fault Refusal :=
  done (s.live (effGlobalCounterSample value))

/-- MEMORY_READ_RESPONSE (spec/01_engine_and_step.md R39). -/
def execMemoryReadResponse (q i : Nat) (kind : ReadKind) (addr : Word) (uncorrectable : Bool)
    (s : State) : Host.Outcome State Fault Refusal :=
  done (s.live (effMemoryReadResponse q i kind addr uncorrectable))

/-- SURVEY_BEAT (spec/03_quantiser.md R85). -/
def execSurveyBeat (tag : BitVec 128) (payload : List Bf16) (s : State) : Host.Outcome State Fault Refusal :=
  done (s.live (State.working [2] (effSurveyBeat tag payload)))

/-- LEAD_SEND (spec/03_quantiser.md R90). -/
def execLeadSend (q i : Nat) (s : State) : Host.Outcome State Fault Refusal :=
  done (s.live (State.working [0] (fun s => (effLeadSend q i s).formDigests)))

/-- VALUE_BEAT (spec/03_quantiser.md R91). -/
def execValueBeat (tag : BitVec 128) (payload : List Bf16) (s : State) : Host.Outcome State Fault Refusal :=
  done (s.live (State.working [2, 3] (fun s => (effValueBeat tag payload s).formDigests)))

/-- MICRO_BEAT (spec/06_ply_reduction.md R176). -/
def execMicroBeat (survey : Bool) (tag : BitVec 128) (payload : List Bf16) (s : State) : Host.Outcome State Fault Refusal :=
  done (s.live (State.working [2, 3] (fun s => (effMicroBeat survey tag payload s).formDigests)))

/-- FEED_STALL_TICK (spec/01_engine_and_step.md R35). -/
def execFeedStallTick (s : State) : Host.Outcome State Fault Refusal :=
  done (s.live effFeedStallTick)

/-- PIECE_DRAW (spec/10_compression.md R303). -/
def execPieceDraw (q i piece : Nat) (s : State) : Host.Outcome State Fault Refusal :=
  done (s.live (State.working [1] (fun s => (effPieceDraw q i piece s).formDigests)))

/-- EXPAND_BACKGROUND (spec/10_compression.md R306). -/
def execExpandBackground (q i : Nat) (s : State) : Host.Outcome State Fault Refusal :=
  done (s.live (State.working [1] (fun s => (effExpandBackground q i s).formDigests)))

/-- LINK_UP (spec/09_fabric.md R285). -/
def execLinkUp (p : Nat) (s : State) : Host.Outcome State Fault Refusal :=
  done (s.live (effLinkUp p))

/-- LINK_DOWN (spec/01_engine_and_step.md R41). -/
def execLinkDown (p : Nat) (s : State) : Host.Outcome State Fault Refusal :=
  done (s.live (effLinkDown p))

/-- LANE_TRANSITION (spec/09_fabric.md R258). -/
def execLaneTransition (p lane : Nat) (s : State) : Host.Outcome State Fault Refusal :=
  done (s.live (effLaneTransition p lane))

/-- UNCORRECTABLE_FLIT (spec/01_engine_and_step.md R40). -/
def execUncorrectableFlit (p : Nat) (forwarding : Bool) (s : State) : Host.Outcome State Fault Refusal :=
  done (s.live (effUncorrectableFlit p forwarding))

/-- PACKET_RECEIVE (spec/09_fabric.md R264). -/
def execPacketReceive (p : Nat) (header payload : List Byte) (s : State) : Host.Outcome State Fault Refusal :=
  done (s.live (effPacketReceive p header payload))

/-- CREDIT_RETURN_FLIT (spec/09_fabric.md R260). -/
def execCreditReturnFlit (p : Nat) (flit : List Byte) (s : State) : Host.Outcome State Fault Refusal :=
  done (s.live (effCreditReturnFlit p flit))

/-- SYNC_FLIT (spec/09_fabric.md R261). -/
def execSyncFlit (p : Nat) (s : State) : Host.Outcome State Fault Refusal :=
  done (s.live (effSyncFlit p))

/-- AUDIT (spec/09_fabric.md R273). -/
def execAudit (p : Nat) (payload : List Byte) (s : State) : Host.Outcome State Fault Refusal :=
  done (s.live (effAudit p payload))

/-- AUDIT_TIMER (spec/09_fabric.md R273). -/
def execAuditTimer (p : Nat) (s : State) : Host.Outcome State Fault Refusal :=
  done (s.live (effAuditTimer p))

/-- CREDIT_RETURN_SEND (spec/09_fabric.md R260). -/
def execCreditReturnSend (p : Nat) (s : State) : Host.Outcome State Fault Refusal :=
  done (s.live (effCreditReturnSend p))

/-- SYNC_REPEAT_TIMER (spec/09_fabric.md R285). -/
def execSyncRepeatTimer (p : Nat) (s : State) : Host.Outcome State Fault Refusal :=
  done (s.live (effSyncRepeatTimer p))

/-- RESYNC_TIMEOUT (spec/09_fabric.md R285). -/
def execResyncTimeout (p : Nat) (s : State) : Host.Outcome State Fault Refusal :=
  done (s.live (effResyncTimeout p))

/-- PACKET_FORWARD (spec/09_fabric.md R278). -/
def execPacketForward (n : Nat) (s : State) : Host.Outcome State Fault Refusal :=
  done (s.live (effPacketForward n))

/-- ESCAPE_WAIT_EXPIRY (spec/09_fabric.md R277). -/
def execEscapeWaitExpiry (n : Nat) (s : State) : Host.Outcome State Fault Refusal :=
  done (s.live (effEscapeWaitExpiry n))

/-- WINDOW_HOLD_EXPIRY (spec/09_fabric.md R275). -/
def execWindowHoldExpiry (s : State) : Host.Outcome State Fault Refusal :=
  done (s.live effWindowHoldExpiry)

/-- CHUNK_TIMEOUT (spec/08_collectives.md R242). -/
def execChunkTimeout (dst seq : Nat) (mc : Bool) (s : State) : Host.Outcome State Fault Refusal :=
  done (s.live (effChunkTimeout dst seq mc))

/-- CHUNK_PARTIAL_TIMEOUT (spec/09_fabric.md R266). -/
def execChunkPartialTimeout (src seq : Nat) (mc : Bool) (s : State) : Host.Outcome State Fault Refusal :=
  done (s.live (effChunkPartialTimeout src seq mc))

/-- REDUCE_CHUNK (spec/06_ply_reduction.md R159). -/
def execReduceChunk (src seq : Nat) (s : State) : Host.Outcome State Fault Refusal :=
  done (s.live (State.working [4] (fun s => (s.sorted 1 src seq false (effReduceChunk src seq)).formDigests)))

/-- LEAD_CHUNK (spec/03_quantiser.md R88). -/
def execLeadChunk (src seq : Nat) (s : State) : Host.Outcome State Fault Refusal :=
  done (s.live (State.working [0] (fun s => (s.sorted 2 src seq false (effLeadChunk src seq)).formDigests)))

/-- SIDE_CHUNK (spec/06_ply_reduction.md R173). -/
def execSideChunk (src seq : Nat) (s : State) : Host.Outcome State Fault Refusal :=
  done (s.live (State.working [4] (fun s => (s.sorted 3 src seq false (effSideChunk src seq)).formDigests)))

/-- SPILL_CHUNK (spec/06_ply_reduction.md R166). -/
def execSpillChunk (src seq : Nat) (s : State) : Host.Outcome State Fault Refusal :=
  done (s.live (State.working [4] (fun s => (s.sorted 4 src seq false (effSpillChunk src seq)).formDigests)))

/-- SPARSE_CHUNK (spec/06_ply_reduction.md R172). -/
def execSparseChunk (src seq : Nat) (s : State) : Host.Outcome State Fault Refusal :=
  done (s.live (State.working [4] (fun s => (s.sorted 5 src seq false (effSparseChunk src seq)).formDigests)))

/-- WRITE_CHUNK (spec/08_collectives.md R226). -/
def execWriteChunk (src seq : Nat) (mc : Bool) (s : State) : Host.Outcome State Fault Refusal :=
  done (s.live (State.working [0] (fun s => (s.sorted 6 src seq mc (effWriteChunk src seq mc)).formDigests)))

/-- COUNT_CHUNK (spec/08_collectives.md R231). -/
def execCountChunk (src seq : Nat) (s : State) : Host.Outcome State Fault Refusal :=
  done (s.live (fun s => (s.sorted 7 src seq false (effCountChunk src seq)).formDigests))

/-- TOPK_CHUNK (spec/08_collectives.md R235). -/
def execTopkChunk (src seq : Nat) (s : State) : Host.Outcome State Fault Refusal :=
  done (s.live (fun s => (s.sorted 8 src seq false (effTopkChunk src seq)).formDigests))

/-- ACK (spec/09_fabric.md R268). -/
def execAck (src seq : Nat) (s : State) : Host.Outcome State Fault Refusal :=
  done (s.live (effAck src seq))

/-- VOTE (spec/09_fabric.md R269). -/
def execVote (src seq : Nat) (mc : Bool) (s : State) : Host.Outcome State Fault Refusal :=
  done (s.live (fun s => (s.sorted 0x11 src seq mc (effVote src seq mc)).formDigests))

/-- DRAIN (spec/08_collectives.md R249). -/
def execDrain (src seq : Nat) (s : State) : Host.Outcome State Fault Refusal :=
  done (s.live (fun s => (effDrain src seq s).formDigests.settleWork))

/-- READY (spec/08_collectives.md R233). -/
def execReady (src seq : Nat) (s : State) : Host.Outcome State Fault Refusal :=
  done (s.live (fun s => (s.sorted 0x13 src seq false (effReady src seq)).formDigests))

/-- CANCEL (spec/09_fabric.md R271). -/
def execCancel (src seq : Nat) (s : State) : Host.Outcome State Fault Refusal :=
  done (s.live (fun s => s.sorted 0x14 src seq false (effCancel src seq)))

/-- TEST_PACKET (spec/09_fabric.md R263). -/
def execTestPacket (src seq : Nat) (s : State) : Host.Outcome State Fault Refusal :=
  done (s.live (effTestPacket src seq))

/-- CKP_PREPARE_VOTE (spec/12_resilience.md R345). -/
def execCkpPrepareVote (voice : Voice) (step : Nat) (s : State) : Host.Outcome State Fault Refusal :=
  done (s.live (fun s => (effCkpPrepareVote voice step s).settleWork))

/-- CKP_COMMIT_NOTICE (spec/12_resilience.md R345). -/
def execCkpCommitNotice (parity : Bool) (step : Nat) (s : State) : Host.Outcome State Fault Refusal :=
  done (s.live (effCkpCommitNotice parity step))

/-- BUDDY_COPY (spec/12_resilience.md R338). -/
def execBuddyCopy (step offset : Nat) (bytes : List Byte) (last : Bool) (bad : List Nat) (badTwice : Bool)
    (s : State) : Host.Outcome State Fault Refusal :=
  done (s.live (effBuddyCopy step offset bytes last bad badTwice))

/-- PARITY_UNIT (spec/12_resilience.md R339). -/
def execParityUnit (position step offset : Nat) (bytes : List Byte) (last bad badTwice : Bool)
    (s : State) : Host.Outcome State Fault Refusal :=
  done (s.live (effParityUnit position step offset bytes last bad badTwice))

/-- RESTORE_INVENTORY (spec/12_resilience.md R347). -/
def execRestoreInventory (rank : Nat) (inventory : Inventory) (s : State) : Host.Outcome State Fault Refusal :=
  done (s.live (effRestoreInventory rank inventory))

/-- RESTORE_FENCE (spec/12_resilience.md R351). -/
def execRestoreFence (s : State) (fence : Option (Voice × Nat) := none) : Host.Outcome State Fault Refusal :=
  done (s.live (effRestoreFence fence))

/-- EPOCH_DRAIN_POLL (spec/09_fabric.md R284). -/
def execEpochDrainPoll (injSum ejSum : Nat) (s : State) : Host.Outcome State Fault Refusal :=
  done (s.live (effEpochDrainPoll injSum ejSum))

/-- EPOCH_MAX_EXPIRY (spec/09_fabric.md R284). -/
def execEpochMaxExpiry (s : State) : Host.Outcome State Fault Refusal :=
  done (s.live effEpochMaxExpiry)

/-- ROW_PHASE_START (spec/08_collectives.md R224). -/
def execRowPhaseStart (q i : Nat) (s : State) : Host.Outcome State Fault Refusal :=
  done (s.live (State.working [0] (fun s => (effRowPhaseStart q i s).formDigests)))

/-- DATA_PHASE_START (spec/08_collectives.md R246). -/
def execDataPhaseStart (q i : Nat) (s : State) : Host.Outcome State Fault Refusal :=
  done (s.live (State.working [0, 2, 3] (fun s => (effDataPhaseStart q i s).formDigests)))

/-- UPDATE_COMPUTE_PASS (spec/07_espalier.md R196). -/
def execUpdateComputePass (q i : Nat) (s : State) : Host.Outcome State Fault Refusal :=
  done (s.live (State.working [5] (fun s => (effUpdateComputePass q i s).formDigests)))

/-- GATHER_PHASE_START (spec/08_collectives.md R226). -/
def execGatherPhaseStart (q i : Nat) (s : State) : Host.Outcome State Fault Refusal :=
  done (s.live (State.working [0] (fun s => (effGatherPhaseStart q i s).formDigests)))

/-- APPLY_PASS (spec/07_espalier.md R207). -/
def execApplyPass (q i : Nat) (s : State) : Host.Outcome State Fault Refusal :=
  done (s.live (State.working [5] (fun s => (effApplyPass q i s).formDigests)))

/-- CHECK_ADDER_MISMATCH (spec/06_ply_reduction.md R187). -/
def execCheckAdderMismatch (q i group : Nat) (globalGroup : Nat) (job : Nat) (s : State) : Host.Outcome State Fault Refusal :=
  done (s.live (effCheckAdderMismatch q i group globalGroup job))

/-- WATCHDOG_WARN (spec/08_collectives.md R248). -/
def execWatchdogWarn (q i : Nat) (s : State) : Host.Outcome State Fault Refusal :=
  done (s.live (effWatchdogWarn q i))

/-- WATCHDOG_ABORT (spec/08_collectives.md R248). -/
def execWatchdogAbort (q i : Nat) (s : State) : Host.Outcome State Fault Refusal :=
  done (s.live (effWatchdogAbort q i))

/-- DIGEST_RECORD (spec/11_reproducibility.md R328). -/
def execDigestRecord (s : State) : Host.Outcome State Fault Refusal :=
  done (s.live effDigestRecord)

/-- CKP_IMAGE_BEGIN (spec/12_resilience.md R341). -/
def execCkpImageBegin (s : State) : Host.Outcome State Fault Refusal :=
  done (s.live effCkpImageBegin)

/-- CKP_PUSH_ACK (spec/12_resilience.md R341). -/
def execCkpPushAck (s : State) : Host.Outcome State Fault Refusal :=
  done (s.live effCkpPushAck)

/-- CKP_PREPARE (spec/12_resilience.md R345). -/
def execCkpPrepare (bad : List Nat) (badTwice buddyReported rowsReported : Bool)
    (s : State) : Host.Outcome State Fault Refusal :=
  done (s.live (fun s => (effCkpPrepare bad badTwice buddyReported rowsReported s).settleWork))

/-- SELFTEST_TIMER (spec/12_resilience.md R358). -/
def execSelftestTimer (faults : List FaultRec) (s : State) : Host.Outcome State Fault Refusal :=
  done (s.live (effSelftestTimer faults))

/-- FAULT_EVENT (spec/12_resilience.md R359). -/
def execFaultEvent (f : FaultRec) (s : State) : Host.Outcome State Fault Refusal :=
  done (s.live (effFaultEvent f))

/-- AGEING_SWEEP (spec/12_resilience.md R364). -/
def execAgeingSweep (reference : Nat) (laps : List Canary) (s : State) : Host.Outcome State Fault Refusal :=
  done (s.live (effAgeingSweep reference laps))

/-- HEARTBEAT (spec/13_control.md R375). -/
def execHeartbeat (s : State) : Host.Outcome State Fault Refusal :=
  done (s.live effHeartbeat)

/-- HEARTBEAT_TIMEOUT (spec/13_control.md R375). -/
def execHeartbeatTimeout (s : State) : Host.Outcome State Fault Refusal :=
  done (s.live effHeartbeatTimeout)

/-- GET_INFO (spec/13_control.md R376). -/
def execGetInfo (m : Nat) (s : State) : Host.Outcome State Fault Refusal :=
  done (s.live (effGetInfo m))

/-- HEALTH_QUERY (spec/13_control.md R376). -/
def execHealthQuery (m : Nat) (s : State) : Host.Outcome State Fault Refusal :=
  done (s.live (effHealthQuery m))

/-- OPEN_JOB (spec/13_control.md R376). -/
def execOpenJob (m : Nat) (s : State) : Host.Outcome State Fault Refusal :=
  done (s.live (effOpenJob m))

/-- CLOSE_JOB (spec/13_control.md R376). -/
def execCloseJob (m : Nat) (s : State) : Host.Outcome State Fault Refusal :=
  done (s.live (effCloseJob m))

/-- SET_RANKS (spec/13_control.md R376). -/
def execSetRanks (m : Nat) (s : State) : Host.Outcome State Fault Refusal :=
  done (s.live (effSetRanks m))

/-- LOAD_SKEIN (spec/13_control.md R376). -/
def execLoadSkein (m : Nat) (s : State) : Host.Outcome State Fault Refusal :=
  done (s.live (effLoadSkein m))

/-- LOAD_PROGRAM (spec/07_espalier.md R195). -/
def execLoadProgram (m : Nat) (s : State) : Host.Outcome State Fault Refusal :=
  done (s.live (effLoadProgram m))

/-- REFORM_GROUP (spec/08_collectives.md R250). -/
def execReformGroup (m : Nat) (s : State) : Host.Outcome State Fault Refusal :=
  done (s.live (effReformGroup m))

/-- ROUTE_CHANGE (spec/09_fabric.md R284). -/
def execRouteChange (m : Nat) (s : State) : Host.Outcome State Fault Refusal :=
  done (s.live (effRouteChange m))

/-- CKP_POLICY (spec/13_control.md R376). -/
def execCkpPolicy (m : Nat) (s : State) : Host.Outcome State Fault Refusal :=
  done (s.live (effCkpPolicy m))

/-- CHECKPOINT (spec/12_resilience.md R341). -/
def execCheckpoint (m : Nat) (s : State) : Host.Outcome State Fault Refusal :=
  done (s.live (effCheckpoint m))

/-- RESTORE (spec/12_resilience.md R350). -/
def execRestore (m : Nat) (s : State) : Host.Outcome State Fault Refusal :=
  done (s.live (effRestore m))

/-- REPAIR_REPORT (spec/13_control.md R376). -/
def execRepairReport (m : Nat) (s : State) : Host.Outcome State Fault Refusal :=
  done (s.live (effRepairReport m))

/-- REPAIR (spec/13_control.md R376). -/
def execRepair (m : Nat) (s : State) : Host.Outcome State Fault Refusal :=
  done (s.live (effRepair m))

/-- LOAD_REPAIR_MAP (spec/12_resilience.md R363). -/
def execLoadRepairMap (m : Nat) (s : State) : Host.Outcome State Fault Refusal :=
  done (s.live (effLoadRepairMap m))

/-- FW_UPDATE (spec/13_control.md R379). -/
def execFwUpdate (m : Nat) (s : State) : Host.Outcome State Fault Refusal :=
  done (s.live (effFwUpdate m))

/-- UNSUPPORTED_OPCODE (spec/13_control.md R376). -/
def execUnsupportedOpcode (m : Nat) (s : State) : Host.Outcome State Fault Refusal :=
  done (s.live (effUnsupportedOpcode m))

/-- QUEUE_DOORBELL (spec/13_control.md R380). -/
def execQueueDoorbell (q : Nat) (tail : BitVec 32) (s : State) : Host.Outcome State Fault Refusal :=
  done (s.live (effQueueDoorbell q tail))

/-- DESCRIPTOR_FETCH (spec/13_control.md R382). -/
def execDescriptorFetch (q : Nat) (s : State) : Host.Outcome State Fault Refusal :=
  done (s.live (effDescriptorFetch q))

/-- NOP (spec/13_control.md R387). -/
def execNop (q : Nat) (s : State) : Host.Outcome State Fault Refusal :=
  done (s.live (effNop q))

/-- ALL_REDUCE (spec/08_collectives.md R229). -/
def execAllReduce (q : Nat) (s : State) : Host.Outcome State Fault Refusal :=
  done (s.live (effAllReduce q))

/-- REDUCE_SCATTER (spec/08_collectives.md R229). -/
def execReduceScatter (q : Nat) (s : State) : Host.Outcome State Fault Refusal :=
  done (s.live (effReduceScatter q))

/-- FUSED_STEP (spec/08_collectives.md R228). -/
def execFusedStep (q : Nat) (s : State) : Host.Outcome State Fault Refusal :=
  done (s.live (effFusedStep q))

/-- ALL_GATHER (spec/08_collectives.md R226). -/
def execAllGather (q : Nat) (s : State) : Host.Outcome State Fault Refusal :=
  done (s.live (effAllGather q))

/-- ALL_TO_ALL (spec/08_collectives.md R231). -/
def execAllToAll (q : Nat) (s : State) : Host.Outcome State Fault Refusal :=
  done (s.live (effAllToAll q))

/-- BROADCAST (spec/08_collectives.md R234). -/
def execBroadcast (q : Nat) (s : State) : Host.Outcome State Fault Refusal :=
  done (s.live (effBroadcast q))

/-- SEND (spec/08_collectives.md R233). -/
def execSend (q : Nat) (s : State) : Host.Outcome State Fault Refusal :=
  done (s.live (effSend q))

/-- RECV (spec/08_collectives.md R233). -/
def execRecv (q : Nat) (s : State) : Host.Outcome State Fault Refusal :=
  done (s.live (effRecv q))

/-- TOPK_MERGE (spec/08_collectives.md R235). -/
def execTopkMerge (q : Nat) (s : State) : Host.Outcome State Fault Refusal :=
  done (s.live (effTopkMerge q))

/-- RUN_SKEIN (spec/08_collectives.md R252). -/
def execRunSkein (q : Nat) (s : State) : Host.Outcome State Fault Refusal :=
  done (s.live (fun s => (effRunSkein q s).settleWork))

/-- SKEIN_APPEND_RESUME (spec/08_collectives.md R252). -/
def execSkeinAppendResume (q i : Nat) (s : State) : Host.Outcome State Fault Refusal :=
  done (s.live (fun s => (effSkeinAppendResume q i s).settleWork))

/-- TOPIARY_ROW (spec/04_topiary.md R117). -/
def execTopiaryRow (q : Nat) (s : State) : Host.Outcome State Fault Refusal :=
  done (s.live (effTopiaryRow q))

/-- TOPIARY_MERGE (spec/13_control.md R388). -/
def execTopiaryMerge (q : Nat) (s : State) : Host.Outcome State Fault Refusal :=
  done (s.live (effTopiaryMerge q))

/-- FOLD (spec/05_coppice.md R154). -/
def execFold (q : Nat) (s : State) : Host.Outcome State Fault Refusal :=
  done (s.live (State.working [3] (effFold q)))

/-- DESCRIPTOR_COMPLETE (spec/13_control.md R384). -/
def execDescriptorComplete (q i : Nat) (s : State) : Host.Outcome State Fault Refusal :=
  done (s.live (fun s => (effDescriptorComplete q i s).formDigests.settleWork))

/-- QUEUE_RESUME (spec/13_control.md R385). -/
def execQueueResume (q : Nat) (s : State) : Host.Outcome State Fault Refusal :=
  done (s.live (effQueueResume q))

/-- QUEUE_ABORT (spec/13_control.md R385). -/
def execQueueAbort (q : Nat) (s : State) : Host.Outcome State Fault Refusal :=
  done (s.live (effQueueAbort q))

/-- QUEUE_ENABLE_WRITE (spec/13_control.md R386). -/
def execQueueEnableWrite (q : Nat) (enable : Bool) (s : State) : Host.Outcome State Fault Refusal :=
  done (s.live (effQueueEnableWrite q enable))

/-- EVENT_COUNTER_WRITE (spec/13_control.md R390). -/
def execEventCounterWrite (c : Nat) (value : Word) (s : State) : Host.Outcome State Fault Refusal :=
  done (s.live (effEventCounterWrite c value))

/-- EVENT_COUNTER_ADD (spec/13_control.md R390). -/
def execEventCounterAdd (c : Nat) (value : Word) (s : State) : Host.Outcome State Fault Refusal :=
  done (s.live (effEventCounterAdd c value))

/-- STAGED_CANCEL (spec/14_registers.md R408). -/
def execStagedCancel (s : State) : Host.Outcome State Fault Refusal :=
  done (s.live effStagedCancel)

/-- CFG_REF_WRITE (spec/14_registers.md R411). -/
def execCfgRefWrite (value : BitVec 32) (s : State) : Host.Outcome State Fault Refusal :=
  done (s.live (effCfgRefWrite value))

/-- CFG_CRC_UPDATE (spec/14_registers.md R410). -/
def execCfgCrcUpdate (s : State) : Host.Outcome State Fault Refusal :=
  done (s.live effCfgCrcUpdate)

/-- LOCK_WRITE (spec/14_registers.md R412). -/
def execLockWrite (value : Bool) (s : State) : Host.Outcome State Fault Refusal :=
  done (s.live (effLockWrite value))

/-- PORT_RETRAIN (spec/09_fabric.md R285). -/
def execPortRetrain (p : Nat) (s : State) : Host.Outcome State Fault Refusal :=
  done (s.live (fun s => if 16 ≤ p then s else s.access (rPortCtl p) (fun s => (effPortRetrain p s).respond 0)))

/-- EPOCH_ADVANCE (spec/09_fabric.md R284). -/
def execEpochAdvance (s : State) : Host.Outcome State Fault Refusal :=
  done (s.live (fun s => s.access rFabEpoch (fun s => (effEpochAdvance s).respond 0)))

/-- FAB_SELF_WRITE (spec/09_fabric.md R256). -/
def execFabSelfWrite (phys : BitVec 20) (s : State) : Host.Outcome State Fault Refusal :=
  done (s.live (fun s => s.access rFabSelf (fun s => (effFabSelfWrite phys s).respond 0)))

/-- REGISTER_WRITE (spec/14_registers.md R407). -/
def execRegisterWrite (offset : Nat) (wide : Bool) (value : Word) (s : State) : Host.Outcome State Fault Refusal :=
  done (s.live (effRegisterWrite offset wide value))

/-- PACKET_BOUNDARY_APPLY (spec/14_registers.md R404). -/
def execPacketBoundaryApply (block : Nat) (s : State) : Host.Outcome State Fault Refusal :=
  done (s.live (effPacketBoundaryApply block))

/-- DESCRIPTOR_BOUNDARY_APPLY (spec/14_registers.md R404). -/
def execDescriptorBoundaryApply (q : Nat) (s : State) : Host.Outcome State Fault Refusal :=
  done (s.live (effDescriptorBoundaryApply q))

/-- REGISTER_READ_CLEAR (spec/14_registers.md R413). -/
def execRegisterReadClear (offset : Nat) (wide : Bool) (s : State) : Host.Outcome State Fault Refusal :=
  done (s.live (effRegisterReadClear offset wide))

/-- BUS_ERROR_ACCESS (spec/14_registers.md R401). -/
def execBusErrorAccess (offset width : Nat) (isWrite : Bool) (s : State) : Host.Outcome State Fault Refusal :=
  done (s.live (effBusErrorAccess offset width isWrite))

/-- CANARY_READOUT (spec/15_bringup_power.md R429). -/
def execCanaryReadout (s : State) : Host.Outcome State Fault Refusal :=
  done (s.live effCanaryReadout)

/-- HEALTH_READOUT (spec/15_bringup_power.md R429). -/
def execHealthReadout (s : State) : Host.Outcome State Fault Refusal :=
  done (s.live effHealthReadout)

/-- REGISTER_PORT (spec/15_bringup_power.md R429). -/
def execRegisterPort (offset : Nat) (wide isWrite : Bool) (value : Word) (s : State) : Host.Outcome State Fault Refusal :=
  done (s.live (effRegisterPort offset wide isWrite value))

/-- SELF_TEST_START (spec/15_bringup_power.md R429). -/
def execSelfTestStart (word : BitVec 32) (faults : List FaultRec) (s : State) : Host.Outcome State Fault Refusal :=
  done (s.live (effSelfTestStart word faults))

/-- SRAM_MARCH_TEST (spec/15_bringup_power.md R429). -/
def execSramMarchTest (group bank : Nat) (fail : Bool) (s : State) : Host.Outcome State Fault Refusal :=
  done (s.live (effSramMarchTest group bank fail))

/-- LANE_LOOPBACK (spec/15_bringup_power.md R429). -/
def execLaneLoopback (p lane : Nat) (errors : Nat) (s : State) : Host.Outcome State Fault Refusal :=
  done (s.live (effLaneLoopback p lane errors))

/-- SPINDLE_HALT (spec/15_bringup_power.md R429). -/
def execSpindleHalt (s : State) : Host.Outcome State Fault Refusal :=
  done (s.live effSpindleHalt)

/-- ACK_SEND (spec/09_fabric.md R268). -/
def execAckSend (src : Nat) (mc : Bool) (s : State) : Host.Outcome State Fault Refusal :=
  done (s.live (effAckSend src mc))

/-- SILENT_MEMBER_EXPIRY (spec/13_control.md R376). -/
def execSilentMemberExpiry (job rank : Nat) (s : State) : Host.Outcome State Fault Refusal :=
  done (s.live (effSilentMemberExpiry job rank))

end Sys2Proof.Machine
end

