-- ==== Sys2Proof/Machine/Dispatch.lean ====
section
/-! DEFINITION. One arm for each command. -/

namespace Sys2Proof.Machine

def exec (i : Instr) (s : State) : Host.Outcome State Fault Refusal :=
  match i with
  | .resetAssert => Sys2Proof.Machine.execResetAssert s
  | .resetDeassert heldNs quiesce wake => Sys2Proof.Machine.execResetDeassert heldNs quiesce wake s
  | .unitWakeAck faults laps => Sys2Proof.Machine.execUnitWakeAck faults laps s
  | .controlInputChange quiesce wake => Sys2Proof.Machine.execControlInputChange quiesce wake s
  | .wakingComplete faults laps => Sys2Proof.Machine.execWakingComplete faults laps s
  | .powerAnswer grant => Sys2Proof.Machine.execPowerAnswer grant s
  | .powerManagerTimeout => Sys2Proof.Machine.execPowerManagerTimeout s
  | .globalCounterSample value => Sys2Proof.Machine.execGlobalCounterSample value s
  | .memoryReadResponse q j kind addr uncorrectable => Sys2Proof.Machine.execMemoryReadResponse q j kind addr uncorrectable s
  | .surveyBeat tag payload => Sys2Proof.Machine.execSurveyBeat tag payload s
  | .leadSend q j => Sys2Proof.Machine.execLeadSend q j s
  | .valueBeat tag payload => Sys2Proof.Machine.execValueBeat tag payload s
  | .microBeat survey tag payload => Sys2Proof.Machine.execMicroBeat survey tag payload s
  | .feedStallTick => Sys2Proof.Machine.execFeedStallTick s
  | .pieceDraw q j piece => Sys2Proof.Machine.execPieceDraw q j piece s
  | .expandBackground q j => Sys2Proof.Machine.execExpandBackground q j s
  | .linkUp p => Sys2Proof.Machine.execLinkUp p s
  | .linkDown p => Sys2Proof.Machine.execLinkDown p s
  | .laneTransition p lane => Sys2Proof.Machine.execLaneTransition p lane s
  | .uncorrectableFlit p forwarding => Sys2Proof.Machine.execUncorrectableFlit p forwarding s
  | .packetReceive p header payload => Sys2Proof.Machine.execPacketReceive p header payload s
  | .creditReturnFlit p flit => Sys2Proof.Machine.execCreditReturnFlit p flit s
  | .syncFlit p => Sys2Proof.Machine.execSyncFlit p s
  | .audit p payload => Sys2Proof.Machine.execAudit p payload s
  | .auditTimer p => Sys2Proof.Machine.execAuditTimer p s
  | .creditReturnSend p => Sys2Proof.Machine.execCreditReturnSend p s
  | .syncRepeatTimer p => Sys2Proof.Machine.execSyncRepeatTimer p s
  | .resyncTimeout p => Sys2Proof.Machine.execResyncTimeout p s
  | .packetForward n => Sys2Proof.Machine.execPacketForward n s
  | .escapeWaitExpiry n => Sys2Proof.Machine.execEscapeWaitExpiry n s
  | .windowHoldExpiry => Sys2Proof.Machine.execWindowHoldExpiry s
  | .chunkTimeout dst seq mc => Sys2Proof.Machine.execChunkTimeout dst seq mc s
  | .chunkPartialTimeout src seq mc => Sys2Proof.Machine.execChunkPartialTimeout src seq mc s
  | .reduceChunk src seq => Sys2Proof.Machine.execReduceChunk src seq s
  | .leadChunk src seq => Sys2Proof.Machine.execLeadChunk src seq s
  | .sideChunk src seq => Sys2Proof.Machine.execSideChunk src seq s
  | .spillChunk src seq => Sys2Proof.Machine.execSpillChunk src seq s
  | .sparseChunk src seq => Sys2Proof.Machine.execSparseChunk src seq s
  | .writeChunk src seq mc => Sys2Proof.Machine.execWriteChunk src seq mc s
  | .countChunk src seq => Sys2Proof.Machine.execCountChunk src seq s
  | .topkChunk src seq => Sys2Proof.Machine.execTopkChunk src seq s
  | .ack src seq => Sys2Proof.Machine.execAck src seq s
  | .vote src seq mc => Sys2Proof.Machine.execVote src seq mc s
  | .drain src seq => Sys2Proof.Machine.execDrain src seq s
  | .ready src seq => Sys2Proof.Machine.execReady src seq s
  | .cancel src seq => Sys2Proof.Machine.execCancel src seq s
  | .testPacket src seq => Sys2Proof.Machine.execTestPacket src seq s
  | .ckpPrepareVote voice step => Sys2Proof.Machine.execCkpPrepareVote voice step s
  | .ckpCommitNotice parity step => Sys2Proof.Machine.execCkpCommitNotice parity step s
  | .buddyCopy step offset bytes last bad badTwice => Sys2Proof.Machine.execBuddyCopy step offset bytes last bad badTwice s
  | .parityUnit position step offset bytes last bad badTwice => Sys2Proof.Machine.execParityUnit position step offset bytes last bad badTwice s
  | .restoreInventory rank inventory => Sys2Proof.Machine.execRestoreInventory rank inventory s
  | .restoreFence fence => Sys2Proof.Machine.execRestoreFence s fence
  | .epochDrainPoll injSum ejSum => Sys2Proof.Machine.execEpochDrainPoll injSum ejSum s
  | .epochMaxExpiry => Sys2Proof.Machine.execEpochMaxExpiry s
  | .rowPhaseStart q j => Sys2Proof.Machine.execRowPhaseStart q j s
  | .dataPhaseStart q j => Sys2Proof.Machine.execDataPhaseStart q j s
  | .updateComputePass q j => Sys2Proof.Machine.execUpdateComputePass q j s
  | .gatherPhaseStart q j => Sys2Proof.Machine.execGatherPhaseStart q j s
  | .applyPass q j => Sys2Proof.Machine.execApplyPass q j s
  | .checkAdderMismatch q j group globalGroup job => Sys2Proof.Machine.execCheckAdderMismatch q j group globalGroup job s
  | .watchdogWarn q j => Sys2Proof.Machine.execWatchdogWarn q j s
  | .watchdogAbort q j => Sys2Proof.Machine.execWatchdogAbort q j s
  | .digestRecord => Sys2Proof.Machine.execDigestRecord s
  | .ckpImageBegin => Sys2Proof.Machine.execCkpImageBegin s
  | .ckpPushAck => Sys2Proof.Machine.execCkpPushAck s
  | .ckpPrepare bad badTwice buddyReported rowsReported => Sys2Proof.Machine.execCkpPrepare bad badTwice buddyReported rowsReported s
  | .selftestTimer faults => Sys2Proof.Machine.execSelftestTimer faults s
  | .faultEvent f => Sys2Proof.Machine.execFaultEvent f s
  | .ageingSweep reference laps => Sys2Proof.Machine.execAgeingSweep reference laps s
  | .heartbeat => Sys2Proof.Machine.execHeartbeat s
  | .heartbeatTimeout => Sys2Proof.Machine.execHeartbeatTimeout s
  | .getInfo m => Sys2Proof.Machine.execGetInfo m s
  | .healthQuery m => Sys2Proof.Machine.execHealthQuery m s
  | .openJob m => Sys2Proof.Machine.execOpenJob m s
  | .closeJob m => Sys2Proof.Machine.execCloseJob m s
  | .setRanks m => Sys2Proof.Machine.execSetRanks m s
  | .loadSkein m => Sys2Proof.Machine.execLoadSkein m s
  | .loadProgram m => Sys2Proof.Machine.execLoadProgram m s
  | .reformGroup m => Sys2Proof.Machine.execReformGroup m s
  | .routeChange m => Sys2Proof.Machine.execRouteChange m s
  | .ckpPolicy m => Sys2Proof.Machine.execCkpPolicy m s
  | .checkpoint m => Sys2Proof.Machine.execCheckpoint m s
  | .restore m => Sys2Proof.Machine.execRestore m s
  | .repairReport m => Sys2Proof.Machine.execRepairReport m s
  | .repair m => Sys2Proof.Machine.execRepair m s
  | .loadRepairMap m => Sys2Proof.Machine.execLoadRepairMap m s
  | .fwUpdate m => Sys2Proof.Machine.execFwUpdate m s
  | .unsupportedOpcode m => Sys2Proof.Machine.execUnsupportedOpcode m s
  | .queueDoorbell q tail => Sys2Proof.Machine.execQueueDoorbell q tail s
  | .descriptorFetch q => Sys2Proof.Machine.execDescriptorFetch q s
  | .nop q => Sys2Proof.Machine.execNop q s
  | .allReduce q => Sys2Proof.Machine.execAllReduce q s
  | .reduceScatter q => Sys2Proof.Machine.execReduceScatter q s
  | .fusedStep q => Sys2Proof.Machine.execFusedStep q s
  | .allGather q => Sys2Proof.Machine.execAllGather q s
  | .allToAll q => Sys2Proof.Machine.execAllToAll q s
  | .broadcast q => Sys2Proof.Machine.execBroadcast q s
  | .send q => Sys2Proof.Machine.execSend q s
  | .recv q => Sys2Proof.Machine.execRecv q s
  | .topkMerge q => Sys2Proof.Machine.execTopkMerge q s
  | .runSkein q => Sys2Proof.Machine.execRunSkein q s
  | .skeinAppendResume q j => Sys2Proof.Machine.execSkeinAppendResume q j s
  | .topiaryRow q => Sys2Proof.Machine.execTopiaryRow q s
  | .topiaryMerge q => Sys2Proof.Machine.execTopiaryMerge q s
  | .fold q => Sys2Proof.Machine.execFold q s
  | .descriptorComplete q j => Sys2Proof.Machine.execDescriptorComplete q j s
  | .queueResume q => Sys2Proof.Machine.execQueueResume q s
  | .queueAbort q => Sys2Proof.Machine.execQueueAbort q s
  | .queueEnableWrite q enable => Sys2Proof.Machine.execQueueEnableWrite q enable s
  | .eventCounterWrite c value => Sys2Proof.Machine.execEventCounterWrite c value s
  | .eventCounterAdd c value => Sys2Proof.Machine.execEventCounterAdd c value s
  | .stagedCancel => Sys2Proof.Machine.execStagedCancel s
  | .cfgRefWrite value => Sys2Proof.Machine.execCfgRefWrite value s
  | .cfgCrcUpdate => Sys2Proof.Machine.execCfgCrcUpdate s
  | .lockWrite value => Sys2Proof.Machine.execLockWrite value s
  | .portRetrain p => Sys2Proof.Machine.execPortRetrain p s
  | .epochAdvance => Sys2Proof.Machine.execEpochAdvance s
  | .fabSelfWrite phys => Sys2Proof.Machine.execFabSelfWrite phys s
  | .registerWrite offset wide value => Sys2Proof.Machine.execRegisterWrite offset wide value s
  | .packetBoundaryApply block => Sys2Proof.Machine.execPacketBoundaryApply block s
  | .descriptorBoundaryApply q => Sys2Proof.Machine.execDescriptorBoundaryApply q s
  | .registerReadClear offset wide => Sys2Proof.Machine.execRegisterReadClear offset wide s
  | .busErrorAccess offset width isWrite => Sys2Proof.Machine.execBusErrorAccess offset width isWrite s
  | .canaryReadout => Sys2Proof.Machine.execCanaryReadout s
  | .healthReadout => Sys2Proof.Machine.execHealthReadout s
  | .registerPort offset wide isWrite value => Sys2Proof.Machine.execRegisterPort offset wide isWrite value s
  | .selfTestStart word faults => Sys2Proof.Machine.execSelfTestStart word faults s
  | .sramMarchTest group bank fail => Sys2Proof.Machine.execSramMarchTest group bank fail s
  | .laneLoopback p lane errors => Sys2Proof.Machine.execLaneLoopback p lane errors s
  | .spindleHalt => Sys2Proof.Machine.execSpindleHalt s
  | .ackSend src mc => Sys2Proof.Machine.execAckSend src mc s
  | .silentMemberExpiry job rank => Sys2Proof.Machine.execSilentMemberExpiry job rank s

end Sys2Proof.Machine
end

