-- ==== Sys2Proof/Safety.lean ====
section
/-! DEFINITION. What counts as a safe run: no step faults or is refused, and what must hold at every moment holds. -/

namespace Sys2Proof.Machine

/-- Watch k has nothing left to do: it is not armed, or its counter has not reached its value (spec/13_control.md R392). -/
def State.watchSettled (s : State) (k : Nat) : Prop :=
  bitAt (s.rd (rEvwCfg k)).toNat 8 = true → bitAt (s.rd (rEvwCfg k)).toNat 9 = false → s.ctl.watchRead.getD k false = false →
    (s.rd (rEvc (bitsAt (s.rd (rEvwCfg k)).toNat 0 8))).toNat < (s.rd (rEvwVal k)).toNat

/-- QUIESCING holds only while a command or an image runs, or an accepted CHECKPOINT waits for its image
(spec/13_control.md R398). -/
def State.quiesceSettled (s : State) : Prop :=
  s.ctl.st = .quiescing → s.cmds ≠ [] ∨ s.ckp.image ≠ none ∨ s.ckp.pairs ≠ []

/-- What holds after every step. -/
structure State.Inv (s : State) : Prop where
  watch : ∀ k < 8, s.watchSettled k
  quiesce : s.quiesceSettled

/-- A write of the register has no effect beyond its fields: it is no queue, port, counter, watch or bank register, is not in a
mailbox window, and is none of those whose write acts. -/
def plainKey (key : Nat) : Bool :=
  (rowAt key).isSome && decide (key < 0x400000) && !isQueueReg key && !isPortReg key
    && decide (key ∉ [rStagedCtl, rCfgRef, rFabSelf, rFabEpoch])
    && !(decide (0x010000 ≤ key) && decide (key < 0x011000)) && !(decide (0x030000 ≤ key) && decide (key < 0x031080))
    && (bankOf key).isNone

/-- Spindle acts on the command with opcode `op` that pair `m` holds: the pair is busy with it and it has not begun, the mailboxes
are open, firmware runs or the boot ROM takes the opcode, no other serial command runs, and the engine is not QUIESCED when it
moves data (spec/13_control.md R372 to R375, R398, spec/15_bringup_power.md R422). -/
def State.takes (s : State) (m op : Nat) : Prop :=
  m < 4 ∧ s.awake 2 = true ∧ s.mbxBusy m = true ∧ s.begun m = false ∧ s.spindle.closed = false ∧ s.spindle.halted = false
    ∧ rqOpcode (s.request m) = op ∧ (s.spindle.loaded = true ∨ op = 0x0001 ∨ op = 0x0040)
    ∧ ¬ (opcodeSerial op = some true ∧ s.serialRuns m = true) ∧ ¬ (movesData op = true ∧ s.ctl.st = .quiesced)

/-- A queue holds nothing that has not started: it is disabled, or all up to TAIL has been fetched and started. -/
def State.queueIdle (s : State) (q : Nat) : Prop :=
  (s.queue q).st = .disabled ∨ ((s.queue q).fetched = [] ∧ (s.queue q).nextFetch = s.fld (rQTail q) 0 32)

/-- The opcode and the pair of a mailbox command. -/
def mailboxOp (i : Instr) : Option (Nat × Nat) :=
  match i with
  | .getInfo m => some (0x0001, m)
  | .healthQuery m => some (0x0002, m)
  | .openJob m => some (0x0010, m)
  | .closeJob m => some (0x0011, m)
  | .setRanks m => some (0x0012, m)
  | .loadSkein m => some (0x0013, m)
  | .loadProgram m => some (0x0014, m)
  | .reformGroup m => some (0x0015, m)
  | .routeChange m => some (0x0016, m)
  | .ckpPolicy m => some (0x0020, m)
  | .checkpoint m => some (0x0021, m)
  | .restore m => some (0x0022, m)
  | .repairReport m => some (0x0030, m)
  | .repair m => some (0x0031, m)
  | .loadRepairMap m => some (0x0032, m)
  | .fwUpdate m => some (0x0040, m)
  | _ => none

/-- The descriptor type and the queue of a command that starts a collective. -/
def collectiveOf (i : Instr) : Option (Nat × Nat) :=
  match i with
  | .allReduce q => some (0x10, q)
  | .reduceScatter q => some (0x11, q)
  | .fusedStep q => some (0x12, q)
  | .allGather q => some (0x13, q)
  | .allToAll q => some (0x14, q)
  | .broadcast q => some (0x15, q)
  | .send q => some (0x16, q)
  | .recv q => some (0x17, q)
  | .topkMerge q => some (0x18, q)
  | _ => none

/-- The next descriptor of a queue has a type and meets the conditions of a start (spec/13_control.md R383). -/
def State.startable (s : State) (t q : Nat) (f : Fetched) : Prop :=
  s.nextDesc q = some f ∧ dType f.desc = t ∧ s.mayStartDesc q f = true

/-- The next descriptor of a queue has left it and runs as the last command, with a status already. -/
def State.startedAs (s t : State) (q : Nat) (f : Fetched) (x : Nat × Nat) : Prop :=
  (∃ c, t.cmds = s.cmds ++ [c] ∧ c.q = q ∧ c.i = f.index ∧ c.desc = f.desc ∧ c.param = f.param ∧ c.status = some x)
    ∧ (t.queue q).fetched = (s.queue q).fetched.drop 1 ∧ ∀ k, k ≠ q → t.queue k = s.queue k

/-- The next descriptor of a queue stays at its head with the status and DETAIL that it completes with, and nothing runs of it. -/
def State.failedAs (s t : State) (q : Nat) (f : Fetched) (x : Nat × Nat) : Prop :=
  (t.queue q).fetched = { f with fail := some x } :: (s.queue q).fetched.drop 1 ∧ (∀ k, k ≠ q → t.queue k = s.queue k)
    ∧ t.cmds = s.cmds

/-- Pair m answers its request with a status and a body of some length (spec/13_control.md R372): no queue or command changes. -/
def State.answers (s t : State) (m st len : Nat) : Prop :=
  t.mbxBusy m = false ∧ t.fld (rMbxRsp m 0) 0 32 = rqOpcode (s.request m) + 65536 * rqSeq (s.request m)
    ∧ t.fld (rMbxRsp m 1) 0 8 = len ∧ t.fld (rMbxRsp m 1) 8 8 = st ∧ (t.rd rEvtStatus).getLsbD 0 = true
    ∧ t.queues = s.queues ∧ t.cmds = s.cmds

/-- The kind, source, sequence number and multicast flag of the chunk that a command hands to a collective. -/
def chunkOfInstr (i : Instr) : Option (Nat × Nat × Nat × Bool) :=
  match i with
  | .reduceChunk src seq => some (1, src, seq, false)
  | .leadChunk src seq => some (2, src, seq, false)
  | .sideChunk src seq => some (3, src, seq, false)
  | .spillChunk src seq => some (4, src, seq, false)
  | .sparseChunk src seq => some (5, src, seq, false)
  | .writeChunk src seq mc => some (6, src, seq, mc)
  | .countChunk src seq => some (7, src, seq, false)
  | .topkChunk src seq => some (8, src, seq, false)
  | .vote src seq mc => some (0x11, src, seq, mc)
  | .ready src seq => some (0x13, src, seq, false)
  | _ => none

/-- No unit's data path stalls for a digest record under STALL (spec/11_reproducibility.md R328). -/
def State.flows (s : State) : Prop := ∀ d ∈ s.digests, (bitAt d.cfg 6 && s.ringFull d) = false

/-- A held chunk reaches the running command of its job identifier: it belongs to the running collective
(spec/06_ply_reduction.md R180), may be passed on (spec/09_fabric.md R268, R270), the command has no status yet, and no unit that
takes data chunks, of kinds 1 to 6, stalls (spec/11_reproducibility.md R328). -/
def State.delivers (s : State) (kind src seq : Nat) (mc : Bool) (h : Held) (c : Cmd) : Prop :=
  s.ctl.resetOn = false ∧ (kind ≤ 6 → s.flows) ∧ s.heldChunk kind src seq mc = some h ∧ s.sortChunk h.hdr.job src = .use
    ∧ s.cmdOfJob h.hdr.job = some c ∧ s.passable h = true ∧ c.status = none

/-- A step that neither faults nor is refused. -/
def stepOk (s : State) : Prop := ∃ t, step s = .next t

end Sys2Proof.Machine
end

