-- ==== Sys2Proof/WellFormed.lean ====
section
/-! DEFINITION. Which commands are well formed: operands within the ranges that the spec gives queues, ports, pairs, counters,
ranks, steps and offsets. -/

namespace Sys2Proof

/-- Queues, descriptor indices, ports, lanes, mailbox pairs, ranks, sequence numbers, steps and job identifiers
(spec/13_control.md R371, R380, spec/09_fabric.md R257, R258, R262, spec/08_collectives.md R214). -/
def okQ (q : Nat) : Bool := decide (q < 64)
def okI (i : Nat) : Bool := decide (i < 2 ^ 32)
def okP (p : Nat) : Bool := decide (p < 16)
def okLane (l : Nat) : Bool := decide (l < 9)
def okM (m : Nat) : Bool := decide (m < 4)
def okRank (r : Nat) : Bool := decide (r < 65536)
def okSeq (n : Nat) : Bool := decide (n < 2 ^ 32)
def okStep (n : Nat) : Bool := decide (n < 2 ^ 45)
def okJob (n : Nat) : Bool := decide (n < 4096)

/-- A position in a Hedge. -/
def okHedge (w : Nat) : Bool := decide (w < 2 ^ 14)
def okVoice : Voice → Bool
  | .member src => okRank src
  | .hedge src origin hops => okRank src && okHedge origin && okHedge hops
def okPos (o : Nat) : Bool := decide (o < 8)

/-- An offset of the 4 MiB register window (spec/01_engine_and_step.md R42). -/
def okOffset (o : Nat) : Bool := decide (o < 0x400000)

/-- A header of 64 bytes and a payload of whole 4-byte units, 4,096 at most (spec/09_fabric.md R262). -/
def okHeader (b : List Byte) : Bool := b.length == 64
def okPayload (b : List Byte) : Bool := decide (b.length ≤ 4096) && b.length % 4 == 0

/-- A credit-return flit is 256 bytes and the payload of an AUDIT 16 (spec/09_fabric.md R260, R273). -/
def okFlit (b : List Byte) : Bool := b.length == 256
def okAudit (b : List Byte) : Bool := b.length == 16

/-- A Feed beat carries at most 1,024 elements (spec/01_engine_and_step.md R32). -/
def okBeat (l : List Bf16) : Bool := decide (l.length ≤ 1024)

/-- The operands of a command are within their ranges. -/
def Instr.wf (i : Instr) : Bool :=
  match i with
  | .memoryReadResponse q j _ _ _ => okQ q && okI j
  | .surveyBeat _ payload => okBeat payload
  | .leadSend q j => okQ q && okI j
  | .valueBeat _ payload => okBeat payload
  | .microBeat _ _ payload => okBeat payload
  | .pieceDraw q j _ => okQ q && okI j
  | .expandBackground q j => okQ q && okI j
  | .linkUp p => okP p
  | .linkDown p => okP p
  | .laneTransition p lane => okP p && okLane lane
  | .uncorrectableFlit p _ => okP p
  | .packetReceive p header payload => okP p && okHeader header && okPayload payload
  | .creditReturnFlit p flit => okP p && okFlit flit
  | .syncFlit p => okP p
  | .audit p payload => okP p && okAudit payload
  | .auditTimer p => okP p
  | .creditReturnSend p => okP p
  | .syncRepeatTimer p => okP p
  | .resyncTimeout p => okP p
  | .chunkTimeout dst seq _ => okRank dst && okSeq seq
  | .chunkPartialTimeout src seq _ => okRank src && okSeq seq
  | .reduceChunk src seq => okRank src && okSeq seq
  | .leadChunk src seq => okRank src && okSeq seq
  | .sideChunk src seq => okRank src && okSeq seq
  | .spillChunk src seq => okRank src && okSeq seq
  | .sparseChunk src seq => okRank src && okSeq seq
  | .writeChunk src seq _ => okRank src && okSeq seq
  | .countChunk src seq => okRank src && okSeq seq
  | .topkChunk src seq => okRank src && okSeq seq
  | .ack src seq => okRank src && okSeq seq
  | .vote src seq _ => okRank src && okSeq seq
  | .drain src seq => okRank src && okSeq seq
  | .ready src seq => okRank src && okSeq seq
  | .cancel src seq => okRank src && okSeq seq
  | .testPacket src seq => okRank src && okSeq seq
  | .ckpPrepareVote voice step => okVoice voice && okStep step
  | .ckpCommitNotice _ step => okStep step
  | .buddyCopy step _ _ _ _ _ => okStep step
  | .parityUnit position step _ _ _ _ _ => okPos position && okStep step
  | .restoreInventory rank x => okRank rank && x.failed.all (fun y => okRank y.1 && okStep y.2.1)
  | .rowPhaseStart q j => okQ q && okI j
  | .dataPhaseStart q j => okQ q && okI j
  | .updateComputePass q j => okQ q && okI j
  | .gatherPhaseStart q j => okQ q && okI j
  | .applyPass q j => okQ q && okI j
  | .checkAdderMismatch q j _ _ job => okQ q && okI j && okJob job
  | .watchdogWarn q j => okQ q && okI j
  | .watchdogAbort q j => okQ q && okI j
  | .getInfo m => okM m
  | .healthQuery m => okM m
  | .openJob m => okM m
  | .closeJob m => okM m
  | .setRanks m => okM m
  | .loadSkein m => okM m
  | .loadProgram m => okM m
  | .reformGroup m => okM m
  | .routeChange m => okM m
  | .ckpPolicy m => okM m
  | .checkpoint m => okM m
  | .restore m => okM m
  | .repairReport m => okM m
  | .repair m => okM m
  | .loadRepairMap m => okM m
  | .fwUpdate m => okM m
  | .unsupportedOpcode m => okM m
  | .queueDoorbell q _ => okQ q
  | .descriptorFetch q => okQ q
  | .nop q => okQ q
  | .allReduce q => okQ q
  | .reduceScatter q => okQ q
  | .fusedStep q => okQ q
  | .allGather q => okQ q
  | .allToAll q => okQ q
  | .broadcast q => okQ q
  | .send q => okQ q
  | .recv q => okQ q
  | .topkMerge q => okQ q
  | .runSkein q => okQ q
  | .skeinAppendResume q j => okQ q && okI j
  | .topiaryRow q => okQ q
  | .topiaryMerge q => okQ q
  | .fold q => okQ q
  | .descriptorComplete q j => okQ q && okI j
  | .queueResume q => okQ q
  | .queueAbort q => okQ q
  | .queueEnableWrite q _ => okQ q
  | .eventCounterWrite c _ => decide (c < 256)
  | .eventCounterAdd c _ => decide (c < 256)
  | .portRetrain p => okP p
  | .registerWrite o _ _ => okOffset o
  | .packetBoundaryApply block => decide (block ≤ 16)
  | .descriptorBoundaryApply q => okQ q
  | .registerReadClear o _ => okOffset o
  | .busErrorAccess o _ _ => okOffset o
  | .registerPort o _ _ _ => okOffset o
  | .sramMarchTest group bank _ => decide (group < 7) && decide (bank < 66)
  | .laneLoopback p lane _ => okP p && okLane lane
  | .ackSend src _ => okRank src
  | .silentMemberExpiry job rank => okJob job && okRank rank
  | .resetAssert => true
  | .resetDeassert _ _ _ => true
  | .unitWakeAck _ _ => true
  | .controlInputChange _ _ => true
  | .wakingComplete _ _ => true
  | .powerAnswer _ => true
  | .powerManagerTimeout => true
  | .globalCounterSample _ => true
  | .feedStallTick => true
  | .packetForward _ => true
  | .escapeWaitExpiry _ => true
  | .windowHoldExpiry => true
  | .restoreFence fence => fence.all (fun x => okVoice x.1 && okStep x.2)
  | .epochDrainPoll _ _ => true
  | .epochMaxExpiry => true
  | .digestRecord => true
  | .ckpImageBegin => true
  | .ckpPushAck => true
  | .ckpPrepare _ _ _ _ => true
  | .selftestTimer _ => true
  | .faultEvent _ => true
  | .ageingSweep _ _ => true
  | .heartbeat => true
  | .heartbeatTimeout => true
  | .stagedCancel => true
  | .cfgRefWrite _ => true
  | .cfgCrcUpdate => true
  | .lockWrite _ => true
  | .epochAdvance => true
  | .fabSelfWrite _ => true
  | .canaryReadout => true
  | .healthReadout => true
  | .selfTestStart _ _ => true
  | .spindleHalt => true

end Sys2Proof
end

