-- ==== Sys2Proof/Certificates/Slice0/Obligations.lean ====
section
/-! DEFINITION. The statements for the provers. A command that has its effect answers the state that its rule gives, `settled`;
`SettledShape` and `StepKeepsInv` say what settling does. -/

open Sys2Proof Sys2Proof.Machine

/-! ### The queue of commands, what settles, the invariant -/

/-- A step takes the command at the front of the queue and carries it out with the queue's rest (DESIGN CHOICE, log 2). -/
def Obligations.StepRunsFront : Prop :=
  (∀ (i : Instr) (rest : List Instr) (s : State), step { s with pending := i :: rest } = exec i { s with pending := rest })
    ∧ ∀ s : State, step { s with pending := [] } = .next { s with pending := [] }

/-- The invariant holds right after reset. -/
def Obligations.ResetInv : Prop :=
  State.reset.Inv

/-- Every step keeps the invariant: a watch whose counter has reached its value has fired (R392), and QUIESCING lasts only
while a command or an image runs, or an accepted CHECKPOINT waits for its image (R398). -/
def Obligations.StepKeepsInv : Prop :=
  ∀ s t : State, s.Inv → step s = .next t → t.Inv

/-- What settling can change: EVT_STATUS, the configurations of the watches, and the state of the engine with its answer. -/
def Obligations.SettledShape : Prop :=
  ∀ s : State,
    s.settled = { s with regs := s.settled.regs
                         ctl := { s.ctl with st := s.settled.ctl.st, answered := s.settled.ctl.answered } }
    ∧ (∀ o, o ≠ rEvtStatus → (∀ k < 8, o ≠ rEvwCfg k) → s.settled.rd o = s.rd o)
    ∧ (∀ n, 28 ≠ n → 29 ≠ n → n < 64 → (s.settled.rd rEvtStatus).getLsbD n = (s.rd rEvtStatus).getLsbD n)
    ∧ s.settled.Inv

/-! ### Reset, wake, the control inputs, time -/

/-- Reset leaves every register at its reset value and every structure empty; memory keeps its bytes, and SRAM words are
free (R49; DESIGN CHOICE, log 6). Reset held for 100 ns or more: its release begins the wake order with the target that the
quiesce request gives; held for less, what follows is undefined and the model faults (R419, R428). Model choices: DESIGN
CHOICE, log 5; DEDUCED, log 90; DEDUCED, log 100. -/
def Obligations.Resets : Prop :=
  (∀ s : State, ∃ t, exec .resetAssert s = .next t ∧ t.ctl.resetOn = true ∧ (∀ o, t.rd o = regReset o) ∧ t.staged = [] ∧ t.cmds = []
      ∧ t.queues = Vector.replicate 64 QState.reset ∧ t.ports = Vector.replicate 16 Port.reset ∧ t.txq = [] ∧ t.held = [] ∧ t.outbox = []
      ∧ t.job.isOpen = false ∧ t.skein = none ∧ (∀ k, t.progs.getD k none = none) ∧ (∀ a, t.byte a = s.byte a)
      ∧ (∀ w, t.bobWord w = Config.sramWord s.free w) ∧ t.pending = s.pending)
    ∧ (∀ (heldNs : Nat) (quiesce wake : Bool) (s : State), s.ctl.resetOn = true →
      (heldNs < 100 → exec (.resetDeassert heldNs quiesce wake) s = .fault .resetHeldTooShort)
      ∧ (100 ≤ heldNs → exec (.resetDeassert heldNs quiesce wake) s = .next { s with ctl := { s.ctl with
          resetOn := false, wakeStep := 0, st := .waking, toQuiesce := quiesce, recorded := false
          quiesceReq := quiesce, wakeReq := wake } }))

/-- The units wake one after another in the order of R421, those absent on the grade skipped; the Bobbin reads zero after
its step, and after the last the engine goes to its target and answers (R399, R420, R421). WAKING ends when the sweep and
the self-test have, after the wake order: the engine goes to the latest target and answers (R398, R399). Model choices:
DEDUCED, log 77. -/
def Obligations.Wakes : Prop :=
  (∀ (faults : List FaultRec) (laps : List Canary) (s : State), s.ctl.resetOn = false → s.ctl.wakeStep < 16 →
      ∃ t, exec (.unitWakeAck faults laps) s = .next t ∧ t.ctl.wakeStep = s.nextWake
        ∧ (s.nextWake = 7 → ∀ w, t.bobWord w = 0) ∧ (s.nextWake ≠ 7 → ∀ w, t.bobWord w = s.bobWord w)
        ∧ (s.nextWake = 16 → t.ctl.st = (if s.ctl.toQuiesce then .quiesced else .running) ∧ t.ctl.answered = some t.ctl.st)
        ∧ (faults = [] → (∀ a, t.byte a = s.byte a) ∧ t.ports = s.ports ∧ t.queues = s.queues ∧ t.cmds = s.cmds
            ∧ ∀ o, o ≠ rEvtStatus → (∀ k < 8, o ≠ rEvwCfg k) → t.rd o = s.rd o))
    ∧ (∀ (faults : List FaultRec) (laps : List Canary) (s : State), s.ctl.resetOn = false → s.ctl.st = .waking → s.ctl.wakeStep = 16 →
      ∃ t, exec (.wakingComplete faults laps) s = .next t ∧ t.ctl.st = (if s.ctl.toQuiesce then .quiesced else .running)
        ∧ t.ctl.answered = some t.ctl.st ∧ t.ctl.recorded = false ∧ t.ctl.toQuiesce = s.ctl.toQuiesce ∧ t.cmds = s.cmds)

/-- A change of the quiesce and wake requests (R398, R399): quiesce wins over wake; the new target takes effect by the state
the engine is in, and one that replaces a target not yet begun is counted as lost. Model choices: DEDUCED, log 15. -/
def Obligations.ControlInputs : Prop :=
  ∀ (quiesce wake : Bool) (s : State), s.ctl.resetOn = false →
    let target := if quiesce then true else if wake then false else s.ctl.toQuiesce
    ∃ t, exec (.controlInputChange quiesce wake) s = .next t
      ∧ t.ctl.quiesceReq = quiesce ∧ t.ctl.wakeReq = wake ∧ t.ctl.toQuiesce = target
      ∧ (target = s.ctl.toQuiesce ∧ s.ctl.st ≠ .quiescing → t.ctl.st = s.ctl.st)
      ∧ (s.ctl.st = .running ∧ target = true ∧ s.ctl.toQuiesce = false →
          t.ctl.st = if s.cmds = [] ∧ s.ckp.image = none ∧ s.ckp.pairs = [] then .quiesced else .quiescing)
      ∧ (s.ctl.st = .quiescing ∧ target = false ∧ s.ctl.toQuiesce = true → t.ctl.st = .running ∧ t.ctl.answered = some .running)
      ∧ (s.ctl.st = .quiesced ∧ target = false ∧ s.ctl.toQuiesce = true → t.ctl.st = .waking)
      ∧ (s.ctl.st = .waking ∧ target ≠ s.ctl.toQuiesce → t.ctl.st = .waking ∧ t.ctl.recorded = true
          ∧ (s.ctl.recorded = true → t.fld rCtlInputs 8 8 = min 255 (s.fld rCtlInputs 8 8 + 1)))
      ∧ (∀ o, o ≠ rCtlInputs → o ≠ rEvtStatus → (∀ k < 8, o ≠ rEvwCfg k) → t.rd o = s.rd o)
      ∧ t.mem = s.mem ∧ t.queues = s.queues ∧ t.cmds = s.cmds ∧ t.ports = s.ports

/-- The first sample of the global counter sets it valid; later the view follows the samples and never runs backward, a
backward step is recorded in BACKSTEP and a jump of more than 1,000,000 in JUMP, each with HEALTH (R417). An answer of the
power manager: a granted offset request becomes the offset and ends a loss to the cap, a denied one is margin lost; a
request with no answer for 1 ms is a health event (R47, R48). Model choices: DESIGN CHOICE, log 7; DEDUCED, log 86. -/
def Obligations.TimeAndPower : Prop :=
  (∀ (value : Word) (s : State), s.awake 1 = true → ∃ t, exec (.globalCounterSample value) s = .next t
      ∧ (s.timeValid = false → t.rd rGcnt = value ∧ t.timeValid = true)
      ∧ (s.timeValid = true → t.rd rGcnt = (if s.now < value.toNat then value else s.rd rGcnt) ∧ t.timeValid = true
          ∧ (value.toNat < s.ctl.lastSample.toNat → t.fld rGcntState 1 1 = 1 ∧ (t.rd rEvtStatus).getLsbD 25 = true)
          ∧ (s.ctl.lastSample.toNat + 1000000 < value.toNat → t.fld rGcntState 2 1 = 1 ∧ (t.rd rEvtStatus).getLsbD 25 = true))
      ∧ t.ctl.lastSample = value ∧ (∀ a, t.byte a = s.byte a) ∧ t.queues = s.queues ∧ t.held = s.held ∧ t.staged = s.staged)
    ∧ (∀ (d : Int) (s : State), s.ctl.resetOn = false → s.ctl.offsetReq = some d →
      let free : State := { s with ctl := { s.ctl with offsetReq := none } }
      exec (.powerAnswer true) s
          = .next (((free.setFld rAgeStatus 0 8 (unsigned 8 (signed 8 (s.fld rAgeStatus 0 8) + d))).setFld rAgeStatus 16 1 0).settled)
      ∧ exec (.powerAnswer false) s = .next (((free.setFld rAgeStatus 16 1 1).raise causeMarginLost).settled)
      ∧ (s.firmware = true → s.ctl.offsetAt + 1000000 ≤ s.now → exec .powerManagerTimeout s = .next ((s.raise causeHealth).settled)))

/-! ### The control bus and the registers -/

/-- Every access that the bus refuses answers 0 with a bus error, and LGX_BUS_ERR keeps its offset, its kind and the count
(R401): kind 1 for a refused width, 2 for a unit that is not awake, and the kind that `target` gives an offset. Model
choices: DEDUCED, log 84. -/
def Obligations.BusErrors : Prop :=
  ∀ (o width : Nat) (isWrite : Bool) (s : State), s.ctl.resetOn = false → o < 0x400000 → ∀ kind,
    (width ≠ 32 ∧ width ≠ 64 ∧ kind = 1)
      ∨ ((width = 32 ∨ width = 64) ∧ target o (width == 64) = .bad kind)
      ∨ ((width = 32 ∨ width = 64) ∧ (∀ k, target o (width == 64) ≠ .bad k) ∧ s.awake (wakeOf o) = false ∧ kind = 2) →
    ∃ t, exec (.busErrorAccess o width isWrite) s = .next t ∧ t.bus = { data := 0, error := true }
      ∧ t.fld rBusErr 0 22 = o ∧ t.fld rBusErr 22 2 = kind % 4 ∧ t.fld rBusErr 32 16 = min 65535 (s.fld rBusErr 32 16 + 1)
      ∧ (∀ o', o' ≠ rBusErr → o' ≠ rEvtStatus → (∀ k < 8, o' ≠ rEvwCfg k) → t.rd o' = s.rd o')
      ∧ t.mem = s.mem ∧ t.queues = s.queues ∧ t.cmds = s.cmds ∧ t.staged = s.staged

/-- A write of one register or of one bit through its alias (R404 to R407, R412, R414): fields of class `now` take the value
at once, step-class fields are staged while a job is open and applied at once while none is, router-class fields are staged,
fields that may not be written, and all those of a unit that the grade lacks, keep their value, and no other register
changes but LGX_LOCK and LGX_CFG_CTL. A 64-bit write of two registers writes both, the lower first, and one into a request
area takes effect while its pair is not BUSY and counts as ignored while it is (R373, R401). Model choices: DEDUCED, log 83;
DEDUCED, log 85. -/
def Obligations.RegisterWrites : Prop :=
  (∀ (o : Nat) (wide : Bool) (value : Word) (p : Part) (r : RegRow) (s : State),
    (target o wide = .regs [p] ∨ target o wide = .single p) → plainKey p.key = true → rowAt p.key = some r →
    requestPair o = none → s.awake (wakeOf o) = true →
    let v := p.place (if target o wide = .single p then value.toNat % 2 else if wide then value.toNat else value.toNat % 2 ^ 32)
    let locked := s.fld rLock 0 1 == 1
    let can := fun (c : Applied) => if s.absentReg p.key then 0 else p.mask &&& r.classMask c locked
    ∃ t, exec (.registerWrite o wide value) s = .next t ∧ t.bus = { data := 0, error := false }
      ∧ t.rd p.key &&& can .now = v &&& can .now
      ∧ (s.job.isOpen = false → t.rd p.key &&& can .step = v &&& can .step)
      ∧ (s.job.isOpen = true → t.rd p.key &&& can .step = s.rd p.key &&& can .step ∧ t.stagedValue p.key &&& can .step = v &&& can .step)
      ∧ t.rd p.key &&& can .packet = s.rd p.key &&& can .packet ∧ t.stagedValue p.key &&& can .packet = v &&& can .packet
      ∧ (p.key ≠ rLock → p.key ≠ rCfgCtl → p.key ≠ rEvtStatus → t.rd p.key &&& ~~~(can .now ||| can .step) = s.rd p.key &&& ~~~(can .now ||| can .step))
      ∧ (∀ o', o' ≠ p.key → o' ≠ rLock → o' ≠ rCfgCtl → o' ≠ rEvtStatus → (∀ k < 8, o' ≠ rEvwCfg k) → t.rd o' = s.rd o')
      ∧ t.mem = s.mem ∧ t.queues = s.queues ∧ t.cmds = s.cmds ∧ t.ports = s.ports)
    ∧ ∀ (o : Nat) (wide : Bool) (value : Word) (ps : List Part) (s : State), target o wide = .regs ps → s.awake (wakeOf o) = true →
      let v := if wide then value.toNat else value.toNat % 2 ^ 32
      (∀ a b, ps = [a, b] → requestPair o = none → exec (.registerWrite o wide value) s
        = .next ((((s.writeReg a.key (a.place v) a.mask).writeReg b.key (b.place v) b.mask).respond 0).settled))
      ∧ ∀ m, requestPair o = some m → (s.mbxBusy m = true → exec (.registerWrite o wide value) s
            = .next (((s.sat (rMbxState m) 8 8 1).respond 0).settled))
          ∧ ∀ p, ps = [p] → s.mbxBusy m = false → exec (.registerWrite o wide value) s
            = .next (((s.merge p.key (p.place v) p.mask).respond 0).settled)

/-- A write and an add of an event counter (R390, R391): the counter holds the value, or the sum mod 2^64, and the access is
answered; an armed watch of that counter fires and raises COUNTER_WATCH when the new value reaches its own, and does not
below it (R392); no other register but those of the watches changes. -/
def Obligations.EventCounters : Prop :=
  ∀ (c : Nat) (v new : Word) (i : Instr) (s : State), c < 256 → s.awake 3 = true →
    (i = .eventCounterWrite c v ∧ new = v) ∨ (i = .eventCounterAdd c v ∧ new = s.rd (rEvc c) + v) →
    ∃ t, exec i s = .next t ∧ t.rd (rEvc c) = new ∧ t.bus = { data := 0, error := false }
      ∧ (∀ k < 8, let cfg := (s.rd (rEvwCfg k)).toNat
          bitsAt cfg 0 8 = c → bitAt cfg 8 = true → bitAt cfg 9 = false → s.ctl.watchRead.getD k false = false →
          ((s.rd (rEvwVal k)).toNat ≤ new.toNat →
            bitAt (t.rd (rEvwCfg k)).toNat 9 = true ∧ (t.rd rEvtStatus).getLsbD 28 = true)
          ∧ (new.toNat < (s.rd (rEvwVal k)).toNat → t.rd (rEvwCfg k) = s.rd (rEvwCfg k)))
      ∧ (∀ o, o ≠ rEvc c → o ≠ rEvtStatus → (∀ k < 8, o ≠ rEvwCfg k) → t.rd o = s.rd o)
      ∧ t.mem = s.mem ∧ t.queues = s.queues ∧ t.cmds = s.cmds ∧ t.staged = s.staged ∧ t.ports = s.ports

/-- A counter watch (R392): an enabled one sets FIRED and raises COUNTER_WATCH when its counter reaches at least its value,
and does not below it; it fires once, whatever the counter then holds; and it is armed again when FIRED has been read and a
new value written. -/
def Obligations.CounterWatches : Prop :=
  ∀ (k : Nat) (v : Word) (s : State), k < 8 → s.awake 3 = true →
    let cfg := (s.rd (rEvwCfg k)).toNat
    let c := bitsAt cfg 0 8
    (bitAt cfg 8 = true → bitAt cfg 9 = false → s.ctl.watchRead.getD k false = false →
      (s.rd (rEvwVal k)).toNat ≤ v.toNat →
      ∃ t, exec (.eventCounterWrite c v) s = .next t ∧ bitAt (t.rd (rEvwCfg k)).toNat 9 = true
        ∧ (t.rd rEvtStatus).getLsbD 28 = true)
    ∧ (bitAt cfg 8 = false ∨ v.toNat < (s.rd (rEvwVal k)).toNat →
      ∃ t, exec (.eventCounterWrite c v) s = .next t ∧ t.rd (rEvwCfg k) = s.rd (rEvwCfg k))
    ∧ (bitAt cfg 9 = true ∨ s.ctl.watchRead.getD k false = true →
      ∃ t, exec (.eventCounterWrite c v) s = .next t ∧ t.rd (rEvwCfg k) = s.rd (rEvwCfg k)
        ∧ t.ctl.watchRead.getD k false = s.ctl.watchRead.getD k false)
    ∧ (bitAt cfg 9 = true → ∃ t, exec (.registerReadClear (rEvwCfg k) false) s = .next t
        ∧ bitAt (t.rd (rEvwCfg k)).toNat 9 = false ∧ t.ctl.watchRead.getD k false = true)
    ∧ (bitAt cfg 8 = true → bitAt cfg 9 = false → s.ctl.watchRead.getD k false = true →
      ∃ t, exec (.registerWrite (rEvwVal k) true v) s = .next t ∧ t.ctl.watchRead.getD k false = false
        ∧ t.rd (rEvwVal k) = v ∧ (bitAt (t.rd (rEvwCfg k)).toNat 9 = true ↔ v.toNat ≤ (s.rd (rEvc c)).toNat))

/-- The registers of a unit that the grade lacks (R402): reads answer 0, writes change nothing but the count of writes that
the lock ignored (R412), and neither is a bus error; LGX_CAP0 says that Carding and the Feed expander are present, on every
grade but X4-B. -/
def Obligations.AbsentUnits : Prop :=
  ∀ (o : Nat) (wide : Bool) (value : Word) (ps : List Part) (s : State), s.Inv → s.awake (wakeOf o) = true → requestPair o = none →
    (target o wide = .regs ps ∨ ∃ p, target o wide = .single p ∧ ps = [p]) → (∀ p ∈ ps, s.absentReg p.key = true) →
    (∃ t, exec (.registerReadClear o wide) s = .next t ∧ t.bus = { data := 0, error := false } ∧ (∀ k, t.rd k = s.rd k)
      ∧ t.staged = s.staged ∧ t.mem = s.mem ∧ t.queues = s.queues ∧ t.ports = s.ports ∧ t.cmds = s.cmds)
    ∧ (∃ t, exec (.registerWrite o wide value) s = .next t ∧ t.bus = { data := 0, error := false }
      ∧ (∀ k, k ≠ rLock → t.rd k = s.rd k) ∧ t.staged = s.staged ∧ t.mem = s.mem ∧ t.queues = s.queues ∧ t.ports = s.ports
      ∧ t.cmds = s.cmds)
    ∧ (bitAt (s.view rCap0).toNat 4 = true ↔ s.grade ≠ .b) ∧ (bitAt (s.view rCap0).toNat 5 = true ↔ s.grade ≠ .b)

/-- A read answers the value of the register at one moment and clears the RC bits of it that it returned as 1; through an
alias, one bit, and only a flag is cleared (R413, R414); a 64-bit read of two registers does so with both (R401). The
premise is the invariant of StepKeepsInv. -/
def Obligations.ReadsClear : Prop :=
  (∀ (o : Nat) (wide : Bool) (p : Part) (alone : Bool) (s : State), s.Inv → s.awake (wakeOf o) = true →
    target o wide = (if alone then .single p else .regs [p]) →
    ∃ t, exec (.registerReadClear o wide) s = .next t
      ∧ t.bus = { data := BitVec.ofNat 64 (p.take (s.view p.key).toNat), error := false }
      ∧ t.rd p.key = s.rd p.key &&& ~~~(s.view p.key &&& p.mask &&& rcMask p.key alone)
      ∧ (∀ o', o' ≠ p.key → t.rd o' = s.rd o') ∧ t.mem = s.mem ∧ t.queues = s.queues ∧ t.cmds = s.cmds ∧ t.staged = s.staged)
    ∧ ∀ (o : Nat) (a b : Part) (s : State), s.Inv → s.awake (wakeOf o) = true → target o true = .regs [a, b] →
      ∃ t, exec (.registerReadClear o true) s = .next t
        ∧ t.bus = { data := BitVec.ofNat 64 (a.take (s.view a.key).toNat + b.take (s.view b.key).toNat), error := false }
        ∧ t.rd a.key = s.rd a.key &&& ~~~(s.view a.key &&& a.mask &&& rcMask a.key false)
        ∧ t.rd b.key = s.rd b.key &&& ~~~(s.view b.key &&& b.mask &&& rcMask b.key false)
        ∧ (∀ o', o' ≠ a.key → o' ≠ b.key → t.rd o' = s.rd o') ∧ t.mem = s.mem ∧ t.queues = s.queues ∧ t.cmds = s.cmds

/-- The lock is set by a write of 1 and stays: while it holds, a write of LGX_LOCK changes nothing and counts as ignored
(R412). Model choices: DEDUCED, log 83. -/
def Obligations.Lock : Prop :=
  ∀ (value : Bool) (s : State), s.awake 1 = true → ∃ t, exec (.lockWrite value) s = .next t ∧ t.bus = { data := 0, error := false }
    ∧ (s.fld rLock 0 1 = 0 → t.fld rLock 0 1 = b2n value ∧ t.fld rLock 8 8 = s.fld rLock 8 8)
    ∧ (s.fld rLock 0 1 = 1 → t.fld rLock 0 1 = 1 ∧ t.fld rLock 8 8 = min 255 (s.fld rLock 8 8 + 1))
    ∧ (∀ o, o ≠ rLock → o ≠ rCfgCtl → o ≠ rEvtStatus → (∀ k < 8, o ≠ rEvwCfg k) → t.rd o = s.rd o)
    ∧ t.mem = s.mem ∧ t.queues = s.queues ∧ t.cmds = s.cmds

/-- A write of the CRC reference (R411): with CHECK on and no update outstanding it is compared with the CRC at once, and an
equal one clears MISMATCH and BLOCKING; with an update outstanding the comparison waits for it. CFG_CRC_UPDATE ends the
update. Model choices: DEDUCED, log 81. -/
def Obligations.ConfigCrc : Prop :=
  ∀ (value : BitVec 32) (s : State), s.awake 1 = true →
    (∃ t, exec (.cfgRefWrite value) s = .next t ∧ t.fld rCfgRef 0 32 = value.toNat ∧ t.fld rCfgCrc 0 32 = s.fld rCfgCrc 0 32
      ∧ (s.fld rCfgCtl 0 1 = 1 ∧ s.fld rCfgCtl 3 1 = 0 → t.fld rCfgCtl 1 1 = (if s.fld rCfgCrc 0 32 = value.toNat then 0 else 1)
          ∧ (s.fld rCfgCrc 0 32 = value.toNat → t.fld rCfgCtl 2 1 = 0))
      ∧ (s.fld rCfgCtl 0 1 = 1 ∧ s.fld rCfgCtl 3 1 = 1 → t.ctl.refCompare = true ∧ t.rd rCfgCtl = s.rd rCfgCtl)
      ∧ (s.fld rCfgCtl 0 1 = 0 → t.rd rCfgCtl = s.rd rCfgCtl) ∧ t.mem = s.mem)
    ∧ ∃ t, exec .cfgCrcUpdate s = .next t ∧ t.fld rCfgCtl 3 1 = 0 ∧ t.fld rCfgCrc 0 32 = (crc32c (s.cfgStream s.rd)).toNat
      ∧ t.fld rCfgCrc 32 32 = (crc32c (s.cfgStream s.stagedValue)).toNat ∧ t.ctl.refCompare = false ∧ t.mem = s.mem
      ∧ (∀ o, o ≠ rCfgCrc → o ≠ rCfgCtl → o ≠ rEvtStatus → (∀ k < 8, o ≠ rEvwCfg k) → t.rd o = s.rd o)

/-- A boundary applies the staged values of its block and takes them off, and no others: those of a port or the Router at a
packet boundary, those of a queue at a descriptor boundary (R404); STAGED_CANCEL discards those of the register that
LGX_STAGED_ADDR names (R408). Model choices: DEDUCED, log 89. -/
def Obligations.Boundaries : Prop :=
  ∀ (n : Nat) (s : State), s.allAwake = true →
    (n ≤ 16 → ∃ t, exec (.packetBoundaryApply n) s = .next t
      ∧ t.staged = s.staged.filter (fun e => !(decide (classOf e.1 = .packet) && packetBlock e.1 == n))
      ∧ (n = 16 → ∀ k v m, s.staged = [(k, v, m)] → classOf k = .packet → packetBlock k = 16 → k ≠ rCfgCtl → k ≠ rEvtStatus →
          (∀ j < 8, k ≠ rEvwCfg j) → t.rd k = (s.rd k &&& ~~~m) ||| (v &&& m))
      ∧ t.mem = s.mem ∧ t.queues = s.queues)
    ∧ (n < 64 → ∃ t, exec (.descriptorBoundaryApply n) s = .next t
      ∧ t.staged = s.staged.filter (fun e => !(decide (classOf e.1 = .descriptor) && queueOf e.1 == n))
      ∧ (∀ k v m, s.staged = [(k, v, m)] → classOf k = .descriptor → queueOf k = n → k ≠ rCfgCtl → k ≠ rEvtStatus →
          (∀ j < 8, k ≠ rEvwCfg j) → t.rd k = (s.rd k &&& ~~~m) ||| (v &&& m))
      ∧ t.mem = s.mem ∧ t.queues = s.queues ∧ t.ports = s.ports)
    ∧ ∀ k, s.viewed = some k → exec .stagedCancel s
        = .next (((({ s with staged := smErase k s.staged } : State).setFld rCfgCtl 3 1 1).respond 0).settled)

/-- A write of a register that another command names is that command: TAIL, CTL and ENABLE of a queue, the event counters,
the lock, the CRC reference, the staged-value control, the epoch and the chip's address; a doorbell of a pair that is not
BUSY copies the request, and sets BUSY unless the request is serial and another pair is BUSY with a serial one: that is
answered BUSY (R372, R374, R380, R385, R386, R390, R408, R411, R412). Model choices: DEDUCED, log 82; DEDUCED, log 91. -/
def Obligations.RegisterWriteActs : Prop :=
  ∀ (v : Word) (s : State),
    (∀ q < 64, exec (.registerWrite (rQTail q) false v) s = exec (.queueDoorbell q (v.setWidth 32)) s
      ∧ exec (.registerWrite (rQCtl q) false 1) s = exec (.queueResume q) s
      ∧ exec (.registerWrite (rQCtl q) false 2) s = exec (.queueAbort q) s)
    ∧ (∀ c < 256, exec (.registerWrite (rEvc c) true v) s = exec (.eventCounterWrite c v) s
      ∧ exec (.registerWrite (rEvcAdd c) true v) s = exec (.eventCounterAdd c v) s)
    ∧ (∀ m < 4, s.awake 2 = true → s.mbxBusy m = false → s.spindle.closed = false →
        let r := s.requestArea m
        let turned := (s.spindle.loaded = true ∨ rqOpcode r = 0x0040) ∧ s.spindle.halted = false
          ∧ opcodeSerial (rqOpcode r) = some true ∧ s.serialBusy m = true
        v.toNat % 65536 = rqSeq r → leAt r 6 2 = complB 2 (rqOpcode r) → rqLen r ≤ 248 →
        ∃ t, exec (.registerWrite (rMbxDoorbell m) false v) s = .next t ∧ t.request m = r ∧ t.begun m = false
          ∧ (¬ turned → t.mbxBusy m = true)
          ∧ (turned → t.mbxBusy m = false ∧ t.fld (rMbxRsp m 1) 8 8 = stBusy ∧ (t.rd rEvtStatus).getLsbD 0 = true)
          ∧ t.fld (rMbxState m) 16 16 = rqSeq r ∧ (∀ k, k ≠ m → t.request k = s.request k) ∧ t.mem = s.mem ∧ t.cmds = s.cmds)
    ∧ (∀ b : Bool, exec (.registerWrite rLock false (if b then 1 else 0)) s = exec (.lockWrite b) s)
    ∧ exec (.registerWrite rCfgRef false v) s = exec (.cfgRefWrite (v.setWidth 32)) s
    ∧ exec (.registerWrite rStagedCtl false 1) s = exec .stagedCancel s
    ∧ exec (.registerWrite rFabEpoch false 16) s = exec .epochAdvance s
    ∧ exec (.registerWrite rFabSelf false v) s = exec (.fabSelfWrite (v.setWidth 20)) s

/-! ### Queues -/

/-- A doorbell (R380): a good TAIL is kept; one that moves backward, that holds more descriptors than the ring, or that
meets a bad ring size is refused, counted in BAD_DOORBELLS, and sets the queue's QERR bit. A running queue reads its next
descriptor and parameter block, at most eight ahead of HEAD (R383): the descriptor joins the fetched ones with the check it
fails, if any, and the index moves on mod 2^32; where either read returns the uncorrectable-error flag it fails with
DATA_ERROR and the memory-error event is raised (R39). A step of the ordinal count (R327) is part of it. Model choices:
DEDUCED, log 59; DEDUCED, log 65. -/
def Obligations.DoorbellsAndFetches : Prop :=
  (∀ (q : Nat) (tail : BitVec 32) (s : State), q < 64 → s.awake 3 = true →
      (s.badDoorbell q tail.toNat = false →
        exec (.queueDoorbell q tail) s = .next (((s.setFld (rQTail q) 0 32 tail.toNat).respond 0).settled))
      ∧ (s.badDoorbell q tail.toNat = true →
        exec (.queueDoorbell q tail) s = .next (((((s.sat (rQState q) 16 8 1).setFld rEvtQerr q 1 1)).respond 0).settled)))
    ∧ (∀ (q : Nat) (s : State), q < 64 → s.allAwake = true → (s.queue q).st = .running → s.ringOk q = true →
      (s.queue q).nextFetch ≠ s.fld (rQTail q) 0 32 → sub32 (s.queue q).nextFetch (s.fld (rQHead q) 0 32) ≤ 8 →
      (s.queue q).done.contains (s.queue q).nextFetch = false →
      let n := (s.queue q).nextFetch
      let d := s.read (s.descAt q n) 64
      let p := if usesBlock (dType d) then s.read (dParamAddr d) 128 else []
      ∃ t, exec (.descriptorFetch q) s = .next t
        ∧ (s.flagged (s.descAt q n) 64 = false → (usesBlock (dType d) = true → s.flagged (dParamAddr d) 128 = false) →
            (t.queue q).fetched = (s.queue q).fetched ++ [{ index := n, desc := d, param := p, fail := s.fetchFail d p }])
        ∧ (s.flagged (s.descAt q n) 64 = true ∨ (usesBlock (dType d) = true ∧ s.flagged (dParamAddr d) 128 = true) →
            (t.rd rEvtStatus).getLsbD 10 = true
            ∧ ∃ f, (t.queue q).fetched = (s.queue q).fetched ++ [f] ∧ f.index = n ∧ f.fail = some (stData, s.ownRank))
        ∧ (t.queue q).nextFetch = (n + 1) % 2 ^ 32 ∧ (t.queue q).st = .running
        ∧ (∀ k, k ≠ q → t.queue k = s.queue k) ∧ t.mem = s.mem ∧ t.cmds = s.cmds ∧ t.staged = s.staged)

/-- A queue in ERROR runs again after RESUME; after ABORT it runs with every descriptor up to TAIL that had not started
given up: nothing of it is fetched and the next fetch is at TAIL (R385). Both are answered on the bus. -/
def Obligations.ResumeAndAbort : Prop :=
  ∀ (q : Nat) (s : State), q < 64 → s.awake 3 = true → (s.queue q).st = .error →
    exec (.queueResume q) s = .next (((s.setQueue q { s.queue q with st := .running }).respond 0).settled)
    ∧ ∃ t, exec (.queueAbort q) s = .next t ∧ (t.queue q).st = .running ∧ (t.queue q).fetched = []
      ∧ (t.queue q).nextFetch = s.fld (rQTail q) 0 32 ∧ (t.queue q).onJob = false ∧ (∀ k, k ≠ q → t.queue k = s.queue k)
      ∧ t.cmds = s.cmds ∧ t.bus = { data := 0, error := false }
      ∧ (∀ f, (s.queue q).fetched = [f] → (s.queue q).nextFetch = s.fld (rQTail q) 0 32 →
          t.byte (s.descAt q f.index + 48) = BitVec.ofNat 8 (if f.reformed = true then stReformed else stAborted))

/-- ENABLE (R386): a disabled queue runs, with HEAD taken from TAIL; a running one or one in ERROR drains and is disabled
once nothing of it runs and no descriptor of it that a stop has named waits for its completion; what is staged for a queue
that becomes disabled applies at once (R404); a draining one records ENABLE as pending. Model choices: DEDUCED, log 14;
DEDUCED, log 60. -/
def Obligations.QueueEnable : Prop :=
  ∀ (q : Nat) (s : State), q < 64 → s.awake 3 = true →
    ((s.queue q).st = .disabled → ∃ t, exec (.queueEnableWrite q true) s = .next t ∧ (t.queue q).st = .running
      ∧ t.fld (rQHead q) 0 32 = s.fld (rQTail q) 0 32
      ∧ (t.queue q).nextFetch = t.fld (rQHead q) 0 32 ∧ (t.queue q).fetched = [] ∧ t.fld (rQCfg q) 5 1 = 1)
    ∧ ((s.queue q).st = .running ∨ (s.queue q).st = .error →
      let drained := s.inFlight q = 0 ∧ (s.queue q).fetched.any Fetched.reformed = false
      ∃ t, exec (.queueEnableWrite q false) s = .next t
        ∧ ((∀ e ∈ s.staged, e.1 ≠ rQCfg q) → t.fld (rQCfg q) 5 1 = 0)
        ∧ (drained → (t.queue q).st = if (s.queue q).enPend then .running else .disabled)
        ∧ (¬ drained → (t.queue q).st = .draining)
        ∧ (drained → (s.queue q).enPend = false →
            t.staged = s.staged.filter (fun e => !(decide (classOf e.1 = .descriptor) && queueOf e.1 == q)))
        ∧ (∀ k, k ≠ q → t.queue k = s.queue k))
    ∧ ((s.queue q).st = .draining →
      ∃ t, exec (.queueEnableWrite q true) s = .next t ∧ (t.queue q).st = .draining ∧ (t.queue q).enPend = true)

/-! ### Ports under register control -/

/-- A retrain takes a port DOWN with nothing of it left in the Router (R285, R287); the first write of the chip's address
keeps it and lets the ports whose links are up leave DOWN, and a later one is ignored and counted (R256, R412); an ADVANCE
while an epoch drains is pending, else the epoch moves on and drains the old one (R284). Model choices: DEDUCED, log 34. -/
def Obligations.FabricControl : Prop :=
  ∀ (s : State), s.awake 5 = true →
    (∀ p < 16, ∃ t, exec (.portRetrain p) s = .next t ∧ (t.port p).link = .down ∧ (t.port p).phyUp = false
      ∧ t.txq = s.txq.filter (fun x => !(x.inPort == some p)) ∧ (∀ k, k ≠ p → t.port k = s.port k) ∧ t.mem = s.mem ∧ t.cmds = s.cmds)
    ∧ (∀ phys : BitVec 20, (s.ctl.selfWritten = false → ∃ t, exec (.fabSelfWrite phys) s = .next t ∧ t.ctl.selfWritten = true
        ∧ t.fld rFabSelf 0 20 = phys.toNat ∧ t.mem = s.mem ∧ t.queues = s.queues)
      ∧ (s.ctl.selfWritten = true → exec (.fabSelfWrite phys) s = .next (((s.sat rLock 8 8 1).respond 0).settled)))
    ∧ (s.draining = true → exec .epochAdvance s = .next (((s.setFld rFabEpoch 3 1 1).respond 0).settled))
    ∧ (s.draining = false → ∃ t, exec .epochAdvance s = .next t ∧ t.epoch = (s.epoch + 1) % 4 ∧ t.draining = true
        ∧ t.fld rFabEpoch 3 1 = 0 ∧ t.epochInj = 0 ∧ t.epochEj = 0 ∧ t.mem = s.mem ∧ t.queues = s.queues)

/-! ### The test instruments -/

/-- The readouts work whatever LGX_DEBUG.ENABLE is: the laps of the canaries, and the health registers with the fault-event
counts (R429). An instrument that needs LGX_DEBUG.ENABLE is a one-bit bypass while it is 0 (R429). With it, the self-test
gives the mismatches of its resource as fault events, the march test of a bank in QUIESCED with no job open leaves the bank
zero, a loopback runs on a lane of a port that is held DOWN, the register port answers as the bus does, and Spindle halts.
The register port reads and writes as the control bus does, and the answer leaves through the test port (R429). Model
choices: DESIGN CHOICE, log 31; DEDUCED, log 88. -/
def Obligations.Instruments : Prop :=
  (∀ s : State, s.ctl.resetOn = false →
      exec .canaryReadout s = .next ((s.shiftOut
        (lapCount s.age.reference :: s.age.laps.flatMap (fun c => [c.word.toNat, lapCount c.period]))).settled)
      ∧ exec .healthReadout s = .next ((s.shiftOut
        ([(s.rd rRepStatus).toNat, (s.rd rAgeStatus).toNat] ++ s.resources.flatMap (fun w => [w.toNat, (s.eventsOf w).length]))).settled))
    ∧ (∀ s : State, s.ctl.resetOn = false →
      (s.fld rDebug 0 1 = 0 →
        ∀ i, (∃ w fs, i = Instr.selfTestStart w fs) ∨ (∃ g b f, i = Instr.sramMarchTest g b f) ∨ (∃ p l e, i = Instr.laneLoopback p l e)
          ∨ i = Instr.spindleHalt ∨ (∃ o w v, i = Instr.registerPort o w true v) →
        exec i s = .next ((s.shiftOut [0]).settled))
      ∧ (s.fld rDebug 0 1 = 1 →
        (∀ w fs, s.unitAbsent w = false → exec (.selfTestStart w fs) s
            = .next (((s.faults (fs.filter (selfTestOf w))).shiftOut [(fs.filter (selfTestOf w)).length]).settled))
        ∧ (∀ g b fail, s.ctl.st = .quiesced → s.job.isOpen = false → ∃ t, exec (.sramMarchTest g b fail) s = .next t
            ∧ t.jtag = [b2n fail] ∧ (∀ x, Config.bobbinBank x = 66 * g + b → t.bobWord x = bobbinDefault s.bobbinFree x)
            ∧ (∀ x, Config.bobbinBank x ≠ 66 * g + b → t.bobWord x = s.bobWord x))
        ∧ (∀ p l e, p < 16 → l < 9 → s.fld (rPortCtl p) 0 1 = 0 →
            exec (.laneLoopback p l e) s = .next ((s.shiftOut [e]).settled))
        ∧ (∃ t, exec .spindleHalt s = .next t ∧ t.spindle = { s.spindle with halted := true } ∧ t.mem = s.mem
            ∧ t.queues = s.queues ∧ t.cmds = s.cmds)))
    ∧ (∀ (o : Nat) (wide : Bool) (value : Word) (s : State), s.ctl.resetOn = false →
      exec (.registerPort o wide false value) s
          = .next (({ (effRegisterReadClear o wide s) with
              bus := s.bus, jtag := [(effRegisterReadClear o wide s).bus.data.toNat] } : State).settled)
      ∧ (s.fld rDebug 0 1 = 1 → exec (.registerPort o wide true value) s
          = .next (({ (effRegisterWrite o wide value s) with
              bus := s.bus, jtag := [(effRegisterWrite o wide value s).bus.data.toNat] } : State).settled)))

/-! ### The mailboxes -/

/-- A response (R372): the whole area holds the header with the opcode, sequence number and status of the request and then
the body; BUSY clears, DONE is set and MBX_DONE raised; no memory, queue or command changes. -/
def Obligations.Response : Prop :=
  ∀ (m st : Nat) (body : List Byte) (s : State), m < 4 → body.length ≤ 248 →
    let t := s.post m st body
    let b := toLE (rqOpcode (s.request m)) 2 ++ toLE (rqSeq (s.request m)) 2 ++ toLE body.length 1 ++ toLE st 1
      ++ toLE (complB 2 (rqOpcode (s.request m))) 2 ++ body
    (∀ k < 64, t.fld (rMbxRsp m k) 0 32 = leAt b (4 * k) 4) ∧ t.fld (rMbxState m) 0 1 = 0 ∧ t.fld (rMbxState m) 1 1 = 1
      ∧ (t.rd rEvtStatus).getLsbD 0 = true ∧ t.begun m = false ∧ t.mem = s.mem ∧ t.queues = s.queues ∧ t.cmds = s.cmds
      ∧ ∀ o, (∀ k < 64, o ≠ rMbxRsp m k) → o ≠ rMbxState m → o ≠ rEvtStatus → t.rd o = s.rd o

/-- Which mailbox commands are answered without their effect: the boot ROM takes two opcodes (R422), a second serial command
is BUSY (R374), and in QUIESCED those that start data movement are answered QUIESCED (R398). -/
def Obligations.MailboxRefusals : Prop :=
  ∀ (i : Instr) (op m : Nat) (s : State), mailboxOp i = some (op, m) → m < 4 → s.awake 2 = true → s.mbxBusy m = true →
    s.begun m = false → s.spindle.closed = false → s.spindle.halted = false → rqOpcode (s.request m) = op →
    (s.spindle.loaded = false ∧ op ≠ 0x0001 ∧ op ≠ 0x0040 → exec i s = .next ((s.postStatus m stUnsupported).settled))
    ∧ (s.spindle.loaded = true ∧ opcodeSerial op = some true ∧ s.serialRuns m = true → exec i s = .next ((s.postStatus m stBusy).settled))
    ∧ (s.spindle.loaded = true ∧ s.serialRuns m = false ∧ movesData op = true ∧ s.ctl.st = .quiesced →
        exec i s = .next ((s.postStatus m stQuiesced).settled))

/-- GET_INFO answers the firmware's versions, its security version and its build, zeros from the boot ROM; HEALTH_QUERY
answers three registers and the number of records and, with a destination, writes one record for each resource of the chip,
in order, and nothing else in memory; one whose destination is not aligned is INVALID_CONFIG; an opcode outside the table is
UNSUPPORTED (R376, R422). Model choices: DESIGN CHOICE, log 10; DEDUCED, log 68. -/
def Obligations.Queries : Prop :=
  ∀ (m : Nat) (s : State),
    (s.takes m 0x0001 → ∃ t, exec (.getInfo m) s = .next t ∧ s.answers t m stOk 8 ∧ t.mem = s.mem
      ∧ (s.spindle.loaded = true →
          t.fld (rMbxRsp m 2) 0 32 = s.spindle.minor % 256 + 256 * (s.spindle.major % 256) + 65536 * (s.spindle.svn % 65536)
          ∧ t.fld (rMbxRsp m 3) 0 32 = (Config.firmwareBuild s.free).toNat)
      ∧ (s.spindle.loaded = false → t.fld (rMbxRsp m 2) 0 32 = 0 ∧ t.fld (rMbxRsp m 3) 0 32 = 0))
    ∧ (s.takes m 0x0002 →
      let dest := rqAt (s.request m) 0 8
      (dest % 256 ≠ 0 → ∃ t, exec (.healthQuery m) s = .next t ∧ s.answers t m stInvalid 0 ∧ t.mem = s.mem)
      ∧ (dest % 256 = 0 → ∃ t, exec (.healthQuery m) s = .next t ∧ s.answers t m stOk 24
          ∧ t.fld (rMbxRsp m 2) 0 32 + 2 ^ 32 * t.fld (rMbxRsp m 3) 0 32 = (s.rd rAgeStatus).toNat
          ∧ t.fld (rMbxRsp m 4) 0 32 = s.fld rRepStatus 0 32
          ∧ t.fld (rMbxRsp m 5) 0 32 + 2 ^ 32 * t.fld (rMbxRsp m 6) 0 32 = (s.rd rCkpStatus).toNat
          ∧ t.fld (rMbxRsp m 7) 0 32 = (if dest = 0 then 0 else s.resources.length)
          ∧ (dest = 0 → t.mem = s.mem)
          ∧ (dest ≠ 0 → (∀ n w, s.resources[n]? = some w → t.read (dest + 16 * n) 16 = s.healthRecord w)
              ∧ ∀ a, (∀ k < 16 * s.resources.length, (dest + k) % 2 ^ 64 ≠ a % 2 ^ 64) → t.byte a = s.byte a)))
    ∧ (m < 4 → s.awake 2 = true → s.mbxBusy m = true → s.begun m = false → s.spindle.closed = false → s.spindle.halted = false →
      opcodeSerial (rqOpcode (s.request m)) = none →
      ∃ t, exec (.unsupportedOpcode m) s = .next t ∧ s.answers t m stUnsupported 0 ∧ t.mem = s.mem)

/-- OPEN_JOB (R376, R405): with no job open and a good range the job opens with the request's rank and range, the seed is
kept and the lanes start from it, and a step boundary to step 0 is taken. CLOSE_JOB with a job open and nothing of it
running or draining ends the job: its skein goes, a step boundary is taken, and the response gives no shortfall (R376,
R405). Model choices: DEDUCED, log 47. -/
def Obligations.Jobs : Prop :=
  (∀ (m : Nat) (s : State), s.takes m 0x0010 → s.job.isOpen = false →
      let r := s.request m
      rqAt r 10 2 ≤ rqAt r 12 2 → rqAt r 12 2 < 4096 →
      ∃ t, exec (.openJob m) s = .next t ∧ t.job.isOpen = true ∧ t.job.rank = rqAt r 8 2 ∧ t.job.first = rqAt r 10 2
        ∧ t.job.last = rqAt r 12 2 ∧ t.job.lastStep = none ∧ t.lanes = { started := true, seed := BitVec.ofNat 64 (rqAt r 0 8), drawn := [] }
        ∧ t.matchTx = [] ∧ t.matchRx = [] ∧ t.stepCur = 0 ∧ t.stepPrev = some s.stepCur
        ∧ t.rd rRndSeed = BitVec.ofNat 64 (rqAt r 0 8)
        ∧ t.fld (rMbxRsp m 1) 8 8 = stOk ∧ t.mbxBusy m = false ∧ t.mem = s.mem ∧ t.queues = s.queues ∧ t.cmds = s.cmds)
    ∧ (∀ (m : Nat) (s : State), s.takes m 0x0011 → (∀ k < 4, k ≠ m → s.begun k = false) → s.job.isOpen = true →
      s.cmds = [] → s.drains = [] → s.pends = [] → s.restore = none → (∀ q < 64, s.queueIdle q) →
      ∃ t, exec (.closeJob m) s = .next t ∧ t.job.isOpen = false ∧ t.skein = none ∧ t.stepPrev = some s.stepCur ∧ t.stepCur = s.stepCur
        ∧ t.fld (rMbxRsp m 1) 8 8 = stOk ∧ t.fld (rMbxRsp m 2) 0 32 = 0 ∧ t.mbxBusy m = false ∧ t.mem = s.mem ∧ t.queues = s.queues)

/-- SET_RANKS copies the entries into the rank-translation table and zeroes the window table (R376). REFORM_GROUP with
nothing running keeps the new table for its range beside those of other ranges, the window entries of the ranks it lost
start from zero (R433), and it is answered with no shortfall (R250, R376). Where a read of what they name returns the
uncorrectable-error flag, nothing of it is used and the answer is DATA_ERROR (R39). Model choices: DEDUCED, log 71. -/
def Obligations.Groups : Prop :=
  (∀ (m : Nat) (s : State), s.takes m 0x0012 → s.cmds = [] →
      let r := s.request m
      rqAt r 8 2 + rqAt r 10 4 ≤ 65536 →
      (s.flagged (rqAt r 0 8) (8 * rqAt r 10 4) = true →
        exec (.setRanks m) s = .next (((s.raise causeMemory).postStatus m stData).settled))
      ∧ (s.flagged (rqAt r 0 8) (8 * rqAt r 10 4) = false →
      ∃ t, exec (.setRanks m) s = .next t ∧ t.mbxBusy m = false ∧ t.fld (rMbxRsp m 1) 8 8 = stOk
        ∧ (∀ k < rqAt r 10 4, t.rd (rRank (rqAt r 8 2 + k)) = BitVec.ofNat 64 (s.readNat (rqAt r 0 8 + 8 * k) 8))
        ∧ (∀ n < 65536, n < rqAt r 8 2 ∨ rqAt r 8 2 + rqAt r 10 4 ≤ n → t.rd (rRank n) = s.rd (rRank n))
        ∧ (∀ a, t.byte a = if (a % 2 ^ 64 + 2 ^ 64 - s.winAt 0) % 2 ^ 64 < 65536 * 64 then 0 else s.byte a) ∧ t.queues = s.queues))
    ∧ (∀ (m : Nat) (s : State), s.takes m 0x0015 → (∀ k < 4, k ≠ m → s.begun k = false) → s.job.isOpen = true →
      s.cmds = [] → s.drains = [] → s.outbox = [] → s.pends = [] → s.restore = none → (∀ q < 64, s.queueIdle q) →
      let r := s.request m
      let table := s.read (rqAt r 8 8) (16 + 8 * s.readNat (rqAt r 8 8) 2)
      rqAt r 0 2 ≤ rqAt r 2 2 → rqAt r 2 2 < 4096 → rqAt r 4 4 = 0 →
      (s.flagged (rqAt r 8 8) table.length = true →
        exec (.reformGroup m) s = .next (((s.raise causeMemory).postStatus m stData).settled))
      ∧ (s.flagged (rqAt r 8 8) table.length = false → tableBad table = false →
      ∃ t, exec (.reformGroup m) s = .next t ∧ t.job.reforms = (table, rqAt r 0 2, rqAt r 2 2) :: s.job.reforms
        ∧ (∀ x ∈ s.lostIn (rqAt r 0 2) (rqAt r 2 2) table, ∀ k < 64, t.byte (s.winAt x + k) = 0)
        ∧ t.job.isOpen = true ∧ t.fld (rMbxRsp m 1) 8 8 = stOk ∧ t.fld (rMbxRsp m 2) 0 32 = 0 ∧ t.mbxBusy m = false ∧ t.queues = s.queues))

/-- LOAD_SKEIN (R376, R377): a good image is loaded at once while none appends and pends while one does, in place of a load
that already pends, which counts as lost; the response gives the number of entries. A skein that breaks a rule is
INVALID_CONFIG, and one with a wrong check value or a descriptor that fails a check is DATA_ERROR. LOAD_PROGRAM (R195, R376,
R377): a good program is loaded at once when no undecided step names its slot, and pends otherwise; a bad one is
INVALID_CONFIG. Where a read of an image returns the uncorrectable-error flag, nothing of it is used and the answer is
DATA_ERROR (R39). Model choices: DEDUCED, log 71; DEDUCED, log 105. -/
def Obligations.Loads : Prop :=
  ∀ (m : Nat) (s : State),
    (s.takes m 0x0013 →
      let addr := rqAt (s.request m) 0 8
      let len := rqAt (s.request m) 8 4
      let img := s.read addr len
      let n := skeinCount img
      let lost := s.anyFlagged ((addr, len) :: (if s.flagged addr len then [] else s.skeinTableAreas img))
      let shape := leAt img 0 2 = 1 ∧ n ≠ 0 ∧ n ≤ 4096 ∧ 64 + 256 * n ≤ len ∧ skeinReservedOk img = true ∧ s.skeinTablesBad img = false
      let whole := leAt img 4 4 = (crc32c (patchB img 4 (toLE 0 4))).toNat
        ∧ ∀ e < n, descFault (sliceB (skeinEntry img e) 0 64) = none
      (lost = true → ∃ t, exec (.loadSkein m) s = .next t ∧ s.answers t m stData 0 ∧ (t.rd rEvtStatus).getLsbD 10 = true
          ∧ t.skein = s.skein ∧ t.pends = s.pends ∧ t.mem = s.mem)
      ∧ (lost = false → ¬ shape → ∃ t, exec (.loadSkein m) s = .next t ∧ s.answers t m stInvalid 0
          ∧ t.skein = s.skein ∧ t.pends = s.pends ∧ t.mem = s.mem)
      ∧ (lost = false → shape → ¬ whole → ∃ t, exec (.loadSkein m) s = .next t ∧ s.answers t m stData 0
          ∧ t.skein = s.skein ∧ t.pends = s.pends ∧ t.mem = s.mem)
      ∧ (lost = false → shape → whole → s.appending = false → ∃ t, exec (.loadSkein m) s = .next t ∧ s.answers t m stOk 2
          ∧ t.fld (rMbxRsp m 2) 0 32 = n ∧ t.skein = some (addr, img) ∧ t.replayStale = true ∧ t.fld rCfgCtl 3 1 = 1
          ∧ t.pends = s.pends ∧ t.mem = s.mem)
      ∧ (lost = false → shape → whole → s.appending = true → ∃ t, exec (.loadSkein m) s = .next t ∧ s.answers t m stPending 2
          ∧ t.fld (rMbxRsp m 2) 0 32 = n ∧ t.skein = s.skein ∧ t.mem = s.mem
          ∧ t.pends = s.pends.filter (fun x => x.slot.isSome) ++ [{ slot := none, image := img, addr := addr, pair := m }]
          ∧ (s.pends.any (fun x => x.slot.isNone) = true →
              t.fld rCtlInputs 8 8 = min 255 (s.fld rCtlInputs 8 8 + 1) ∧ (t.rd rEvtStatus).getLsbD 29 = true)
          ∧ (s.pends.any (fun x => x.slot.isNone) = false → t.rd rCtlInputs = s.rd rCtlInputs)))
    ∧ (s.takes m 0x0014 →
      let slot := rqAt (s.request m) 0 1
      let src := rqAt (s.request m) 8 8
      let img := s.read src 512
      let good := slot < 16 ∧ rqAt (s.request m) 1 7 = 0 ∧ progOk img = true
      (s.flagged src 512 = true → ∃ t, exec (.loadProgram m) s = .next t ∧ s.answers t m stData 0
          ∧ (t.rd rEvtStatus).getLsbD 10 = true ∧ t.progs = s.progs ∧ t.pends = s.pends ∧ t.mem = s.mem)
      ∧ (s.flagged src 512 = false → ¬ good → ∃ t, exec (.loadProgram m) s = .next t ∧ s.answers t m stInvalid 0
          ∧ t.progs = s.progs ∧ t.pends = s.pends ∧ t.mem = s.mem)
      ∧ (s.flagged src 512 = false → good → s.slotNamed slot = false → ∃ t, exec (.loadProgram m) s = .next t
          ∧ s.answers t m stOk 0 ∧ t.progs.getD slot none = some img ∧ (∀ k, k ≠ slot → t.progs.getD k none = s.progs.getD k none)
          ∧ t.replayStale = true ∧ t.fld rCfgCtl 3 1 = 1 ∧ t.pends = s.pends ∧ t.mem = s.mem)
      ∧ (s.flagged src 512 = false → good → s.slotNamed slot = true → ∃ t, exec (.loadProgram m) s = .next t
          ∧ s.answers t m stPending 0 ∧ t.progs = s.progs ∧ t.mem = s.mem
          ∧ t.pends = s.pends.filter (fun x => x.slot != some slot) ++ [{ slot := some slot, image := img, addr := src, pair := m }]))

/-- ROUTE_CHANGE moves on the epoch and waits for the epoch it left (R284, R376); CHECKPOINT of an open job joins the image
in progress, waits for the last applied step, or is answered at once when that step is committed (R341, R376). CKP_POLICY
(R376): good values become LGX_CKP_POLICY, SCOPE, BASE and SIZE at once while no job is open, and are staged for the next
step boundary while one is (R405). RESTORE with nothing running and no image in progress begins: the pair lasts, this chip's
inventory is sent to every other member of the group, and the restore waits for the inventories of the other survivors
(R347, R350, R376). Model choices: DEDUCED, log 69; DEDUCED, log 71; DEDUCED, log 87. -/
def Obligations.CheckpointCommands : Prop :=
  (∀ (m : Nat) (s : State),
      (s.takes m 0x0016 → exec (.routeChange m) s = .next (((effEpochAdvance s).begin m
        (if s.draining then (s.epoch + 2) % 4 else (s.epoch + 1) % 4) []).settled))
      ∧ (s.takes m 0x0021 → s.job.isOpen = true →
        let wait := fun (t : Nat) => ({ (s.begin m 0 []) with ckp := { s.ckp with pairs := s.ckp.pairs ++ [(m, t)] } } : State)
        (∀ i, s.ckp.image = some i → i.badTwice = false → exec (.checkpoint m) s = .next ((wait i.step).settled))
        ∧ (∀ t, s.ckp.image = none → s.job.lastStep = some t →
            exec (.checkpoint m) s = .next ((if s.fld rCkpStatus 48 1 = 1 ∧ s.fld rCkpStatus 0 48 = t then s.post m stOk (toLE t 8)
              else wait t).settled))))
    ∧ (∀ (m : Nat) (s : State), s.takes m 0x0020 →
      let r := s.request m
      ckpRefused (rqAt r 0 8) (rqAt r 8 8) (rqAt r 16 8) (rqAt r 24 8) = false →
      ∃ t, exec (.ckpPolicy m) s = .next t ∧ t.mbxBusy m = false ∧ t.fld (rMbxRsp m 1) 8 8 = stOk ∧ t.mem = s.mem ∧ t.cmds = s.cmds
        ∧ (s.job.isOpen = false → t.rd rCkpPolicy = BitVec.ofNat 64 (rqAt r 0 8) ∧ t.rd rCkpScope = BitVec.ofNat 64 (rqAt r 8 8)
            ∧ t.rd rCkpBase = BitVec.ofNat 64 (rqAt r 16 8) ∧ t.rd rCkpSize = BitVec.ofNat 64 (rqAt r 24 8))
        ∧ (s.job.isOpen = true → t.rd rCkpPolicy = s.rd rCkpPolicy ∧ t.stagedValue rCkpPolicy = BitVec.ofNat 64 (rqAt r 0 8)
            ∧ t.rd rCkpSize = s.rd rCkpSize ∧ t.stagedValue rCkpSize = BitVec.ofNat 64 (rqAt r 24 8)))
    ∧ (∀ (m : Nat) (s : State), s.takes m 0x0022 → (∀ k < 4, k ≠ m → s.begun k = false) →
      s.job.isOpen = true → s.cmds = [] → s.drains = [] → s.pends = [] → s.ckp.image = none → (∀ q < 64, s.queueIdle q) →
      rqAt (s.request m) 0 1 < 4 → rqAt (s.request m) 1 1 = 0 → rqAt (s.request m) 2 2 = 0xFFFF →
      let x : Restore := {
        pair := m, startedAt := s.now, engineCause := bitAt (rqAt (s.request m) 0 1) 0, migrate := bitAt (rqAt (s.request m) 0 1) 1
        lost := 0xFFFF, own := some s.ownInventory, chosen := none, source := 0, rows := [], loaded := false, served := [] }
      (∃ q ∈ s.survivors x, s.ckp.inv.any (fun y => y.1 == q) = false) →
      ∃ t, exec (.restore m) s = .next t ∧ t.restore = some x ∧ t.begun m = true ∧ t.mbxBusy m = true
        ∧ t.sent = s.sent ++ ((s.ckpRanks (s.rd rCkpPolicy).toNat).filter (fun q => q != s.job.rank)).map
            (fun q => Msg.inventory q s.ownInventory s.ckp.failed)
        ∧ t.queues = s.queues ∧ t.cmds = s.cmds)

/-- REPAIR_REPORT writes the map of the spares in use; REPAIR takes a spare for a good resource word whatever HOLD is, and
answers EXHAUSTED when there is none (R360, R376). LOAD_REPAIR_MAP with no job open takes the map in memory; a bad
complement is DATA_ERROR with REPAIR_MAP raised. FW_UPDATE takes an image whose header and signature are good: its versions
are the ones that run; the signature's verdict is free (DESIGN CHOICE, log 10), a bad one is answered SIGNATURE (R363, R376,
R379). Model choices: DEDUCED, log 70; DEDUCED, log 74. -/
def Obligations.RepairAndFirmware : Prop :=
  (∀ (m : Nat) (s : State),
      (s.takes m 0x0030 → exec (.repairReport m) s = .next (((s.write (rqAt (s.request m) 0 8)
        (s.rep.inUse.flatMap (fun w => toLE (mapEntry w) 8))).post m stOk (toLE s.rep.inUse.length 4)).settled))
      ∧ (s.takes m 0x0031 →
        let w := BitVec.ofNat 32 (rqAt (s.request m) 0 4)
        wordOkRes w = true → s.unitAbsent w = false →
        (∀ sp, s.freeSpare (resType w) (resUnit w) = some sp →
          let t := s.takeSpare (resType w) (resUnit w) (resIndex w) sp
          exec (.repair m) s = .next ((t.post m stOk (toLE ((t.rep.inUse.getLast?).getD 0).toNat 4)).settled))
        ∧ (resType w ≠ 5 → resType w ≠ 6 → s.freeSpare (resType w) (resUnit w) = none → exec (.repair m) s = .next ((s.postStatus m stExhausted).settled))))
    ∧ (∀ (m : Nat) (s : State), s.job.isOpen = false →
      (s.takes m 0x0032 →
        let x := s.readMap (s.fld rRepMapBase 16 48 * 65536) 8192
        s.flagged (s.fld rRepMapBase 16 48 * 65536) (8 * min 8192 (x.1.length + 1)) = false →
        (x.2 = true → exec (.loadRepairMap m) s = .next (((s.raise causeRepairMap).postStatus m stData).settled))
        ∧ (x.2 = false → ∃ t, exec (.loadRepairMap m) s = .next t ∧ t.rep.inUse = x.1 ∧ t.mbxBusy m = false ∧ t.mem = s.mem
            ∧ t.fld (rMbxRsp m 1) 8 8 = stOk))
      ∧ (s.takes m 0x0040 →
        let src := rqAt (s.request m) 0 8
        let len := rqAt (s.request m) 8 4
        let h := s.read src 256
        len = 256 + leAt h 8 4 → byteAt h 12 = s.fld rKeySlot 0 2 → byteAt h 13 = complB 1 (byteAt h 12) → byteAt h 5 = 3 →
        s.spindle.best ≤ leAt h 6 2 → s.flagged src (max 256 len) = false →
        exec (.fwUpdate m) s = .next ((if Config.signatureGood (byteAt h 12) (sliceB h 64 96)
            (sliceB h 0 64 ++ s.read (src + 256) (len - 256)) = true then
          ({ s with spindle := { s.spindle with
            loaded := true, minor := byteAt h 4, major := byteAt h 5, svn := leAt h 6 2, best := leAt h 6 2, lastBeat := s.now } }
            : State).post m stOk (toLE (byteAt h 4) 1 ++ toLE (byteAt h 5) 1 ++ toLE (leAt h 6 2) 2)
          else s.postStatus m stSignature).settled)))

/-- A heartbeat is kept with its time; after 100 ms without one every busy pair is answered FIRMWARE_FAULT, the mailboxes
stay closed and SPINDLE_FAULT is raised (R375). Model choices: DEDUCED, log 91. -/
def Obligations.Heartbeats : Prop :=
  ∀ s : State, s.awake 2 = true →
    (s.spindle.halted = false →
      exec .heartbeat s = .next (({ s with spindle := { s.spindle with lastBeat := s.now } } : State).settled))
    ∧ (s.timeValid = true → s.spindle.closed = false → s.spindle.lastBeat + 100000000 ≤ s.now →
      ∃ t, exec .heartbeatTimeout s = .next t ∧ t.spindle.closed = true ∧ (∀ m < 4, t.mbxBusy m = false)
        ∧ (∀ m < 4, s.mbxBusy m = true → t.fld (rMbxRsp m 1) 8 8 = stFirmware)
        ∧ (∀ m < 4, s.mbxBusy m = false → ∀ k < 64, t.rd (rMbxRsp m k) = s.rd (rMbxRsp m k))
        ∧ (t.rd rEvtStatus).getLsbD 30 = true ∧ t.mem = s.mem ∧ t.queues = s.queues ∧ t.cmds = s.cmds)

/-! ### Links -/

/-- LINK_UP on a port that may start: START, with a sync flit and an AUDIT of zeros sent and LINK_STATE raised; on any other
port the report is kept. LINK_DOWN: the port is DOWN and nothing it holds is left in the Router (R41, R285). A down-to-up
transition of a lane is recorded with its time; the third within 100 ms is a lasting fault of the lane (R258). Model
choices: DEDUCED, log 87; DEDUCED, log 92. -/
def Obligations.LinksAndLanes : Prop :=
  (∀ (p : Nat) (s : State), p < 16 → s.awake 5 = true →
      ((s.port p).link = .down → s.mayStart p = true → ∃ t, exec (.linkUp p) s = .next t ∧ (t.port p).link = .start
        ∧ (t.port p).phyUp = true ∧ (t.port p).sent = [.sync, .audit [0, 0, 0, 0] (s.port p).free.toList false] ∧ (t.rd rEvtStatus).getLsbD 31 = true
        ∧ t.rd (rPortTxFlits p) = s.rd (rPortTxFlits p) + 2
        ∧ (∀ k, k ≠ p → t.port k = s.port k) ∧ t.txq = s.txq ∧ t.mem = s.mem)
      ∧ ((s.port p).link ≠ .down ∨ s.mayStart p = false →
        exec (.linkUp p) s = .next ((s.setPort p { s.port p with phyUp := true }).settled))
      ∧ ∃ t, exec (.linkDown p) s = .next t ∧ (t.port p).link = .down ∧ (t.port p).phyUp = false
        ∧ t.txq = s.txq.filter (fun x => !(x.inPort == some p)) ∧ (∀ k, k ≠ p → t.port k = s.port k)
        ∧ ((s.port p).link ≠ .down → (t.rd rEvtStatus).getLsbD 31 = true) ∧ t.mem = s.mem ∧ t.held = s.held)
    ∧ (∀ (p lane : Nat) (s : State), p < 16 → lane < 9 → s.awake 5 = true →
      let x := s.port p
      let ts := ((x.laneTimes.getD lane []).filter (fun t => decide (s.now - t ≤ 100000000))) ++ [s.now]
      (ts.length < 3 → exec (.laneTransition p lane) s
        = .next ((s.setPort p { x with laneTimes := x.laneTimes.setIfInBounds lane ts }).settled))
      ∧ (3 ≤ ts.length → exec (.laneTransition p lane) s
        = .next (((s.setPort p { x with laneTimes := x.laneTimes.setIfInBounds lane [] }).lasting (mkRes 1 p lane 0 false) []).settled)))

/-- An uncorrectable flit on a port that is up is counted and starts a resynchronisation (R40, R285); no sync flit in time
takes the port DOWN; a sync flit in START or RESYNC is kept, and one on a port that is up only counts as received. Model
choices: DEDUCED, log 36. -/
def Obligations.Resynchronises : Prop :=
  ∀ (p : Nat) (s : State), p < 16 → s.awake 5 = true →
    (∀ forwarding, (s.port p).link = .up → ∃ t, exec (.uncorrectableFlit p forwarding) s = .next t ∧ (t.port p).link = .resync
        ∧ (t.port p).resyncAt = s.now ∧ (t.port p).sawSync = false ∧ t.fld (rPortErr p) 0 8 = min 255 (s.fld (rPortErr p) 0 8 + 1)
        ∧ t.fld (rPortErr p) 24 8 = min 255 (s.fld (rPortErr p) 24 8 + 1) ∧ (forwarding = false → t.txq = s.txq)
        ∧ t.txq.map (fun x => x.pkt.hdr) = s.txq.map (fun x => x.pkt.hdr) ∧ (∀ k, k ≠ p → t.port k = s.port k) ∧ t.mem = s.mem)
    ∧ ((s.port p).link = .resync → (s.port p).sawSync = false → s.timeValid = true →
        (s.port p).resyncAt + 1000 * s.fld rFabTimers 37 10 ≤ s.now →
        ∃ t, exec (.resyncTimeout p) s = .next t ∧ (t.port p).link = .down ∧ (∀ k, k ≠ p → t.port k = s.port k) ∧ t.mem = s.mem)
    ∧ ((s.port p).link = .start ∨ (s.port p).link = .resync →
        exec (.syncFlit p) s = .next (((s.addF (rPortRxFlits p) 0 64 1).setPort p { s.port p with sawSync := true }).settled))
    ∧ ((s.port p).link = .up → exec (.syncFlit p) s = .next ((s.addF (rPortRxFlits p) 0 64 1).settled))

/-- An AUDIT in START after a sync flit brings the port up with its counters at zero; on a port that is up, an AUDIT that
agrees with what the port holds adds the lost flits to RX and FREE and counts them; one that cannot be is a conservation
error and takes the port DOWN, after the lost flits of the VCs that are right have been counted (R273, R274, R285). Model
choices: DEDUCED, log 33. -/
def Obligations.Audits : Prop :=
  ∀ (p : Nat) (payload : List Byte) (s : State), p < 16 → s.awake 5 = true →
    leAt payload 8 8 = complB 8 (leAt payload 0 8) →
    let x := s.port p
    let tx := (List.range 4).map (fun v => leAt payload (2 * v) 2)
    let lost := lostOf x tx
    let bad := (List.range 4).any (fun v => decide (vcSize v < lost.getD v 0)
      || decide ((x.rx.getD v 0 + 65536 - x.free.getD v 0) % 65536 ≠ s.heldFlits p v % 65536))
    (x.link = .start → x.sawSync = true → leAt payload 0 8 = 0 → ∃ t, exec (.audit p payload) s = .next t
      ∧ (t.port p).link = .up ∧ (t.port p).tx = #v[0, 0, 0, 0] ∧ (t.port p).ret = #v[0, 0, 0, 0] ∧ (t.port p).rx = #v[0, 0, 0, 0]
      ∧ (t.port p).free = #v[0, 0, 0, 0] ∧ (∀ k, k ≠ p → t.port k = s.port k) ∧ t.mem = s.mem)
    ∧ (x.link = .up → bad = false → ∃ t, exec (.audit p payload) s = .next t
      ∧ (t.port p).link = .up
      ∧ (∀ v < 4, (t.port p).rx.getD v 0 = (x.rx.getD v 0 + lost.getD v 0) % 65536
          ∧ (t.port p).free.getD v 0 = (x.free.getD v 0 + lost.getD v 0) % 65536)
      ∧ t.fld (rPortAudit p) 0 24 = min (2 ^ 24 - 1) (s.fld (rPortAudit p) 0 24 + lost.sum) ∧ t.txq = s.txq ∧ t.mem = s.mem)
    ∧ (x.link = .up → bad = true → ∃ t, exec (.audit p payload) s = .next t ∧ (t.port p).link = .down
      ∧ (t.rd rEvtStatus).getLsbD 13 = true
      ∧ t.fld (rPortAudit p) 0 24 = min (2 ^ 24 - 1) (s.fld (rPortAudit p) 0 24 + (restoredOf lost).sum)
      ∧ t.fld (rPortAudit p) 24 8 = min 255 (s.fld (rPortAudit p) 24 8 + 1))

/-- Credits (R260): a good credit-return flit on a port that is up sets RET and says whether the peer asks for a
resynchronisation: a new request sends a sync flit and an AUDIT (R285); one that is bad in any of its bytes counts in HEADER
and starts a resynchronisation; on a port in RESYNC the flit only counts, and on one that is DOWN or in START it does
nothing. A changed FREE counter, or RSYNC_REQ to signal, sends a credit-return flit; while RSYNC_REQ lasts a sync flit and
an AUDIT are sent again 1 µs after the last (R285); and every LGX_FAB_TIMERS.AUDIT microseconds an AUDIT of TX leaves
(R273). Before their time the timers do nothing. Model choices: DESIGN CHOICE, log 111; DEDUCED, log 120. -/
def Obligations.CreditsAndTimers : Prop :=
  ∀ (p : Nat) (s : State), p < 16 → s.awake 5 = true →
    let x := s.port p
    let live := x.link = .up ∨ x.link = .resync
    let asks := x.link == .resync
    let kept := fun (t : State) => (∀ k, k ≠ p → t.port k = s.port k) ∧ t.mem = s.mem ∧ t.txq = s.txq ∧ t.held = s.held
      ∧ t.queues = s.queues ∧ t.cmds = s.cmds ∧ t.outbox = s.outbox
    (∀ b : List Byte,
      let good := b.length = 256 ∧ byteAt b 0 = 0xC5 ∧ byteAt b 1 < 2 ∧ leAt b 10 8 = complB 8 (leAt b 2 8)
        ∧ (∀ k < 234, byteAt b (18 + k) = 0) ∧ leAt b 252 4 = (crc32c (b.take 252)).toNat
      (x.link = .up → good → ∃ t, exec (.creditReturnFlit p b) s = .next t ∧ kept t ∧ (t.port p).link = .up
          ∧ (∀ v < 4, (t.port p).ret.getD v 0 = leAt b (2 + 2 * v) 2)
          ∧ (t.port p).peerResync = bitAt (byteAt b 1) 0
          ∧ (t.port p).sent = (if bitAt (byteAt b 1) 0 = true ∧ x.peerResync = false then
              [.sync, .audit x.tx.toList x.free.toList false] else x.sent)
          ∧ t.rd (rPortRxFlits p) = s.rd (rPortRxFlits p) + 1 ∧ t.rd (rPortErr p) = s.rd (rPortErr p)
          ∧ (t.port p).tx = x.tx ∧ (t.port p).rx = x.rx ∧ (t.port p).free = x.free)
      ∧ (x.link = .up → ¬ good → ∃ t, exec (.creditReturnFlit p b) s = .next t ∧ kept t
          ∧ t.port p = { x with link := .resync, sawSync := false, resyncAt := s.now }
          ∧ t.fld (rPortErr p) 8 8 = min 255 (s.fld (rPortErr p) 8 8 + 1)
          ∧ t.fld (rPortErr p) 24 8 = min 255 (s.fld (rPortErr p) 24 8 + 1)
          ∧ t.rd (rPortRxFlits p) = s.rd (rPortRxFlits p) + 1)
      ∧ (x.link = .resync → ∃ t, exec (.creditReturnFlit p b) s = .next t ∧ kept t ∧ t.port p = x
          ∧ t.rd (rPortRxFlits p) = s.rd (rPortRxFlits p) + 1 ∧ t.rd (rPortErr p) = s.rd (rPortErr p))
      ∧ (¬ live → exec (.creditReturnFlit p b) s = .next s.settled))
    ∧ (live → x.freeDirty = true ∨ x.link = .resync → ∃ t, exec (.creditReturnSend p) s = .next t ∧ kept t
        ∧ t.port p = { x with freeDirty := false, sent := [.credit x.free.toList asks] }
        ∧ t.rd (rPortTxFlits p) = s.rd (rPortTxFlits p) + 1)
    ∧ (¬ live ∨ (x.freeDirty = false ∧ x.link = .up) → exec (.creditReturnSend p) s = .next s.settled)
    ∧ (live → x.peerResync = true → x.syncAt + 1000 ≤ s.now → ∃ t, exec (.syncRepeatTimer p) s = .next t ∧ kept t
        ∧ t.port p = { x with syncAt := s.now, auditAt := s.now, freeDirty := false
                              sent := [.sync, .audit x.tx.toList x.free.toList asks] }
        ∧ t.rd (rPortTxFlits p) = s.rd (rPortTxFlits p) + 2)
    ∧ (¬ live ∨ x.peerResync = false ∨ s.now < x.syncAt + 1000 → exec (.syncRepeatTimer p) s = .next s.settled)
    ∧ (live → s.timeValid = true → x.auditAt + 1000 * s.fld rFabTimers 17 10 ≤ s.now → ∃ t, exec (.auditTimer p) s = .next t ∧ kept t
        ∧ t.port p = { x with auditAt := s.now, freeDirty := false, sent := [.audit x.tx.toList x.free.toList asks] }
        ∧ t.rd (rPortTxFlits p) = s.rd (rPortTxFlits p) + 1)
    ∧ (¬ live ∨ s.timeValid = false ∨ s.now < x.auditAt + 1000 * s.fld rFabTimers 17 10 → exec (.auditTimer p) s = .next s.settled)

/-! ### Packets and chunks -/

/-- A packet on a port that is up (R264, R272, R273, R285): what arrives is counted; an invalid header is a header error and
starts a resynchronisation; the credits and RSYNC_REQ of a valid one are heard; an AUDIT packet is an AUDIT; any other is
charged to its virtual channel and taken into the input buffer. A port that is DOWN takes nothing, and one in RESYNC only
counts what comes before a sync flit. From there (R280 to R284) one of an epoch that is neither current nor draining is
discarded and counted; a multicast one is replicated at its entry chip, or delivered to the position it names; a unicast one
for this chip, by its address or its table entry, enters the reorder buffer when its rank entry agrees, and the buffer's
flits are freed; any other waits in the Router. Model choices: DEDUCED, log 17; DEDUCED, log 34; DEDUCED, log 120. -/
def Obligations.Receives : Prop :=
  (∀ (p : Nat) (header payload : List Byte) (s : State), p < 16 → s.awake 5 = true →
    let h := parseHdr header
    let n := if hdrOk header = true then charge h.len else cdiv (64 + payload.length) 256
    let s1 := s.addF (rPortRxFlits p) 0 64 n
    let s3 := s1.hearLink p header
    let s4 := s3.setPort p { s3.port p with rx := addAt (s3.port p).rx h.vc (charge h.len) }
    ((s.port p).link = .down → exec (.packetReceive p header payload) s = .next s.settled)
    ∧ ((s.port p).link = .resync → (s.port p).sawSync = false → exec (.packetReceive p header payload) s = .next s1.settled)
    ∧ ((s.port p).link = .up →
      (hdrOk header = false → exec (.packetReceive p header payload) s = .next (((s1.sat (rPortErr p) 8 8 1).toResync p).settled))
      ∧ (hdrOk header = true → h.kind = 0x18 → exec (.packetReceive p header payload) s
          = .next ((s3.takeAudit p (sliceB payload 0 h.len)).settled))
      ∧ (hdrOk header = true → h.kind ≠ 0x18 → exec (.packetReceive p header payload) s
          = .next ((s4.route1 p { hdr := h, payload := sliceB payload 0 h.len }).settled))))
    ∧ ∀ (p : Nat) (k : Pkt) (s : State),
      let h := k.hdr
      let f := charge h.len
      let counted := s.countEj h.epoch 1
      let here := h.mcast = false ∧ (((h.vc ≠ 0 ∨ h.route ≠ 1) ∧ h.phys = s.selfPhys)
        ∨ (h.vc = 0 ∧ h.route = 1 ∧ ∃ e, s.routeEntry h.epoch h.dst = some (e, true)))
      let on := (h.mcast = false ∧ (((h.vc ≠ 0 ∨ h.route ≠ 1) ∧ h.phys ≠ s.selfPhys)
          ∨ (h.vc = 0 ∧ h.route = 1 ∧ ∃ e, s.routeEntry h.epoch h.dst = some (e, false))))
        ∨ (h.mcast = true ∧ h.phys ≠ s.selfPhys ∧ ¬ (h.phys / 8 = s.selfHedge ∧ h.mask = 2 ^ s.selfPos))
      (s.epochLive h.epoch = false → s.route1 p k = (counted.sat rFabEvents 16 8 1).release p h.vc f)
      ∧ (s.epochLive h.epoch = true →
        (on → s.route1 p k
          = { s with txq := s.txq ++ [{ pkt := k, inPort := some p, heldVc := h.vc, pinned := none, since := s.now }] })
        ∧ (here → s.xlat h.dst = .ok s.selfPhys → s.route1 p k = (counted.assemble p k).release p h.vc f)
        ∧ (here → s.xlat h.dst = .bad → s.route1 p k = (counted.raise causeRankTable).release p h.vc f)
        ∧ (here → s.xlat h.dst = .invalid ∨ (∃ a, s.xlat h.dst = .ok a ∧ a ≠ s.selfPhys) →
            s.route1 p k = (counted.sat rFabEvents 8 8 1).release p h.vc f)
        ∧ (h.mcast = false → h.vc = 0 → h.route = 1 → s.routeEntry h.epoch h.dst = none →
            s.route1 p k = (counted.sat rFabEvents 24 4 1).release p h.vc f)
        ∧ (h.mcast = true → h.phys ≠ s.selfPhys → h.phys / 8 = s.selfHedge → h.mask = 2 ^ s.selfPos →
            s.route1 p k = (counted.assemble p k).release p h.vc f)
        ∧ (h.mcast = true → h.phys = s.selfPhys →
            let r := (s.replicate k).release p h.vc f
            (bitAt h.mask s.selfPos = true → s.route1 p k = (r.countEj h.epoch 1).assemble p k)
            ∧ (bitAt h.mask s.selfPos = false → s.route1 p k = r.countEj h.epoch 1)))

/-- A chunk of one packet with room for it and a good check value is held for its consumer; a chunk whose check value is
wrong is dropped and counted; a chunk that is not whole in time is dropped and counted (R265, R266). An accepted chunk
leaves the reorder buffer, is seen in its window, and its acknowledgement is due (R268); the last is said where no message
of firmware from its source waits behind it. Model choices: DEDUCED, log 37. -/
def Obligations.AssemblesAndAccepts : Prop :=
  (∀ (port : Nat) (p : Pkt) (s : State), p.hdr.pkts = 1 → s.hasRoom port p.hdr = true →
      s.partials.find? (fun a => sameChunk a.first p.hdr) = none →
      ((crc64 p.payload).toNat ≠ p.hdr.check → s.assemble port p = s.sat (rPortDrop port) 0 8 1)
      ∧ ((crc64 p.payload).toNat = p.hdr.check → p.hdr.kind ≠ 0x20 → (windowed p.hdr && s.isDuplicate p.hdr.src p.hdr.seq) = false →
          (p.hdr.kind = 0x10 ∨ s.held.any (fun x => sameChunk x.hdr p.hdr) = false) →
          s.assemble port p = { s with held := s.held ++ [{ pkts := [p], port := port }] })
      ∧ ((crc64 p.payload).toNat = p.hdr.check → (windowed p.hdr && s.isDuplicate p.hdr.src p.hdr.seq) = true →
          s.assemble port p = { s.sat rPlyStray 16 16 1 with
            ackDue := s.ackDue ++ [{ src := p.hdr.src, seq := p.hdr.seq, mc := false }] }))
    ∧ (∀ (h : Held) (s : State), let t := s.accept h
      ((∀ x ∈ s.held, x.hdr.kind = 0x20 → x.hdr.src = h.hdr.src → x = h) → t.held = s.held.filter (fun x => decide (x ≠ h)))
      ∧ ((∀ x ∈ s.held, x.hdr.kind = 0x20 → x.hdr.src = h.hdr.src → x = h) → h.hdr.kind ≠ 0x10 → t.ackDue = s.ackDue ++ [{ src := h.hdr.src, seq := h.hdr.seq, mc := h.hdr.mcast }])
      ∧ ((∀ x ∈ s.held, x.hdr.kind = 0x20 → x.hdr.src = h.hdr.src → x = h) → windowed h.hdr = false → t.mem = s.mem)
      ∧ (∀ a, (∀ k < 36, (s.winAt h.hdr.src + k) % 2 ^ 64 ≠ a % 2 ^ 64) → t.byte a = s.byte a)
      ∧ t.regs = s.regs ∧ t.cmds = s.cmds ∧ t.queues = s.queues)

/-- The timers of chunks (R242, R266): a chunk not whole in time is dropped from the reorder buffer and counted at its port;
one not acknowledged in time is sent again under its sequence number and counted, with the bytes that memory holds by then
where it is no longer retained (R243); a read of them that returns the uncorrectable-error flag raises the memory-error
event, and nothing is sent. Model choices: DEDUCED, log 38; DEDUCED, log 105. -/
def Obligations.ChunkTimeouts : Prop :=
  ∀ (rank seq : Nat) (mc : Bool) (s : State), s.ctl.resetOn = false → s.timeValid = true →
    (∀ a, s.partials.find? (fun a => a.first.src == rank && a.first.seq == seq && a.first.mcast == mc) = some a →
      a.since + s.fld rFabTimeout 0 24 ≤ s.now → exec (.chunkPartialTimeout rank seq mc) s
        = .next ((({ s with partials := s.partials.filter (fun x => decide (x ≠ a)) } : State).sat (rPortDrop a.port) 8 8 1).settled))
    ∧ (∀ c, s.outbox.find? (fun c => c.seq == some seq && c.mc == mc && (mc || c.dst == rank)) = some c →
      let again := { (if c.retained then c else c.refreshed s) with sentAt := s.now }
      c.sentAt + s.fld rFabTimeout 0 24 ≤ s.now →
      (c.retained = true ∨ c.flagged s = false → exec (.chunkTimeout rank seq mc) s
        = .next (((({ s with outbox := s.outbox.map (fun d => if d = c then again else d) } : State).sat rColResends
            (if c.retained then 0 else 32) 32 1).launch again (if c.port < 16 then some c.port else none) true).settled))
      ∧ (c.retained = false → c.flagged s = true → ∃ t, exec (.chunkTimeout rank seq mc) s = .next t
          ∧ (t.rd rEvtStatus).getLsbD 10 = true ∧ t.txq = s.txq ∧ t.mem = s.mem))

/-- The Router (R243, R272, R276 to R284, R286): a packet whose next port is up and has credits for all of it, and a place
in its retain buffer where this chip retains it there, leaves by that port, its buffer is freed and the credits are charged;
without credits or a place it waits; a Pinned packet whose port is DOWN becomes a Spray packet; one with no route, with no
table entry or of an epoch that is neither current nor draining is discarded and counted, the first with PARTITION raised; a
VC0 packet whose port is DOWN moves to the escape channel, and one that this chip is the destination of is delivered to it.
A packet that waited too long for credits moves to the escape channel too. Model choices: DESIGN CHOICE, log 35. -/
def Obligations.Forwards : Prop :=
  ∀ (n : Nat) (t : TxPkt) (s : State), s.ctl.resetOn = false → s.txq[n]? = some t →
    let h := t.pkt.hdr
    let onto := fun (h' : Hdr) (s : State) => ({ s with txq := s.txq.set n { t with pkt := { t.pkt with hdr := h' }, pinned := none } } : State)
    (s.epochLive h.epoch = false → exec (.packetForward n) s
        = .next ((((s.countEj h.epoch 1).sat rFabEvents 16 8 1).unqueue n t).settled))
    ∧ (s.epochLive h.epoch = true →
      (∀ p, s.nextHop t = .send p → s.isUp p = true → charge h.len ≤ (s.port p).credit h.vc →
        (∀ s2, s.retainFor t p = some s2 →
          let s1 := s2.unqueue n t
          let x := s1.port p
          exec (.packetForward n) s = .next (((s1.setPort p { x with tx := addAt x.tx h.vc (charge h.len), freeDirty := false }).sendUnits p
            [.packet t.pkt x.free.toList (x.link == .resync)] (charge h.len)).settled))
        ∧ (t.inPort.isSome = true → s.retainFor t p = some s)
        ∧ (s.retainFor t p = none → exec (.packetForward n) s = .next s.settled))
      ∧ (∀ p, s.nextHop t = .send p → s.isUp p = true → (s.port p).credit h.vc < charge h.len →
        exec (.packetForward n) s = .next s.settled)
      ∧ (∀ p, s.nextHop t = .send p → s.isUp p = false → h.route = 2 →
        let z := s.sprayFields { h with route := 0 }
        exec (.packetForward n) s = .next ((onto z.1 z.2).settled))
      ∧ (∀ p, s.nextHop t = .deliver p → exec (.packetForward n) s = .next (((s.unqueue n t).deliver p t.pkt).settled))
      ∧ (s.nextHop t = .drop → exec (.packetForward n) s
        = .next (((((s.countEj h.epoch 1).sat rFabEvents 0 8 1).raise causePartition).unqueue n t).settled))
      ∧ (s.nextHop t = .tableErr → exec (.packetForward n) s
        = .next ((((s.countEj h.epoch 1).sat rFabEvents 24 4 1).unqueue n t).settled))
      ∧ (s.nextHop t = .escape → exec (.packetForward n) s
        = .next (((onto { h with route := 3, vc := 2 } s).sat rFabEscaped 0 32 1).settled)))
    ∧ (s.timeValid = true → h.vc = 0 → s.lacksCredit t = true → t.since + s.fld rFabTimers 0 17 ≤ s.now → exec (.escapeWaitExpiry n) s
        = .next (((onto { h with route := 3, vc := 2 } s).sat rFabEscaped 0 32 1).settled))

/-- The end of the window hold (R267, R275): a waiting chunk that may go takes the next sequence number of its destination,
and its packets enter the Router for the address of the rank; a multicast one takes the next multicast number. A chunk that
may not go keeps every later one of its rank waiting, and before the hold has ended nothing happens. Model choices: DEDUCED,
log 25. -/
def Obligations.HoldEnds : Prop :=
  ∀ s : State, s.ctl.resetOn = false → s.timeValid = true →
    (s.now < s.holdUntil → exec .windowHoldExpiry s = .next s.settled)
    ∧ (s.holdUntil ≤ s.now →
      let numbered := fun (c : OutChunk) (n : Nat) => { c with
        seq := some n, sentAt := s.now, pkts := c.pkts.map (fun p => { p with hdr := { p.hdr with seq := n } }) }
      (∀ c, s.outbox = [c] → c.seq = none → c.mc = false → s.maySend c = true →
        ∃ t, exec .windowHoldExpiry s = .next t ∧ t.outbox = [numbered c (s.txNext c.dst)]
          ∧ t.txNext c.dst = (s.txNext c.dst + 1) % 2 ^ 32
          ∧ (∀ a, (∀ k < 4, (s.winAt c.dst + 36 + k) % 2 ^ 64 ≠ a % 2 ^ 64) → t.byte a = s.byte a)
          ∧ (∀ phys, s.xlat c.dst = .ok phys → t.txq.length = s.txq.length + c.pkts.length ∧ ∀ n p, c.pkts[n]? = some p →
              ∃ x, t.txq[s.txq.length + n]? = some x ∧ x.pkt.payload = p.payload ∧ x.pkt.hdr.seq = s.txNext c.dst
                ∧ x.pkt.hdr.phys = phys ∧ x.pkt.hdr.kind = p.hdr.kind ∧ x.inPort = none)
          ∧ (s.xlat c.dst = .invalid → t.txq = s.txq)
          ∧ t.held = s.held ∧ t.queues = s.queues ∧ t.ports = s.ports)
      ∧ (∀ c, s.outbox = [c] → c.seq = none → c.mc = true →
        ∃ t, exec .windowHoldExpiry s = .next t ∧ t.outbox = [numbered c s.mcastSeq] ∧ t.mcastSeq = (s.mcastSeq + 1) % 2 ^ 32
          ∧ t.mem = s.mem ∧ t.held = s.held ∧ t.queues = s.queues ∧ t.ports = s.ports)
      ∧ (∀ c rest, s.outbox = c :: rest → s.maySend c = false → c.seq = none → (∀ d ∈ rest, d.mc = false ∧ d.dst = c.dst) →
        exec .windowHoldExpiry s = .next s.settled)
      ∧ ((∀ c ∈ s.outbox, c.seq.isSome = true) → exec .windowHoldExpiry s = .next s.settled))

/-- A test packet that may be passed on is accepted; an ACK takes off every chunk before CUM and every listed one, moves
TX_OLDEST and lets waiting chunks go; due acknowledgements, up to 14 of one source, leave in one ACK with the window's base
(R263, R267, R268). Model choices: DEDUCED, log 93. -/
def Obligations.Acknowledges : Prop :=
  ∀ (src seq : Nat) (s : State), s.ctl.resetOn = false →
    (∀ h, s.heldChunk 0x21 src seq false = some h → s.passable h = true → exec (.testPacket src seq) s = .next ((s.accept h).settled))
    ∧ (∀ h, s.heldChunk 0x10 src seq false = some h → h.payload.length = 64 → byteAt h.payload 4 ≤ 14 → byteAt h.payload 5 < 2 →
        leAt h.payload 6 2 = 0 →
        let s1 := s.accept h
        let cum := leAt h.payload 0 4
        let old := s1.txOldest src
        let listed := (List.range (byteAt h.payload 4)).map (fun i => leAt h.payload (8 + 4 * i) 4)
        (byteAt h.payload 5 = 1 → exec (.ack src seq) s = .next ((listed.foldl (fun s q => s.ackMc src q) s1).settled))
        ∧ (byteAt h.payload 5 = 0 → exec (.ack src seq) s = .next ((((s1.ackChunk src (fun q =>
            decide ((q + 2 ^ 32 - old) % 2 ^ 32 < (cum + 2 ^ 32 - old) % 2 ^ 32) && decide ((cum + 2 ^ 32 - old) % 2 ^ 32 ≤ 256)
              || listed.contains q)).advanceOldest src).pump).settled)))
    ∧ (∀ phys mc, let due := (s.ackDue.filter (fun a => a.src == src && a.mc == mc)).take 14
        due ≠ [] → s.xlat src = .ok phys →
        ∃ t p, exec (.ackSend src mc) s = .next t ∧ t.ackDue = s.ackDue.filter (fun a => !due.contains a)
          ∧ t.txq = s.txq ++ [p] ∧ p.pkt.hdr.kind = 0x10 ∧ p.pkt.hdr.dst = src ∧ p.pkt.hdr.phys = phys ∧ p.inPort = none
          ∧ leAt p.pkt.payload 0 4 = (if mc then 0 else s.winBase src) ∧ byteAt p.pkt.payload 5 = b2n mc ∧ byteAt p.pkt.payload 4 = due.length
          ∧ (∀ i < due.length, leAt p.pkt.payload (8 + 4 * i) 4 = ((due.getD i { src := 0, seq := 0, mc := false }).seq) % 2 ^ 32)
          ∧ t.held = s.held ∧ t.mem = s.mem)

/-- An epoch that has drained on every chip is retired, and so is one that did not drain in time, with its packets
discarded; an ADVANCE that waited is then applied (R284), and else a dateline that Spindle firmware has to move is set in
the next epoch (R276). The premises leave no route change waiting. Model choices: DEDUCED, log 87. -/
def Obligations.EpochsRetire : Prop :=
  ∀ (sum : Nat) (s : State), s.awake 5 = true → s.draining = true → (∀ m < 4, s.begun m = false) →
    (s.firmware = true → ∃ t, exec (.epochDrainPoll sum sum) s = .next t
      ∧ (s.fld rFabEpoch 3 1 = 0 → s.dateWait = none → t.draining = false ∧ t.epoch = s.epoch ∧ t.txq = s.txq)
      ∧ (∀ d, s.fld rFabEpoch 3 1 = 0 → s.dateWait = some d → t.draining = true ∧ t.epoch = (s.epoch + 1) % 4 ∧ t.dateWait = none
          ∧ t.fld (rFabRow (1 - s.epoch % 2)) 15 15 = d % 2 ^ 15)
      ∧ (s.fld rFabEpoch 3 1 = 1 → t.draining = true ∧ t.epoch = (s.epoch + 1) % 4 ∧ t.fld rFabEpoch 3 1 = 0))
    ∧ (s.timeValid = true → s.epochAt + 1000 * s.fld rFabTimers 47 14 ≤ s.now →
      ∃ t, exec .epochMaxExpiry s = .next t
        ∧ t.txq = s.txq.filter (fun x => x.pkt.hdr.epoch != (s.epoch + 3) % 4)
        ∧ (s.fld rFabEpoch 3 1 = 0 → s.dateWait = none → t.draining = false ∧ t.epoch = s.epoch) ∧ t.mem = s.mem ∧ t.cmds = s.cmds)

/-! ### Starting and completing descriptors -/

/-- The nine collectives start alike (R179, R216, R383, R405, R406, R411). One that may start, with a job open and its
identifier free: a step boundary is taken for a later step; when the configuration agrees, a bank serves its step and no
check fails, it runs with that bank, leaves the fetched descriptors, and its identifier is ACTIVE with a drain record of the
ranks it awaits; a SEND or RECV takes the next match number of its peer and tag (R233). One that may not start: with no job
open it fails with NO_JOB; with no bank for its step with CONFIG_MISMATCH (R406); with a failed check with the status and
DETAIL of the first one (R216, R393); while the configuration does not agree it stays (R411); and while its identifier is in
use it is recorded as pending on it, and a draining identifier becomes DRAIN_PENDING (R179). Model choices: DEDUCED, log 61;
DEDUCED, log 62. -/
def Obligations.CollectivesStart : Prop :=
  ∀ (q : Nat) (x : Instr × Nat) (f : Fetched) (s : State),
    x ∈ [(Instr.allReduce q, 0x10), (.reduceScatter q, 0x11), (.fusedStep q, 0x12), (.allGather q, 0x13), (.allToAll q, 0x14),
      (.broadcast q, 0x15), (.send q, 0x16), (.recv q, 0x17), (.topkMerge q, 0x18)] →
    s.startable x.2 q f →
    let job := leAt f.param 72 2 % 4096
    let step := (Cmd.make q f.index f.desc f.param [] s.now).step
    let s1 := if s.stepCur < step then s.stepBoundary step else s
    let s2 := s1.cfgGate.2
    let match_ := leAt f.param 84 2 * 65536 + leAt f.param 86 2
    (s.job.isOpen = false → ∃ t, exec x.1 s = .next t ∧ s.failedAs t q f (stNoJob, 0) ∧ t.mem = s.mem ∧ t.stepCur = s.stepCur)
    ∧ (s.job.isOpen = true → s.jobState job ≠ 0 → ∃ t, exec x.1 s = .next t
        ∧ t.queue q = { s.queue q with onJob := true } ∧ (∀ k, k ≠ q → t.queue k = s.queue k) ∧ t.cmds = s.cmds ∧ t.mem = s.mem
        ∧ t.jobState job = (if s.jobState job = 2 then 3 else s.jobState job))
    ∧ (s.job.isOpen = true → s.jobState job = 0 →
      (s1.cfgGate.1 = false → exec x.1 s = .next s2.settled)
      ∧ (s1.cfgGate.1 = true → s2.bankFor step = none →
          ∃ t, exec x.1 s = .next t ∧ s.failedAs t q f (stMismatch, 0) ∧ t.mem = s.mem)
      ∧ (∀ bank, s1.cfgGate.1 = true → s2.bankFor step = some bank →
        (∀ y, (s2.startFail (s2.loadCmd q f bank)).1 = some y →
          ∃ t, exec x.1 s = .next t ∧ s.failedAs t q f y ∧ t.mem = s.mem)
        ∧ ((s2.startFail (s2.loadCmd q f bank)).1 = none → ∃ t c, exec x.1 s = .next t
          ∧ t.cmds = s.cmds ++ [c] ∧ c.q = q ∧ c.i = f.index ∧ c.desc = f.desc ∧ c.param = f.param ∧ c.bank = bank
          ∧ c.status = none ∧ c.dataStarted = false ∧ (t.queue q).fetched = (s.queue q).fetched.drop 1 ∧ (t.queue q).onJob = false
          ∧ t.jobState job = 1 ∧ (∃ d, t.drainOf job = some d ∧ d.await = s2.awaits c ∧ d.got = [] ∧ d.active = false)
          ∧ t.stepCur = (if s.stepCur < step then step else s.stepCur)
          ∧ (x.2 = 0x16 → c.matchNo = smGet (fun _ => 0) s.matchTx match_
              ∧ smGet (fun _ => 0) t.matchTx match_ = (c.matchNo + 1) % 2 ^ 32)
          ∧ (x.2 = 0x17 → c.matchNo = smGet (fun _ => 0) s.matchRx match_
              ∧ smGet (fun _ => 0) t.matchRx match_ = (c.matchNo + 1) % 2 ^ 32)
          ∧ t.mem = s.mem ∧ t.held = s.held ∧ ∀ k, k ≠ q → t.queue k = s.queue k)))

/-- NOP is done as it starts; TOPIARY_ROW, TOPIARY_MERGE and FOLD run on the parameter block of their descriptor behind the
configuration comparison, the last two with a job open (R387 to R389, R411): with a good block the command writes its
records and is done; a field that is refused fails it with the offset (R116, R388, R389), a K above the grade's with ABSENT
(R133), lists that disagree with CONFIG_MISMATCH (R128), and a read that returns the uncorrectable-error flag with
DATA_ERROR and the memory-error event (R39). While the configuration does not agree, the command stays; a FOLD stays too
while its slot is still to be copied (R152). Model choices: DESIGN CHOICE, log 18; DEDUCED, log 105; DESIGN CHOICE, log 107;
DESIGN CHOICE, log 108. -/
def Obligations.PlainCommandsRun : Prop :=
  ∀ (q : Nat) (f : Fetched) (s : State),
    let s1 := s.cfgGate.2
    let a := dParamAddr f.desc
    let b := s1.read a 64
    let tb := s1.rowBlock f.desc
    let lost := fun (i : Instr) => ∃ t, exec i s = .next t ∧ s.failedAs t q f (stData, s.ownRank)
      ∧ (t.rd rEvtStatus).getLsbD 10 = true ∧ t.mem = s.mem
    let fails := fun (i : Instr) (y : Nat × Nat) => ∃ t, exec i s = .next t ∧ s.failedAs t q f y ∧ t.mem = s.mem
    (s.startable 0x01 q f → ∃ t, exec (.nop q) s = .next t ∧ s.startedAs t q f (stOk, 0) ∧ t.mem = s.mem ∧ t.ports = s.ports
      ∧ t.staged = s.staged ∧ t.outbox = s.outbox)
    ∧ (s.startable 0x20 q f →
      let rowLost := (List.range (tpRows tb)).any (fun r =>
        s1.flagged (leAt tb 0 8 + r * tpStride tb) (tpRowLen tb * (if tpBf16 tb then 2 else 4)))
      (s.cfgGate.1 = false → exec (.topiaryRow q) s = .next s1.settled)
      ∧ (s.cfgGate.1 = true → s1.flagged a 96 = true → lost (.topiaryRow q))
      ∧ (s.cfgGate.1 = true → s1.flagged a 96 = false →
        (∀ o, tpCheck tb = some o → fails (.topiaryRow q) (stInvalid, o))
        ∧ (tpCheck tb = none → s1.kMax < tpK tb → fails (.topiaryRow q) (stAbsent, 0))
        ∧ (tpCheck tb = none → tpK tb ≤ s1.kMax → rowLost = true → lost (.topiaryRow q))
        ∧ (tpCheck tb = none → tpK tb ≤ s1.kMax → rowLost = false → ∃ t, exec (.topiaryRow q) s = .next t
            ∧ s.startedAs t q f (stOk, 0) ∧ t.mem = (s1.runRows tb).mem
            ∧ (tpRows tb = 1 → tpCounts tb = false →
                t.mem = memWrite s.mem (leAt tb 8 8) (s1.topRow tb (s1.fld rCtrl 0 1 == 0) 0).1.bytes))))
    ∧ (s.startable 0x21 q f →
      (s.job.isOpen = false → fails (.topiaryMerge q) (stNoJob, 0))
      ∧ (s.job.isOpen = true → s.cfgGate.1 = false → exec (.topiaryMerge q) s = .next s1.settled)
      ∧ (s.job.isOpen = true → s.cfgGate.1 = true →
        let n := leAt b 16 4
        let lists := s1.mergeInputs b
        let shape := 0 < n ∧ n ≤ 65536 ∧ byteAt b 20 < 2 ∧ leAt b 21 43 = 0
        (s1.flagged a 64 = true → lost (.topiaryMerge q))
        ∧ (s1.flagged a 64 = false →
          (n = 0 ∨ 65536 < n → fails (.topiaryMerge q) (stInvalid, 16))
          ∧ (0 < n → n ≤ 65536 → 2 ≤ byteAt b 20 → fails (.topiaryMerge q) (stInvalid, 20))
          ∧ (0 < n → n ≤ 65536 → byteAt b 20 < 2 → leAt b 21 43 ≠ 0 → fails (.topiaryMerge q) (stInvalid, 21))
          ∧ (shape → s1.listsFlagged b = true → lost (.topiaryMerge q))
          ∧ (shape → s1.listsFlagged b = false →
            (s1.grade = .c → lists.any (fun r => decide (s1.kMax < r.k)) = true → fails (.topiaryMerge q) (stAbsent, 0))
            ∧ (s1.grade ≠ .c ∨ lists.any (fun r => decide (s1.kMax < r.k)) = false →
              (mergeAgrees lists = false → fails (.topiaryMerge q) (stMismatch, 0))
              ∧ (mergeAgrees lists = true → ∃ t, exec (.topiaryMerge q) s = .next t ∧ s.startedAs t q f (stOk, 0)
                  ∧ t.mem = memWrite s.mem (leAt b 8 8)
                      (s1.mergeRun lists (bitAt (byteAt b 20) 0) (s1.fld rCtrl 0 1 == 0) s1.stepCur 0).1.bytes))))))
    ∧ (s.startable 0x28 q f → s.digestHolds 3 = false →
      (s.job.isOpen = false → fails (.fold q) (stNoJob, 0))
      ∧ (s.job.isOpen = true → s.cfgGate.1 = false → exec (.fold q) s = .next s1.settled)
      ∧ (s.job.isOpen = true → s.cfgGate.1 = true →
        (s1.flagged a 64 = true → lost (.fold q))
        ∧ (s1.flagged a 64 = false →
          (∀ y, foldFields b = some y → fails (.fold q) y)
          ∧ (foldFields b = none → s1.foldFlagged b = true → lost (.fold q))
          ∧ (foldFields b = none → s1.foldFlagged b = false →
            (s1.slotHeld (s1.foldEntry b) = true → exec (.fold q) s = .next s1.settled)
            ∧ (s1.slotHeld (s1.foldEntry b) = false →
              (isSuccess (s1.runFold b).1.1 = true → ∃ t, exec (.fold q) s = .next t
                ∧ s.startedAs t q f (s1.runFold b).1 ∧ t.mem = (s1.runFold b).2.mem)
              ∧ (isSuccess (s1.runFold b).1.1 = false → ∃ t, exec (.fold q) s = .next t
                ∧ s.failedAs t q f (s1.runFold b).1))))))
    ∧ (s.startable 0x28 q f → s.digestHolds 3 = true → exec (.fold q) s = .next s.settled)

/-- RUN_SKEIN of a loaded skein begins to append its entries, and goes on when room has come (R252); one entry whose queue
has room becomes a descriptor at that queue's TAIL, which moves on. Model choices: DESIGN CHOICE, log 23. -/
def Obligations.SkeinsRun : Prop :=
  (∀ (q : Nat) (f : Fetched) (s : State), s.startable 0x19 q f → s.job.isOpen = true → s.cfgGate.1 = true → s.skein.isSome = true →
      let s1 := s.cfgGate.2.refreshReplay
      exec (.runSkein q) s = .next (((((s1.takeDesc q).addCmd (Cmd.make q f.index f.desc f.param s1.curBank s1.now)).appendSkein q
        f.index 4097).settleWork).settled))
    ∧ (∀ (q i : Nat) (c : Cmd) (s : State), s.ctl.resetOn = false → s.cmd? q i = some c → c.type = 0x19 → c.status = none →
      exec (.skeinAppendResume q i) s = .next (((s.appendSkein q i 4097).settleWork).settled))
    ∧ ∀ (q i n addr : Nat) (img : List Byte) (c : Cmd) (s : State), s.cmd? q i = some c → s.skein = some (addr, img) →
      c.entry < skeinCount img →
      let ent := skeinEntry img c.entry
      let tq := leAt ent 192 2
      let tail := s.fld (rQTail tq) 0 32
      tq < 64 → s.ringOk tq = true → (tail + 2 ^ 32 - s.fld (rQHead tq) 0 32) % 2 ^ 32 < 2 ^ s.fld (rQCfg tq) 0 5 →
      ∃ t : State, s.appendSkein q i (n + 1) = t.appendSkein q i n ∧ t.fld (rQTail tq) 0 32 = (tail + 1) % 2 ^ 32
        ∧ (∃ arg, t.mem = memWrite s.mem (s.descAt tq tail)
            (skeinDesc ent (addr + 64 + 256 * c.entry + 64) (dParamAddr c.desc % 2 ^ 48) arg))
        ∧ t.cmds.map (·.entry) = s.cmds.map (fun d => if d.q == c.q && d.i == c.i then c.entry + 1 else d.entry)

/-- A descriptor that has its status completes (R384, R385): the command is closed, its write-back, signal, interrupt and
queue stop are `finish`, and its identifier drains. A descriptor that failed a check completes the same way without ever
having run, and one that a stop has named does so whatever its queue does (R250). Model choices: DEDUCED, log 60. -/
def Obligations.Completes : Prop :=
  ∀ (q i st detail : Nat) (s : State), s.ctl.resetOn = false →
    (∀ c d, (s.queue q).fetched.find? (fun f => f.index == i && f.fail.isSome) = none → s.cmd? q i = some c →
      s.statusOf c = some (st, detail) → s.mayComplete c = true →
      let s1 := s.commitAtEnd c st
      s1.cmd? q i = some d → s1.mayComplete d = true →
      exec (.descriptorComplete q i) s = .next ((((s1.completeCmd d st detail).formDigests).settleWork).settled))
    ∧ (∀ f, (s.queue q).st = .running ∨ f.reformed = true → (s.queue q).fetched.find? (fun f => f.index == i && f.fail.isSome) = some f →
      f.fail = some (st, detail) →
      let s1 := s.setQueue q { s.queue q with fetched := (s.queue q).fetched.filter (fun x => x.index != i) }
      exec (.descriptorComplete q i) s = .next (((((s1.finish q i f.desc st detail false (st == stData && bitAt detail 16) false).settleQueue
        q).formDigests).settleWork).settled))

/-- The write-back of a completion (R384): status, flags, DETAIL and the time at byte 48 of the descriptor and nothing else
in memory; a signal adds to its counter, IRQ sets QDONE, and a failure that does not continue stops a running queue with its
index and status. HEAD passes completed descriptors in queue order (R383): when the descriptor at HEAD completes it moves
past it. Model choices: DEDUCED, log 66. -/
def Obligations.WritesBack : Prop :=
  (∀ (q i st detail : Nat) (d : List Byte) (late mute : Bool) (s : State), q < 64 →
      let a := s.descAt q i + 48
      let signal := dSignalEn d && (isSuccess st || dSignalAlways d) && !mute
      let stops := !isSuccess st && !dContinue d
      let t := s.finish q i d st detail late mute false
      (∀ k < 16, t.byte (a + k) = (toLE st 1 ++ toLE (1 + 2 * b2n late + 4 * b2n signal) 1 ++ toLE 0 2 ++ toLE detail 4
          ++ toLE s.now 8).getD k 0)
        ∧ (∀ x, (∀ k < 16, (a + k) % 2 ^ 64 ≠ x % 2 ^ 64) → t.byte x = s.byte x)
        ∧ (∀ c < 256, t.rd (rEvc c) = if signal = true ∧ c = dSignalCtr d then s.rd (rEvc c) + BitVec.ofNat 64 (dSignalAdd d) else s.rd (rEvc c))
        ∧ (dIrq d = true → (t.rd rEvtQdone).getLsbD q = true) ∧ (dIrq d = false → t.rd rEvtQdone = s.rd rEvtQdone)
        ∧ (stops = true → (t.rd rEvtQerr).getLsbD q = true ∧ t.rd (rQErr q) = BitVec.ofNat 64 (i % 2 ^ 32 + st * 2 ^ 32)
            ∧ ((s.queue q).st = .running → (t.queue q).st = .error))
        ∧ (stops = false → t.rd rEvtQerr = s.rd rEvtQerr ∧ (t.queue q).st = (s.queue q).st)
        ∧ t.cmds = s.cmds ∧ ∀ k, k ≠ q → t.queue k = s.queue k)
    ∧ (∀ (q n : Nat) (s : State), q < 64 →
      let h := s.fld (rQHead q) 0 32
      ((s.queue q).done.contains h = false → s.advanceHead q n = s)
      ∧ ((s.queue q).done = [h] → 0 < n → (s.advanceHead q n).fld (rQHead q) 0 32 = (h + 1) % 2 ^ 32
          ∧ ((s.advanceHead q n).queue q).done = []))

/-- The watchdog of a running collective (R248): it warns once, with the straggler, its job and its queue, and it stops the
command after LGX_COL_ABORT ticks with TIMEOUT, or, for a reducing one, with its shortfalls reported and CONTRIBUTION. A
read response with the uncorrectable-error flag keeps its address, raises the memory-error event and fails the command it
served (R39, R204, R244), or marks the segments damaged that the expander read it for (R305); a microsecond with an outbound
Feed beat waiting is counted (R35). Model choices: DEDUCED, log 53; DEDUCED, log 63; DEDUCED, log 105; DEDUCED, log 123. -/
def Obligations.WatchdogsAndReads : Prop :=
  (∀ (q i : Nat) (c : Cmd) (s : State), s.ctl.resetOn = false → s.cmd? q i = some c →
      (c.warned = false → s.watchReached c (smGet regReset c.bank rColWarn).toNat = true → exec (.watchdogWarn q i) s = .next
        (((((s.putCmd { c with warned := true }).wr rColStraggler
          (BitVec.ofNat 64 (s.straggler c % 65536 + c.job * 2 ^ 16 + q * 2 ^ 28 + 2 ^ 63))).sat rColEvents 0 8 1).raise
            causeStraggler).settled))
      ∧ (let lim := (smGet regReset c.bank rColAbort).toNat
        lim ≠ 0 → s.watchReached c lim = true →
          let rank := s.fld rColStraggler 0 16
          let s1 := s.sat rColEvents 8 8 1
          let s2 := if isReducing c.type then (s1.reportShort q i rank).failCmd q i stContrib rank else s1.failCmd q i stTimeout rank
          exec (.watchdogAbort q i) s = .next (((s2.withhold q i).dropStaged c).settled)))
    ∧ (∀ (q i : Nat) (kind : ReadKind) (addr : Word) (s : State),
      let mine := s.outs.find? (fun x => x.cmd.q == q && x.cmd.i == i && !(s.owedAt x addr.toNat).isEmpty)
      (∀ c, s.allAwake = true → mine = none → s.cmd? q i = some c → exec (.memoryReadResponse q i kind addr true) s
        = .next (((({ s with
            memFail := some addr.toNat, badUnits := memUnit addr.toNat :: s.badUnits.filter (· != memUnit addr.toNat) } : State).raise
              causeMemory).readFailed c kind).settled))
      ∧ (∀ x, s.allAwake = true → mine = some x → ∃ t, exec (.memoryReadResponse q i kind addr true) s = .next t
          ∧ t.memFail = some addr.toNat ∧ (t.rd rEvtStatus).getLsbD 10 = true
          ∧ ∀ g ∈ s.owedAt x addr.toNat, t.damaged.contains (x.cmd.dst, g.num) = true)
      ∧ (∀ c, s.allAwake = true → mine = none → s.cmd? q i = some c → c.status = none → c.gat.rowStarted = false → (c.type ≠ 0x12 ∨ kind = .other) →
          ∃ t, exec (.memoryReadResponse q i kind addr true) s = .next t ∧ t.memFail = some addr.toNat
            ∧ (t.rd rEvtStatus).getLsbD 10 = true ∧ (∃ d, t.cmd? q i = some d ∧ d.status = some (stData, s.ownRank)) ∧ t.mem = s.mem)
      ∧ (s.ctl.resetOn = false → s.feedOut ≠ [] → exec .feedStallTick s = .next ((s.wr rFeedStall (s.rd rFeedStall + 1)).settled)))

/-! ### The engine's work on a collective -/

/-- Feed beats (R85, R90, R91, R152, R176): a new beat of the survey channel is surveyed; a beat of the value channel is
converted once the scales of its own groups are agreed and no copy stream still needs the residuals it would overwrite, and
stalls the conversion until then; a micro-batch beat adds to its 32-bit accumulators, and one on the survey channel fails
its command. No unit's data path stalls for a digest record (R328). Model choices: DESIGN CHOICE, log 8. -/
def Obligations.FeedBeats : Prop :=
  ∀ (tag : BitVec 128) (payload : List Bf16) (c : Cmd) (s : State), s.ctl.resetOn = false → s.flows → s.feedCmd tag = some c →
    let b := tagOffset tag / 1024
    (tagMicro tag = false → s.bucketFree c = true → b < c.beatCount →
      (c.lead.sent = false → c.lead.surveyed.contains b = false → exec (.surveyBeat tag payload) s
        = .next ((s.surveyRun c (1024 * b) (s.beatGrads c (1024 * b) payload) [b]).settled))
      ∧ (c.conv.beats.contains b = false → c.leadReady b = false → exec (.valueBeat tag payload) s
        = .next (((s.putCmd (c.stalled 1 b)).formDigests).settled))
      ∧ (c.conv.beats.contains b = false → c.leadReady b = true → s.copyHolds c = true → exec (.valueBeat tag payload) s
        = .next (((s.putCmd (c.stalled 2 b)).formDigests).settled))
      ∧ (c.conv.beats.contains b = false → c.leadReady b = true → s.copyHolds c = false → exec (.valueBeat tag payload) s
        = .next ((((((s.convBeat (c.stalled 0 b) b (s.beatGrads c (1024 * b) payload)).zeroAcc c b).convCheck c.q c.i).sendOwn c.q
            c.i).formDigests).settled)))
    ∧ (c.aux ≠ 0 → exec (.microBeat false tag payload) s = .next ((((payload.take (c.elements - tagOffset tag)).zipIdx.foldl
        (fun (s : State) (x : Bf16 × Nat) =>
          let a := c.aux + 4 * (tagOffset tag + x.2)
          s.writeNat a 4 (addF32 (BitVec.ofNat 32 (s.readNat a 4)) (bf16ToF32 x.1)).toNat) s).formDigests).settled))
    ∧ (exec (.microBeat true tag payload) s = .next (((s.failCmd c.q c.i stInvalid 0).formDigests).settled))

/-- The scale lead (R85 to R90): with every beat surveyed and a good format word the chip's lead and class leave for the
Hedge; a lead chunk whose parts agree joins the leads of its ring, in order. Model choices: DESIGN CHOICE, log 8; DEDUCED,
log 12. -/
def Obligations.Leads : Prop :=
  (∀ (q i : Nat) (c d : Cmd) (s : State), s.ctl.resetOn = false → s.flows → s.cmd? q i = some c → isReducing c.type = true →
      c.status = none → c.lead.sent = false → s.bucketFree c = true → s.leadTurn c = true →
      let s1 := if c.srcFeed then s else s.surveyRun c 0 ((List.range c.elements).map (fun j =>
        s.gradOf c j (BitVec.ofNat 16 (s.readNat (c.src + 2 * j) 2)))) (List.range c.beatCount)
      s1.cmd? q i = some d → d.status = none → allIn (0, d.beatCount) (fun b => d.lead.surveyed.contains b) = true →
      s1.flagged d.fmtAddr 4 = false → fmtWordBad (s1.readNat d.fmtAddr 4) = false →
      let e := { d with lead := { d.lead with sent := true, cls := requestClass d (s1.readNat d.fmtAddr 4) } }
      exec (.leadSend q i) s = .next ((((((s1.putCmd e).leadHedge e).leadAdvance q i)).formDigests).settled))
    ∧ ∀ (src seq : Nat) (h : Held) (c : Cmd) (s : State) (parts : List (Nat × LeadMsg)), s.delivers 2 src seq false h c → isReducing c.type = true →
      leadParts h = some parts →
      (h.hdr.contrib = c.members ∨ (h.hdr.ring < 14 ∧ c.lead.sent = true) ∨ (14 ≤ h.hdr.ring ∧ c.lead.rowSent = true)) →
      let s1 := (s.accept h).progress c.q c.i src true
      exec (.leadChunk src seq) s = .next (((if parts.all (leadAgrees c h.hdr.ring) then
          (parts.foldl (fun s part => s.leadPart c.q c.i h.hdr.ring h.hdr.hop h.hdr.contrib part) s1).leadAdvance c.q c.i
        else s1.failCmd c.q c.i stMismatch 0).formDigests).settled)

/-- Contributions of other chips (R159, R166, R172, R173, R187): a REDUCE chunk whose operands are ready is summed and goes
on along its ring or lands; side records, spilled groups and sparse records land in their slots one after another; a check-
adder mismatch raises SDE, is counted with its group and job, and names its guard reason. Model choices: DEDUCED, log 97;
DEDUCED, log 99. -/
def Obligations.Contributions : Prop :=
  (∀ (src seq : Nat) (h : Held) (c : Cmd) (s : State),
    let s1 := (s.accept h).progress c.q c.i src true
    (∀ rs ps, s.delivers 1 src seq false h c → isReducing c.type = true → h.pkts.mapM (packetRecs c) = some rs →
      c.localReady h.hdr.ring (rs.flatten.map (·.1)) = true →
      s.localFlagged c (decide (14 ≤ h.hdr.ring)) (rs.flatten.map (·.1)) = false →
      (rs.flatten.map (·.1)).any (fun g => (s.localRec c h.hdr.ring g).isNone) = false → (List.zip h.pkts rs).mapM (fun (p, r) => s.hopSums c p r) = some ps →
      exec (.reduceChunk src seq) s = .next (((s1.reduceSums c.q c.i h ps).formDigests).settled))
    ∧ (∀ rs, s.delivers 3 src seq false h c → c.landsNow = true →
      h.pkts.mapM (fun p => parseSides c.g (p.payload.length / 16 + 1) p.payload) = some rs →
      (rs.flatten.all (fun x => c.owns (s.place c).1 (s.place c).2 x.1)) = true →
      let old := (rs.flatten.map (·.1)).eraseDups.flatMap (fun g => (s.sideHeld c g).map (fun x => (g, x.1, x.2)))
      let pairs := old ++ rs.flatten.flatMap (fun x => x.2.map (fun e => (x.1, e.pos, e.rank)))
      pairs.Nodup → pairs.all (fun x => decide ((pairs.filter (fun y => y.1 == x.1 && y.2.2 == x.2.2)).length ≤ 8)) = true →
      exec (.sideChunk src seq) s = .next (((rs.flatten.foldl (fun s x => s.landSide c.q c.i x.1 x.2) s1).formDigests).settled))
    ∧ (∀ rs, s.delivers 4 src seq false h c → c.landsNow = true →
      h.pkts.mapM (fun p => parseSpills (p.payload.length / 16 + 1) p.payload) = some rs →
      rs.flatten.all (spillFits c (s.place c).1 (s.place c).2) = true →
      exec (.spillChunk src seq) s = .next (((rs.flatten.foldl (fun s r =>
        if r.row || !c.hasRow then s.landOwned c.q c.i r.group r.body r.contrib true src
        else s.landPending c.q c.i r.group r.body r.contrib true src) s1).formDigests).settled))
    ∧ (∀ rs, s.delivers 5 src seq false h c → c.landsNow = true → c.sparse = true →
      h.pkts.mapM (fun p => parseSparses c.selBlock c.elements (p.payload.length / 16 + 1) p.payload) = some rs →
      rs.flatten.all (fun r => c.owns (s.place c).1 (s.place c).2 (r.block * c.selBlock / c.g)
        && decide (r.block * c.selBlock < c.elements)) = true →
      exec (.sparseChunk src seq) s = .next (((rs.flatten.foldl (fun s r => s.landSparse c.q c.i r src) s1).formDigests).settled)))
    ∧ ∀ (q i group globalGroup job : Nat) (c : Cmd) (s : State), s.ctl.resetOn = false → s.cmd? q i = some c →
      ∃ t, exec (.checkAdderMismatch q i group globalGroup job) s = .next t ∧ (t.rd rEvtStatus).getLsbD 7 = true
        ∧ t.fld rPlySde 0 32 = min (2 ^ 32 - 1) (s.fld rPlySde 0 32 + 1)
        ∧ t.rd rPlySdeAt = BitVec.ofNat 64 (globalGroup % 2 ^ 40 + job % 4096 * 2 ^ 40)
        ∧ (c.type = 0x12 → c.upd.computed = false → c.outcome = none →
            ∃ d, t.cmd? q i = some d ∧ d.upd.reasons = c.upd.reasons ||| 0x10)
        ∧ t.rep.detected ≠ none ∧ t.queues = s.queues ∧ t.held = s.held

/-- Chunks of the direct transfers and gathers (R226, R231 to R235, R301): WRITE data goes to the output of its command's
type, waits while the expander owes its slot or the repeat it belongs to has not begun, and is taken without use when its
repeat has passed (R245); a chunk that ends its Row path lands byte by byte and goes no further, one for a RECV lands within
DST_CAP, Ply codes as bfloat16 (R107), and rows of an ALL_TO_ALL land at their source's place up to the capacity. Counts and
lists are kept with their source's index, a second one of a source has no use, and lists that disagree fail the command
(R128). READY is kept and starts a SEND, or cancels it when the receiver's room or format does not agree; CANCEL ends a RECV
with CONFIG_MISMATCH; both count the mismatch (R233). A marker of another transfer waits. Model choices: DEDUCED, log 44;
DEDUCED, log 45; DEDUCED, log 46. -/
def Obligations.Transfers : Prop :=
  ∀ (src seq : Nat) (h : Held) (c : Cmd) (s : State), s.cmd? c.q c.i = some c →
    let s1 := (s.accept h).progress c.q c.i src true
    let c1 := { c with watchAt := s.now, lastFrom := smSet (fun _ => 0) c.lastFrom src s.now }
    let waits : Host.Outcome State Fault Refusal := .next (s.formDigests).settled
    let unused : Host.Outcome State Fault Refusal := .next (s1.formDigests).settled
    let window := fun (a : Nat) => ∃ k < 36, (s.winAt h.hdr.src + k) % 2 ^ 64 = a % 2 ^ 64
    let owes := h.pkts.any (fun p => match c.segAtOff p.hdr.offset with | some g => s.owed c g.num | none => false)
    (∀ mc, s.delivers 6 src seq mc h c →
      (c.type ∈ [0x10, 0x12, 0x13, 0x15, 0x18] →
        (c.gat.rep < h.hdr.rep → exec (.writeChunk src seq mc) s = waits)
        ∧ (h.hdr.rep < c.gat.rep → exec (.writeChunk src seq mc) s = unused)
        ∧ (c.gat.rep = h.hdr.rep → c.compress ≠ 0 → owes = true → exec (.writeChunk src seq mc) s = waits)
        ∧ (c.gat.rep = h.hdr.rep → c.compress = 0 ∨ owes = false →
          exec (.writeChunk src seq mc) s = .next (((s.gatherWrite c h).formDigests).settled)
          ∧ ∀ p, h.pkts = [p] → p.payload.length ≤ 4096 → c.type ∈ [0x10, 0x12, 0x13] → c.compress ≠ 0 ∨ c.transposed = false →
            c.gat.rowStarted = false → c.gat.voteFormed = false → 14 ≤ h.hdr.ring → c.hedges ≤ h.hdr.hop + 1 →
            let n := c.clip h.hdr.ring p.hdr.offset p.payload.length
            ∃ t d, exec (.writeChunk src seq mc) s = .next t ∧ h ∉ t.held ∧ t.outbox = s.outbox
              ∧ (∀ k < n, t.byte (c.dst + p.hdr.offset + k) = p.payload.getD k 0)
              ∧ (∀ a, (∀ k < n, (c.dst + p.hdr.offset + k) % 2 ^ 64 ≠ a % 2 ^ 64) → ¬ window a → t.byte a = s.byte a)
              ∧ t.cmd? c.q c.i = some d ∧ (p.hdr.offset, n) ∈ d.gat.got))
      ∧ (c.type = 0x14 →
        (c.gat.rep < h.hdr.rep ∨ c.countsHere = false → exec (.writeChunk src seq mc) s = waits)
        ∧ (h.hdr.rep < c.gat.rep → c.countsHere = true → (c.indexOf src).isSome = true → exec (.writeChunk src seq mc) s = unused)
        ∧ exec (.writeChunk src seq mc) s = .next (((s.rowWrite c h).formDigests).settled)
        ∧ ∀ u p, c.indexOf src = some u → c.gat.rep = h.hdr.rep → c.countsHere = true → c.moved = false →
            c.converts = false → c.rowBytes ≠ 0 → h.pkts = [p] → p.payload.length ≤ 4096 →
          let n := min p.payload.length (c.rowsFrom u * c.rowBytes - p.hdr.offset)
          ∃ t, exec (.writeChunk src seq mc) s = .next t ∧ h ∉ t.held
            ∧ (∀ k < n, c.rowsBefore u + (p.hdr.offset + k) / c.rowBytes < c.dstCap / c.rowBytes →
                t.byte (c.dst + c.rowsBefore u * c.rowBytes + p.hdr.offset + k) = p.payload.getD k 0)
            ∧ (∀ a, (∀ k < n, (c.dst + c.rowsBefore u * c.rowBytes + p.hdr.offset + k) % 2 ^ 64 ≠ a % 2 ^ 64) → ¬ window a →
                t.byte a = s.byte a))
      ∧ (c.type = 0x17 →
        (c.peer ≠ src → exec (.writeChunk src seq mc) s = waits)
        ∧ (c.peer = src → c.compress ≠ 0 → owes = true → exec (.writeChunk src seq mc) s = waits)
        ∧ (c.peer = src → c.compress = 0 ∨ owes = false →
          exec (.writeChunk src seq mc) s = .next (((s.recvWrite c h).formDigests).settled)
          ∧ (∀ p, h.pkts = [p] → p.payload.length ≤ 4096 → c.compress ≠ 0 ∨ isPly c.recvFmt = false →
            let n := if c.compress = 0 then min p.payload.length (c.dstCap - p.hdr.offset) else p.payload.length
            ∃ t, exec (.writeChunk src seq mc) s = .next t ∧ h ∉ t.held
              ∧ (∀ k < n, t.byte (c.dst + p.hdr.offset + k) = p.payload.getD k 0)
              ∧ ∀ a, (∀ k < n, (c.dst + p.hdr.offset + k) % 2 ^ 64 ≠ a % 2 ^ 64) → ¬ window a → t.byte a = s.byte a)
          ∧ (∀ p, h.pkts = [p] → p.payload.length ≤ 4096 → c.compress = 0 → isPly c.recvFmt = true →
            let per := if c.recvFmt = 11 then 2 else 1
            let codes := p.payload.flatMap (plyCodes c.recvFmt)
            ∃ t, exec (.writeChunk src seq mc) s = .next t ∧ h ∉ t.held
              ∧ ∀ k < min (per * p.payload.length) (c.dstCap / 2 - per * p.hdr.offset),
                t.readNat (c.dst + 2 * (per * p.hdr.offset + k)) 2
                  = (s1.actValue c (per * p.hdr.offset + k) (codes.getD k 0)).toNat))))
    ∧ (∀ u, c.indexOf src = some u →
      (s.delivers 7 src seq false h c → c.type = 0x14 →
        let words := sliceB h.payload 0 (4 * c.slots)
        let at_ := c.aux + 4 * c.members * c.slots + 4 * c.slots * u
        let d := { c1 with counts := c.counts ++ [(u, words)] }
        (c.counts.any (fun x => x.1 == u) = true → exec (.countChunk src seq) s = unused)
        ∧ (c.counts.any (fun x => x.1 == u) = false →
          exec (.countChunk src seq) s = .next ((((((s1.write at_ words).putCmd d).rowsPhase c.q c.i)).formDigests).settled)
          ∧ (c.dataStarted = false ∨ c.moved = true ∨ d.countsHere = false →
            ∃ t e, exec (.countChunk src seq) s = .next t ∧ h ∉ t.held ∧ t.cmd? c.q c.i = some e ∧ e.counts = d.counts
              ∧ (∀ k < 4 * c.slots, t.byte (at_ + k) = words.getD k 0)
              ∧ ∀ a, (∀ k < 4 * c.slots, (at_ + k) % 2 ^ 64 ≠ a % 2 ^ 64) → ¬ window a → t.byte a = s.byte a)))
      ∧ (s.delivers 8 src seq false h c → c.type = 0x18 →
        let d := { c1 with counts := c.counts ++ [(u, h.payload)] }
        let whole := allIn (0, c.members) (fun m => d.counts.any (fun x => x.1 == m))
        let lists := (List.range c.members).map (fun m => parseTRec ((d.counts.find? (fun x => x.1 == m)).map (·.2) |>.getD []))
        (c.counts.any (fun x => x.1 == u) = true → exec (.topkChunk src seq) s = unused)
        ∧ (c.counts.any (fun x => x.1 == u) = false →
          exec (.topkChunk src seq) s = .next ((((s1.putCmd d).mergeRoot c.q c.i).formDigests).settled)
          ∧ (c.moved = true ∨ whole = false → ∃ t e, exec (.topkChunk src seq) s = .next t ∧ h ∉ t.held
              ∧ t.cmd? c.q c.i = some e ∧ e.counts = d.counts ∧ e.status = none ∧ t.outbox = s.outbox)
          ∧ (c.moved = false → whole = true → mergeAgrees lists = false → ∃ t e, exec (.topkChunk src seq) s = .next t
              ∧ h ∉ t.held ∧ t.cmd? c.q c.i = some e ∧ e.status = some (stMismatch, 0) ∧ t.outbox = s.outbox))))
    ∧ (let mine := c.peer = src ∧ c.tag = h.hdr.offset ∧ leAt h.payload 0 4 = c.matchNo
      let fmt := byteAt h.payload 4 % 16
      let cap := leAt h.payload 8 8
      let d := { c1 with ready := some (leAt h.payload 0 4, fmt, cap) }
      (s.delivers 0x13 src seq false h c → c.type = 0x16 →
        (¬ mine → exec (.ready src seq) s = waits)
        ∧ (mine →
          exec (.ready src seq) s = .next (((((s1.putCmd d).sendGo c.q c.i)).formDigests).settled)
          ∧ (c.dataStarted = false ∨ c.moved = true → ∃ t e, exec (.ready src seq) s = .next t ∧ h ∉ t.held
              ∧ t.cmd? c.q c.i = some e ∧ e.ready = d.ready ∧ e.status = none ∧ t.outbox = s.outbox)
          ∧ (c.dataStarted = true → c.moved = false → cap < c.sendLen ∨ fmt ≠ c.wireFmt → (∃ phys, s.xlat c.peer = .ok phys) →
              (∀ x ∈ s.outbox, x.seq.isSome = true) → ∃ t e x, exec (.ready src seq) s = .next t ∧ h ∉ t.held
              ∧ t.cmd? c.q c.i = some e ∧ e.status = some (stMismatch, 0)
              ∧ t.fld rColEvents 24 8 = min 255 (s.fld rColEvents 24 8 + 1)
              ∧ t.outbox.length = s.outbox.length + 1 ∧ t.outbox.getLast? = some x ∧ x.kind = 0x14 ∧ x.dst = c.peer
              ∧ x.pkts.map (·.payload) = [cancelBytes c.matchNo (if cap < c.sendLen then 1 else 2)])
          ∧ (c.dataStarted = true → c.moved = false → c.gat.rowStarted = false → c.sendLen ≤ cap → fmt = c.wireFmt →
              c.sendReads.any (fun x => s1.flagged x.1 x.2) = true → ∃ t e, exec (.ready src seq) s = .next t ∧ h ∉ t.held
              ∧ t.cmd? c.q c.i = some e ∧ e.status = some (stData, s.ownRank) ∧ (t.rd rEvtStatus).getLsbD 10 = true
              ∧ t.outbox = s.outbox)))
      ∧ (s.delivers 0x14 src seq false h c → c.type = 0x17 →
        (¬ mine → exec (.cancel src seq) s = .next s.settled)
        ∧ (mine → ∃ t e, exec (.cancel src seq) s = .next t ∧ h ∉ t.held ∧ t.cmd? c.q c.i = some e
            ∧ e.status = some (stMismatch, 0) ∧ t.fld rColEvents 24 8 = min 255 (s.fld rColEvents 24 8 + 1)
            ∧ t.outbox = s.outbox ∧ t.queues = s.queues)))

/-- A chunk of a completed collective is accepted without use and counted as stray (R180); the drain marker that a draining
or running identifier awaits is recorded (R249, R270); a vote is kept once for its member and fold (R269); a member silent
for too long during CLOSE_JOB is no longer awaited (R376). Model choices: DEDUCED, log 24; DEDUCED, log 64; DEDUCED, log 73.
-/
def Obligations.MarkersAndVotes : Prop :=
  (∀ (i : Instr) (kind src seq : Nat) (mc : Bool) (h : Held) (s : State), chunkOfInstr i = some (kind, src, seq, mc) → s.ctl.resetOn = false →
      (kind ≤ 6 → s.flows) →
      s.heldChunk kind src seq mc = some h → s.sortChunk h.hdr.job src = .stray → s.passable h = true →
      exec i s = .next (((s.stray h).formDigests).settled))
    ∧ (∀ (src seq : Nat) (h : Held) (d : Drain) (s : State), s.ctl.resetOn = false → s.heldChunk 0x12 src seq false = some h →
      s.passable h = true → h.payload = drainBytes (leAt h.payload 0 2 % 4096) → s.drainOf (leAt h.payload 0 2) = some d →
      d.skipped.contains src = false → d.got.contains src = false → (d.active = true ∨ s.jobState (leAt h.payload 0 2) = 1) →
      exec (.drain src seq) s = .next ((((s.takeMarker h d).formDigests).settleWork).settled))
    ∧ (∀ (src seq ws os : Nat) (mc : Bool) (h : Held) (c d : Cmd) (v : VoteMsg) (s : State), s.delivers 0x11 src seq mc h c →
      parseVote h.payload = some v → v.rep = c.gat.rep →
      let s1 := (s.accept h).progress c.q c.i src true
      s1.cmd? c.q c.i = some d → d.placeOf src = some (ws, os) →
      let r : VoteRec := { at_ := if v.row then v.origin else os, row := v.row, good := v.good, guard := v.guard
                           mixed := v.mixed, reasons := v.reasons }
      d.gat.votes.any (fun x => x.row == r.row && x.at_ == r.at_) = false →
      let s2 := s1.putCmd { d with gat := { d.gat with votes := d.gat.votes ++ [r] } }
      let s3 := if v.row && decide (1 < v.hops) then s2.rowVote d r (if rowStep d.hedges ws 0 = (s2.place d).1 then 0 else 1) (v.hops - 1)
        else s2
      exec (.vote src seq mc) s = .next (((s3.fence d.q d.i).formDigests).settled))
    ∧ ∀ (job rank m : Nat) (d : Drain) (s : State), s.ctl.resetOn = false → m < 4 → s.begun m = true → rqOpcode (s.request m) = 0x0011 →
      s.drainOf job = some d → d.active = true → (s.rd rColAbort).toNat ≠ 0 → s.timeValid = true → d.await.contains rank = true →
      d.got.contains rank = false → max d.since (smGet (fun _ => 0) d.heard rank) + (s.rd rColAbort).toNat ≤ s.now →
      exec (.silentMemberExpiry job rank) s = .next (((((s.giveUpIn job job rank).settleDrain job).settleWork)).settled)

/-- The phases of a running collective (R224, R226, R244 to R246, R301). Its data phase starts at its launch time, with the
marks of the launch (R45): the time of the last launch, and for one past its time the LATE bit, the largest slip and
LATE_LAUNCH; a reducing one waits for its lead and for its bucket; started again it does what was left. A RECV then sends
its READY marker (R233). A Row phase starts once every Row operand of its roles is ready, and the gather phases start with
what is ready, Row first, a compressed one once the expander owes none of the slots it writes. Until then they do nothing.
Model choices: DESIGN CHOICE, log 8. -/
def Obligations.Phases : Prop :=
  ∀ (q i : Nat) (c : Cmd) (s : State), s.ctl.resetOn = false → s.flows → s.cmd? q i = some c → c.status = none →
    let waits : Host.Outcome State Fault Refusal := .next (s.formDigests).settled
    let begun := { c with dataStarted := true, dataAt := s.now }
    (usesBlock c.type = true → c.dataStarted = false →
      let may := s.launchReady c = true ∧ (isReducing c.type = true → c.leadComplete = true ∧ s.bucketFree c = true)
      (¬ may → exec (.dataPhaseStart q i) s = waits)
      ∧ (may → exec (.dataPhaseStart q i) s
          = .next ((((((s.launchMarks c).putCmd begun).dataPhase q i)).formDigests).settled)
        ∧ (c.type = 0x13 ∨ (c.type = 0x16 ∧ c.ready = none) ∨ (c.type = 0x15 ∧ c.peer ≠ s.job.rank) → ∃ t d,
            exec (.dataPhaseStart q i) s = .next t ∧ t.cmd? q i = some d ∧ d.dataStarted = true ∧ d.dataAt = s.now
            ∧ d.watchAt = c.watchAt ∧ t.outbox = s.outbox ∧ t.mem = s.mem
            ∧ (c.launchAt = 0 → t.rd rLaunchLast = s.rd rLaunchLast ∧ t.rd rLaunchSlip = s.rd rLaunchSlip)
            ∧ (c.launchAt ≠ 0 → t.rd rLaunchLast = BitVec.ofNat 64 s.now)
            ∧ (c.launchAt ≠ 0 → c.late = true → c.q < 64 → t.fld rLaunchLate c.q 1 = 1 ∧ (t.rd rEvtStatus).getLsbD 27 = true
                ∧ (t.rd rLaunchSlip).toNat = max (s.rd rLaunchSlip).toNat (s.now - c.launchAt))
            ∧ (c.late = false → t.rd rLaunchLate = s.rd rLaunchLate ∧ t.rd rLaunchSlip = s.rd rLaunchSlip))
        ∧ (c.type = 0x17 → ∃ t d x, exec (.dataPhaseStart q i) s = .next t ∧ t.cmd? q i = some d ∧ d.dataStarted = true
            ∧ t.outbox.length = s.outbox.length + 1 ∧ t.outbox.getLast? = some x ∧ x.kind = 0x13 ∧ x.dst = c.peer
            ∧ x.pkts.map (·.payload) = [readyBytes c.matchNo c.recvFmt c.dstCap])))
    ∧ (usesBlock c.type = true → c.dataStarted = true →
        exec (.dataPhaseStart q i) s = .next (((s.dataAgain q i).formDigests).settled))
    ∧ (isReducing c.type = true → c.hasRow = true →
      let ready := c.dataStarted = true ∧ c.red.rowStarted = false
        ∧ ∀ p ∈ c.roles (s.place c).1 (s.place c).2, allIn (eighth c.ng p) (fun g => smGet (fun _ => 0) c.red.rowOp g != 0) = true
      (¬ ready → exec (.rowPhaseStart q i) s = waits)
      ∧ (ready → exec (.rowPhaseStart q i) s = .next ((((c.roles (s.place c).1 (s.place c).2).foldl
            (fun s p => (s.sendRow c (s.place c).1 p 0).sendRow c (s.place c).1 p 1)
            (s.putCmd { c with red := { c.red with rowStarted := true } })).formDigests).settled)
        ∧ ∃ t d, exec (.rowPhaseStart q i) s = .next t ∧ t.cmd? q i = some d ∧ d.red.rowStarted = true ∧ t.held = s.held))
    ∧ (s.gatherReady c = false → exec (.gatherPhaseStart q i) s = waits)
    ∧ (s.gatherReady c = true →
      let owes := c.compress != 0 && (s.mySegments c).any (fun g => s.owed c g.num)
      let here := (c.roles (s.place c).1 (s.place c).2).all (s.rangeHere c)
      (c.gat.rowStarted = false → owes = true → exec (.gatherPhaseStart q i) s = waits)
      ∧ (c.gat.rowStarted = false → owes = false →
          exec (.gatherPhaseStart q i) s = .next (((((s.gatherRow c).fenceOn q i)).formDigests).settled))
      ∧ (c.gat.rowStarted = true → c.gat.hedgeStarted = false → here = true →
          exec (.gatherPhaseStart q i) s = .next (((((s.gatherHedge c).fenceOn q i)).formDigests).settled))
      ∧ (c.gat.rowStarted = true → c.gat.hedgeStarted = true ∨ here = false → exec (.gatherPhaseStart q i) s = waits))

/-- The passes of a fused step (R196, R207): a unit of blocks is computed into staging and publication once all
contributions are here; after an applied decision each block moves from staging to state, and the last one commits the
ownership entry, counts the step, commits the residuals and becomes the last applied step. Model choices: DESIGN CHOICE, log
8; DEDUCED, log 96. -/
def Obligations.FusedPasses : Prop :=
  (∀ (q i : Nat) (c : Cmd) (s : State), s.ctl.resetOn = false → s.flows → s.cmd? q i = some c → c.type = 0x12 → c.status = none →
      c.dataStarted = true → c.upd.computed = false → s.allDone c = true →
      let blks := c.unitAt (s.place c).1 (s.place c).2 c.upd.cursor
      (blks = [] → exec (.updateComputePass q i) s
        = .next (((s.putCmd { c with upd := { c.upd with computed := true } }).formDigests).settled))
      ∧ (blks ≠ [] → s.pushRoom c blks.length = true → exec (.updateComputePass q i) s
        = .next (((s.computeUnit c (s.place c).1 (s.place c).2 blks).formDigests).settled)))
    ∧ ∀ (q i : Nat) (c : Cmd) (s : State), s.ctl.resetOn = false → s.flows → s.cmd? q i = some c →
      applies c.outcome = true → c.upd.applied = false → s.ckp.pushes.any (fun p => p.q == q && p.i == i) = false →
      (∀ b rest, (c.espBlocks (s.place c).1 (s.place c).2).drop c.upd.applyCursor = b :: rest → rest ≠ [] →
        let len := stateLen (c.progOf (s.place c).2 b.role)
        let own := c.ownOf (s.place c).2 b.role
        let s1 := (s.write (owState own + b.rec_ * len) (s.read (owStage own + b.rec_ * len) len)).putCmd
          { c with upd := { c.upd with applyCursor := c.upd.applyCursor + 1 } }
        s.flagged (owStage own + b.rec_ * len) len = false → exec (.applyPass q i) s = .next ((s1.formDigests).settled))
      ∧ ((c.espBlocks (s.place c).1 (s.place c).2).drop (c.upd.applyCursor + 1) = [] → ∃ t, exec (.applyPass q i) s = .next t
          ∧ t.rd rEspApplied = s.rd rEspApplied + 1 ∧ t.job.lastStep = some c.step)

/-- A digest record with room in its ring is written with NDET, TIME and its CRC at HEAD, its 64 bytes and no others, and
HEAD moves on; without room it is dropped and counted, or under STALL waits (R326, R328). A piece of a plain output is drawn
in beats of 512 bytes, the last padded, its element bytes and then its scale or side bytes (R33); of an expanded output the
segments it needs are read back, or expanded first when they are owed, and nothing of it is delivered when one cannot be
(R303, R305). The Feed expander takes the next segment owed (R306): the plain bytes reach the committed slot and its entry
says DONE, or the segment is marked DAMAGED, counted, located and reported. Under STALL the expander waits behind its record
(R328). Model choices: DESIGN CHOICE, log 8; DEDUCED, log 51. -/
def Obligations.DigestsAndPieces : Prop :=
  ∀ s : State, s.ctl.resetOn = false →
    (∀ d rest, s.digests = d :: rest → d.bytes.length = 40 →
      (s.ringFull d = false →
        let b := d.bytes ++ toLE (s.rd rNdetTotal).toNat 8 ++ toLE s.now 8 ++ toLE 0 4
        let h := s.fld rDigRingHead 0 32
        let a := d.base + 64 * (h % 2 ^ (d.cfg % 32))
        ∃ t, exec .digestRecord s = .next t ∧ t.digests = rest ∧ t.fld rDigRingHead 0 32 = (h + 1) % 2 ^ 32
          ∧ (∀ k < 64, t.byte (a + k) = (b ++ toLE (crc32c b).toNat 4).getD k 0)
          ∧ (∀ x, (∀ k < 64, (a + k) % 2 ^ 64 ≠ x % 2 ^ 64) → t.byte x = s.byte x)
          ∧ t.rd rDigRingDrop = s.rd rDigRingDrop ∧ t.cmds = s.cmds)
      ∧ (s.ringFull d = true → bitAt d.cfg 6 = false → ∃ t, exec .digestRecord s = .next t ∧ t.digests = rest ∧ t.mem = s.mem
          ∧ t.fld rDigRingDrop 0 32 = min (2 ^ 32 - 1) (s.fld rDigRingDrop 0 32 + 1) ∧ t.rd rDigRingHead = s.rd rDigRingHead)
      ∧ (s.ringFull d = true → bitAt d.cfg 6 = true → exec .digestRecord s = .next s.settled))
    ∧ (s.digests = [] → exec .digestRecord s = .next s.settled)
    ∧ (∀ q i n, s.digestHolds 1 = true → exec (.pieceDraw q i n) s = .next s.settled ∧ exec (.expandBackground q i) s = .next s.settled)
    ∧ (s.digestHolds 1 = false →
      (∀ q i n p, s.pieces.find? (fun p => p.q == q && p.i == i && p.num == n) = some p →
        s.outs.find? (fun x => x.cmd.q == q && x.cmd.i == i) = none →
        let run := fun (t : State) (scale : Bool) (first addr len : Nat) => ∀ j < cdiv len 512,
          t.feedOut[s.feedOut.length + first + j]? = some (beatTag 0 p.q p.job scale false false p.num (512 * j)
            (min 512 (len - 512 * j) - 1), sliceB (s.read (addr + 512 * j) (min 512 (len - 512 * j))) 0 512)
        ∃ t, exec (.pieceDraw q i n) s = .next t
          ∧ t.feedOut.length = s.feedOut.length + cdiv p.len 512 + cdiv p.sideLen 512
          ∧ run t false 0 p.addr p.len ∧ run t true (cdiv p.len 512) p.sideAddr p.sideLen
          ∧ (∀ j < s.feedOut.length, t.feedOut[j]? = s.feedOut[j]?) ∧ t.mem = s.mem ∧ t.pieces = s.pieces)
      ∧ (∀ q i n p x, s.pieces.find? (fun p => p.q == q && p.i == i && p.num == n) = some p →
        s.outs.find? (fun x => x.cmd.q == q && x.cmd.i == i) = some x →
        let c := x.cmd
        let els := c.segsOver p.offset p.len
        let cover := els ++ (if p.sideLen = 0 then [] else c.segsOver p.sideOffset p.sideLen)
        let plain := fun (s : State) (off len : Nat) => s.read (c.dst + s.tabCur c * c.plainSize + off) len
        ((∃ g ∈ cover, s.segBad c g = true) → (∀ g ∈ cover, enOk (s.entry c g.num) = true) →
          ∃ t, exec (.pieceDraw q i n) s = .next t ∧ t.feedOut = s.feedOut ∧ t.mem = s.mem)
        ∧ (∀ g, cover = [g] → enOk (s.entry c g.num) = false → ∃ t, exec (.pieceDraw q i n) s = .next t
          ∧ t.feedOut = s.feedOut ∧ t.damaged.contains (c.dst, g.num) = true ∧ (t.rd rEvtStatus).getLsbD 8 = true
          ∧ t.fld rExpErr 0 16 = min 65535 (s.fld rExpErr 0 16 + 1))
        ∧ ((∀ g ∈ cover, s.segBad c g = false ∧ s.owed c g.num = false) → ∃ t, exec (.pieceDraw q i n) s = .next t
          ∧ t.feedOut = s.feedOut ++ p.beats false (plain s p.offset p.len)
              ++ (if p.sideLen = 0 then [] else p.beats true (plain s p.sideOffset p.sideLen))
          ∧ t.fld rExpSegs 32 32 = min (2 ^ 32 - 1) (s.fld rExpSegs 32 32 + cover.length) ∧ t.mem = s.mem)
        ∧ (∀ g, els = [g] → p.sideLen = 0 → s.segBad c g = false → s.owed c g.num = true →
          let r := s.expandSeg x g
          (r.segBad c g = false → ∃ t, exec (.pieceDraw q i n) s = .next t
            ∧ t.feedOut = s.feedOut ++ p.beats false (plain r p.offset p.len) ∧ t.mem = r.mem)
          ∧ (r.segBad c g = true → g.off ≤ p.offset → ∃ t, exec (.pieceDraw q i n) s = .next t ∧ t.feedOut = s.feedOut
              ∧ t.mem = r.mem)))
      ∧ (∀ q i x, s.outs.find? (fun x => x.cmd.q == q && x.cmd.i == i) = some x → s.nextOwed x = none →
        exec (.expandBackground q i) s = .next ((s.formDigests).settled))
      ∧ ∀ q i x g, s.outs.find? (fun x => x.cmd.q == q && x.cmd.i == i) = some x → s.nextOwed x = some g →
        let c := x.cmd
        let e := s.entry c g.num
        let at_ := c.tableAddr + 64 + 4 * g.num
        let spoilt := fun (t : State) => t.damaged.contains (c.dst, g.num) = true ∧ (t.rd rEvtStatus).getLsbD 8 = true
          ∧ t.rd rExpErrAt = BitVec.ofNat 64 (g.num + c.job * 2 ^ 32 + c.q * 2 ^ 44)
          ∧ t.mem = memWrite s.mem at_ (toLE (mkEntry (enState e) true (enUnits e)) 4)
        let one := fun (t : State) (lo : Nat) => t.fld rExpErr lo 16 = min 65535 (s.fld rExpErr lo 16 + 1)
        let owed := enOk e = true ∧ s.owed c g.num = true
        (enOk e = false → ∃ t, exec (.expandBackground q i) s = .next t ∧ spoilt t ∧ one t 0)
        ∧ (owed → s.expandFlagged x g = true → ∃ t, exec (.expandBackground q i) s = .next t ∧ spoilt t ∧ one t 0
            ∧ (t.rd rEvtStatus).getLsbD 10 = true)
        ∧ (owed → s.expandFlagged x g = false →
          (∀ agree, s.expand x g = (none, agree) → ∃ t, exec (.expandBackground q i) s = .next t ∧ spoilt t ∧ one t 0)
          ∧ (∀ plain, s.expand x g = (some plain, false) → ∃ t, exec (.expandBackground q i) s = .next t ∧ spoilt t ∧ one t 16)
          ∧ (∀ plain, s.expand x g = (some plain, true) → ∃ t, exec (.expandBackground q i) s = .next t
            ∧ t.mem = memWrite (memWrite s.mem (c.dst + s.tabCur c * c.plainSize + g.off) plain) at_
                (toLE (mkEntry 3 false (enUnits e)) 4)
            ∧ t.damaged.contains (c.dst, g.num) = false ∧ t.rd rExpErr = s.rd rExpErr
            ∧ t.fld rExpSegs 0 32 = min (2 ^ 32 - 1) (s.fld rExpSegs 0 32 + 1))))

/-! ### Checkpoints, redundancy, faults and ageing -/

/-- The image of a step (R341 to R346): it begins when one is due and none is in progress, else the request is recorded; an
acknowledged push copies its record; a written and verified image that is reported is PREPARED and the vote is sent in the
two passes of R269: a vote of a member is kept, with the last one of this chip's Hedge the Hedge's result goes both ways
around the Row, and the result of another Hedge is kept and sent on; and the notice of a commit marks the copy that this
chip holds. Model choices: DESIGN CHOICE, log 8; DESIGN CHOICE, log 26; DEDUCED, log 28; DEDUCED, log 67. -/
def Obligations.ImagesMade : Prop :=
  ∀ s : State, s.allAwake = true →
    (∀ step, s.firmware = true → s.ckpDue = some step →
      (s.ckp.image = none → exec .ckpImageBegin s = .next ((s.beginImage step).settled))
      ∧ (∀ m, s.ckp.image = some m → s.ckp.genWait = false → exec .ckpImageBegin s
          = .next ((({ s with ckp := { s.ckp with genWait := true } } : State).sat rCkpEvents 16 8 1).settled)))
    ∧ (∀ p rest, s.ckp.pushes = p :: rest → (∀ m, s.ckp.image = some m → m.written = true) →
        exec .ckpPushAck s = .next (({ s with ckp := { s.ckp with pushes := rest } } : State).settled))
    ∧ (∀ m bad twice buddy rows, s.ckp.image = some m → m.written = true → m.prepared = false → m.badTwice = false →
        (buddy = true ∨ bitAt m.policy 1 = false ∨ polHedges m.policy = 1) → (rows = true ∨ bitAt m.policy 2 = false ∨ s.gapHere m.policy = true) →
        let s1 := (s.setImageState (genAt m.base m.size m.gen) 2).setFld rCkpStatus 50 2 2
        let s2 : State := { s1 with ckp := { s1.ckp with image := some { m with prepared := true } } }
        exec (.ckpPrepare bad twice buddy rows) s = .next ((((s2.castPass false m.policy m.step).tryCommit).settleWork).settled))
    ∧ (∀ src step,
        let p := (s.ckp.image.map (·.policy)).getD (s.rd rCkpPolicy).toNat
        let w := (ckpPlace p s.job.rank).1
        let held := fun (l : List (Nat × Nat)) (r : Nat) => l.contains (r, step)
        let new := s.ckp.votes ++ [(src, step)]
        let s1 : State := { s with ckp := { s.ckp with votes := new } }
        s.ckp.votes.contains (src, step) = false →
        (s.ckpHedge p w).contains src = true →
        ((s.ckpHedge p w).all (held new) = false → exec (.ckpPrepareVote (.member src) step) s
          = .next (((s1.tryCommit).settleWork).settled))
        ∧ ((s.ckpHedge p w).all (held new) = true → exec (.ckpPrepareVote (.member src) step) s
          = .next (((((s1.rowPass false p step w 0 (cdiv (polHedges p - 1) 2)).rowPass false p step w 1 ((polHedges p - 1)
              / 2)).tryCommit).settleWork).settled)))
    ∧ (∀ src step origin hops,
        let p := (s.ckp.image.map (·.policy)).getD (s.rd rCkpPolicy).toNat
        let rs := s.ckpHedge p origin
        let new := s.ckp.votes ++ (rs.filter (fun r => !s.ckp.votes.contains (r, step))).map (fun r => (r, step))
        let s1 : State := { s with ckp := { s.ckp with votes := new } }
        let d := if rowStep (polHedges p) (ckpPlace p src).1 0 = (ckpPlace p s.job.rank).1 then 0 else 1
        rs.all (fun r => s.ckp.votes.contains (r, step)) = false → exec (.ckpPrepareVote (.hedge src origin hops) step) s
          = .next ((((s1.rowPass false p step origin d (hops - 1)).tryCommit).settleWork).settled))
    ∧ (∀ step g, heldGen s.ckp.buddyStep step = some g →
        exec (.ckpCommitNotice false step) s = .next ((s.setImageState (buddyAt s.ckpBase s.ckpSize g) 3).settled))
    ∧ ∀ step g, heldGen s.ckp.parityStep step = some g →
        exec (.ckpCommitNotice true step) s = .next ((s.setParityState (parityAt s.ckpBase s.ckpSize g) 3).settled)

/-- Copies of other chips and the restore (R338, R339, R347, R351): bytes of a buddy copy are written to its generation and
the whole copy is marked, kept with its step and reported; bytes of a parity unit are held until it is whole and folded; an
inventory of a survivor is kept and joins the restore; and a loaded restore ends, with the chosen step as the last applied
one, when the fence of the last member has come. Model choices: DESIGN CHOICE, log 26; DEDUCED, log 28; DEDUCED, log 47;
DESIGN CHOICE, log 124. -/
def Obligations.CopiesAndRestores : Prop :=
  ∀ s : State, s.allAwake = true →
    (∀ step offset b, s.fetching step 1 = none →
      let at_ := buddyAt s.ckpBase s.ckpSize (s.genFor step)
      let s1 := s.farWrite (at_ + offset) b
      (∀ bad badTwice, exec (.buddyCopy step offset b false bad badTwice) s = .next (s1.settled))
      ∧ ∃ t, exec (.buddyCopy step offset b true [] false) s = .next t ∧ t.ckp.buddyStep = s.ckp.buddyStep.setIfInBounds (s.genFor step) (some step)
          ∧ (let rank := leAt (s1.read at_ 16) 14 2
             t.sent = s.sent ++ [Msg.report rank step false])
          ∧ t.queues = s.queues)
    ∧ (∀ position step offset b, position < 8 → s.fetching step 2 = none →
      ∀ bad badTwice, exec (.parityUnit position step offset b false bad badTwice) s
          = .next ((s.holdUnit position step offset b).settled)
        ∧ ((s.holdUnit position step offset b).restore = none → exec (.parityUnit position step offset b true bad badTwice) s
          = .next (((s.holdUnit position step offset b).foldUnit position step bad badTwice).settled)))
    ∧ (∀ rank headers,
        let s1 : State := { s with ckp := { s.ckp with inv := s.ckp.inv.filter (fun x => x.1 != rank) ++ [(rank, headers)] } }
        (s.restore = none → exec (.restoreInventory rank ⟨headers, []⟩) s = .next s1.settled)
        ∧ (∀ r, s.restore = some r → r.chosen = none → exec (.restoreInventory rank ⟨headers, []⟩) s = .next ((s1.restoreOn).settled)))
    ∧ ∀ r step fence, s.restore = some r → r.chosen = some step → r.loaded = true → r.lost = 0xFFFF →
        (fence = none ∨ ∃ src, fence = some (.member src, step)) →
        (∀ q ∈ s.ckpRanks (s.rd rCkpPolicy).toNat, fence = some (.member q, step) ∨ s.ckp.fence.contains (q, step) = true) →
        ∃ t, exec (.restoreFence fence) s = .next t ∧ t.restore = none ∧ t.ckp.fence = [] ∧ t.job.lastStep = some step ∧ t.stepCur = step
          ∧ t.fld rCkpStatus 0 48 = step % 2 ^ 48 ∧ t.fld rCkpStatus 48 1 = 1 ∧ t.matchTx = [] ∧ t.matchRx = []

/-- Faults (R358 to R361): a fault event that is not lasting is kept with its time and counted; one that is lasting at once,
or the one that completes the count, is forgotten and handled: without firmware, during the wake order or under HOLD it is a
health event only; else the first free spare of its unit takes the place of the resource, is entered in the map in memory
with its complement behind the others, counted and reported, and with no free spare the chip asks for its replacement. A
resource without spares raises the health event too. The self-test (R358) keeps its time and hands on its mismatches one by
one. The sweep (R364, R365) records the laps, names the slowest canary, and asks for more supply when its margin is below
the low limit and for less above the high one; the timers do nothing before their time. Model choices: DEDUCED, log 30;
DEDUCED, log 40; DEDUCED, log 75. -/
def Obligations.FaultsAndAgeing : Prop :=
  ∀ s : State, s.ctl.resetOn = false →
    (∀ f,
      let ty := resType f.word
      let u := resUnit f.word
      let evs := ((s.eventsOf f.word).filter (fun e => decide (s.now - e.1 ≤ 1000000 * s.fld rRepCfg 0 16))) ++ [(s.now, f.row, f.col)]
      let few := f.atOnce = false ∧ evs.length < s.fld rRepCfg 16 4
      let may := s.fld rRepOverride 0 1 = 0 ∧ s.firmware = true ∧ s.allAwake = true
      (few → ∃ t, exec (.faultEvent f) s = .next t ∧ t.eventsOf f.word = evs
        ∧ t.fld rRepEvents 0 16 = min 65535 (s.fld rRepEvents 0 16 + 1) ∧ t.rep.inUse = s.rep.inUse
        ∧ (∀ w, w ≠ f.word → t.eventsOf w = s.eventsOf w) ∧ (spareCount ty = 0 → (t.rd rEvtStatus).getLsbD 25 = true)
        ∧ t.mem = s.mem ∧ t.ports = s.ports ∧ t.queues = s.queues ∧ t.cmds = s.cmds)
      ∧ (¬ few → ¬ may → ∃ t, exec (.faultEvent f) s = .next t ∧ t.eventsOf f.word = [] ∧ t.rep.inUse = s.rep.inUse
        ∧ (t.rd rEvtStatus).getLsbD 25 = true ∧ t.rd rRepEvents = s.rd rRepEvents ∧ t.mem = s.mem ∧ t.ports = s.ports
        ∧ t.queues = s.queues ∧ t.cmds = s.cmds)
      ∧ (¬ few → may → ty ∈ [1, 2, 3] ∨ (ty = 4 ∧ f.atOnce = true) → spareOf f.word = none → ∀ sp, s.freeSpare ty u = some sp →
        let w := mkRes ty u (resIndex f.word) sp true
        let a := s.fld rRepMapBase 16 48 * 65536 + 8 * s.rep.inUse.length
        ∃ t, exec (.faultEvent f) s = .next t ∧ t.eventsOf f.word = [] ∧ t.rep.inUse = s.rep.inUse ++ [w]
          ∧ t.readNat a 8 = mapEntry w ∧ t.readNat (a + 8) 8 = 0xFFFFFFFF00000000
          ∧ (∀ x, (∀ k < 16, (a + k) % 2 ^ 64 ≠ x % 2 ^ 64) → t.byte x = s.byte x)
          ∧ t.fld rRepEvents 16 8 = min 255 (s.fld rRepEvents 16 8 + 1) ∧ (t.rd rEvtStatus).getLsbD 21 = true
          ∧ (ty ≠ 1 → t.ports = s.ports) ∧ t.queues = s.queues ∧ t.cmds = s.cmds)
      ∧ (¬ few → may → spareCount ty = 0 ∨ ty ∈ [1, 2, 3] ∨ (ty = 4 ∧ f.atOnce = true) → spareOf f.word = none → s.freeSpare ty u = none →
        ∃ t, exec (.faultEvent f) s = .next t ∧ t.eventsOf f.word = [] ∧ t.rep.inUse = s.rep.inUse
          ∧ t.fld rRepStatus 24 1 = 1 ∧ (t.rd rEvtStatus).getLsbD 22 = true ∧ (t.rd rEvtStatus).getLsbD 25 = true
          ∧ t.fld rRepEvents 24 8 = min 255 (s.fld rRepEvents 24 8 + 1)
          ∧ (ty = 2 → t.rep.heldPorts = u :: s.rep.heldPorts) ∧ (ty ∉ [1, 2] → t.ports = s.ports)
          ∧ t.mem = s.mem ∧ t.queues = s.queues ∧ t.cmds = s.cmds))
    ∧ (∀ faults,
      let due := s.firmware = true ∧ s.timeValid = true ∧ s.rep.lastSelftest + 1000000000 * s.fld rRepCfg 20 12 ≤ s.now
      (¬ due → exec (.selftestTimer faults) s = .next s.settled)
      ∧ (due → ∃ t, exec (.selftestTimer faults) s = .next t ∧ t.rep.lastSelftest = s.now
          ∧ (∀ w, (∀ f ∈ faults, f.word ≠ w) → t.eventsOf w = s.eventsOf w) ∧ t.queues = s.queues ∧ t.cmds = s.cmds
          ∧ (faults = [] → t.mem = s.mem ∧ t.ports = s.ports ∧ ∀ o, o ≠ rEvtStatus → (∀ k < 8, o ≠ rEvwCfg k) → t.rd o = s.rd o)
          ∧ ∀ f, faults = [f] → f.atOnce = false → (s.eventsOf f.word).length + 1 < s.fld rRepCfg 16 4 →
              (s.now, f.row, f.col) ∈ t.eventsOf f.word ∧ t.fld rRepEvents 0 16 = min 65535 (s.fld rRepEvents 0 16 + 1)))
    ∧ (∀ reference laps,
      let due := s.firmware = true ∧ s.timeValid = true ∧ s.age.lastSweep + 1000000000 * s.fld rAgeCfg 0 12 ≤ s.now
      (¬ due → exec (.ageingSweep reference laps) s = .next s.settled)
      ∧ (due → ∃ t, exec (.ageingSweep reference laps) s = .next t ∧ t.age.laps = laps ∧ t.age.reference = reference
          ∧ t.age.lastSweep = s.now ∧ t.age.firstSweep = some (s.age.firstSweep.getD s.now)
          ∧ t.queues = s.queues ∧ t.cmds = s.cmds
          ∧ (laps = [] → t.ctl.offsetReq = s.ctl.offsetReq ∧ t.rd rAgeSlowest = s.rd rAgeSlowest)
          ∧ ∀ c, slowest laps = some c → t.rd rAgeSlowest = BitVec.setWidth 64 c.word
            ∧ (s.ctl.offsetReq = none → s.fld rAgeStatus 16 1 = 0 →
              (marginNum c < s.fld rAgeCfg 12 8 * (targetOf c.word : Int) → s.offset < s.fld rAgeVlimit 0 6 →
                t.ctl.offsetReq = some 1 ∧ t.ctl.offsetAt = s.now)
              ∧ (s.fld rAgeCfg 12 8 * (targetOf c.word : Int) ≤ marginNum c → s.fld rAgeCfg 20 8 * (targetOf c.word : Int) < marginNum c →
                  -(s.fld rAgeVlimit 6 6 : Int) < s.offset → t.ctl.offsetReq = some (-1) ∧ t.ctl.offsetAt = s.now)
              ∧ (s.fld rAgeCfg 12 8 * (targetOf c.word : Int) ≤ marginNum c → marginNum c ≤ s.fld rAgeCfg 20 8 * (targetOf c.word : Int) →
                  t.ctl.offsetReq = none))))
end

