-- ==== Sys2Proof/Laws/SMap.lean ====
section
/-! SUPPORT. Sparse maps: a read after a write, and the canonical form that every write keeps. -/

namespace Sys2Proof.Machine

variable {V : Type}

theorem smGet_smErase (d : Nat → V) (k k' : Nat) (m : SMap V) :
    smGet d (smErase k m) k' = if k' = k then d k else smGet d m k' := by
  induction m with
  | nil => by_cases h : k' = k <;> simp [smErase, smGet, h]
  | cons e t ih =>
    obtain ⟨a, v⟩ := e
    by_cases h : a = k
    · subst h
      by_cases h' : k' = a
      · simpa [smErase, h'] using ih
      · simp [smErase, smGet, ih, h', Ne.symm h']
    · by_cases h' : a = k'
      · subst h'
        simp [smErase, smGet, h]
      · simp [smErase, smGet, h, h', ih]

theorem smGet_smInsert (d : Nat → V) (k k' : Nat) (v : V) (m : SMap V) (hm : ∀ e ∈ m, e.1 ≠ k) :
    smGet d (smInsert k v m) k' = if k' = k then v else smGet d m k' := by
  induction m with
  | nil =>
    by_cases h : k' = k
    · simp [smInsert, smGet, h]
    · simp [smInsert, smGet, h, Ne.symm h]
  | cons e t ih =>
    obtain ⟨a, w⟩ := e
    have ha : a ≠ k := hm (a, w) (by simp)
    have ht : ∀ e ∈ t, e.1 ≠ k := fun e he => hm e (by simp [he])
    by_cases hlt : k < a
    · by_cases h' : k' = k
      · simp [smInsert, smGet, hlt, h']
      · simp [smInsert, smGet, hlt, h', Ne.symm h']
    · by_cases h' : a = k'
      · subst h'
        simp [smInsert, smGet, hlt, ha]
      · simp [smInsert, smGet, hlt, h', ih ht]

theorem smErase_keys (k : Nat) (m : SMap V) : ∀ e ∈ smErase k m, e.1 ≠ k ∧ e ∈ m := by
  induction m with
  | nil => simp [smErase]
  | cons e t ih =>
    obtain ⟨a, v⟩ := e
    intro x hx
    by_cases h : a = k
    · simp only [smErase, h, if_true] at hx
      exact ⟨(ih x hx).1, by simp [(ih x hx).2]⟩
    · simp only [smErase, h, if_false, List.mem_cons] at hx
      rcases hx with rfl | hx
      · exact ⟨h, by simp⟩
      · exact ⟨(ih x hx).1, by simp [(ih x hx).2]⟩

/-- A read after a write. -/
theorem smGet_smSet [DecidableEq V] (d : Nat → V) (m : SMap V) (k k' : Nat) (v : V) :
    smGet d (smSet d m k v) k' = if k' = k then v else smGet d m k' := by
  unfold smSet
  by_cases h : v = d k
  · simp only [h, if_true, smGet_smErase]
  · simp only [h, if_false]
    rw [smGet_smInsert _ _ _ _ _ (fun e he => (smErase_keys k m e he).1), smGet_smErase]
    by_cases h' : k' = k <;> simp [h']

@[simp] theorem smGet_smSet_self [DecidableEq V] (d : Nat → V) (m : SMap V) (k : Nat) (v : V) :
    smGet d (smSet d m k v) k = v := by simp [smGet_smSet]

theorem smGet_smSet_ne [DecidableEq V] (d : Nat → V) (m : SMap V) (k k' : Nat) (v : V) (h : k' ≠ k) :
    smGet d (smSet d m k v) k' = smGet d m k' := by simp [smGet_smSet, h]

/-! ### The canonical form -/

theorem smSorted_iff (m : SMap V) : smSorted m = true ↔ m.Pairwise (fun a b => a.1 < b.1) := by
  induction m with
  | nil => simp [smSorted]
  | cons e t ih =>
    cases t with
    | nil => simp [smSorted]
    | cons f u =>
      obtain ⟨a, v⟩ := e
      obtain ⟨b, w⟩ := f
      rw [smSorted, Bool.and_eq_true, ih, decide_eq_true_iff, List.pairwise_cons (a := (a, v))]
      constructor
      · rintro ⟨h, hp⟩
        refine ⟨fun x hx => ?_, hp⟩
        rcases List.mem_cons.mp hx with rfl | hx
        · exact h
        · exact lt_trans h ((List.pairwise_cons.mp hp).1 x hx)
      · rintro ⟨h, hp⟩
        exact ⟨h (b, w) (by simp), hp⟩

theorem smWf_iff [DecidableEq V] (d : Nat → V) (m : SMap V) :
    smWf d m = true ↔ m.Pairwise (fun a b => a.1 < b.1) ∧ ∀ e ∈ m, e.2 ≠ d e.1 := by
  simp [smWf, smSorted_iff, List.all_eq_true]

theorem smErase_sorted (k : Nat) (m : SMap V) (h : m.Pairwise (fun a b => a.1 < b.1)) :
    (smErase k m).Pairwise (fun a b => a.1 < b.1) := by
  induction m with
  | nil => simp [smErase]
  | cons e t ih =>
    obtain ⟨a, v⟩ := e
    rw [List.pairwise_cons] at h
    by_cases hk : a = k
    · simpa [smErase, hk] using ih h.2
    · simp only [smErase, hk, if_false, List.pairwise_cons]
      exact ⟨fun x hx => h.1 x (smErase_keys k t x hx).2, ih h.2⟩

theorem smInsert_mem (k : Nat) (v : V) (m : SMap V) : ∀ e ∈ smInsert k v m, e = (k, v) ∨ e ∈ m := by
  induction m with
  | nil => simp [smInsert]
  | cons f t ih =>
    obtain ⟨a, w⟩ := f
    intro e he
    by_cases h : k < a
    · simpa [smInsert, h] using he
    · simp only [smInsert, h, if_false, List.mem_cons] at he
      rcases he with rfl | he
      · simp
      · rcases ih e he with h1 | h1
        · exact .inl h1
        · exact .inr (by simp [h1])

theorem smInsert_sorted (k : Nat) (v : V) (m : SMap V) (hm : ∀ e ∈ m, e.1 ≠ k)
    (h : m.Pairwise (fun a b => a.1 < b.1)) : (smInsert k v m).Pairwise (fun a b => a.1 < b.1) := by
  induction m with
  | nil => simp [smInsert]
  | cons e t ih =>
    obtain ⟨a, w⟩ := e
    have hs := List.pairwise_cons.mp h
    by_cases hk : k < a
    · simp only [smInsert, hk, if_true, List.pairwise_cons (a := (k, v))]
      refine ⟨fun x hx => ?_, h⟩
      rcases List.mem_cons.mp hx with rfl | hx
      · exact hk
      · exact lt_trans hk (hs.1 x hx)
    · simp only [smInsert, hk, if_false, List.pairwise_cons]
      refine ⟨fun x hx => ?_, ih (fun e he => hm e (by simp [he])) hs.2⟩
      rcases smInsert_mem k v t x hx with rfl | hx
      · have := hm (a, w) (by simp)
        simp only at this ⊢
        omega
      · exact hs.1 x hx

/-- A write keeps the canonical form. -/
theorem smSet_wf [DecidableEq V] (d : Nat → V) (m : SMap V) (k : Nat) (v : V) (h : smWf d m = true) :
    smWf d (smSet d m k v) = true := by
  rw [smWf_iff] at h ⊢
  unfold smSet
  by_cases hv : v = d k
  · simp only [hv, if_true]
    exact ⟨smErase_sorted k m h.1, fun e he => h.2 e (smErase_keys k m e he).2⟩
  · simp only [hv, if_false]
    refine ⟨smInsert_sorted k v _ (fun e he => (smErase_keys k m e he).1) (smErase_sorted k m h.1), fun e he => ?_⟩
    rcases smInsert_mem k v _ e he with rfl | he
    · exact hv
    · exact h.2 e (smErase_keys k m e he).2

/-- Taking entries off keeps the canonical form. -/
theorem smFilter_wf [DecidableEq V] (d : Nat → V) (m : SMap V) (p : Nat × V → Bool) (h : smWf d m = true) :
    smWf d (m.filter p) = true := by
  rw [smWf_iff] at h ⊢
  exact ⟨h.1.filter p, fun e he => h.2 e (List.mem_filter.mp he).1⟩

end Sys2Proof.Machine
end

