-- ==== Sys2Proof/Laws/State.lean ====
section
/-! SUPPORT. What each update of the state leaves: one lemma for each field and update, each true by computation. -/

namespace Sys2Proof.Machine

/-! ### wr -/

@[simp] theorem State.wr_regs (s : State) (o : Nat) (v : Word) :
    (s.wr o v).regs = smSet regReset s.regs o v := rfl
@[simp] theorem State.wr_prev (s : State) (o : Nat) (v : Word) : (s.wr o v).prev = s.prev := rfl
@[simp] theorem State.wr_stepCur (s : State) (o : Nat) (v : Word) : (s.wr o v).stepCur = s.stepCur := rfl
@[simp] theorem State.wr_stepPrev (s : State) (o : Nat) (v : Word) : (s.wr o v).stepPrev = s.stepPrev := rfl
@[simp] theorem State.wr_staged (s : State) (o : Nat) (v : Word) : (s.wr o v).staged = s.staged := rfl
@[simp] theorem State.wr_ctl (s : State) (o : Nat) (v : Word) : (s.wr o v).ctl = s.ctl := rfl
@[simp] theorem State.wr_bus (s : State) (o : Nat) (v : Word) : (s.wr o v).bus = s.bus := rfl
@[simp] theorem State.wr_mem (s : State) (o : Nat) (v : Word) : (s.wr o v).mem = s.mem := rfl
@[simp] theorem State.wr_memFail (s : State) (o : Nat) (v : Word) : (s.wr o v).memFail = s.memFail := rfl
@[simp] theorem State.wr_badUnits (s : State) (o : Nat) (v : Word) : (s.wr o v).badUnits = s.badUnits := rfl
@[simp] theorem State.wr_bobbin (s : State) (o : Nat) (v : Word) : (s.wr o v).bobbin = s.bobbin := rfl
@[simp] theorem State.wr_bobbinFree (s : State) (o : Nat) (v : Word) : (s.wr o v).bobbinFree = s.bobbinFree := rfl
@[simp] theorem State.wr_queues (s : State) (o : Nat) (v : Word) : (s.wr o v).queues = s.queues := rfl
@[simp] theorem State.wr_cmds (s : State) (o : Nat) (v : Word) : (s.wr o v).cmds = s.cmds := rfl
@[simp] theorem State.wr_drains (s : State) (o : Nat) (v : Word) : (s.wr o v).drains = s.drains := rfl
@[simp] theorem State.wr_job (s : State) (o : Nat) (v : Word) : (s.wr o v).job = s.job := rfl
@[simp] theorem State.wr_lanes (s : State) (o : Nat) (v : Word) : (s.wr o v).lanes = s.lanes := rfl
@[simp] theorem State.wr_dormant (s : State) (o : Nat) (v : Word) : (s.wr o v).dormant = s.dormant := rfl
@[simp] theorem State.wr_progs (s : State) (o : Nat) (v : Word) : (s.wr o v).progs = s.progs := rfl
@[simp] theorem State.wr_pends (s : State) (o : Nat) (v : Word) : (s.wr o v).pends = s.pends := rfl
@[simp] theorem State.wr_skein (s : State) (o : Nat) (v : Word) : (s.wr o v).skein = s.skein := rfl
@[simp] theorem State.wr_replayStale (s : State) (o : Nat) (v : Word) : (s.wr o v).replayStale = s.replayStale := rfl
@[simp] theorem State.wr_mbx (s : State) (o : Nat) (v : Word) : (s.wr o v).mbx = s.mbx := rfl
@[simp] theorem State.wr_spindle (s : State) (o : Nat) (v : Word) : (s.wr o v).spindle = s.spindle := rfl
@[simp] theorem State.wr_ports (s : State) (o : Nat) (v : Word) : (s.wr o v).ports = s.ports := rfl
@[simp] theorem State.wr_txq (s : State) (o : Nat) (v : Word) : (s.wr o v).txq = s.txq := rfl
@[simp] theorem State.wr_partials (s : State) (o : Nat) (v : Word) : (s.wr o v).partials = s.partials := rfl
@[simp] theorem State.wr_held (s : State) (o : Nat) (v : Word) : (s.wr o v).held = s.held := rfl
@[simp] theorem State.wr_ackDue (s : State) (o : Nat) (v : Word) : (s.wr o v).ackDue = s.ackDue := rfl
@[simp] theorem State.wr_outbox (s : State) (o : Nat) (v : Word) : (s.wr o v).outbox = s.outbox := rfl
@[simp] theorem State.wr_mcastSeq (s : State) (o : Nat) (v : Word) : (s.wr o v).mcastSeq = s.mcastSeq := rfl
@[simp] theorem State.wr_viaNext (s : State) (o : Nat) (v : Word) : (s.wr o v).viaNext = s.viaNext := rfl
@[simp] theorem State.wr_rowAlt (s : State) (o : Nat) (v : Word) : (s.wr o v).rowAlt = s.rowAlt := rfl
@[simp] theorem State.wr_epochAt (s : State) (o : Nat) (v : Word) : (s.wr o v).epochAt = s.epochAt := rfl
@[simp] theorem State.wr_epochInj (s : State) (o : Nat) (v : Word) : (s.wr o v).epochInj = s.epochInj := rfl
@[simp] theorem State.wr_epochEj (s : State) (o : Nat) (v : Word) : (s.wr o v).epochEj = s.epochEj := rfl
@[simp] theorem State.wr_dateWait (s : State) (o : Nat) (v : Word) : (s.wr o v).dateWait = s.dateWait := rfl
@[simp] theorem State.wr_holdUntil (s : State) (o : Nat) (v : Word) : (s.wr o v).holdUntil = s.holdUntil := rfl
@[simp] theorem State.wr_feedOut (s : State) (o : Nat) (v : Word) : (s.wr o v).feedOut = s.feedOut := rfl
@[simp] theorem State.wr_pieces (s : State) (o : Nat) (v : Word) : (s.wr o v).pieces = s.pieces := rfl
@[simp] theorem State.wr_outs (s : State) (o : Nat) (v : Word) : (s.wr o v).outs = s.outs := rfl
@[simp] theorem State.wr_damaged (s : State) (o : Nat) (v : Word) : (s.wr o v).damaged = s.damaged := rfl
@[simp] theorem State.wr_sumScales (s : State) (o : Nat) (v : Word) : (s.wr o v).sumScales = s.sumScales := rfl
@[simp] theorem State.wr_matchTx (s : State) (o : Nat) (v : Word) : (s.wr o v).matchTx = s.matchTx := rfl
@[simp] theorem State.wr_matchRx (s : State) (o : Nat) (v : Word) : (s.wr o v).matchRx = s.matchRx := rfl
@[simp] theorem State.wr_digests (s : State) (o : Nat) (v : Word) : (s.wr o v).digests = s.digests := rfl
@[simp] theorem State.wr_ordinals (s : State) (o : Nat) (v : Word) : (s.wr o v).ordinals = s.ordinals := rfl
@[simp] theorem State.wr_ckp (s : State) (o : Nat) (v : Word) : (s.wr o v).ckp = s.ckp := rfl
@[simp] theorem State.wr_restore (s : State) (o : Nat) (v : Word) : (s.wr o v).restore = s.restore := rfl
@[simp] theorem State.wr_sent (s : State) (o : Nat) (v : Word) : (s.wr o v).sent = s.sent := rfl
@[simp] theorem State.wr_rep (s : State) (o : Nat) (v : Word) : (s.wr o v).rep = s.rep := rfl
@[simp] theorem State.wr_age (s : State) (o : Nat) (v : Word) : (s.wr o v).age = s.age := rfl
@[simp] theorem State.wr_jtag (s : State) (o : Nat) (v : Word) : (s.wr o v).jtag = s.jtag := rfl
@[simp] theorem State.wr_grade (s : State) (o : Nat) (v : Word) : (s.wr o v).grade = s.grade := rfl
@[simp] theorem State.wr_stepMajor (s : State) (o : Nat) (v : Word) : (s.wr o v).stepMajor = s.stepMajor := rfl
@[simp] theorem State.wr_stepMinor (s : State) (o : Nat) (v : Word) : (s.wr o v).stepMinor = s.stepMinor := rfl
@[simp] theorem State.wr_free (s : State) (o : Nat) (v : Word) : (s.wr o v).free = s.free := rfl
@[simp] theorem State.wr_pending (s : State) (o : Nat) (v : Word) : (s.wr o v).pending = s.pending := rfl

/-! ### setFld -/

@[simp] theorem State.setFld_prev (s : State) (o lo w x : Nat) : (s.setFld o lo w x).prev = s.prev := rfl
@[simp] theorem State.setFld_stepCur (s : State) (o lo w x : Nat) : (s.setFld o lo w x).stepCur = s.stepCur := rfl
@[simp] theorem State.setFld_stepPrev (s : State) (o lo w x : Nat) : (s.setFld o lo w x).stepPrev = s.stepPrev := rfl
@[simp] theorem State.setFld_staged (s : State) (o lo w x : Nat) : (s.setFld o lo w x).staged = s.staged := rfl
@[simp] theorem State.setFld_ctl (s : State) (o lo w x : Nat) : (s.setFld o lo w x).ctl = s.ctl := rfl
@[simp] theorem State.setFld_bus (s : State) (o lo w x : Nat) : (s.setFld o lo w x).bus = s.bus := rfl
@[simp] theorem State.setFld_mem (s : State) (o lo w x : Nat) : (s.setFld o lo w x).mem = s.mem := rfl
@[simp] theorem State.setFld_memFail (s : State) (o lo w x : Nat) : (s.setFld o lo w x).memFail = s.memFail := rfl
@[simp] theorem State.setFld_badUnits (s : State) (o lo w x : Nat) : (s.setFld o lo w x).badUnits = s.badUnits := rfl
@[simp] theorem State.setFld_bobbin (s : State) (o lo w x : Nat) : (s.setFld o lo w x).bobbin = s.bobbin := rfl
@[simp] theorem State.setFld_bobbinFree (s : State) (o lo w x : Nat) : (s.setFld o lo w x).bobbinFree = s.bobbinFree := rfl
@[simp] theorem State.setFld_queues (s : State) (o lo w x : Nat) : (s.setFld o lo w x).queues = s.queues := rfl
@[simp] theorem State.setFld_cmds (s : State) (o lo w x : Nat) : (s.setFld o lo w x).cmds = s.cmds := rfl
@[simp] theorem State.setFld_drains (s : State) (o lo w x : Nat) : (s.setFld o lo w x).drains = s.drains := rfl
@[simp] theorem State.setFld_job (s : State) (o lo w x : Nat) : (s.setFld o lo w x).job = s.job := rfl
@[simp] theorem State.setFld_lanes (s : State) (o lo w x : Nat) : (s.setFld o lo w x).lanes = s.lanes := rfl
@[simp] theorem State.setFld_dormant (s : State) (o lo w x : Nat) : (s.setFld o lo w x).dormant = s.dormant := rfl
@[simp] theorem State.setFld_progs (s : State) (o lo w x : Nat) : (s.setFld o lo w x).progs = s.progs := rfl
@[simp] theorem State.setFld_pends (s : State) (o lo w x : Nat) : (s.setFld o lo w x).pends = s.pends := rfl
@[simp] theorem State.setFld_skein (s : State) (o lo w x : Nat) : (s.setFld o lo w x).skein = s.skein := rfl
@[simp] theorem State.setFld_replayStale (s : State) (o lo w x : Nat) : (s.setFld o lo w x).replayStale = s.replayStale := rfl
@[simp] theorem State.setFld_mbx (s : State) (o lo w x : Nat) : (s.setFld o lo w x).mbx = s.mbx := rfl
@[simp] theorem State.setFld_spindle (s : State) (o lo w x : Nat) : (s.setFld o lo w x).spindle = s.spindle := rfl
@[simp] theorem State.setFld_ports (s : State) (o lo w x : Nat) : (s.setFld o lo w x).ports = s.ports := rfl
@[simp] theorem State.setFld_txq (s : State) (o lo w x : Nat) : (s.setFld o lo w x).txq = s.txq := rfl
@[simp] theorem State.setFld_partials (s : State) (o lo w x : Nat) : (s.setFld o lo w x).partials = s.partials := rfl
@[simp] theorem State.setFld_held (s : State) (o lo w x : Nat) : (s.setFld o lo w x).held = s.held := rfl
@[simp] theorem State.setFld_ackDue (s : State) (o lo w x : Nat) : (s.setFld o lo w x).ackDue = s.ackDue := rfl
@[simp] theorem State.setFld_outbox (s : State) (o lo w x : Nat) : (s.setFld o lo w x).outbox = s.outbox := rfl
@[simp] theorem State.setFld_mcastSeq (s : State) (o lo w x : Nat) : (s.setFld o lo w x).mcastSeq = s.mcastSeq := rfl
@[simp] theorem State.setFld_viaNext (s : State) (o lo w x : Nat) : (s.setFld o lo w x).viaNext = s.viaNext := rfl
@[simp] theorem State.setFld_rowAlt (s : State) (o lo w x : Nat) : (s.setFld o lo w x).rowAlt = s.rowAlt := rfl
@[simp] theorem State.setFld_epochAt (s : State) (o lo w x : Nat) : (s.setFld o lo w x).epochAt = s.epochAt := rfl
@[simp] theorem State.setFld_epochInj (s : State) (o lo w x : Nat) : (s.setFld o lo w x).epochInj = s.epochInj := rfl
@[simp] theorem State.setFld_epochEj (s : State) (o lo w x : Nat) : (s.setFld o lo w x).epochEj = s.epochEj := rfl
@[simp] theorem State.setFld_dateWait (s : State) (o lo w x : Nat) : (s.setFld o lo w x).dateWait = s.dateWait := rfl
@[simp] theorem State.setFld_holdUntil (s : State) (o lo w x : Nat) : (s.setFld o lo w x).holdUntil = s.holdUntil := rfl
@[simp] theorem State.setFld_feedOut (s : State) (o lo w x : Nat) : (s.setFld o lo w x).feedOut = s.feedOut := rfl
@[simp] theorem State.setFld_pieces (s : State) (o lo w x : Nat) : (s.setFld o lo w x).pieces = s.pieces := rfl
@[simp] theorem State.setFld_outs (s : State) (o lo w x : Nat) : (s.setFld o lo w x).outs = s.outs := rfl
@[simp] theorem State.setFld_damaged (s : State) (o lo w x : Nat) : (s.setFld o lo w x).damaged = s.damaged := rfl
@[simp] theorem State.setFld_sumScales (s : State) (o lo w x : Nat) : (s.setFld o lo w x).sumScales = s.sumScales := rfl
@[simp] theorem State.setFld_matchTx (s : State) (o lo w x : Nat) : (s.setFld o lo w x).matchTx = s.matchTx := rfl
@[simp] theorem State.setFld_matchRx (s : State) (o lo w x : Nat) : (s.setFld o lo w x).matchRx = s.matchRx := rfl
@[simp] theorem State.setFld_digests (s : State) (o lo w x : Nat) : (s.setFld o lo w x).digests = s.digests := rfl
@[simp] theorem State.setFld_ordinals (s : State) (o lo w x : Nat) : (s.setFld o lo w x).ordinals = s.ordinals := rfl
@[simp] theorem State.setFld_ckp (s : State) (o lo w x : Nat) : (s.setFld o lo w x).ckp = s.ckp := rfl
@[simp] theorem State.setFld_restore (s : State) (o lo w x : Nat) : (s.setFld o lo w x).restore = s.restore := rfl
@[simp] theorem State.setFld_sent (s : State) (o lo w x : Nat) : (s.setFld o lo w x).sent = s.sent := rfl
@[simp] theorem State.setFld_rep (s : State) (o lo w x : Nat) : (s.setFld o lo w x).rep = s.rep := rfl
@[simp] theorem State.setFld_age (s : State) (o lo w x : Nat) : (s.setFld o lo w x).age = s.age := rfl
@[simp] theorem State.setFld_jtag (s : State) (o lo w x : Nat) : (s.setFld o lo w x).jtag = s.jtag := rfl
@[simp] theorem State.setFld_grade (s : State) (o lo w x : Nat) : (s.setFld o lo w x).grade = s.grade := rfl
@[simp] theorem State.setFld_stepMajor (s : State) (o lo w x : Nat) : (s.setFld o lo w x).stepMajor = s.stepMajor := rfl
@[simp] theorem State.setFld_stepMinor (s : State) (o lo w x : Nat) : (s.setFld o lo w x).stepMinor = s.stepMinor := rfl
@[simp] theorem State.setFld_free (s : State) (o lo w x : Nat) : (s.setFld o lo w x).free = s.free := rfl
@[simp] theorem State.setFld_pending (s : State) (o lo w x : Nat) : (s.setFld o lo w x).pending = s.pending := rfl

/-! ### sat -/

@[simp] theorem State.sat_prev (s : State) (o lo w n : Nat) : (s.sat o lo w n).prev = s.prev := rfl
@[simp] theorem State.sat_stepCur (s : State) (o lo w n : Nat) : (s.sat o lo w n).stepCur = s.stepCur := rfl
@[simp] theorem State.sat_stepPrev (s : State) (o lo w n : Nat) : (s.sat o lo w n).stepPrev = s.stepPrev := rfl
@[simp] theorem State.sat_staged (s : State) (o lo w n : Nat) : (s.sat o lo w n).staged = s.staged := rfl
@[simp] theorem State.sat_ctl (s : State) (o lo w n : Nat) : (s.sat o lo w n).ctl = s.ctl := rfl
@[simp] theorem State.sat_bus (s : State) (o lo w n : Nat) : (s.sat o lo w n).bus = s.bus := rfl
@[simp] theorem State.sat_mem (s : State) (o lo w n : Nat) : (s.sat o lo w n).mem = s.mem := rfl
@[simp] theorem State.sat_memFail (s : State) (o lo w n : Nat) : (s.sat o lo w n).memFail = s.memFail := rfl
@[simp] theorem State.sat_badUnits (s : State) (o lo w n : Nat) : (s.sat o lo w n).badUnits = s.badUnits := rfl
@[simp] theorem State.sat_bobbin (s : State) (o lo w n : Nat) : (s.sat o lo w n).bobbin = s.bobbin := rfl
@[simp] theorem State.sat_bobbinFree (s : State) (o lo w n : Nat) : (s.sat o lo w n).bobbinFree = s.bobbinFree := rfl
@[simp] theorem State.sat_queues (s : State) (o lo w n : Nat) : (s.sat o lo w n).queues = s.queues := rfl
@[simp] theorem State.sat_cmds (s : State) (o lo w n : Nat) : (s.sat o lo w n).cmds = s.cmds := rfl
@[simp] theorem State.sat_drains (s : State) (o lo w n : Nat) : (s.sat o lo w n).drains = s.drains := rfl
@[simp] theorem State.sat_job (s : State) (o lo w n : Nat) : (s.sat o lo w n).job = s.job := rfl
@[simp] theorem State.sat_lanes (s : State) (o lo w n : Nat) : (s.sat o lo w n).lanes = s.lanes := rfl
@[simp] theorem State.sat_dormant (s : State) (o lo w n : Nat) : (s.sat o lo w n).dormant = s.dormant := rfl
@[simp] theorem State.sat_progs (s : State) (o lo w n : Nat) : (s.sat o lo w n).progs = s.progs := rfl
@[simp] theorem State.sat_pends (s : State) (o lo w n : Nat) : (s.sat o lo w n).pends = s.pends := rfl
@[simp] theorem State.sat_skein (s : State) (o lo w n : Nat) : (s.sat o lo w n).skein = s.skein := rfl
@[simp] theorem State.sat_replayStale (s : State) (o lo w n : Nat) : (s.sat o lo w n).replayStale = s.replayStale := rfl
@[simp] theorem State.sat_mbx (s : State) (o lo w n : Nat) : (s.sat o lo w n).mbx = s.mbx := rfl
@[simp] theorem State.sat_spindle (s : State) (o lo w n : Nat) : (s.sat o lo w n).spindle = s.spindle := rfl
@[simp] theorem State.sat_ports (s : State) (o lo w n : Nat) : (s.sat o lo w n).ports = s.ports := rfl
@[simp] theorem State.sat_txq (s : State) (o lo w n : Nat) : (s.sat o lo w n).txq = s.txq := rfl
@[simp] theorem State.sat_partials (s : State) (o lo w n : Nat) : (s.sat o lo w n).partials = s.partials := rfl
@[simp] theorem State.sat_held (s : State) (o lo w n : Nat) : (s.sat o lo w n).held = s.held := rfl
@[simp] theorem State.sat_ackDue (s : State) (o lo w n : Nat) : (s.sat o lo w n).ackDue = s.ackDue := rfl
@[simp] theorem State.sat_outbox (s : State) (o lo w n : Nat) : (s.sat o lo w n).outbox = s.outbox := rfl
@[simp] theorem State.sat_mcastSeq (s : State) (o lo w n : Nat) : (s.sat o lo w n).mcastSeq = s.mcastSeq := rfl
@[simp] theorem State.sat_viaNext (s : State) (o lo w n : Nat) : (s.sat o lo w n).viaNext = s.viaNext := rfl
@[simp] theorem State.sat_rowAlt (s : State) (o lo w n : Nat) : (s.sat o lo w n).rowAlt = s.rowAlt := rfl
@[simp] theorem State.sat_epochAt (s : State) (o lo w n : Nat) : (s.sat o lo w n).epochAt = s.epochAt := rfl
@[simp] theorem State.sat_epochInj (s : State) (o lo w n : Nat) : (s.sat o lo w n).epochInj = s.epochInj := rfl
@[simp] theorem State.sat_epochEj (s : State) (o lo w n : Nat) : (s.sat o lo w n).epochEj = s.epochEj := rfl
@[simp] theorem State.sat_dateWait (s : State) (o lo w n : Nat) : (s.sat o lo w n).dateWait = s.dateWait := rfl
@[simp] theorem State.sat_holdUntil (s : State) (o lo w n : Nat) : (s.sat o lo w n).holdUntil = s.holdUntil := rfl
@[simp] theorem State.sat_feedOut (s : State) (o lo w n : Nat) : (s.sat o lo w n).feedOut = s.feedOut := rfl
@[simp] theorem State.sat_pieces (s : State) (o lo w n : Nat) : (s.sat o lo w n).pieces = s.pieces := rfl
@[simp] theorem State.sat_outs (s : State) (o lo w n : Nat) : (s.sat o lo w n).outs = s.outs := rfl
@[simp] theorem State.sat_damaged (s : State) (o lo w n : Nat) : (s.sat o lo w n).damaged = s.damaged := rfl
@[simp] theorem State.sat_sumScales (s : State) (o lo w n : Nat) : (s.sat o lo w n).sumScales = s.sumScales := rfl
@[simp] theorem State.sat_matchTx (s : State) (o lo w n : Nat) : (s.sat o lo w n).matchTx = s.matchTx := rfl
@[simp] theorem State.sat_matchRx (s : State) (o lo w n : Nat) : (s.sat o lo w n).matchRx = s.matchRx := rfl
@[simp] theorem State.sat_digests (s : State) (o lo w n : Nat) : (s.sat o lo w n).digests = s.digests := rfl
@[simp] theorem State.sat_ordinals (s : State) (o lo w n : Nat) : (s.sat o lo w n).ordinals = s.ordinals := rfl
@[simp] theorem State.sat_ckp (s : State) (o lo w n : Nat) : (s.sat o lo w n).ckp = s.ckp := rfl
@[simp] theorem State.sat_restore (s : State) (o lo w n : Nat) : (s.sat o lo w n).restore = s.restore := rfl
@[simp] theorem State.sat_sent (s : State) (o lo w n : Nat) : (s.sat o lo w n).sent = s.sent := rfl
@[simp] theorem State.sat_rep (s : State) (o lo w n : Nat) : (s.sat o lo w n).rep = s.rep := rfl
@[simp] theorem State.sat_age (s : State) (o lo w n : Nat) : (s.sat o lo w n).age = s.age := rfl
@[simp] theorem State.sat_jtag (s : State) (o lo w n : Nat) : (s.sat o lo w n).jtag = s.jtag := rfl
@[simp] theorem State.sat_grade (s : State) (o lo w n : Nat) : (s.sat o lo w n).grade = s.grade := rfl
@[simp] theorem State.sat_stepMajor (s : State) (o lo w n : Nat) : (s.sat o lo w n).stepMajor = s.stepMajor := rfl
@[simp] theorem State.sat_stepMinor (s : State) (o lo w n : Nat) : (s.sat o lo w n).stepMinor = s.stepMinor := rfl
@[simp] theorem State.sat_free (s : State) (o lo w n : Nat) : (s.sat o lo w n).free = s.free := rfl
@[simp] theorem State.sat_pending (s : State) (o lo w n : Nat) : (s.sat o lo w n).pending = s.pending := rfl

/-! ### write -/

@[simp] theorem State.write_regs (s : State) (a : Nat) (b : List Byte) : (s.write a b).regs = s.regs := rfl
@[simp] theorem State.write_prev (s : State) (a : Nat) (b : List Byte) : (s.write a b).prev = s.prev := rfl
@[simp] theorem State.write_stepCur (s : State) (a : Nat) (b : List Byte) : (s.write a b).stepCur = s.stepCur := rfl
@[simp] theorem State.write_stepPrev (s : State) (a : Nat) (b : List Byte) : (s.write a b).stepPrev = s.stepPrev := rfl
@[simp] theorem State.write_staged (s : State) (a : Nat) (b : List Byte) : (s.write a b).staged = s.staged := rfl
@[simp] theorem State.write_ctl (s : State) (a : Nat) (b : List Byte) : (s.write a b).ctl = s.ctl := rfl
@[simp] theorem State.write_bus (s : State) (a : Nat) (b : List Byte) : (s.write a b).bus = s.bus := rfl
@[simp] theorem State.write_mem (s : State) (a : Nat) (b : List Byte) :
    (s.write a b).mem = memWrite s.mem a b := rfl
@[simp] theorem State.write_memFail (s : State) (a : Nat) (b : List Byte) : (s.write a b).memFail = s.memFail := rfl
@[simp] theorem State.write_badUnits (s : State) (a : Nat) (b : List Byte) :
    (s.write a b).badUnits = s.badUnits.filter (fun u =>
      b.isEmpty || decide (u < memUnit a) || decide (memUnit (a + b.length - 1) < u)) := rfl
@[simp] theorem State.write_bobbin (s : State) (a : Nat) (b : List Byte) : (s.write a b).bobbin = s.bobbin := rfl
@[simp] theorem State.write_bobbinFree (s : State) (a : Nat) (b : List Byte) : (s.write a b).bobbinFree = s.bobbinFree := rfl
@[simp] theorem State.write_queues (s : State) (a : Nat) (b : List Byte) : (s.write a b).queues = s.queues := rfl
@[simp] theorem State.write_cmds (s : State) (a : Nat) (b : List Byte) : (s.write a b).cmds = s.cmds := rfl
@[simp] theorem State.write_drains (s : State) (a : Nat) (b : List Byte) : (s.write a b).drains = s.drains := rfl
@[simp] theorem State.write_job (s : State) (a : Nat) (b : List Byte) : (s.write a b).job = s.job := rfl
@[simp] theorem State.write_lanes (s : State) (a : Nat) (b : List Byte) : (s.write a b).lanes = s.lanes := rfl
@[simp] theorem State.write_dormant (s : State) (a : Nat) (b : List Byte) : (s.write a b).dormant = s.dormant := rfl
@[simp] theorem State.write_progs (s : State) (a : Nat) (b : List Byte) : (s.write a b).progs = s.progs := rfl
@[simp] theorem State.write_pends (s : State) (a : Nat) (b : List Byte) : (s.write a b).pends = s.pends := rfl
@[simp] theorem State.write_skein (s : State) (a : Nat) (b : List Byte) : (s.write a b).skein = s.skein := rfl
@[simp] theorem State.write_replayStale (s : State) (a : Nat) (b : List Byte) : (s.write a b).replayStale = s.replayStale := rfl
@[simp] theorem State.write_mbx (s : State) (a : Nat) (b : List Byte) : (s.write a b).mbx = s.mbx := rfl
@[simp] theorem State.write_spindle (s : State) (a : Nat) (b : List Byte) : (s.write a b).spindle = s.spindle := rfl
@[simp] theorem State.write_ports (s : State) (a : Nat) (b : List Byte) : (s.write a b).ports = s.ports := rfl
@[simp] theorem State.write_txq (s : State) (a : Nat) (b : List Byte) : (s.write a b).txq = s.txq := rfl
@[simp] theorem State.write_partials (s : State) (a : Nat) (b : List Byte) : (s.write a b).partials = s.partials := rfl
@[simp] theorem State.write_held (s : State) (a : Nat) (b : List Byte) : (s.write a b).held = s.held := rfl
@[simp] theorem State.write_ackDue (s : State) (a : Nat) (b : List Byte) : (s.write a b).ackDue = s.ackDue := rfl
@[simp] theorem State.write_outbox (s : State) (a : Nat) (b : List Byte) : (s.write a b).outbox = s.outbox := rfl
@[simp] theorem State.write_mcastSeq (s : State) (a : Nat) (b : List Byte) : (s.write a b).mcastSeq = s.mcastSeq := rfl
@[simp] theorem State.write_viaNext (s : State) (a : Nat) (b : List Byte) : (s.write a b).viaNext = s.viaNext := rfl
@[simp] theorem State.write_rowAlt (s : State) (a : Nat) (b : List Byte) : (s.write a b).rowAlt = s.rowAlt := rfl
@[simp] theorem State.write_epochAt (s : State) (a : Nat) (b : List Byte) : (s.write a b).epochAt = s.epochAt := rfl
@[simp] theorem State.write_epochInj (s : State) (a : Nat) (b : List Byte) : (s.write a b).epochInj = s.epochInj := rfl
@[simp] theorem State.write_epochEj (s : State) (a : Nat) (b : List Byte) : (s.write a b).epochEj = s.epochEj := rfl
@[simp] theorem State.write_dateWait (s : State) (a : Nat) (b : List Byte) : (s.write a b).dateWait = s.dateWait := rfl
@[simp] theorem State.write_holdUntil (s : State) (a : Nat) (b : List Byte) : (s.write a b).holdUntil = s.holdUntil := rfl
@[simp] theorem State.write_feedOut (s : State) (a : Nat) (b : List Byte) : (s.write a b).feedOut = s.feedOut := rfl
@[simp] theorem State.write_pieces (s : State) (a : Nat) (b : List Byte) : (s.write a b).pieces = s.pieces := rfl
@[simp] theorem State.write_outs (s : State) (a : Nat) (b : List Byte) : (s.write a b).outs = s.outs := rfl
@[simp] theorem State.write_damaged (s : State) (a : Nat) (b : List Byte) : (s.write a b).damaged = s.damaged := rfl
@[simp] theorem State.write_sumScales (s : State) (a : Nat) (b : List Byte) : (s.write a b).sumScales = s.sumScales := rfl
@[simp] theorem State.write_matchTx (s : State) (a : Nat) (b : List Byte) : (s.write a b).matchTx = s.matchTx := rfl
@[simp] theorem State.write_matchRx (s : State) (a : Nat) (b : List Byte) : (s.write a b).matchRx = s.matchRx := rfl
@[simp] theorem State.write_digests (s : State) (a : Nat) (b : List Byte) : (s.write a b).digests = s.digests := rfl
@[simp] theorem State.write_ordinals (s : State) (a : Nat) (b : List Byte) : (s.write a b).ordinals = s.ordinals := rfl
@[simp] theorem State.write_ckp (s : State) (a : Nat) (b : List Byte) : (s.write a b).ckp = s.ckp := rfl
@[simp] theorem State.write_restore (s : State) (a : Nat) (b : List Byte) : (s.write a b).restore = s.restore := rfl
@[simp] theorem State.write_sent (s : State) (a : Nat) (b : List Byte) : (s.write a b).sent = s.sent := rfl
@[simp] theorem State.write_rep (s : State) (a : Nat) (b : List Byte) : (s.write a b).rep = s.rep := rfl
@[simp] theorem State.write_age (s : State) (a : Nat) (b : List Byte) : (s.write a b).age = s.age := rfl
@[simp] theorem State.write_jtag (s : State) (a : Nat) (b : List Byte) : (s.write a b).jtag = s.jtag := rfl
@[simp] theorem State.write_grade (s : State) (a : Nat) (b : List Byte) : (s.write a b).grade = s.grade := rfl
@[simp] theorem State.write_stepMajor (s : State) (a : Nat) (b : List Byte) : (s.write a b).stepMajor = s.stepMajor := rfl
@[simp] theorem State.write_stepMinor (s : State) (a : Nat) (b : List Byte) : (s.write a b).stepMinor = s.stepMinor := rfl
@[simp] theorem State.write_free (s : State) (a : Nat) (b : List Byte) : (s.write a b).free = s.free := rfl
@[simp] theorem State.write_pending (s : State) (a : Nat) (b : List Byte) : (s.write a b).pending = s.pending := rfl

/-! ### setBobWord -/

@[simp] theorem State.setBobWord_regs (s : State) (w : Nat) (v : Word) : (s.setBobWord w v).regs = s.regs := rfl
@[simp] theorem State.setBobWord_prev (s : State) (w : Nat) (v : Word) : (s.setBobWord w v).prev = s.prev := rfl
@[simp] theorem State.setBobWord_stepCur (s : State) (w : Nat) (v : Word) : (s.setBobWord w v).stepCur = s.stepCur := rfl
@[simp] theorem State.setBobWord_stepPrev (s : State) (w : Nat) (v : Word) : (s.setBobWord w v).stepPrev = s.stepPrev := rfl
@[simp] theorem State.setBobWord_staged (s : State) (w : Nat) (v : Word) : (s.setBobWord w v).staged = s.staged := rfl
@[simp] theorem State.setBobWord_ctl (s : State) (w : Nat) (v : Word) : (s.setBobWord w v).ctl = s.ctl := rfl
@[simp] theorem State.setBobWord_bus (s : State) (w : Nat) (v : Word) : (s.setBobWord w v).bus = s.bus := rfl
@[simp] theorem State.setBobWord_mem (s : State) (w : Nat) (v : Word) : (s.setBobWord w v).mem = s.mem := rfl
@[simp] theorem State.setBobWord_memFail (s : State) (w : Nat) (v : Word) : (s.setBobWord w v).memFail = s.memFail := rfl
@[simp] theorem State.setBobWord_badUnits (s : State) (w : Nat) (v : Word) : (s.setBobWord w v).badUnits = s.badUnits := rfl
@[simp] theorem State.setBobWord_bobbin (s : State) (w : Nat) (v : Word) :
    (s.setBobWord w v).bobbin = smSet (bobbinDefault s.bobbinFree) s.bobbin w v := rfl
@[simp] theorem State.setBobWord_bobbinFree (s : State) (w : Nat) (v : Word) : (s.setBobWord w v).bobbinFree = s.bobbinFree := rfl
@[simp] theorem State.setBobWord_queues (s : State) (w : Nat) (v : Word) : (s.setBobWord w v).queues = s.queues := rfl
@[simp] theorem State.setBobWord_cmds (s : State) (w : Nat) (v : Word) : (s.setBobWord w v).cmds = s.cmds := rfl
@[simp] theorem State.setBobWord_drains (s : State) (w : Nat) (v : Word) : (s.setBobWord w v).drains = s.drains := rfl
@[simp] theorem State.setBobWord_job (s : State) (w : Nat) (v : Word) : (s.setBobWord w v).job = s.job := rfl
@[simp] theorem State.setBobWord_lanes (s : State) (w : Nat) (v : Word) : (s.setBobWord w v).lanes = s.lanes := rfl
@[simp] theorem State.setBobWord_dormant (s : State) (w : Nat) (v : Word) : (s.setBobWord w v).dormant = s.dormant := rfl
@[simp] theorem State.setBobWord_progs (s : State) (w : Nat) (v : Word) : (s.setBobWord w v).progs = s.progs := rfl
@[simp] theorem State.setBobWord_pends (s : State) (w : Nat) (v : Word) : (s.setBobWord w v).pends = s.pends := rfl
@[simp] theorem State.setBobWord_skein (s : State) (w : Nat) (v : Word) : (s.setBobWord w v).skein = s.skein := rfl
@[simp] theorem State.setBobWord_replayStale (s : State) (w : Nat) (v : Word) : (s.setBobWord w v).replayStale = s.replayStale := rfl
@[simp] theorem State.setBobWord_mbx (s : State) (w : Nat) (v : Word) : (s.setBobWord w v).mbx = s.mbx := rfl
@[simp] theorem State.setBobWord_spindle (s : State) (w : Nat) (v : Word) : (s.setBobWord w v).spindle = s.spindle := rfl
@[simp] theorem State.setBobWord_ports (s : State) (w : Nat) (v : Word) : (s.setBobWord w v).ports = s.ports := rfl
@[simp] theorem State.setBobWord_txq (s : State) (w : Nat) (v : Word) : (s.setBobWord w v).txq = s.txq := rfl
@[simp] theorem State.setBobWord_partials (s : State) (w : Nat) (v : Word) : (s.setBobWord w v).partials = s.partials := rfl
@[simp] theorem State.setBobWord_held (s : State) (w : Nat) (v : Word) : (s.setBobWord w v).held = s.held := rfl
@[simp] theorem State.setBobWord_ackDue (s : State) (w : Nat) (v : Word) : (s.setBobWord w v).ackDue = s.ackDue := rfl
@[simp] theorem State.setBobWord_outbox (s : State) (w : Nat) (v : Word) : (s.setBobWord w v).outbox = s.outbox := rfl
@[simp] theorem State.setBobWord_mcastSeq (s : State) (w : Nat) (v : Word) : (s.setBobWord w v).mcastSeq = s.mcastSeq := rfl
@[simp] theorem State.setBobWord_viaNext (s : State) (w : Nat) (v : Word) : (s.setBobWord w v).viaNext = s.viaNext := rfl
@[simp] theorem State.setBobWord_rowAlt (s : State) (w : Nat) (v : Word) : (s.setBobWord w v).rowAlt = s.rowAlt := rfl
@[simp] theorem State.setBobWord_epochAt (s : State) (w : Nat) (v : Word) : (s.setBobWord w v).epochAt = s.epochAt := rfl
@[simp] theorem State.setBobWord_epochInj (s : State) (w : Nat) (v : Word) : (s.setBobWord w v).epochInj = s.epochInj := rfl
@[simp] theorem State.setBobWord_epochEj (s : State) (w : Nat) (v : Word) : (s.setBobWord w v).epochEj = s.epochEj := rfl
@[simp] theorem State.setBobWord_dateWait (s : State) (w : Nat) (v : Word) : (s.setBobWord w v).dateWait = s.dateWait := rfl
@[simp] theorem State.setBobWord_holdUntil (s : State) (w : Nat) (v : Word) : (s.setBobWord w v).holdUntil = s.holdUntil := rfl
@[simp] theorem State.setBobWord_feedOut (s : State) (w : Nat) (v : Word) : (s.setBobWord w v).feedOut = s.feedOut := rfl
@[simp] theorem State.setBobWord_pieces (s : State) (w : Nat) (v : Word) : (s.setBobWord w v).pieces = s.pieces := rfl
@[simp] theorem State.setBobWord_outs (s : State) (w : Nat) (v : Word) : (s.setBobWord w v).outs = s.outs := rfl
@[simp] theorem State.setBobWord_damaged (s : State) (w : Nat) (v : Word) : (s.setBobWord w v).damaged = s.damaged := rfl
@[simp] theorem State.setBobWord_sumScales (s : State) (w : Nat) (v : Word) : (s.setBobWord w v).sumScales = s.sumScales := rfl
@[simp] theorem State.setBobWord_matchTx (s : State) (w : Nat) (v : Word) : (s.setBobWord w v).matchTx = s.matchTx := rfl
@[simp] theorem State.setBobWord_matchRx (s : State) (w : Nat) (v : Word) : (s.setBobWord w v).matchRx = s.matchRx := rfl
@[simp] theorem State.setBobWord_digests (s : State) (w : Nat) (v : Word) : (s.setBobWord w v).digests = s.digests := rfl
@[simp] theorem State.setBobWord_ordinals (s : State) (w : Nat) (v : Word) : (s.setBobWord w v).ordinals = s.ordinals := rfl
@[simp] theorem State.setBobWord_ckp (s : State) (w : Nat) (v : Word) : (s.setBobWord w v).ckp = s.ckp := rfl
@[simp] theorem State.setBobWord_restore (s : State) (w : Nat) (v : Word) : (s.setBobWord w v).restore = s.restore := rfl
@[simp] theorem State.setBobWord_sent (s : State) (w : Nat) (v : Word) : (s.setBobWord w v).sent = s.sent := rfl
@[simp] theorem State.setBobWord_rep (s : State) (w : Nat) (v : Word) : (s.setBobWord w v).rep = s.rep := rfl
@[simp] theorem State.setBobWord_age (s : State) (w : Nat) (v : Word) : (s.setBobWord w v).age = s.age := rfl
@[simp] theorem State.setBobWord_jtag (s : State) (w : Nat) (v : Word) : (s.setBobWord w v).jtag = s.jtag := rfl
@[simp] theorem State.setBobWord_grade (s : State) (w : Nat) (v : Word) : (s.setBobWord w v).grade = s.grade := rfl
@[simp] theorem State.setBobWord_stepMajor (s : State) (w : Nat) (v : Word) : (s.setBobWord w v).stepMajor = s.stepMajor := rfl
@[simp] theorem State.setBobWord_stepMinor (s : State) (w : Nat) (v : Word) : (s.setBobWord w v).stepMinor = s.stepMinor := rfl
@[simp] theorem State.setBobWord_free (s : State) (w : Nat) (v : Word) : (s.setBobWord w v).free = s.free := rfl
@[simp] theorem State.setBobWord_pending (s : State) (w : Nat) (v : Word) : (s.setBobWord w v).pending = s.pending := rfl

/-! ### setQueue -/

@[simp] theorem State.setQueue_regs (s : State) (q : Nat) (v : QState) : (s.setQueue q v).regs = s.regs := rfl
@[simp] theorem State.setQueue_prev (s : State) (q : Nat) (v : QState) : (s.setQueue q v).prev = s.prev := rfl
@[simp] theorem State.setQueue_stepCur (s : State) (q : Nat) (v : QState) : (s.setQueue q v).stepCur = s.stepCur := rfl
@[simp] theorem State.setQueue_stepPrev (s : State) (q : Nat) (v : QState) : (s.setQueue q v).stepPrev = s.stepPrev := rfl
@[simp] theorem State.setQueue_staged (s : State) (q : Nat) (v : QState) : (s.setQueue q v).staged = s.staged := rfl
@[simp] theorem State.setQueue_ctl (s : State) (q : Nat) (v : QState) : (s.setQueue q v).ctl = s.ctl := rfl
@[simp] theorem State.setQueue_bus (s : State) (q : Nat) (v : QState) : (s.setQueue q v).bus = s.bus := rfl
@[simp] theorem State.setQueue_mem (s : State) (q : Nat) (v : QState) : (s.setQueue q v).mem = s.mem := rfl
@[simp] theorem State.setQueue_memFail (s : State) (q : Nat) (v : QState) : (s.setQueue q v).memFail = s.memFail := rfl
@[simp] theorem State.setQueue_badUnits (s : State) (q : Nat) (v : QState) : (s.setQueue q v).badUnits = s.badUnits := rfl
@[simp] theorem State.setQueue_bobbin (s : State) (q : Nat) (v : QState) : (s.setQueue q v).bobbin = s.bobbin := rfl
@[simp] theorem State.setQueue_bobbinFree (s : State) (q : Nat) (v : QState) : (s.setQueue q v).bobbinFree = s.bobbinFree := rfl
@[simp] theorem State.setQueue_queues (s : State) (q : Nat) (v : QState) :
    (s.setQueue q v).queues = s.queues.setIfInBounds q v := rfl
@[simp] theorem State.setQueue_cmds (s : State) (q : Nat) (v : QState) : (s.setQueue q v).cmds = s.cmds := rfl
@[simp] theorem State.setQueue_drains (s : State) (q : Nat) (v : QState) : (s.setQueue q v).drains = s.drains := rfl
@[simp] theorem State.setQueue_job (s : State) (q : Nat) (v : QState) : (s.setQueue q v).job = s.job := rfl
@[simp] theorem State.setQueue_lanes (s : State) (q : Nat) (v : QState) : (s.setQueue q v).lanes = s.lanes := rfl
@[simp] theorem State.setQueue_dormant (s : State) (q : Nat) (v : QState) : (s.setQueue q v).dormant = s.dormant := rfl
@[simp] theorem State.setQueue_progs (s : State) (q : Nat) (v : QState) : (s.setQueue q v).progs = s.progs := rfl
@[simp] theorem State.setQueue_pends (s : State) (q : Nat) (v : QState) : (s.setQueue q v).pends = s.pends := rfl
@[simp] theorem State.setQueue_skein (s : State) (q : Nat) (v : QState) : (s.setQueue q v).skein = s.skein := rfl
@[simp] theorem State.setQueue_replayStale (s : State) (q : Nat) (v : QState) : (s.setQueue q v).replayStale = s.replayStale := rfl
@[simp] theorem State.setQueue_mbx (s : State) (q : Nat) (v : QState) : (s.setQueue q v).mbx = s.mbx := rfl
@[simp] theorem State.setQueue_spindle (s : State) (q : Nat) (v : QState) : (s.setQueue q v).spindle = s.spindle := rfl
@[simp] theorem State.setQueue_ports (s : State) (q : Nat) (v : QState) : (s.setQueue q v).ports = s.ports := rfl
@[simp] theorem State.setQueue_txq (s : State) (q : Nat) (v : QState) : (s.setQueue q v).txq = s.txq := rfl
@[simp] theorem State.setQueue_partials (s : State) (q : Nat) (v : QState) : (s.setQueue q v).partials = s.partials := rfl
@[simp] theorem State.setQueue_held (s : State) (q : Nat) (v : QState) : (s.setQueue q v).held = s.held := rfl
@[simp] theorem State.setQueue_ackDue (s : State) (q : Nat) (v : QState) : (s.setQueue q v).ackDue = s.ackDue := rfl
@[simp] theorem State.setQueue_outbox (s : State) (q : Nat) (v : QState) : (s.setQueue q v).outbox = s.outbox := rfl
@[simp] theorem State.setQueue_mcastSeq (s : State) (q : Nat) (v : QState) : (s.setQueue q v).mcastSeq = s.mcastSeq := rfl
@[simp] theorem State.setQueue_viaNext (s : State) (q : Nat) (v : QState) : (s.setQueue q v).viaNext = s.viaNext := rfl
@[simp] theorem State.setQueue_rowAlt (s : State) (q : Nat) (v : QState) : (s.setQueue q v).rowAlt = s.rowAlt := rfl
@[simp] theorem State.setQueue_epochAt (s : State) (q : Nat) (v : QState) : (s.setQueue q v).epochAt = s.epochAt := rfl
@[simp] theorem State.setQueue_epochInj (s : State) (q : Nat) (v : QState) : (s.setQueue q v).epochInj = s.epochInj := rfl
@[simp] theorem State.setQueue_epochEj (s : State) (q : Nat) (v : QState) : (s.setQueue q v).epochEj = s.epochEj := rfl
@[simp] theorem State.setQueue_dateWait (s : State) (q : Nat) (v : QState) : (s.setQueue q v).dateWait = s.dateWait := rfl
@[simp] theorem State.setQueue_holdUntil (s : State) (q : Nat) (v : QState) : (s.setQueue q v).holdUntil = s.holdUntil := rfl
@[simp] theorem State.setQueue_feedOut (s : State) (q : Nat) (v : QState) : (s.setQueue q v).feedOut = s.feedOut := rfl
@[simp] theorem State.setQueue_pieces (s : State) (q : Nat) (v : QState) : (s.setQueue q v).pieces = s.pieces := rfl
@[simp] theorem State.setQueue_outs (s : State) (q : Nat) (v : QState) : (s.setQueue q v).outs = s.outs := rfl
@[simp] theorem State.setQueue_damaged (s : State) (q : Nat) (v : QState) : (s.setQueue q v).damaged = s.damaged := rfl
@[simp] theorem State.setQueue_sumScales (s : State) (q : Nat) (v : QState) : (s.setQueue q v).sumScales = s.sumScales := rfl
@[simp] theorem State.setQueue_matchTx (s : State) (q : Nat) (v : QState) : (s.setQueue q v).matchTx = s.matchTx := rfl
@[simp] theorem State.setQueue_matchRx (s : State) (q : Nat) (v : QState) : (s.setQueue q v).matchRx = s.matchRx := rfl
@[simp] theorem State.setQueue_digests (s : State) (q : Nat) (v : QState) : (s.setQueue q v).digests = s.digests := rfl
@[simp] theorem State.setQueue_ordinals (s : State) (q : Nat) (v : QState) : (s.setQueue q v).ordinals = s.ordinals := rfl
@[simp] theorem State.setQueue_ckp (s : State) (q : Nat) (v : QState) : (s.setQueue q v).ckp = s.ckp := rfl
@[simp] theorem State.setQueue_restore (s : State) (q : Nat) (v : QState) : (s.setQueue q v).restore = s.restore := rfl
@[simp] theorem State.setQueue_sent (s : State) (q : Nat) (v : QState) : (s.setQueue q v).sent = s.sent := rfl
@[simp] theorem State.setQueue_rep (s : State) (q : Nat) (v : QState) : (s.setQueue q v).rep = s.rep := rfl
@[simp] theorem State.setQueue_age (s : State) (q : Nat) (v : QState) : (s.setQueue q v).age = s.age := rfl
@[simp] theorem State.setQueue_jtag (s : State) (q : Nat) (v : QState) : (s.setQueue q v).jtag = s.jtag := rfl
@[simp] theorem State.setQueue_grade (s : State) (q : Nat) (v : QState) : (s.setQueue q v).grade = s.grade := rfl
@[simp] theorem State.setQueue_stepMajor (s : State) (q : Nat) (v : QState) : (s.setQueue q v).stepMajor = s.stepMajor := rfl
@[simp] theorem State.setQueue_stepMinor (s : State) (q : Nat) (v : QState) : (s.setQueue q v).stepMinor = s.stepMinor := rfl
@[simp] theorem State.setQueue_free (s : State) (q : Nat) (v : QState) : (s.setQueue q v).free = s.free := rfl
@[simp] theorem State.setQueue_pending (s : State) (q : Nat) (v : QState) : (s.setQueue q v).pending = s.pending := rfl

/-! ### setPort -/

@[simp] theorem State.setPort_regs (s : State) (p : Nat) (v : Port) : (s.setPort p v).regs = s.regs := rfl
@[simp] theorem State.setPort_prev (s : State) (p : Nat) (v : Port) : (s.setPort p v).prev = s.prev := rfl
@[simp] theorem State.setPort_stepCur (s : State) (p : Nat) (v : Port) : (s.setPort p v).stepCur = s.stepCur := rfl
@[simp] theorem State.setPort_stepPrev (s : State) (p : Nat) (v : Port) : (s.setPort p v).stepPrev = s.stepPrev := rfl
@[simp] theorem State.setPort_staged (s : State) (p : Nat) (v : Port) : (s.setPort p v).staged = s.staged := rfl
@[simp] theorem State.setPort_ctl (s : State) (p : Nat) (v : Port) : (s.setPort p v).ctl = s.ctl := rfl
@[simp] theorem State.setPort_bus (s : State) (p : Nat) (v : Port) : (s.setPort p v).bus = s.bus := rfl
@[simp] theorem State.setPort_mem (s : State) (p : Nat) (v : Port) : (s.setPort p v).mem = s.mem := rfl
@[simp] theorem State.setPort_memFail (s : State) (p : Nat) (v : Port) : (s.setPort p v).memFail = s.memFail := rfl
@[simp] theorem State.setPort_badUnits (s : State) (p : Nat) (v : Port) : (s.setPort p v).badUnits = s.badUnits := rfl
@[simp] theorem State.setPort_bobbin (s : State) (p : Nat) (v : Port) : (s.setPort p v).bobbin = s.bobbin := rfl
@[simp] theorem State.setPort_bobbinFree (s : State) (p : Nat) (v : Port) : (s.setPort p v).bobbinFree = s.bobbinFree := rfl
@[simp] theorem State.setPort_queues (s : State) (p : Nat) (v : Port) : (s.setPort p v).queues = s.queues := rfl
@[simp] theorem State.setPort_cmds (s : State) (p : Nat) (v : Port) : (s.setPort p v).cmds = s.cmds := rfl
@[simp] theorem State.setPort_drains (s : State) (p : Nat) (v : Port) : (s.setPort p v).drains = s.drains := rfl
@[simp] theorem State.setPort_job (s : State) (p : Nat) (v : Port) : (s.setPort p v).job = s.job := rfl
@[simp] theorem State.setPort_lanes (s : State) (p : Nat) (v : Port) : (s.setPort p v).lanes = s.lanes := rfl
@[simp] theorem State.setPort_dormant (s : State) (p : Nat) (v : Port) : (s.setPort p v).dormant = s.dormant := rfl
@[simp] theorem State.setPort_progs (s : State) (p : Nat) (v : Port) : (s.setPort p v).progs = s.progs := rfl
@[simp] theorem State.setPort_pends (s : State) (p : Nat) (v : Port) : (s.setPort p v).pends = s.pends := rfl
@[simp] theorem State.setPort_skein (s : State) (p : Nat) (v : Port) : (s.setPort p v).skein = s.skein := rfl
@[simp] theorem State.setPort_replayStale (s : State) (p : Nat) (v : Port) : (s.setPort p v).replayStale = s.replayStale := rfl
@[simp] theorem State.setPort_mbx (s : State) (p : Nat) (v : Port) : (s.setPort p v).mbx = s.mbx := rfl
@[simp] theorem State.setPort_spindle (s : State) (p : Nat) (v : Port) : (s.setPort p v).spindle = s.spindle := rfl
@[simp] theorem State.setPort_ports (s : State) (p : Nat) (v : Port) :
    (s.setPort p v).ports = s.ports.setIfInBounds p v := rfl
@[simp] theorem State.setPort_txq (s : State) (p : Nat) (v : Port) : (s.setPort p v).txq = s.txq := rfl
@[simp] theorem State.setPort_partials (s : State) (p : Nat) (v : Port) : (s.setPort p v).partials = s.partials := rfl
@[simp] theorem State.setPort_held (s : State) (p : Nat) (v : Port) : (s.setPort p v).held = s.held := rfl
@[simp] theorem State.setPort_ackDue (s : State) (p : Nat) (v : Port) : (s.setPort p v).ackDue = s.ackDue := rfl
@[simp] theorem State.setPort_outbox (s : State) (p : Nat) (v : Port) : (s.setPort p v).outbox = s.outbox := rfl
@[simp] theorem State.setPort_mcastSeq (s : State) (p : Nat) (v : Port) : (s.setPort p v).mcastSeq = s.mcastSeq := rfl
@[simp] theorem State.setPort_viaNext (s : State) (p : Nat) (v : Port) : (s.setPort p v).viaNext = s.viaNext := rfl
@[simp] theorem State.setPort_rowAlt (s : State) (p : Nat) (v : Port) : (s.setPort p v).rowAlt = s.rowAlt := rfl
@[simp] theorem State.setPort_epochAt (s : State) (p : Nat) (v : Port) : (s.setPort p v).epochAt = s.epochAt := rfl
@[simp] theorem State.setPort_epochInj (s : State) (p : Nat) (v : Port) : (s.setPort p v).epochInj = s.epochInj := rfl
@[simp] theorem State.setPort_epochEj (s : State) (p : Nat) (v : Port) : (s.setPort p v).epochEj = s.epochEj := rfl
@[simp] theorem State.setPort_dateWait (s : State) (p : Nat) (v : Port) : (s.setPort p v).dateWait = s.dateWait := rfl
@[simp] theorem State.setPort_holdUntil (s : State) (p : Nat) (v : Port) : (s.setPort p v).holdUntil = s.holdUntil := rfl
@[simp] theorem State.setPort_feedOut (s : State) (p : Nat) (v : Port) : (s.setPort p v).feedOut = s.feedOut := rfl
@[simp] theorem State.setPort_pieces (s : State) (p : Nat) (v : Port) : (s.setPort p v).pieces = s.pieces := rfl
@[simp] theorem State.setPort_outs (s : State) (p : Nat) (v : Port) : (s.setPort p v).outs = s.outs := rfl
@[simp] theorem State.setPort_damaged (s : State) (p : Nat) (v : Port) : (s.setPort p v).damaged = s.damaged := rfl
@[simp] theorem State.setPort_sumScales (s : State) (p : Nat) (v : Port) : (s.setPort p v).sumScales = s.sumScales := rfl
@[simp] theorem State.setPort_matchTx (s : State) (p : Nat) (v : Port) : (s.setPort p v).matchTx = s.matchTx := rfl
@[simp] theorem State.setPort_matchRx (s : State) (p : Nat) (v : Port) : (s.setPort p v).matchRx = s.matchRx := rfl
@[simp] theorem State.setPort_digests (s : State) (p : Nat) (v : Port) : (s.setPort p v).digests = s.digests := rfl
@[simp] theorem State.setPort_ordinals (s : State) (p : Nat) (v : Port) : (s.setPort p v).ordinals = s.ordinals := rfl
@[simp] theorem State.setPort_ckp (s : State) (p : Nat) (v : Port) : (s.setPort p v).ckp = s.ckp := rfl
@[simp] theorem State.setPort_restore (s : State) (p : Nat) (v : Port) : (s.setPort p v).restore = s.restore := rfl
@[simp] theorem State.setPort_sent (s : State) (p : Nat) (v : Port) : (s.setPort p v).sent = s.sent := rfl
@[simp] theorem State.setPort_rep (s : State) (p : Nat) (v : Port) : (s.setPort p v).rep = s.rep := rfl
@[simp] theorem State.setPort_age (s : State) (p : Nat) (v : Port) : (s.setPort p v).age = s.age := rfl
@[simp] theorem State.setPort_jtag (s : State) (p : Nat) (v : Port) : (s.setPort p v).jtag = s.jtag := rfl
@[simp] theorem State.setPort_grade (s : State) (p : Nat) (v : Port) : (s.setPort p v).grade = s.grade := rfl
@[simp] theorem State.setPort_stepMajor (s : State) (p : Nat) (v : Port) : (s.setPort p v).stepMajor = s.stepMajor := rfl
@[simp] theorem State.setPort_stepMinor (s : State) (p : Nat) (v : Port) : (s.setPort p v).stepMinor = s.stepMinor := rfl
@[simp] theorem State.setPort_free (s : State) (p : Nat) (v : Port) : (s.setPort p v).free = s.free := rfl
@[simp] theorem State.setPort_pending (s : State) (p : Nat) (v : Port) : (s.setPort p v).pending = s.pending := rfl

/-! ### putCmd -/

@[simp] theorem State.putCmd_regs (s : State) (c : Cmd) : (s.putCmd c).regs = s.regs := rfl
@[simp] theorem State.putCmd_prev (s : State) (c : Cmd) : (s.putCmd c).prev = s.prev := rfl
@[simp] theorem State.putCmd_stepCur (s : State) (c : Cmd) : (s.putCmd c).stepCur = s.stepCur := rfl
@[simp] theorem State.putCmd_stepPrev (s : State) (c : Cmd) : (s.putCmd c).stepPrev = s.stepPrev := rfl
@[simp] theorem State.putCmd_staged (s : State) (c : Cmd) : (s.putCmd c).staged = s.staged := rfl
@[simp] theorem State.putCmd_ctl (s : State) (c : Cmd) : (s.putCmd c).ctl = s.ctl := rfl
@[simp] theorem State.putCmd_bus (s : State) (c : Cmd) : (s.putCmd c).bus = s.bus := rfl
@[simp] theorem State.putCmd_mem (s : State) (c : Cmd) : (s.putCmd c).mem = s.mem := rfl
@[simp] theorem State.putCmd_memFail (s : State) (c : Cmd) : (s.putCmd c).memFail = s.memFail := rfl
@[simp] theorem State.putCmd_badUnits (s : State) (c : Cmd) : (s.putCmd c).badUnits = s.badUnits := rfl
@[simp] theorem State.putCmd_bobbin (s : State) (c : Cmd) : (s.putCmd c).bobbin = s.bobbin := rfl
@[simp] theorem State.putCmd_bobbinFree (s : State) (c : Cmd) : (s.putCmd c).bobbinFree = s.bobbinFree := rfl
@[simp] theorem State.putCmd_queues (s : State) (c : Cmd) : (s.putCmd c).queues = s.queues := rfl
@[simp] theorem State.putCmd_cmds (s : State) (c : Cmd) :
    (s.putCmd c).cmds = s.cmds.map (fun d => if d.q == c.q && d.i == c.i then c else d) := rfl
@[simp] theorem State.putCmd_drains (s : State) (c : Cmd) : (s.putCmd c).drains = s.drains := rfl
@[simp] theorem State.putCmd_job (s : State) (c : Cmd) : (s.putCmd c).job = s.job := rfl
@[simp] theorem State.putCmd_lanes (s : State) (c : Cmd) : (s.putCmd c).lanes = s.lanes := rfl
@[simp] theorem State.putCmd_dormant (s : State) (c : Cmd) : (s.putCmd c).dormant = s.dormant := rfl
@[simp] theorem State.putCmd_progs (s : State) (c : Cmd) : (s.putCmd c).progs = s.progs := rfl
@[simp] theorem State.putCmd_pends (s : State) (c : Cmd) : (s.putCmd c).pends = s.pends := rfl
@[simp] theorem State.putCmd_skein (s : State) (c : Cmd) : (s.putCmd c).skein = s.skein := rfl
@[simp] theorem State.putCmd_replayStale (s : State) (c : Cmd) : (s.putCmd c).replayStale = s.replayStale := rfl
@[simp] theorem State.putCmd_mbx (s : State) (c : Cmd) : (s.putCmd c).mbx = s.mbx := rfl
@[simp] theorem State.putCmd_spindle (s : State) (c : Cmd) : (s.putCmd c).spindle = s.spindle := rfl
@[simp] theorem State.putCmd_ports (s : State) (c : Cmd) : (s.putCmd c).ports = s.ports := rfl
@[simp] theorem State.putCmd_txq (s : State) (c : Cmd) : (s.putCmd c).txq = s.txq := rfl
@[simp] theorem State.putCmd_partials (s : State) (c : Cmd) : (s.putCmd c).partials = s.partials := rfl
@[simp] theorem State.putCmd_held (s : State) (c : Cmd) : (s.putCmd c).held = s.held := rfl
@[simp] theorem State.putCmd_ackDue (s : State) (c : Cmd) : (s.putCmd c).ackDue = s.ackDue := rfl
@[simp] theorem State.putCmd_outbox (s : State) (c : Cmd) : (s.putCmd c).outbox = s.outbox := rfl
@[simp] theorem State.putCmd_mcastSeq (s : State) (c : Cmd) : (s.putCmd c).mcastSeq = s.mcastSeq := rfl
@[simp] theorem State.putCmd_viaNext (s : State) (c : Cmd) : (s.putCmd c).viaNext = s.viaNext := rfl
@[simp] theorem State.putCmd_rowAlt (s : State) (c : Cmd) : (s.putCmd c).rowAlt = s.rowAlt := rfl
@[simp] theorem State.putCmd_epochAt (s : State) (c : Cmd) : (s.putCmd c).epochAt = s.epochAt := rfl
@[simp] theorem State.putCmd_epochInj (s : State) (c : Cmd) : (s.putCmd c).epochInj = s.epochInj := rfl
@[simp] theorem State.putCmd_epochEj (s : State) (c : Cmd) : (s.putCmd c).epochEj = s.epochEj := rfl
@[simp] theorem State.putCmd_dateWait (s : State) (c : Cmd) : (s.putCmd c).dateWait = s.dateWait := rfl
@[simp] theorem State.putCmd_holdUntil (s : State) (c : Cmd) : (s.putCmd c).holdUntil = s.holdUntil := rfl
@[simp] theorem State.putCmd_feedOut (s : State) (c : Cmd) : (s.putCmd c).feedOut = s.feedOut := rfl
@[simp] theorem State.putCmd_pieces (s : State) (c : Cmd) : (s.putCmd c).pieces = s.pieces := rfl
@[simp] theorem State.putCmd_outs (s : State) (c : Cmd) : (s.putCmd c).outs = s.outs := rfl
@[simp] theorem State.putCmd_damaged (s : State) (c : Cmd) : (s.putCmd c).damaged = s.damaged := rfl
@[simp] theorem State.putCmd_sumScales (s : State) (c : Cmd) : (s.putCmd c).sumScales = s.sumScales := rfl
@[simp] theorem State.putCmd_matchTx (s : State) (c : Cmd) : (s.putCmd c).matchTx = s.matchTx := rfl
@[simp] theorem State.putCmd_matchRx (s : State) (c : Cmd) : (s.putCmd c).matchRx = s.matchRx := rfl
@[simp] theorem State.putCmd_digests (s : State) (c : Cmd) : (s.putCmd c).digests = s.digests := rfl
@[simp] theorem State.putCmd_ordinals (s : State) (c : Cmd) : (s.putCmd c).ordinals = s.ordinals := rfl
@[simp] theorem State.putCmd_ckp (s : State) (c : Cmd) : (s.putCmd c).ckp = s.ckp := rfl
@[simp] theorem State.putCmd_restore (s : State) (c : Cmd) : (s.putCmd c).restore = s.restore := rfl
@[simp] theorem State.putCmd_sent (s : State) (c : Cmd) : (s.putCmd c).sent = s.sent := rfl
@[simp] theorem State.putCmd_rep (s : State) (c : Cmd) : (s.putCmd c).rep = s.rep := rfl
@[simp] theorem State.putCmd_age (s : State) (c : Cmd) : (s.putCmd c).age = s.age := rfl
@[simp] theorem State.putCmd_jtag (s : State) (c : Cmd) : (s.putCmd c).jtag = s.jtag := rfl
@[simp] theorem State.putCmd_grade (s : State) (c : Cmd) : (s.putCmd c).grade = s.grade := rfl
@[simp] theorem State.putCmd_stepMajor (s : State) (c : Cmd) : (s.putCmd c).stepMajor = s.stepMajor := rfl
@[simp] theorem State.putCmd_stepMinor (s : State) (c : Cmd) : (s.putCmd c).stepMinor = s.stepMinor := rfl
@[simp] theorem State.putCmd_free (s : State) (c : Cmd) : (s.putCmd c).free = s.free := rfl
@[simp] theorem State.putCmd_pending (s : State) (c : Cmd) : (s.putCmd c).pending = s.pending := rfl

/-! ### dropCmd -/

@[simp] theorem State.dropCmd_regs (s : State) (q i : Nat) : (s.dropCmd q i).regs = s.regs := rfl
@[simp] theorem State.dropCmd_prev (s : State) (q i : Nat) : (s.dropCmd q i).prev = s.prev := rfl
@[simp] theorem State.dropCmd_stepCur (s : State) (q i : Nat) : (s.dropCmd q i).stepCur = s.stepCur := rfl
@[simp] theorem State.dropCmd_stepPrev (s : State) (q i : Nat) : (s.dropCmd q i).stepPrev = s.stepPrev := rfl
@[simp] theorem State.dropCmd_staged (s : State) (q i : Nat) : (s.dropCmd q i).staged = s.staged := rfl
@[simp] theorem State.dropCmd_ctl (s : State) (q i : Nat) : (s.dropCmd q i).ctl = s.ctl := rfl
@[simp] theorem State.dropCmd_bus (s : State) (q i : Nat) : (s.dropCmd q i).bus = s.bus := rfl
@[simp] theorem State.dropCmd_mem (s : State) (q i : Nat) : (s.dropCmd q i).mem = s.mem := rfl
@[simp] theorem State.dropCmd_memFail (s : State) (q i : Nat) : (s.dropCmd q i).memFail = s.memFail := rfl
@[simp] theorem State.dropCmd_badUnits (s : State) (q i : Nat) : (s.dropCmd q i).badUnits = s.badUnits := rfl
@[simp] theorem State.dropCmd_bobbin (s : State) (q i : Nat) : (s.dropCmd q i).bobbin = s.bobbin := rfl
@[simp] theorem State.dropCmd_bobbinFree (s : State) (q i : Nat) : (s.dropCmd q i).bobbinFree = s.bobbinFree := rfl
@[simp] theorem State.dropCmd_queues (s : State) (q i : Nat) : (s.dropCmd q i).queues = s.queues := rfl
@[simp] theorem State.dropCmd_cmds (s : State) (q i : Nat) :
    (s.dropCmd q i).cmds = s.cmds.filter (fun c => !(c.q == q && c.i == i)) := rfl
@[simp] theorem State.dropCmd_drains (s : State) (q i : Nat) : (s.dropCmd q i).drains = s.drains := rfl
@[simp] theorem State.dropCmd_job (s : State) (q i : Nat) : (s.dropCmd q i).job = s.job := rfl
@[simp] theorem State.dropCmd_lanes (s : State) (q i : Nat) : (s.dropCmd q i).lanes = s.lanes := rfl
@[simp] theorem State.dropCmd_dormant (s : State) (q i : Nat) : (s.dropCmd q i).dormant = s.dormant := rfl
@[simp] theorem State.dropCmd_progs (s : State) (q i : Nat) : (s.dropCmd q i).progs = s.progs := rfl
@[simp] theorem State.dropCmd_pends (s : State) (q i : Nat) : (s.dropCmd q i).pends = s.pends := rfl
@[simp] theorem State.dropCmd_skein (s : State) (q i : Nat) : (s.dropCmd q i).skein = s.skein := rfl
@[simp] theorem State.dropCmd_replayStale (s : State) (q i : Nat) : (s.dropCmd q i).replayStale = s.replayStale := rfl
@[simp] theorem State.dropCmd_mbx (s : State) (q i : Nat) : (s.dropCmd q i).mbx = s.mbx := rfl
@[simp] theorem State.dropCmd_spindle (s : State) (q i : Nat) : (s.dropCmd q i).spindle = s.spindle := rfl
@[simp] theorem State.dropCmd_ports (s : State) (q i : Nat) : (s.dropCmd q i).ports = s.ports := rfl
@[simp] theorem State.dropCmd_txq (s : State) (q i : Nat) : (s.dropCmd q i).txq = s.txq := rfl
@[simp] theorem State.dropCmd_partials (s : State) (q i : Nat) : (s.dropCmd q i).partials = s.partials := rfl
@[simp] theorem State.dropCmd_held (s : State) (q i : Nat) : (s.dropCmd q i).held = s.held := rfl
@[simp] theorem State.dropCmd_ackDue (s : State) (q i : Nat) : (s.dropCmd q i).ackDue = s.ackDue := rfl
@[simp] theorem State.dropCmd_outbox (s : State) (q i : Nat) : (s.dropCmd q i).outbox = s.outbox := rfl
@[simp] theorem State.dropCmd_mcastSeq (s : State) (q i : Nat) : (s.dropCmd q i).mcastSeq = s.mcastSeq := rfl
@[simp] theorem State.dropCmd_viaNext (s : State) (q i : Nat) : (s.dropCmd q i).viaNext = s.viaNext := rfl
@[simp] theorem State.dropCmd_rowAlt (s : State) (q i : Nat) : (s.dropCmd q i).rowAlt = s.rowAlt := rfl
@[simp] theorem State.dropCmd_epochAt (s : State) (q i : Nat) : (s.dropCmd q i).epochAt = s.epochAt := rfl
@[simp] theorem State.dropCmd_epochInj (s : State) (q i : Nat) : (s.dropCmd q i).epochInj = s.epochInj := rfl
@[simp] theorem State.dropCmd_epochEj (s : State) (q i : Nat) : (s.dropCmd q i).epochEj = s.epochEj := rfl
@[simp] theorem State.dropCmd_dateWait (s : State) (q i : Nat) : (s.dropCmd q i).dateWait = s.dateWait := rfl
@[simp] theorem State.dropCmd_holdUntil (s : State) (q i : Nat) : (s.dropCmd q i).holdUntil = s.holdUntil := rfl
@[simp] theorem State.dropCmd_feedOut (s : State) (q i : Nat) : (s.dropCmd q i).feedOut = s.feedOut := rfl
@[simp] theorem State.dropCmd_pieces (s : State) (q i : Nat) : (s.dropCmd q i).pieces = s.pieces := rfl
@[simp] theorem State.dropCmd_outs (s : State) (q i : Nat) : (s.dropCmd q i).outs = s.outs := rfl
@[simp] theorem State.dropCmd_damaged (s : State) (q i : Nat) : (s.dropCmd q i).damaged = s.damaged := rfl
@[simp] theorem State.dropCmd_sumScales (s : State) (q i : Nat) : (s.dropCmd q i).sumScales = s.sumScales := rfl
@[simp] theorem State.dropCmd_matchTx (s : State) (q i : Nat) : (s.dropCmd q i).matchTx = s.matchTx := rfl
@[simp] theorem State.dropCmd_matchRx (s : State) (q i : Nat) : (s.dropCmd q i).matchRx = s.matchRx := rfl
@[simp] theorem State.dropCmd_digests (s : State) (q i : Nat) : (s.dropCmd q i).digests = s.digests := rfl
@[simp] theorem State.dropCmd_ordinals (s : State) (q i : Nat) : (s.dropCmd q i).ordinals = s.ordinals := rfl
@[simp] theorem State.dropCmd_ckp (s : State) (q i : Nat) : (s.dropCmd q i).ckp = s.ckp := rfl
@[simp] theorem State.dropCmd_restore (s : State) (q i : Nat) : (s.dropCmd q i).restore = s.restore := rfl
@[simp] theorem State.dropCmd_sent (s : State) (q i : Nat) : (s.dropCmd q i).sent = s.sent := rfl
@[simp] theorem State.dropCmd_rep (s : State) (q i : Nat) : (s.dropCmd q i).rep = s.rep := rfl
@[simp] theorem State.dropCmd_age (s : State) (q i : Nat) : (s.dropCmd q i).age = s.age := rfl
@[simp] theorem State.dropCmd_jtag (s : State) (q i : Nat) : (s.dropCmd q i).jtag = s.jtag := rfl
@[simp] theorem State.dropCmd_grade (s : State) (q i : Nat) : (s.dropCmd q i).grade = s.grade := rfl
@[simp] theorem State.dropCmd_stepMajor (s : State) (q i : Nat) : (s.dropCmd q i).stepMajor = s.stepMajor := rfl
@[simp] theorem State.dropCmd_stepMinor (s : State) (q i : Nat) : (s.dropCmd q i).stepMinor = s.stepMinor := rfl
@[simp] theorem State.dropCmd_free (s : State) (q i : Nat) : (s.dropCmd q i).free = s.free := rfl
@[simp] theorem State.dropCmd_pending (s : State) (q i : Nat) : (s.dropCmd q i).pending = s.pending := rfl

/-! ### stage -/

@[simp] theorem State.stage_regs (s : State) (key : Nat) (v mask : Word) : (s.stage key v mask).regs = s.regs := rfl
@[simp] theorem State.stage_prev (s : State) (key : Nat) (v mask : Word) : (s.stage key v mask).prev = s.prev := rfl
@[simp] theorem State.stage_stepCur (s : State) (key : Nat) (v mask : Word) : (s.stage key v mask).stepCur = s.stepCur := rfl
@[simp] theorem State.stage_stepPrev (s : State) (key : Nat) (v mask : Word) : (s.stage key v mask).stepPrev = s.stepPrev := rfl
@[simp] theorem State.stage_ctl (s : State) (key : Nat) (v mask : Word) : (s.stage key v mask).ctl = s.ctl := rfl
@[simp] theorem State.stage_bus (s : State) (key : Nat) (v mask : Word) : (s.stage key v mask).bus = s.bus := rfl
@[simp] theorem State.stage_mem (s : State) (key : Nat) (v mask : Word) : (s.stage key v mask).mem = s.mem := rfl
@[simp] theorem State.stage_memFail (s : State) (key : Nat) (v mask : Word) : (s.stage key v mask).memFail = s.memFail := rfl
@[simp] theorem State.stage_badUnits (s : State) (key : Nat) (v mask : Word) : (s.stage key v mask).badUnits = s.badUnits := rfl
@[simp] theorem State.stage_bobbin (s : State) (key : Nat) (v mask : Word) : (s.stage key v mask).bobbin = s.bobbin := rfl
@[simp] theorem State.stage_bobbinFree (s : State) (key : Nat) (v mask : Word) : (s.stage key v mask).bobbinFree = s.bobbinFree := rfl
@[simp] theorem State.stage_queues (s : State) (key : Nat) (v mask : Word) : (s.stage key v mask).queues = s.queues := rfl
@[simp] theorem State.stage_cmds (s : State) (key : Nat) (v mask : Word) : (s.stage key v mask).cmds = s.cmds := rfl
@[simp] theorem State.stage_drains (s : State) (key : Nat) (v mask : Word) : (s.stage key v mask).drains = s.drains := rfl
@[simp] theorem State.stage_job (s : State) (key : Nat) (v mask : Word) : (s.stage key v mask).job = s.job := rfl
@[simp] theorem State.stage_lanes (s : State) (key : Nat) (v mask : Word) : (s.stage key v mask).lanes = s.lanes := rfl
@[simp] theorem State.stage_dormant (s : State) (key : Nat) (v mask : Word) : (s.stage key v mask).dormant = s.dormant := rfl
@[simp] theorem State.stage_progs (s : State) (key : Nat) (v mask : Word) : (s.stage key v mask).progs = s.progs := rfl
@[simp] theorem State.stage_pends (s : State) (key : Nat) (v mask : Word) : (s.stage key v mask).pends = s.pends := rfl
@[simp] theorem State.stage_skein (s : State) (key : Nat) (v mask : Word) : (s.stage key v mask).skein = s.skein := rfl
@[simp] theorem State.stage_replayStale (s : State) (key : Nat) (v mask : Word) : (s.stage key v mask).replayStale = s.replayStale := rfl
@[simp] theorem State.stage_mbx (s : State) (key : Nat) (v mask : Word) : (s.stage key v mask).mbx = s.mbx := rfl
@[simp] theorem State.stage_spindle (s : State) (key : Nat) (v mask : Word) : (s.stage key v mask).spindle = s.spindle := rfl
@[simp] theorem State.stage_ports (s : State) (key : Nat) (v mask : Word) : (s.stage key v mask).ports = s.ports := rfl
@[simp] theorem State.stage_txq (s : State) (key : Nat) (v mask : Word) : (s.stage key v mask).txq = s.txq := rfl
@[simp] theorem State.stage_partials (s : State) (key : Nat) (v mask : Word) : (s.stage key v mask).partials = s.partials := rfl
@[simp] theorem State.stage_held (s : State) (key : Nat) (v mask : Word) : (s.stage key v mask).held = s.held := rfl
@[simp] theorem State.stage_ackDue (s : State) (key : Nat) (v mask : Word) : (s.stage key v mask).ackDue = s.ackDue := rfl
@[simp] theorem State.stage_outbox (s : State) (key : Nat) (v mask : Word) : (s.stage key v mask).outbox = s.outbox := rfl
@[simp] theorem State.stage_mcastSeq (s : State) (key : Nat) (v mask : Word) : (s.stage key v mask).mcastSeq = s.mcastSeq := rfl
@[simp] theorem State.stage_viaNext (s : State) (key : Nat) (v mask : Word) : (s.stage key v mask).viaNext = s.viaNext := rfl
@[simp] theorem State.stage_rowAlt (s : State) (key : Nat) (v mask : Word) : (s.stage key v mask).rowAlt = s.rowAlt := rfl
@[simp] theorem State.stage_epochAt (s : State) (key : Nat) (v mask : Word) : (s.stage key v mask).epochAt = s.epochAt := rfl
@[simp] theorem State.stage_epochInj (s : State) (key : Nat) (v mask : Word) : (s.stage key v mask).epochInj = s.epochInj := rfl
@[simp] theorem State.stage_epochEj (s : State) (key : Nat) (v mask : Word) : (s.stage key v mask).epochEj = s.epochEj := rfl
@[simp] theorem State.stage_dateWait (s : State) (key : Nat) (v mask : Word) : (s.stage key v mask).dateWait = s.dateWait := rfl
@[simp] theorem State.stage_holdUntil (s : State) (key : Nat) (v mask : Word) : (s.stage key v mask).holdUntil = s.holdUntil := rfl
@[simp] theorem State.stage_feedOut (s : State) (key : Nat) (v mask : Word) : (s.stage key v mask).feedOut = s.feedOut := rfl
@[simp] theorem State.stage_pieces (s : State) (key : Nat) (v mask : Word) : (s.stage key v mask).pieces = s.pieces := rfl
@[simp] theorem State.stage_outs (s : State) (key : Nat) (v mask : Word) : (s.stage key v mask).outs = s.outs := rfl
@[simp] theorem State.stage_damaged (s : State) (key : Nat) (v mask : Word) : (s.stage key v mask).damaged = s.damaged := rfl
@[simp] theorem State.stage_sumScales (s : State) (key : Nat) (v mask : Word) : (s.stage key v mask).sumScales = s.sumScales := rfl
@[simp] theorem State.stage_matchTx (s : State) (key : Nat) (v mask : Word) : (s.stage key v mask).matchTx = s.matchTx := rfl
@[simp] theorem State.stage_matchRx (s : State) (key : Nat) (v mask : Word) : (s.stage key v mask).matchRx = s.matchRx := rfl
@[simp] theorem State.stage_digests (s : State) (key : Nat) (v mask : Word) : (s.stage key v mask).digests = s.digests := rfl
@[simp] theorem State.stage_ordinals (s : State) (key : Nat) (v mask : Word) : (s.stage key v mask).ordinals = s.ordinals := rfl
@[simp] theorem State.stage_ckp (s : State) (key : Nat) (v mask : Word) : (s.stage key v mask).ckp = s.ckp := rfl
@[simp] theorem State.stage_restore (s : State) (key : Nat) (v mask : Word) : (s.stage key v mask).restore = s.restore := rfl
@[simp] theorem State.stage_sent (s : State) (key : Nat) (v mask : Word) : (s.stage key v mask).sent = s.sent := rfl
@[simp] theorem State.stage_rep (s : State) (key : Nat) (v mask : Word) : (s.stage key v mask).rep = s.rep := rfl
@[simp] theorem State.stage_age (s : State) (key : Nat) (v mask : Word) : (s.stage key v mask).age = s.age := rfl
@[simp] theorem State.stage_jtag (s : State) (key : Nat) (v mask : Word) : (s.stage key v mask).jtag = s.jtag := rfl
@[simp] theorem State.stage_grade (s : State) (key : Nat) (v mask : Word) : (s.stage key v mask).grade = s.grade := rfl
@[simp] theorem State.stage_stepMajor (s : State) (key : Nat) (v mask : Word) : (s.stage key v mask).stepMajor = s.stepMajor := rfl
@[simp] theorem State.stage_stepMinor (s : State) (key : Nat) (v mask : Word) : (s.stage key v mask).stepMinor = s.stepMinor := rfl
@[simp] theorem State.stage_free (s : State) (key : Nat) (v mask : Word) : (s.stage key v mask).free = s.free := rfl
@[simp] theorem State.stage_pending (s : State) (key : Nat) (v mask : Word) : (s.stage key v mask).pending = s.pending := rfl

/-! ### unstage -/

@[simp] theorem State.unstage_regs (s : State) (key : Nat) (mask : Word) : (s.unstage key mask).regs = s.regs := rfl
@[simp] theorem State.unstage_prev (s : State) (key : Nat) (mask : Word) : (s.unstage key mask).prev = s.prev := rfl
@[simp] theorem State.unstage_stepCur (s : State) (key : Nat) (mask : Word) : (s.unstage key mask).stepCur = s.stepCur := rfl
@[simp] theorem State.unstage_stepPrev (s : State) (key : Nat) (mask : Word) : (s.unstage key mask).stepPrev = s.stepPrev := rfl
@[simp] theorem State.unstage_ctl (s : State) (key : Nat) (mask : Word) : (s.unstage key mask).ctl = s.ctl := rfl
@[simp] theorem State.unstage_bus (s : State) (key : Nat) (mask : Word) : (s.unstage key mask).bus = s.bus := rfl
@[simp] theorem State.unstage_mem (s : State) (key : Nat) (mask : Word) : (s.unstage key mask).mem = s.mem := rfl
@[simp] theorem State.unstage_memFail (s : State) (key : Nat) (mask : Word) : (s.unstage key mask).memFail = s.memFail := rfl
@[simp] theorem State.unstage_badUnits (s : State) (key : Nat) (mask : Word) : (s.unstage key mask).badUnits = s.badUnits := rfl
@[simp] theorem State.unstage_bobbin (s : State) (key : Nat) (mask : Word) : (s.unstage key mask).bobbin = s.bobbin := rfl
@[simp] theorem State.unstage_bobbinFree (s : State) (key : Nat) (mask : Word) : (s.unstage key mask).bobbinFree = s.bobbinFree := rfl
@[simp] theorem State.unstage_queues (s : State) (key : Nat) (mask : Word) : (s.unstage key mask).queues = s.queues := rfl
@[simp] theorem State.unstage_cmds (s : State) (key : Nat) (mask : Word) : (s.unstage key mask).cmds = s.cmds := rfl
@[simp] theorem State.unstage_drains (s : State) (key : Nat) (mask : Word) : (s.unstage key mask).drains = s.drains := rfl
@[simp] theorem State.unstage_job (s : State) (key : Nat) (mask : Word) : (s.unstage key mask).job = s.job := rfl
@[simp] theorem State.unstage_lanes (s : State) (key : Nat) (mask : Word) : (s.unstage key mask).lanes = s.lanes := rfl
@[simp] theorem State.unstage_dormant (s : State) (key : Nat) (mask : Word) : (s.unstage key mask).dormant = s.dormant := rfl
@[simp] theorem State.unstage_progs (s : State) (key : Nat) (mask : Word) : (s.unstage key mask).progs = s.progs := rfl
@[simp] theorem State.unstage_pends (s : State) (key : Nat) (mask : Word) : (s.unstage key mask).pends = s.pends := rfl
@[simp] theorem State.unstage_skein (s : State) (key : Nat) (mask : Word) : (s.unstage key mask).skein = s.skein := rfl
@[simp] theorem State.unstage_replayStale (s : State) (key : Nat) (mask : Word) : (s.unstage key mask).replayStale = s.replayStale := rfl
@[simp] theorem State.unstage_mbx (s : State) (key : Nat) (mask : Word) : (s.unstage key mask).mbx = s.mbx := rfl
@[simp] theorem State.unstage_spindle (s : State) (key : Nat) (mask : Word) : (s.unstage key mask).spindle = s.spindle := rfl
@[simp] theorem State.unstage_ports (s : State) (key : Nat) (mask : Word) : (s.unstage key mask).ports = s.ports := rfl
@[simp] theorem State.unstage_txq (s : State) (key : Nat) (mask : Word) : (s.unstage key mask).txq = s.txq := rfl
@[simp] theorem State.unstage_partials (s : State) (key : Nat) (mask : Word) : (s.unstage key mask).partials = s.partials := rfl
@[simp] theorem State.unstage_held (s : State) (key : Nat) (mask : Word) : (s.unstage key mask).held = s.held := rfl
@[simp] theorem State.unstage_ackDue (s : State) (key : Nat) (mask : Word) : (s.unstage key mask).ackDue = s.ackDue := rfl
@[simp] theorem State.unstage_outbox (s : State) (key : Nat) (mask : Word) : (s.unstage key mask).outbox = s.outbox := rfl
@[simp] theorem State.unstage_mcastSeq (s : State) (key : Nat) (mask : Word) : (s.unstage key mask).mcastSeq = s.mcastSeq := rfl
@[simp] theorem State.unstage_viaNext (s : State) (key : Nat) (mask : Word) : (s.unstage key mask).viaNext = s.viaNext := rfl
@[simp] theorem State.unstage_rowAlt (s : State) (key : Nat) (mask : Word) : (s.unstage key mask).rowAlt = s.rowAlt := rfl
@[simp] theorem State.unstage_epochAt (s : State) (key : Nat) (mask : Word) : (s.unstage key mask).epochAt = s.epochAt := rfl
@[simp] theorem State.unstage_epochInj (s : State) (key : Nat) (mask : Word) : (s.unstage key mask).epochInj = s.epochInj := rfl
@[simp] theorem State.unstage_epochEj (s : State) (key : Nat) (mask : Word) : (s.unstage key mask).epochEj = s.epochEj := rfl
@[simp] theorem State.unstage_dateWait (s : State) (key : Nat) (mask : Word) : (s.unstage key mask).dateWait = s.dateWait := rfl
@[simp] theorem State.unstage_holdUntil (s : State) (key : Nat) (mask : Word) : (s.unstage key mask).holdUntil = s.holdUntil := rfl
@[simp] theorem State.unstage_feedOut (s : State) (key : Nat) (mask : Word) : (s.unstage key mask).feedOut = s.feedOut := rfl
@[simp] theorem State.unstage_pieces (s : State) (key : Nat) (mask : Word) : (s.unstage key mask).pieces = s.pieces := rfl
@[simp] theorem State.unstage_outs (s : State) (key : Nat) (mask : Word) : (s.unstage key mask).outs = s.outs := rfl
@[simp] theorem State.unstage_damaged (s : State) (key : Nat) (mask : Word) : (s.unstage key mask).damaged = s.damaged := rfl
@[simp] theorem State.unstage_sumScales (s : State) (key : Nat) (mask : Word) : (s.unstage key mask).sumScales = s.sumScales := rfl
@[simp] theorem State.unstage_matchTx (s : State) (key : Nat) (mask : Word) : (s.unstage key mask).matchTx = s.matchTx := rfl
@[simp] theorem State.unstage_matchRx (s : State) (key : Nat) (mask : Word) : (s.unstage key mask).matchRx = s.matchRx := rfl
@[simp] theorem State.unstage_digests (s : State) (key : Nat) (mask : Word) : (s.unstage key mask).digests = s.digests := rfl
@[simp] theorem State.unstage_ordinals (s : State) (key : Nat) (mask : Word) : (s.unstage key mask).ordinals = s.ordinals := rfl
@[simp] theorem State.unstage_ckp (s : State) (key : Nat) (mask : Word) : (s.unstage key mask).ckp = s.ckp := rfl
@[simp] theorem State.unstage_restore (s : State) (key : Nat) (mask : Word) : (s.unstage key mask).restore = s.restore := rfl
@[simp] theorem State.unstage_sent (s : State) (key : Nat) (mask : Word) : (s.unstage key mask).sent = s.sent := rfl
@[simp] theorem State.unstage_rep (s : State) (key : Nat) (mask : Word) : (s.unstage key mask).rep = s.rep := rfl
@[simp] theorem State.unstage_age (s : State) (key : Nat) (mask : Word) : (s.unstage key mask).age = s.age := rfl
@[simp] theorem State.unstage_jtag (s : State) (key : Nat) (mask : Word) : (s.unstage key mask).jtag = s.jtag := rfl
@[simp] theorem State.unstage_grade (s : State) (key : Nat) (mask : Word) : (s.unstage key mask).grade = s.grade := rfl
@[simp] theorem State.unstage_stepMajor (s : State) (key : Nat) (mask : Word) : (s.unstage key mask).stepMajor = s.stepMajor := rfl
@[simp] theorem State.unstage_stepMinor (s : State) (key : Nat) (mask : Word) : (s.unstage key mask).stepMinor = s.stepMinor := rfl
@[simp] theorem State.unstage_free (s : State) (key : Nat) (mask : Word) : (s.unstage key mask).free = s.free := rfl
@[simp] theorem State.unstage_pending (s : State) (key : Nat) (mask : Word) : (s.unstage key mask).pending = s.pending := rfl

/-! ### respond -/

@[simp] theorem State.respond_regs (s : State) (v : Word) : (s.respond v).regs = s.regs := rfl
@[simp] theorem State.respond_prev (s : State) (v : Word) : (s.respond v).prev = s.prev := rfl
@[simp] theorem State.respond_stepCur (s : State) (v : Word) : (s.respond v).stepCur = s.stepCur := rfl
@[simp] theorem State.respond_stepPrev (s : State) (v : Word) : (s.respond v).stepPrev = s.stepPrev := rfl
@[simp] theorem State.respond_staged (s : State) (v : Word) : (s.respond v).staged = s.staged := rfl
@[simp] theorem State.respond_ctl (s : State) (v : Word) : (s.respond v).ctl = s.ctl := rfl
@[simp] theorem State.respond_bus (s : State) (v : Word) :
    (s.respond v).bus = { data := v, error := false } := rfl
@[simp] theorem State.respond_mem (s : State) (v : Word) : (s.respond v).mem = s.mem := rfl
@[simp] theorem State.respond_memFail (s : State) (v : Word) : (s.respond v).memFail = s.memFail := rfl
@[simp] theorem State.respond_badUnits (s : State) (v : Word) : (s.respond v).badUnits = s.badUnits := rfl
@[simp] theorem State.respond_bobbin (s : State) (v : Word) : (s.respond v).bobbin = s.bobbin := rfl
@[simp] theorem State.respond_bobbinFree (s : State) (v : Word) : (s.respond v).bobbinFree = s.bobbinFree := rfl
@[simp] theorem State.respond_queues (s : State) (v : Word) : (s.respond v).queues = s.queues := rfl
@[simp] theorem State.respond_cmds (s : State) (v : Word) : (s.respond v).cmds = s.cmds := rfl
@[simp] theorem State.respond_drains (s : State) (v : Word) : (s.respond v).drains = s.drains := rfl
@[simp] theorem State.respond_job (s : State) (v : Word) : (s.respond v).job = s.job := rfl
@[simp] theorem State.respond_lanes (s : State) (v : Word) : (s.respond v).lanes = s.lanes := rfl
@[simp] theorem State.respond_dormant (s : State) (v : Word) : (s.respond v).dormant = s.dormant := rfl
@[simp] theorem State.respond_progs (s : State) (v : Word) : (s.respond v).progs = s.progs := rfl
@[simp] theorem State.respond_pends (s : State) (v : Word) : (s.respond v).pends = s.pends := rfl
@[simp] theorem State.respond_skein (s : State) (v : Word) : (s.respond v).skein = s.skein := rfl
@[simp] theorem State.respond_replayStale (s : State) (v : Word) : (s.respond v).replayStale = s.replayStale := rfl
@[simp] theorem State.respond_mbx (s : State) (v : Word) : (s.respond v).mbx = s.mbx := rfl
@[simp] theorem State.respond_spindle (s : State) (v : Word) : (s.respond v).spindle = s.spindle := rfl
@[simp] theorem State.respond_ports (s : State) (v : Word) : (s.respond v).ports = s.ports := rfl
@[simp] theorem State.respond_txq (s : State) (v : Word) : (s.respond v).txq = s.txq := rfl
@[simp] theorem State.respond_partials (s : State) (v : Word) : (s.respond v).partials = s.partials := rfl
@[simp] theorem State.respond_held (s : State) (v : Word) : (s.respond v).held = s.held := rfl
@[simp] theorem State.respond_ackDue (s : State) (v : Word) : (s.respond v).ackDue = s.ackDue := rfl
@[simp] theorem State.respond_outbox (s : State) (v : Word) : (s.respond v).outbox = s.outbox := rfl
@[simp] theorem State.respond_mcastSeq (s : State) (v : Word) : (s.respond v).mcastSeq = s.mcastSeq := rfl
@[simp] theorem State.respond_viaNext (s : State) (v : Word) : (s.respond v).viaNext = s.viaNext := rfl
@[simp] theorem State.respond_rowAlt (s : State) (v : Word) : (s.respond v).rowAlt = s.rowAlt := rfl
@[simp] theorem State.respond_epochAt (s : State) (v : Word) : (s.respond v).epochAt = s.epochAt := rfl
@[simp] theorem State.respond_epochInj (s : State) (v : Word) : (s.respond v).epochInj = s.epochInj := rfl
@[simp] theorem State.respond_epochEj (s : State) (v : Word) : (s.respond v).epochEj = s.epochEj := rfl
@[simp] theorem State.respond_dateWait (s : State) (v : Word) : (s.respond v).dateWait = s.dateWait := rfl
@[simp] theorem State.respond_holdUntil (s : State) (v : Word) : (s.respond v).holdUntil = s.holdUntil := rfl
@[simp] theorem State.respond_feedOut (s : State) (v : Word) : (s.respond v).feedOut = s.feedOut := rfl
@[simp] theorem State.respond_pieces (s : State) (v : Word) : (s.respond v).pieces = s.pieces := rfl
@[simp] theorem State.respond_outs (s : State) (v : Word) : (s.respond v).outs = s.outs := rfl
@[simp] theorem State.respond_damaged (s : State) (v : Word) : (s.respond v).damaged = s.damaged := rfl
@[simp] theorem State.respond_sumScales (s : State) (v : Word) : (s.respond v).sumScales = s.sumScales := rfl
@[simp] theorem State.respond_matchTx (s : State) (v : Word) : (s.respond v).matchTx = s.matchTx := rfl
@[simp] theorem State.respond_matchRx (s : State) (v : Word) : (s.respond v).matchRx = s.matchRx := rfl
@[simp] theorem State.respond_digests (s : State) (v : Word) : (s.respond v).digests = s.digests := rfl
@[simp] theorem State.respond_ordinals (s : State) (v : Word) : (s.respond v).ordinals = s.ordinals := rfl
@[simp] theorem State.respond_ckp (s : State) (v : Word) : (s.respond v).ckp = s.ckp := rfl
@[simp] theorem State.respond_restore (s : State) (v : Word) : (s.respond v).restore = s.restore := rfl
@[simp] theorem State.respond_sent (s : State) (v : Word) : (s.respond v).sent = s.sent := rfl
@[simp] theorem State.respond_rep (s : State) (v : Word) : (s.respond v).rep = s.rep := rfl
@[simp] theorem State.respond_age (s : State) (v : Word) : (s.respond v).age = s.age := rfl
@[simp] theorem State.respond_jtag (s : State) (v : Word) : (s.respond v).jtag = s.jtag := rfl
@[simp] theorem State.respond_grade (s : State) (v : Word) : (s.respond v).grade = s.grade := rfl
@[simp] theorem State.respond_stepMajor (s : State) (v : Word) : (s.respond v).stepMajor = s.stepMajor := rfl
@[simp] theorem State.respond_stepMinor (s : State) (v : Word) : (s.respond v).stepMinor = s.stepMinor := rfl
@[simp] theorem State.respond_free (s : State) (v : Word) : (s.respond v).free = s.free := rfl
@[simp] theorem State.respond_pending (s : State) (v : Word) : (s.respond v).pending = s.pending := rfl

end Sys2Proof.Machine
end

