-- ==== Sys2Proof/Laws/Ops.lean ====
section
/-! SUPPORT. What the shared operations do, said once: registers and their fields, memory, causes and watches, responses,
and what `settled` can change. -/

namespace Sys2Proof.Machine

/-! ### Registers -/

theorem rd_wr (s : State) (o o' : Nat) (v : Word) : (s.wr o v).rd o' = if o' = o then v else s.rd o' :=
  smGet_smSet _ _ _ _ _

@[simp] theorem rd_wr_self (s : State) (o : Nat) (v : Word) : (s.wr o v).rd o = v := by simp [rd_wr]

theorem rd_wr_ne (s : State) (o o' : Nat) (v : Word) (h : o' ≠ o) : (s.wr o v).rd o' = s.rd o' := by simp [rd_wr, h]

theorem rd_setFld_ne (s : State) (o o' lo w x : Nat) (h : o' ≠ o) : (s.setFld o lo w x).rd o' = s.rd o' := rd_wr_ne _ _ _ _ h

theorem rd_setFld_self (s : State) (o lo w x : Nat) : (s.setFld o lo w x).rd o = setBits (s.rd o) lo w x := rd_wr_self _ _ _

theorem rd_sat_ne (s : State) (o o' lo w n : Nat) (h : o' ≠ o) : (s.sat o lo w n).rd o' = s.rd o' := rd_setFld_ne _ _ _ _ _ _ h

theorem testBit_bitsAt (v lo w i : Nat) : (bitsAt v lo w).testBit i = (decide (i < w) && v.testBit (lo + i)) := by
  simp [bitsAt, Nat.testBit_mod_two_pow, Nat.testBit_div_two_pow, Nat.add_comm]

theorem getLsbD_setBits (v : Word) (lo w x i : Nat) (hi : i < 64) :
    (setBits v lo w x).getLsbD i = if lo ≤ i ∧ i < lo + w then x.testBit (i - lo) else v.getLsbD i := by
  have hm : ((2 ^ w - 1) * 2 ^ lo).testBit i = (decide (lo ≤ i) && decide (i < lo + w)) := by
    rw [Nat.testBit_mul_two_pow]
    by_cases h : lo ≤ i
    · simp only [h, decide_true, Bool.true_and, Nat.testBit_two_pow_sub_one, decide_eq_decide]
      omega
    · simp [h]
  have hx : (x % 2 ^ w * 2 ^ lo).testBit i = (decide (lo ≤ i) && decide (i < lo + w) && x.testBit (i - lo)) := by
    rw [Nat.testBit_mul_two_pow]
    by_cases h : lo ≤ i
    · have : decide (i - lo < w) = decide (i < lo + w) := by rw [decide_eq_decide]; omega
      simp [h, Nat.testBit_mod_two_pow, this]
    · simp [h]
  simp only [setBits, BitVec.getLsbD_or, BitVec.getLsbD_and, BitVec.getLsbD_not, BitVec.getLsbD_ofNat, hi, decide_true,
    Bool.true_and, hm, hx]
  by_cases h1 : lo ≤ i <;> by_cases h2 : i < lo + w <;> simp [h1, h2]

/-- A field just written reads the value, cut to its width. -/
theorem bitsAt_setBits_self (v : Word) (lo w x : Nat) (h : lo + w ≤ 64) : bitsAt (setBits v lo w x).toNat lo w = x % 2 ^ w := by
  apply Nat.eq_of_testBit_eq
  intro i
  rw [testBit_bitsAt, Nat.testBit_mod_two_pow]
  by_cases hi : i < w
  · rw [BitVec.testBit_toNat, getLsbD_setBits _ _ _ _ _ (by omega)]
    simp [hi]
  · simp [hi]

/-- A field that the written one does not touch reads as before. -/
theorem bitsAt_setBits_ne (v : Word) (lo w x lo' w' : Nat) (h : lo' + w' ≤ lo ∨ lo + w ≤ lo') (h64 : lo' + w' ≤ 64) :
    bitsAt (setBits v lo w x).toNat lo' w' = bitsAt v.toNat lo' w' := by
  apply Nat.eq_of_testBit_eq
  intro i
  rw [testBit_bitsAt, testBit_bitsAt]
  by_cases hi : i < w'
  · rw [BitVec.testBit_toNat, BitVec.testBit_toNat, getLsbD_setBits _ _ _ _ _ (by omega)]
    have : ¬ (lo ≤ lo' + i ∧ lo' + i < lo + w) := by omega
    simp [this]
  · simp [hi]

theorem fld_setFld_self (s : State) (o lo w x : Nat) (h : lo + w ≤ 64) : (s.setFld o lo w x).fld o lo w = x % 2 ^ w := by
  simp only [State.fld, rd_setFld_self, bitsAt_setBits_self _ _ _ _ h]

theorem fld_setFld_other (s : State) (o o' lo w x lo' w' : Nat) (h : o' ≠ o) :
    (s.setFld o lo w x).fld o' lo' w' = s.fld o' lo' w' := by
  simp only [State.fld, rd_setFld_ne _ _ _ _ _ _ h]

theorem fld_setFld_ne (s : State) (o lo w x lo' w' : Nat) (h : lo' + w' ≤ lo ∨ lo + w ≤ lo') (h64 : lo' + w' ≤ 64) :
    (s.setFld o lo w x).fld o lo' w' = s.fld o lo' w' := by
  simp only [State.fld, rd_setFld_self, bitsAt_setBits_ne _ _ _ _ _ _ h h64]

theorem fld_sat_self (s : State) (o lo w n : Nat) (h : lo + w ≤ 64) :
    (s.sat o lo w n).fld o lo w = min (2 ^ w - 1) (s.fld o lo w + n) := by
  rw [State.sat, fld_setFld_self _ _ _ _ _ h, Nat.mod_eq_of_lt]
  have := Nat.two_pow_pos w
  omega

theorem bitAt_eq (v n : Nat) : bitAt v n = v.testBit n := by
  simp [bitAt, Nat.testBit_eq_decide_div_mod_eq, beq_eq_decide]

/-! ### Memory -/

theorem byte_memWrite_out (m : SMap Byte) (b : List Byte) (a x : Nat) (h : ∀ k < b.length, (a + k) % 2 ^ 64 ≠ x) :
    smGet memDefault (memWrite m a b) x = smGet memDefault m x := by
  induction b generalizing m a with
  | nil => rfl
  | cons c t ih =>
    have h0 := h 0 (by simp)
    rw [memWrite, ih _ _ (fun k hk => by have := h (k + 1) (by simpa using hk); rwa [← Nat.add_assoc, Nat.add_right_comm] at this),
      smGet_smSet_ne]
    simpa using Ne.symm h0

/-- A write leaves every byte outside it alone. -/
theorem byte_write_out (s : State) (a x : Nat) (b : List Byte) (h : ∀ k < b.length, (a + k) % 2 ^ 64 ≠ x % 2 ^ 64) :
    (s.write a b).byte x = s.byte x := byte_memWrite_out _ _ _ _ h

/-- A read of a written byte gives the byte. -/
theorem byte_write_in (s : State) (a k : Nat) (b : List Byte) (hk : k < b.length) (hb : b.length ≤ 2 ^ 64) :
    (s.write a b).byte (a + k) = b.getD k 0 := by
  unfold State.byte State.write
  simp only
  generalize s.mem = m
  induction b generalizing m a k with
  | nil => simp at hk
  | cons c t ih =>
    rw [memWrite]
    cases k with
    | zero =>
      rw [byte_memWrite_out]
      · simp
      · intro k hk'
        simp only [List.length_cons] at hb
        omega
    | succ n =>
      have := ih (a + 1) n (by simpa using hk) (by simp only [List.length_cons] at hb; omega) (smSet memDefault m (a % 2 ^ 64) c)
      rw [Nat.add_right_comm, Nat.add_assoc a n 1] at this
      simpa using this

theorem memWrite_wf (m : SMap Byte) (a : Nat) (b : List Byte) (h : Memory.wf m = true) : Memory.wf (memWrite m a b) = true := by
  induction b generalizing m a with
  | nil => exact h
  | cons c t ih => exact ih _ _ (smSet_wf _ _ _ _ h)

/-- A write keeps the canonical form of memory. -/
theorem write_wf (s : State) (a : Nat) (b : List Byte) (h : Memory.wf s.mem = true) : Memory.wf (s.write a b).mem = true :=
  memWrite_wf _ _ _ h

/-- So does the zeroing of the window table, the other operation on memory. -/
theorem zeroWindows_wf (s : State) (h : Memory.wf s.mem = true) : Memory.wf s.zeroWindows.mem = true := smFilter_wf _ _ _ h

theorem reset_mem_wf : Memory.wf State.reset.mem = true := rfl

/-! ### Causes -/

theorem raise_eq (s : State) (c : Nat) :
    s.raise c = { s with regs := smSet regReset s.regs rEvtStatus (setBits (s.rd rEvtStatus) c 1 1), rep := (s.raise c).rep } := by
  unfold State.raise State.detect
  split
  · split <;> rfl
  · rfl

/-- The event of a cause changes EVT_STATUS alone among the registers. -/
theorem raise_rd_ne (s : State) (c o : Nat) (h : o ≠ rEvtStatus) : (s.raise c).rd o = s.rd o := by
  rw [raise_eq]
  exact rd_wr_ne s rEvtStatus o _ h

theorem raise_rd_self (s : State) (c : Nat) : (s.raise c).rd rEvtStatus = setBits (s.rd rEvtStatus) c 1 1 := by
  rw [raise_eq]
  exact rd_wr_self s rEvtStatus _

/-- Causes other than 7, 8 and 22 are no failure of the engine's own. -/
theorem raise_rep (s : State) (c : Nat) (h : c ≠ 7 ∧ c ≠ 8 ∧ c ≠ 22) : (s.raise c).rep = s.rep := by
  simp [State.raise, h]

theorem raise_28 (s : State) : s.raise 28 = s.setFld rEvtStatus 28 1 1 := rfl

theorem raise_29 (s : State) : s.raise 29 = s.setFld rEvtStatus 29 1 1 := rfl

/-! ### Watches and what settles (spec/13_control.md R392, R398) -/

theorem watchStep_eq (s : State) (k : Nat) : s.watchStep k = { s with regs := (s.watchStep k).regs } := by
  unfold State.watchStep
  simp only
  split
  · rfl
  · rfl

/-- One watch changes its own configuration and EVT_STATUS alone. -/
theorem watchStep_rd (s : State) (k o : Nat) (h1 : o ≠ rEvtStatus) (h2 : o ≠ rEvwCfg k) : (s.watchStep k).rd o = s.rd o := by
  unfold State.watchStep
  simp only
  split
  · rw [raise_28, rd_setFld_ne _ _ _ _ _ _ h1, rd_setFld_ne _ _ _ _ _ _ h2]
  · rfl

theorem foldl_watchStep_eq (l : List Nat) (s : State) : l.foldl State.watchStep s = { s with regs := (l.foldl State.watchStep s).regs } := by
  induction l generalizing s with
  | nil => rfl
  | cons k t ih => rw [List.foldl_cons, ih, watchStep_eq]

/-- Looking at the watches changes registers only. -/
theorem checkWatches_eq (s : State) : s.checkWatches = { s with regs := s.checkWatches.regs } := foldl_watchStep_eq _ _

theorem foldl_watchStep_rd (l : List Nat) (s : State) (o : Nat) (h1 : o ≠ rEvtStatus) (h2 : ∀ k ∈ l, o ≠ rEvwCfg k) :
    (l.foldl State.watchStep s).rd o = s.rd o := by
  induction l generalizing s with
  | nil => rfl
  | cons k t ih =>
    rw [List.foldl_cons, ih _ (fun j hj => h2 j (by simp [hj])), watchStep_rd _ _ _ h1 (h2 k (by simp))]

/-- Looking at the watches changes EVT_STATUS and their configurations alone. -/
theorem checkWatches_rd (s : State) (o : Nat) (h1 : o ≠ rEvtStatus) (h2 : ∀ k < 8, o ≠ rEvwCfg k) :
    s.checkWatches.rd o = s.rd o :=
  foldl_watchStep_rd _ _ _ h1 (fun k hk => h2 k (List.mem_range.mp hk))

theorem settleQuiesce_rd (s : State) (o : Nat) (h : o ≠ rEvtStatus) : s.settleQuiesce.rd o = s.rd o := by
  unfold State.settleQuiesce State.enter State.answer
  split
  · split
    · rfl
    · exact rd_setFld_ne _ _ _ _ _ _ h
  · rfl

theorem settleQuiesce_eq (s : State) :
    s.settleQuiesce = { s with regs := s.settleQuiesce.regs, ctl := { s.ctl with st := s.settleQuiesce.ctl.st, answered := s.settleQuiesce.ctl.answered } } := by
  unfold State.settleQuiesce State.enter State.answer
  split
  · split
    · rfl
    · rfl
  · rfl

/-- Outside QUIESCING only the watches are left. -/
theorem settled_eq (s : State) (h : s.ctl.st ≠ .quiescing) : s.settled = s.checkWatches := by
  simp [State.settled, State.settleQuiesce, h]

theorem settled_rd (s : State) (o : Nat) (h1 : o ≠ rEvtStatus) (h2 : ∀ k < 8, o ≠ rEvwCfg k) : s.settled.rd o = s.rd o := by
  rw [State.settled, checkWatches_rd _ _ h1 h2, settleQuiesce_rd _ _ h1]

/-- What `settled` can change. -/
theorem settled_shape (s : State) :
    s.settled = { s with regs := s.settled.regs, ctl := { s.ctl with st := s.settled.ctl.st, answered := s.settled.ctl.answered } } := by
  have h : s.settled.ctl = s.settleQuiesce.ctl := by
    unfold State.settled
    rw [checkWatches_eq]
  rw [h]
  unfold State.settled
  rw [checkWatches_eq, settleQuiesce_eq]

@[simp] theorem settled_mem (s : State) : s.settled.mem = s.mem := by rw [settled_shape]
@[simp] theorem settled_queues (s : State) : s.settled.queues = s.queues := by rw [settled_shape]
@[simp] theorem settled_ports (s : State) : s.settled.ports = s.ports := by rw [settled_shape]
@[simp] theorem settled_cmds (s : State) : s.settled.cmds = s.cmds := by rw [settled_shape]
@[simp] theorem settled_held (s : State) : s.settled.held = s.held := by rw [settled_shape]
@[simp] theorem settled_bus (s : State) : s.settled.bus = s.bus := by rw [settled_shape]
@[simp] theorem settled_staged (s : State) : s.settled.staged = s.staged := by rw [settled_shape]
@[simp] theorem settled_job (s : State) : s.settled.job = s.job := by rw [settled_shape]
@[simp] theorem settled_mbx (s : State) : s.settled.mbx = s.mbx := by rw [settled_shape]
@[simp] theorem settled_ckp (s : State) : s.settled.ckp = s.ckp := by rw [settled_shape]

/-! ### The control bus (spec/14_registers.md R401, spec/15_bringup_power.md R420) -/

theorem access_awake (s : State) (o : Nat) (f : State → State) (h : s.awake (wakeOf o) = true) : s.access o f = f s := by
  have h0 : s.ctl.resetOn = false := by
    simp only [State.awake, Bool.and_eq_true, Bool.not_eq_true'] at h
    exact h.1
  simp [State.access, h0, h]

theorem access_asleep (s : State) (o : Nat) (f : State → State) (h0 : s.ctl.resetOn = false) (h : s.awake (wakeOf o) = false) :
    s.access o f = s.busError o 2 := by
  simp [State.access, h0, h]

/-- Out of reset a command is its effect, settled. -/
theorem live_eq (s : State) (f : State → State) (h : s.ctl.resetOn = false) : s.live f = (f s).settled := by
  simp [State.live, h]

theorem live_reset (s : State) (f : State → State) (h : s.ctl.resetOn = true) : s.live f = s := by
  simp [State.live, h]

/-! ### Ports and queues -/

theorem port_setPort_self (s : State) (p : Nat) (v : Port) (h : p < 16) : (s.setPort p v).port p = v := by
  simp [State.port, State.setPort, Vector.getD, h]

theorem port_setPort_ne (s : State) (p k : Nat) (v : Port) (h : k ≠ p) : (s.setPort p v).port k = s.port k := by
  simp [State.port, State.setPort, Vector.getD, Ne.symm h]

theorem queue_setQueue_self (s : State) (q : Nat) (v : QState) (h : q < 64) : (s.setQueue q v).queue q = v := by
  simp [State.queue, State.setQueue, Vector.getD, h]

theorem queue_setQueue_ne (s : State) (q k : Nat) (v : QState) (h : k ≠ q) : (s.setQueue q v).queue k = s.queue k := by
  simp [State.queue, State.setQueue, Vector.getD, Ne.symm h]

end Sys2Proof.Machine
end

