-- ==== Sys2Proof/Laws/Settled.lean ====
section
/-! SUPPORT. After `settled` every watch has fired that had to, and QUIESCING has ended when nothing runs
(spec/13_control.md R392, R398). -/

namespace Sys2Proof.Machine

/-- What a watch depends on. -/
theorem watchSettled_congr (s t : State) (k : Nat) (hc : t.ctl.watchRead = s.ctl.watchRead) (h1 : t.rd (rEvwCfg k) = s.rd (rEvwCfg k))
    (h2 : t.rd (rEvwVal k) = s.rd (rEvwVal k)) (h3 : ∀ c < 256, t.rd (rEvc c) = s.rd (rEvc c)) :
    t.watchSettled k ↔ s.watchSettled k := by
  have hlt : bitsAt (s.rd (rEvwCfg k)).toNat 0 8 < 256 := Nat.mod_lt _ (by decide)
  unfold State.watchSettled
  rw [hc, h1, h2, h3 _ hlt]

/-- One look settles its watch. -/
theorem watchStep_settles (s : State) (k : Nat) (hk : k < 8) : (s.watchStep k).watchSettled k := by
  unfold State.watchStep
  simp only
  split
  · intro _ h9
    exfalso
    rw [raise_28, rd_setFld_ne _ _ _ _ _ _ (by simp only [rEvwCfg, rEvtStatus]; omega), rd_setFld_self, bitAt_eq,
      BitVec.testBit_toNat, getLsbD_setBits _ _ _ _ _ (by decide)] at h9
    simp at h9
  · rename_i h
    intro h8 h9 hr
    simp only [h8, h9, hr, Bool.and_eq_true, Bool.not_eq_true', decide_eq_true_eq, true_and, not_le] at h
    exact h

/-- A look at one watch leaves the others as they are. -/
theorem watchStep_other (s : State) (k j : Nat) (hk : k < 8) (hj : j < 8) (h : j ≠ k) :
    (s.watchStep k).watchSettled j ↔ s.watchSettled j := by
  apply watchSettled_congr
  · rw [watchStep_eq]
  · exact watchStep_rd _ _ _ (by simp only [rEvwCfg, rEvtStatus]; omega) (by simp only [rEvwCfg]; omega)
  · exact watchStep_rd _ _ _ (by simp only [rEvwVal, rEvtStatus]; omega) (by simp only [rEvwVal, rEvwCfg]; omega)
  · intro c hc
    exact watchStep_rd _ _ _ (by simp only [rEvc, rEvtStatus]; omega) (by simp only [rEvc, rEvwCfg]; omega)

theorem foldl_watchStep_settles (l : List Nat) (s : State) (hl : ∀ k ∈ l, k < 8) (j : Nat) (hj : j < 8)
    (h : j ∈ l ∨ s.watchSettled j) : (l.foldl State.watchStep s).watchSettled j := by
  induction l generalizing s with
  | nil => simpa using h
  | cons k t ih =>
    rw [List.foldl_cons]
    refine ih _ (fun x hx => hl x (by simp [hx])) ?_
    by_cases hjk : j = k
    · exact .inr (hjk ▸ watchStep_settles s k (hl k (by simp)))
    · rcases h with h | h
      · exact .inl (by simpa [hjk] using h)
      · exact .inr ((watchStep_other s k j (hl k (by simp)) hj hjk).mpr h)

theorem checkWatches_settles (s : State) (k : Nat) (hk : k < 8) : s.checkWatches.watchSettled k :=
  foldl_watchStep_settles _ _ (fun _ h => List.mem_range.mp h) _ hk (.inl (List.mem_range.mpr hk))

theorem settleQuiesce_settles (s : State) : s.settleQuiesce.quiesceSettled := by
  unfold State.quiesceSettled State.settleQuiesce
  split
  · intro h
    simp [State.enter, State.answer, State.raise] at h
    split at h <;> simp_all
  · rename_i h
    intro hq
    simp only [hq, List.isEmpty_iff, true_and, not_and_or, Option.isNone_iff_eq_none] at h
    exact h

theorem settled_inv (s : State) : s.settled.Inv where
  watch k hk := checkWatches_settles _ k hk
  quiesce := by
    have := settleQuiesce_settles s
    unfold State.quiesceSettled at *
    unfold State.settled
    rw [checkWatches_eq]
    exact this

end Sys2Proof.Machine
end

