-- ==== Sys2Proof/Laws/Work.lean ====
section
/-! SUPPORT. What stalls a unit's data path (spec/11_reproducibility.md R328), said once. -/

namespace Sys2Proof.Machine

/-- No unit holds the handshake of a record that waits for room, exactly when every record that waits under STALL has room. -/
theorem flows_iff (s : State) : s.flows ↔ ∀ u, s.digestHolds u = false := by
  unfold State.flows State.digestHolds
  simp only [List.any_eq_false, Bool.and_eq_true, not_and, Bool.not_eq_true, Bool.and_eq_false_imp, beq_iff_eq]
  exact ⟨fun h _ d hd hb => h d hd hb.2, fun h d hd hb => h d.unit d hd ⟨rfl, hb⟩⟩

/-- A state with no digest record waiting stalls nothing. -/
theorem flows_of_no_digests (s : State) (h : s.digests = []) : s.flows := by
  unfold State.flows; simp [h]

/-- Where no unit stalls, the work is done. -/
theorem working_of_flows (units : List Nat) (f : State → State) (s : State) (h : s.flows) : s.working units f = f s := by
  have h' := (flows_iff s).mp h
  simp [State.working, h']

/-- A unit that stalls does nothing. -/
theorem working_of_holds (unit : Nat) (f : State → State) (s : State) (h : s.digestHolds unit = true) :
    s.working [unit] f = s := by
  simp [State.working, h]

end Sys2Proof.Machine
end

