-- ==== Sys2Proof/Tests/Slice0.lean ====
section
/-! SUPPORT. Tests: an ill-formed command for each check, values that the spec gives, and for each statement with hypotheses a
state and operands that meet them. -/

namespace Sys2Proof.Tests

set_option Elab.async false

open Sys2Proof Sys2Proof.Machine

/-- Out of reset, every unit awake. -/
def up : State := { State.reset with ctl := { Ctl.reset with resetOn := false, wakeStep := 16 } }

/-- The state a command leads to; reset where it stops. -/
def after (i : Instr) (s : State) : State :=
  match exec i s with
  | .next t => t
  | _ => State.reset

/-- Memory flags each unit in a list. -/
def withBad (l : List Nat) (s : State) : State := { s with badUnits := l }

/-! ### Witnesses: reset, wake, the control inputs, time -/

def wCounter : Word := 0xFFFFFFFFFFFFFFFF

def armed : State := ((up.wr (rEvwCfg 7) 0x1FF).wr (rEvwVal 7) 5)

theorem up_inv : up.Inv := by
  refine ⟨fun k hk => ?_, fun h => absurd h (by decide)⟩
  unfold State.watchSettled
  revert k
  decide +kernel

theorem witness_StepKeepsInv : up.Inv ∧ ∃ t, step up = .next t := ⟨up_inv, up, rfl⟩

theorem witness_EventCounters : 255 < 256 ∧ armed.awake 3 = true ∧ bitsAt (armed.rd (rEvwCfg 7)).toNat 0 8 = 255
    ∧ bitAt (armed.rd (rEvwCfg 7)).toNat 8 = true ∧ bitAt (armed.rd (rEvwCfg 7)).toNat 9 = false
    ∧ armed.ctl.watchRead.getD 7 false = false ∧ (armed.rd (rEvwVal 7)).toNat ≤ (armed.rd (rEvc 255) + 5).toNat
    ∧ (4 : Word).toNat < (armed.rd (rEvwVal 7)).toNat := by decide +kernel

/-- Watch 7 has fired, and FIRED has been read. -/
def fired : State := up.wr (rEvwCfg 7) 0x3FF
def reading : State := { armed with ctl := { armed.ctl with watchRead := armed.ctl.watchRead.setIfInBounds 7 true } }

theorem witness_CounterWatches : 7 < 8
    ∧ (armed.awake 3 = true ∧ bitAt (armed.rd (rEvwCfg 7)).toNat 8 = true ∧ bitAt (armed.rd (rEvwCfg 7)).toNat 9 = false
      ∧ armed.ctl.watchRead.getD 7 false = false ∧ (armed.rd (rEvwVal 7)).toNat ≤ (5 : Word).toNat
      ∧ (4 : Word).toNat < (armed.rd (rEvwVal 7)).toNat)
    ∧ (up.awake 3 = true ∧ bitAt (up.rd (rEvwCfg 7)).toNat 8 = false)
    ∧ (fired.awake 3 = true ∧ bitAt (fired.rd (rEvwCfg 7)).toNat 9 = true)
    ∧ (reading.awake 3 = true ∧ reading.ctl.watchRead.getD 7 false = true ∧ bitAt (reading.rd (rEvwCfg 7)).toNat 8 = true
      ∧ bitAt (reading.rd (rEvwCfg 7)).toNat 9 = false) := by decide +kernel

theorem witness_Resets : State.reset.ctl.resetOn = true ∧ 99 < 100 ∧ 100 ≤ 100 := by decide +kernel

/-- The wake order before its step n, and in WAKING. -/
def waking (n : Nat) (quiesce : Bool) : State :=
  { up with ctl := { up.ctl with wakeStep := n, st := .waking, toQuiesce := quiesce } }

theorem witness_Wakes : ((waking 6 false).ctl.resetOn = false ∧ (waking 6 false).ctl.wakeStep < 16 ∧ (waking 6 false).nextWake = 7)
    ∧ ((waking 0 false).ctl.wakeStep < 16 ∧ (waking 0 false).nextWake ≠ 7)
    ∧ ((waking 15 true).ctl.wakeStep < 16 ∧ (waking 15 true).nextWake = 16 ∧ (waking 15 true).ctl.toQuiesce = true)
    ∧ ((waking 16 true).ctl.resetOn = false ∧ (waking 16 true).ctl.st = .waking ∧ (waking 16 true).ctl.wakeStep = 16) := by
  decide +kernel

def inState (st : EngState) (quiesce : Bool) : State := { up with ctl := { up.ctl with st := st, toQuiesce := quiesce } }

theorem witness_ControlInputs : up.ctl.resetOn = false ∧ (up.ctl.toQuiesce = false ∧ up.ctl.st ≠ .quiescing)
    ∧ ((inState .running false).ctl.st = .running ∧ (inState .running false).ctl.toQuiesce = false)
    ∧ ((inState .quiescing true).ctl.st = .quiescing ∧ (inState .quiescing true).ctl.toQuiesce = true)
    ∧ ((inState .quiesced true).ctl.st = .quiesced ∧ (inState .quiesced true).ctl.toQuiesce = true)
    ∧ ((inState .waking true).ctl.st = .waking ∧ (inState .waking true).ctl.toQuiesce ≠ false)
    ∧ ({ (inState .waking true) with ctl := { (inState .waking true).ctl with recorded := true } } : State).ctl.recorded = true := by
  decide +kernel

/-- The global counter is valid and shows n. -/
def timed (n : Nat) (s : State) : State := (s.wr rGcnt (BitVec.ofNat 64 n)).wr rGcntState 1

/-- Spindle runs firmware. -/
def withFirmware (s : State) : State := { s with spindle := { s.spindle with loaded := true } }

def asking : State := withFirmware { timed 1000000 up with ctl := { up.ctl with offsetReq := some 3, lastSample := 1000000 } }

theorem witness_TimeAndPower : up.awake 1 = true ∧ up.timeValid = false
    ∧ (asking.awake 1 = true ∧ asking.timeValid = true ∧ (999999 : Word).toNat < asking.ctl.lastSample.toNat
      ∧ asking.ctl.lastSample.toNat + 1000000 < (2000001 : Word).toNat)
    ∧ (asking.ctl.resetOn = false ∧ asking.ctl.offsetReq = some 3 ∧ asking.firmware = true
      ∧ asking.ctl.offsetAt + 1000000 ≤ asking.now) := by decide +kernel

/-! ### Witnesses: the control bus -/

/-- The port units are not awake yet. -/
def fabricAsleep : State := { up with ctl := { up.ctl with wakeStep := 4 } }

theorem witness_BusErrors : up.ctl.resetOn = false ∧ 0x3FFFFC < 0x400000 ∧ (8 ≠ 32 ∧ 8 ≠ 64)
    ∧ target 0x02000C (64 == 64) = .bad 1 ∧ target 0x3FFFFC (32 == 64) = .bad 3
    ∧ (fabricAsleep.ctl.resetOn = false ∧ fabricAsleep.awake (wakeOf rFabCfg) = false) := by decide +kernel

theorem witness_BusErrors_asleep : ∀ k, target rFabCfg (32 == 64) ≠ .bad k := by
  have h : target rFabCfg (32 == 64) = .regs [{ key := rFabCfg, lo := 0, n := 32, pos := 0 }] := by decide +kernel
  intro k; rw [h]; exact fun h => Target.noConfusion h

/-- A job is open. -/
def jobOpen (s : State) : State := { s with job := { s.job with isOpen := true } }

def locked : State := up.wr rLock 1

/-- One register, all of its bits. -/
def whole (k n : Nat) : Part := { key := k, lo := 0, n := n, pos := 0 }

theorem witness_RegisterWrites : target rEspCfg false = .regs [whole rEspCfg 32] ∧ plainKey rEspCfg = true
    ∧ (rowAt rEspCfg).isSome = true ∧ requestPair rEspCfg = none ∧ up.awake (wakeOf rEspCfg) = true ∧ up.job.isOpen = false
    ∧ (jobOpen up).job.isOpen = true ∧ (jobOpen up).awake (wakeOf rEspCfg) = true
    ∧ (target rFabTimers true = .regs [whole rFabTimers 64] ∧ plainKey rFabTimers = true ∧ (rowAt rFabTimers).isSome = true
      ∧ requestPair rFabTimers = none ∧ up.awake (wakeOf rFabTimers) = true)
    ∧ (target (0x200000 + 32 * rDebug) false = .single (whole rDebug 1) ∧ plainKey rDebug = true ∧ (rowAt rDebug).isSome = true
      ∧ requestPair (0x200000 + 32 * rDebug) = none ∧ locked.awake (wakeOf (0x200000 + 32 * rDebug)) = true) := by decide +kernel

/-- LGX_DEBUG lies in the second half of the pair at LGX_KEY_SLOT. -/
def keyAndDebug : List Part := [whole rKeySlot 32, { key := rDebug, lo := 0, n := 32, pos := 32 }]

/-- Pair m is busy with an operation code and body bytes. -/
def busy (m op : Nat) (body : List Byte) (s : State) : State :=
  let r := toLE op 2 ++ toLE 7 2 ++ toLE 248 1 ++ toLE 0 1 ++ toLE (complB 2 op) 2 ++ body
  ({ s with mbx := s.mbx.setIfInBounds m { Mbx.reset with request := r } } : State).setFld (rMbxState m) 0 1 1

theorem witness_RegisterWrites_more : target rKeySlot true = .regs keyAndDebug ∧ requestPair rKeySlot = none
    ∧ up.awake (wakeOf rKeySlot) = true
    ∧ target (rMbxReq 3 63) false = .regs [whole (rMbxReq 3 63) 32] ∧ requestPair (rMbxReq 3 63) = some 3
    ∧ up.awake (wakeOf (rMbxReq 3 63)) = true ∧ up.mbxBusy 3 = false ∧ (busy 3 1 [] up).mbxBusy 3 = true
    ∧ (busy 3 1 [] up).awake (wakeOf (rMbxReq 3 63)) = true := by decide +kernel

theorem witness_ReadsClear : up.Inv ∧ up.awake (wakeOf rEvtStatus) = true ∧ target rEvtStatus true = .regs [whole rEvtStatus 64]
    ∧ target (0x200000 + 32 * rEvtStatus) false = .single (whole rEvtStatus 1) ∧ up.awake (wakeOf (0x200000 + 32 * rEvtStatus)) = true
    ∧ target rKeySlot true = .regs keyAndDebug ∧ up.awake (wakeOf rKeySlot) = true := ⟨up_inv, by decide +kernel⟩

/-- The same chip of grade X4-B. -/
def gradeB : State := { up with grade := .b }

theorem witness_AbsentUnits : (∀ k < 8, gradeB.watchSettled k) ∧ gradeB.quiesceSettled
    ∧ gradeB.awake (wakeOf rCrdCfg) = true ∧ requestPair rCrdCfg = none ∧ target rCrdCfg false = .regs [whole rCrdCfg 32]
    ∧ gradeB.absentReg rCrdCfg = true ∧ gradeB.absentReg 0x046FFF = true := by
  refine ⟨fun k hk => ?_, fun h => absurd h (by decide), ?_⟩
  · unfold State.watchSettled
    revert k
    decide +kernel
  · decide +kernel

theorem witness_Lock : up.awake 1 = true ∧ up.fld rLock 0 1 = 0 ∧ locked.awake 1 = true ∧ locked.fld rLock 0 1 = 1 := by decide +kernel

def crcChecked (n : Nat) : State := up.wr rCfgCtl (BitVec.ofNat 64 n)

theorem witness_ConfigCrc : up.awake 1 = true ∧ up.fld rCfgCtl 0 1 = 0
    ∧ ((crcChecked 1).awake 1 = true ∧ (crcChecked 1).fld rCfgCtl 0 1 = 1 ∧ (crcChecked 1).fld rCfgCtl 3 1 = 0
      ∧ (crcChecked 1).fld rCfgCrc 0 32 = (0 : BitVec 32).toNat)
    ∧ ((crcChecked 9).awake 1 = true ∧ (crcChecked 9).fld rCfgCtl 0 1 = 1 ∧ (crcChecked 9).fld rCfgCtl 3 1 = 1) := by decide +kernel

theorem witness_Boundaries : up.allAwake = true ∧ 16 ≤ 16 ∧ 63 < 64
    ∧ ((up.stage rFabTimers 5 0x1FFFF).staged = [(rFabTimers, 5, 0x1FFFF)] ∧ classOf rFabTimers = .packet ∧ packetBlock rFabTimers = 16
      ∧ rFabTimers ≠ rCfgCtl ∧ rFabTimers ≠ rEvtStatus ∧ (∀ j < 8, rFabTimers ≠ rEvwCfg j) ∧ (up.stage rFabTimers 5 0x1FFFF).allAwake = true)
    ∧ ((up.stage (rQCfg 63) 5 0x1F).staged = [(rQCfg 63, 5, 0x1F)] ∧ classOf (rQCfg 63) = .descriptor ∧ queueOf (rQCfg 63) = 63
      ∧ rQCfg 63 ≠ rCfgCtl ∧ rQCfg 63 ≠ rEvtStatus ∧ (∀ j < 8, rQCfg 63 ≠ rEvwCfg j) ∧ (up.stage (rQCfg 63) 5 0x1F).allAwake = true)
    ∧ (up.wr rStagedAddr (BitVec.ofNat 64 rFabTimers)).viewed = some rFabTimers := by decide +kernel

/-- The request area of pair 3 holds the header of GET_INFO with sequence number 9. -/
def asked : State := (up.wr (rMbxReq 3 0) 0x00090001).wr (rMbxReq 3 1) 0xFFFE0000

/-- The request area of pair 3 holds the header of OPEN_JOB, and pair 0 is busy with one. -/
def askedSerial : State := (withFirmware (busy 0 0x10 [] ((up.wr (rMbxReq 3 0) 0x00090010).wr (rMbxReq 3 1) 0xFFEF0000)))

theorem witness_RegisterWriteActs : 3 < 4 ∧ asked.awake 2 = true ∧ asked.mbxBusy 3 = false
    ∧ asked.spindle.closed = false ∧ (9 : Word).toNat % 65536 = rqSeq (asked.requestArea 3)
    ∧ leAt (asked.requestArea 3) 6 2 = complB 2 (rqOpcode (asked.requestArea 3)) ∧ rqLen (asked.requestArea 3) ≤ 248
    ∧ opcodeSerial (rqOpcode (asked.requestArea 3)) ≠ some true
    ∧ (let s := askedSerial; s.awake 2 = true ∧ s.mbxBusy 3 = false ∧ s.spindle.closed = false
      ∧ (9 : Word).toNat % 65536 = rqSeq (s.requestArea 3) ∧ leAt (s.requestArea 3) 6 2 = complB 2 (rqOpcode (s.requestArea 3))
      ∧ rqLen (s.requestArea 3) ≤ 248 ∧ s.spindle.loaded = true ∧ s.spindle.halted = false
      ∧ opcodeSerial (rqOpcode (s.requestArea 3)) = some true ∧ s.serialBusy 3 = true) := by decide +kernel

/-! ### Witnesses: queues -/

/-- Queue q with a ring of 2^8 descriptors at `base`, in a state, with TAIL. -/
def queued (q base tail : Nat) (st : QSt) (s : State) : State :=
  (((s.wr (rQBase q) (BitVec.ofNat 64 base)).setFld (rQTail q) 0 32 tail)).setQueue q { s.queue q with st := st }

theorem witness_DoorbellsAndFetches : 63 < 64 ∧ up.awake 3 = true ∧ up.badDoorbell 63 0 = false ∧ up.badDoorbell 63 256 = false
    ∧ up.badDoorbell 63 257 = true
    ∧ (let s := queued 63 0x10000 9 .running { up with queues := up.queues.setIfInBounds 63 { QState.reset with nextFetch := 8 } }
      s.allAwake = true ∧ (s.queue 63).st = .running ∧ s.ringOk 63 = true
      ∧ (s.queue 63).nextFetch ≠ s.fld (rQTail 63) 0 32 ∧ sub32 (s.queue 63).nextFetch (s.fld (rQHead 63) 0 32) ≤ 8
      ∧ (s.queue 63).done.contains (s.queue 63).nextFetch = false
      ∧ s.flagged (s.descAt 63 (s.queue 63).nextFetch) 64 = false
      ∧ ({ s with badUnits := [memUnit (s.descAt 63 8)] } : State).flagged (s.descAt 63 (s.queue 63).nextFetch) 64 = true) := by decide +kernel

def failed : State := queued 63 0x10000 1 .error
  { up with queues := up.queues.setIfInBounds 63 { QState.reset with nextFetch := 1, fetched := [⟨0, List.replicate 64 0, [], none⟩] } }

theorem witness_ResumeAndAbort : 63 < 64 ∧ failed.awake 3 = true ∧ (failed.queue 63).st = .error
    ∧ (failed.queue 63).fetched = [⟨0, List.replicate 64 0, [], none⟩]
    ∧ (failed.queue 63).nextFetch = failed.fld (rQTail 63) 0 32 := by decide +kernel

theorem witness_QueueEnable : 63 < 64 ∧ up.awake 3 = true ∧ (up.queue 63).st = .disabled
    ∧ (failed.queue 63).st = .error ∧ failed.awake 3 = true ∧ (∀ e ∈ failed.staged, e.1 ≠ rQCfg 63)
    ∧ failed.inFlight 63 = 0 ∧ (failed.queue 63).fetched.any Fetched.reformed = false ∧ (failed.queue 63).enPend = false
    ∧ (let f : Fetched := { index := 0, desc := List.replicate 64 0, param := [], fail := some (stReformed, 0) };
      let s := failed.setQueue 63 { failed.queue 63 with fetched := [f] };
      (s.queue 63).st = .error ∧ (s.queue 63).fetched.any Fetched.reformed = true)
    ∧ ((queued 63 0 0 .running up).queue 63).st = .running ∧ ((queued 63 0 0 .draining up).queue 63).st = .draining := by decide +kernel

theorem witness_FabricControl : up.awake 5 = true ∧ 15 < 16 ∧ up.ctl.selfWritten = false
    ∧ ({ up with ctl := { up.ctl with selfWritten := true } } : State).ctl.selfWritten = true
    ∧ up.draining = false ∧ (up.setFld rFabEpoch 2 1 1).draining = true := by decide +kernel

/-- LGX_DEBUG.ENABLE is set. -/
def debugOn (s : State) : State := s.setFld rDebug 0 1 1

theorem witness_Instruments : up.ctl.resetOn = false ∧ up.fld rDebug 0 1 = 0
    ∧ (debugOn up).unitAbsent 0x11#32 = false
    ∧ ((debugOn up).ctl.resetOn = false ∧ (debugOn up).fld rDebug 0 1 = 1)
    ∧ ((debugOn (inState .quiesced true)).ctl.st = .quiesced ∧ (debugOn (inState .quiesced true)).job.isOpen = false
      ∧ (debugOn (inState .quiesced true)).fld rDebug 0 1 = 1)
    ∧ (15 < 16 ∧ 8 < 9 ∧ ((debugOn up).setFld (rPortCtl 15) 0 1 0).fld (rPortCtl 15) 0 1 = 0
      ∧ ((debugOn up).setFld (rPortCtl 15) 0 1 0).fld rDebug 0 1 = 1) := by decide +kernel

/-! ### Witnesses: the mailboxes -/

/-- A descriptor with its key fields in order. -/
def descOf (ty flags ctrs param : Nat) : List Byte :=
  toLE ty 1 ++ toLE (complB 1 ty) 1 ++ toLE flags 1 ++ toLE (complB 1 flags) 1 ++ toLE ctrs 2 ++ toLE (complB 2 ctrs) 2
    ++ toLE param 8 ++ List.replicate 48 0

/-- Firmware runs, and pair m holds a command. -/
def doing (m op : Nat) (body : List Byte) (s : State) : State := busy m op body (withFirmware s)

theorem witness_Response : 3 < 4 ∧ (List.replicate 248 (1 : Byte)).length ≤ 248 := by decide +kernel

theorem witness_MailboxRefusals :
    (let s := busy 3 0x10 [] up;
      mailboxOp (.openJob 3) = some (0x10, 3) ∧ 3 < 4 ∧ s.awake 2 = true ∧ s.mbxBusy 3 = true ∧ s.begun 3 = false
      ∧ s.spindle.closed = false ∧ s.spindle.halted = false ∧ rqOpcode (s.request 3) = 0x10 ∧ s.spindle.loaded = false)
    ∧ (let s := (doing 3 0x10 [] (doing 0 0x11 [] up)).setBegun 0 true;
      s.awake 2 = true ∧ s.mbxBusy 3 = true ∧ s.begun 3 = false ∧ s.spindle.closed = false ∧ s.spindle.halted = false
      ∧ rqOpcode (s.request 3) = 0x10 ∧ s.spindle.loaded = true ∧ opcodeSerial 0x10 = some true ∧ s.serialRuns 3 = true)
    ∧ (let s := doing 3 0x22 [] (inState .quiesced true);
      mailboxOp (.restore 3) = some (0x22, 3) ∧ s.awake 2 = true ∧ s.mbxBusy 3 = true ∧ s.begun 3 = false ∧ s.spindle.closed = false
      ∧ s.spindle.halted = false ∧ rqOpcode (s.request 3) = 0x22 ∧ s.spindle.loaded = true ∧ s.serialRuns 3 = false
      ∧ movesData 0x22 = true ∧ s.ctl.st = .quiesced) := by decide +kernel

theorem takes_doing : (doing 3 0x1 [] up).takes 3 0x1 ∧ (doing 3 0x2 (toLE 0x100 8) up).takes 3 0x2
    ∧ (doing 3 0x77 [] up).takes 3 0x77 := by unfold State.takes; decide +kernel

theorem witness_Queries : ((doing 3 0x1 [] up).takes 3 0x1 ∧ (doing 3 0x1 [] up).spindle.loaded = true)
    ∧ ((busy 3 0x1 [] up).takes 3 0x1 ∧ (busy 3 0x1 [] up).spindle.loaded = false)
    ∧ ((doing 3 0x2 (toLE 0x100 8) up).takes 3 0x2 ∧ rqAt ((doing 3 0x2 (toLE 0x100 8) up).request 3) 0 8 % 256 = 0
      ∧ rqAt ((doing 3 0x2 (toLE 0x100 8) up).request 3) 0 8 ≠ 0)
    ∧ ((doing 3 0x2 [] up).takes 3 0x2 ∧ rqAt ((doing 3 0x2 [] up).request 3) 0 8 = 0)
    ∧ ((doing 3 0x2 (toLE 0xFF 8) up).takes 3 0x2 ∧ rqAt ((doing 3 0x2 (toLE 0xFF 8) up).request 3) 0 8 % 256 ≠ 0)
    ∧ (let s := doing 3 0x77 [] up; 3 < 4 ∧ s.awake 2 = true ∧ s.mbxBusy 3 = true ∧ s.begun 3 = false ∧ s.spindle.closed = false
      ∧ s.spindle.halted = false ∧ opcodeSerial (rqOpcode (s.request 3)) = none) := by
  unfold State.takes; refine ⟨?_, ?_, ?_, ?_, ?_, ?_⟩ <;> decide +kernel

theorem witness_Jobs :
    (let s := doing 3 0x10 (toLE 5 8 ++ toLE 1 2 ++ toLE 0 2 ++ toLE 4095 2) up;
      s.takes 3 0x10 ∧ s.job.isOpen = false ∧ rqAt (s.request 3) 10 2 ≤ rqAt (s.request 3) 12 2 ∧ rqAt (s.request 3) 12 2 < 4096)
    ∧ (let s := doing 3 0x11 [] (jobOpen up);
      s.takes 3 0x11 ∧ (∀ k < 4, k ≠ 3 → s.begun k = false) ∧ s.job.isOpen = true
      ∧ s.cmds = [] ∧ s.drains = [] ∧ s.pends = [] ∧ s.restore = none ∧ (∀ q < 64, s.queueIdle q)) := by
  unfold State.takes State.queueIdle; decide +kernel

/-- A member table of two members in one Hedge. -/
def pairTable : List Byte :=
  toLE 2 2 ++ toLE 1 2 ++ toLE 0 2 ++ toLE (complB 2 2) 2 ++ toLE 0 8
    ++ (toLE 0 2 ++ toLE 0 2 ++ toLE 0 1 ++ toLE (complB 1 0) 1 ++ toLE 0 2)
    ++ (toLE 1 2 ++ toLE 0 2 ++ toLE 1 1 ++ toLE (complB 1 1) 1 ++ toLE 0 2)

theorem witness_Groups :
    (let s := doing 3 0x12 (toLE 0 8 ++ toLE 65535 2 ++ toLE 1 4) up;
      s.takes 3 0x12 ∧ s.cmds = [] ∧ rqAt (s.request 3) 8 2 + rqAt (s.request 3) 10 4 ≤ 65536
      ∧ s.flagged (rqAt (s.request 3) 0 8) (8 * rqAt (s.request 3) 10 4) = false
      ∧ ({ s with badUnits := [0] } : State).flagged (rqAt (s.request 3) 0 8) (8 * rqAt (s.request 3) 10 4) = true)
    ∧ (let s := doing 3 0x15 (toLE 0 2 ++ toLE 4095 2 ++ toLE 0 4 ++ toLE 0x1000 8) ((jobOpen up).write 0x1000 pairTable);
      s.takes 3 0x15 ∧ (∀ k < 4, k ≠ 3 → s.begun k = false) ∧ s.job.isOpen = true
      ∧ s.cmds = [] ∧ s.drains = [] ∧ s.outbox = [] ∧ s.pends = [] ∧ s.restore = none ∧ (∀ q < 64, s.queueIdle q)
      ∧ rqAt (s.request 3) 0 2 ≤ rqAt (s.request 3) 2 2 ∧ rqAt (s.request 3) 2 2 < 4096 ∧ rqAt (s.request 3) 4 4 = 0
      ∧ tableBad (s.read (rqAt (s.request 3) 8 8) (16 + 8 * s.readNat (rqAt (s.request 3) 8 8) 2)) = false
      ∧ s.flagged 0x1000 32 = false ∧ ({ s with badUnits := [0x10] } : State).flagged 0x1000 32 = true) := by
  unfold State.takes State.queueIdle; decide +kernel

/-- A skein of one NOP for queue 0. -/
def skeinBody : List Byte := toLE 0 8 ++ List.replicate 48 0 ++ descOf 1 0 0 0 ++ List.replicate 192 0
def skeinOne : List Byte :=
  let f := fun (c : Nat) => toLE 1 2 ++ toLE 1 2 ++ toLE c 4 ++ skeinBody
  f (crc32c (f 0)).toNat

/-- The running command at index 0 of queue 0 with a descriptor and a parameter block. -/
def cmdOf (desc param : List Byte) : Cmd := Cmd.make 0 0 desc param [] 0

/-- A running command. -/
def running (c : Cmd) (s : State) : State := { s with cmds := [c] }

/-- A program of one instruction. -/
def progOne : List Byte :=
  toLE 1 4 ++ toLE (complB 4 1) 4 ++ List.replicate 136 0 ++ toLE 0x101 4 ++ List.replicate 364 0

/-- LOAD_SKEIN of an image of 320 bytes at 0x1000. -/
def loadingSkein (img : List Byte) : State := doing 3 0x13 (toLE 0x1000 8 ++ toLE 320 4) (up.write 0x1000 img)

/-- The conditions on an image that LOAD_SKEIN tests before its check value. -/
def skeinShape (s : State) (img : List Byte) : Bool :=
  leAt img 0 2 == 1 && skeinCount img != 0 && decide (skeinCount img ≤ 4096) && decide (64 + 256 * skeinCount img ≤ rqAt (s.request 3) 8 4)
    && skeinReservedOk img && !s.skeinTablesBad img

def skeinLost (s : State) (img : List Byte) : Bool :=
  s.anyFlagged ((0x1000, 320) :: (if s.flagged 0x1000 320 then [] else s.skeinTableAreas img))

def loadedImage (s : State) : List Byte := s.read (rqAt (s.request 3) 0 8) (rqAt (s.request 3) 8 4)

set_option maxRecDepth 20000 in
theorem witness_Loads :
    (let s := loadingSkein skeinOne; let img := loadedImage s;
      s.takes 3 0x13 ∧ rqAt (s.request 3) 0 8 = 0x1000 ∧ rqAt (s.request 3) 8 4 = 320 ∧ skeinLost s img = false ∧ skeinShape s img = true
      ∧ leAt img 4 4 = (crc32c (patchB img 4 (toLE 0 4))).toNat ∧ (∀ e < skeinCount img, descFault (sliceB (skeinEntry img e) 0 64) = none)
      ∧ s.appending = false ∧ s.pends.any (fun x => x.slot.isNone) = false)
    ∧ (let s := ({ loadingSkein skeinOne with
          cmds := [cmdOf (descOf 0x19 0 0 0) []], pends := [{ slot := none, image := [], addr := 0, pair := 0 }] } : State);
      s.takes 3 0x13 ∧ s.appending = true ∧ s.pends.any (fun x => x.slot.isNone) = true)
    ∧ (let s := loadingSkein (patchB skeinOne 4 (toLE 0 4)); let img := loadedImage s; s.takes 3 0x13 ∧ skeinLost s img = false
      ∧ skeinShape s img = true ∧ leAt img 4 4 ≠ (crc32c (patchB img 4 (toLE 0 4))).toNat)
    ∧ (let s := loadingSkein []; let img := loadedImage s; s.takes 3 0x13 ∧ skeinLost s img = false ∧ skeinShape s img = false)
    ∧ (let s := withBad [0x11] (loadingSkein skeinOne); s.takes 3 0x13 ∧ skeinLost s (loadedImage s) = true) := by
  unfold State.takes; refine ⟨?_, ?_, ?_, ?_, ?_⟩ <;> decide +kernel

/-- LOAD_PROGRAM of an image at 0x1000 into a slot. -/
def loadingProgram (slot : Nat) (img : List Byte) : State :=
  doing 3 0x14 (toLE slot 1 ++ toLE 0 7 ++ toLE 0x1000 8) (up.write 0x1000 img)

set_option maxRecDepth 20000 in
theorem witness_Loads_program :
    (let s := loadingProgram 15 progOne;
      s.takes 3 0x14 ∧ rqAt (s.request 3) 0 1 = 15 ∧ rqAt (s.request 3) 1 7 = 0 ∧ rqAt (s.request 3) 8 8 = 0x1000
      ∧ s.flagged 0x1000 512 = false ∧ progOk (s.read 0x1000 512) = true ∧ s.slotNamed 15 = false)
    ∧ (let s := running { cmdOf (descOf 0x12 0 0 0) [] with own := toLE 0 12 ++ [15] } (loadingProgram 15 progOne);
      s.takes 3 0x14 ∧ s.slotNamed 15 = true)
    ∧ (let s := loadingProgram 16 progOne; s.takes 3 0x14 ∧ rqAt (s.request 3) 0 1 = 16 ∧ s.flagged 0x1000 512 = false)
    ∧ (let s := withBad [0x11] (loadingProgram 15 progOne); s.takes 3 0x14 ∧ s.flagged 0x1000 512 = true) := by
  unfold State.takes; refine ⟨?_, ?_, ?_, ?_⟩ <;> decide +kernel

/-- An image in progress. -/
def imageOf (step : Nat) : CkpImage :=
  { step := step, gen := 0, base := 0, size := 0, policy := 0, scope := 0, sections := [], length := 0, exact := true, recs := [], resid := []
    replay := 0, written := false, badTwice := false, prepared := false }

def withImage (step : Nat) (s : State) : State := { s with ckp := { s.ckp with image := some (imageOf step) } }
def appliedStep (step : Nat) (s : State) : State := { s with job := { s.job with lastStep := some step } }

theorem witness_CheckpointCommands :
    (doing 3 0x16 [] up).takes 3 0x16
    ∧ (let s := withImage 4 (doing 3 0x21 [] (jobOpen up)); s.takes 3 0x21 ∧ s.job.isOpen = true ∧ s.ckp.image = some (imageOf 4)
      ∧ (imageOf 4).badTwice = false)
    ∧ (let s := appliedStep 4 (doing 3 0x21 [] (jobOpen up)); s.takes 3 0x21 ∧ s.job.isOpen = true ∧ s.ckp.image = none
      ∧ s.job.lastStep = some 4)
    ∧ (let s := doing 3 0x20 (toLE (2 ^ 32) 8) up; s.takes 3 0x20
      ∧ ckpRefused (rqAt (s.request 3) 0 8) (rqAt (s.request 3) 8 8) (rqAt (s.request 3) 16 8) (rqAt (s.request 3) 24 8) = false
      ∧ s.job.isOpen = false ∧ (jobOpen s).takes 3 0x20 ∧ (jobOpen s).job.isOpen = true)
    ∧ (let s := doing 3 0x22 (toLE 3 1 ++ toLE 0 1 ++ toLE 0xFFFF 2) (jobOpen (up.wr rCkpPolicy (2 ^ 32)));
      s.takes 3 0x22 ∧ (∀ k < 4, k ≠ 3 → s.begun k = false) ∧ s.job.isOpen = true ∧ s.cmds = []
      ∧ s.drains = [] ∧ s.pends = [] ∧ (∀ q < 64, s.queueIdle q) ∧ rqAt (s.request 3) 0 1 < 4 ∧ rqAt (s.request 3) 1 1 = 0
      ∧ rqAt (s.request 3) 2 2 = 0xFFFF
      ∧ ∃ r ∈ s.survivors { pair := 3, startedAt := s.now, engineCause := true, migrate := true, lost := 0xFFFF, own := some s.ownInventory
                            chosen := none, source := 0, rows := [], loaded := false, served := [] },
          s.ckp.inv.any (fun y => y.1 == r) = false) := by
  unfold State.takes State.queueIdle; refine ⟨?_, ?_, ?_, ?_, ?_⟩ <;> decide +kernel

/-- The resource word of Ply lane 263 of port 15. -/
def lane263 : BitVec 32 := mkRes 2 15 263 0 false

/-- A firmware image of a header alone for key slot 0. -/
def firmwareHead : List Byte := toLE 0 4 ++ toLE 9 1 ++ toLE 3 1 ++ toLE 1 2 ++ toLE 0 4 ++ toLE 0 1 ++ toLE 0xFF 1

theorem witness_RepairAndFirmware :
    (doing 3 0x30 (toLE 0x100 8) up).takes 3 0x30
    ∧ (let s := doing 3 0x31 (toLE lane263.toNat 4) up; s.takes 3 0x31 ∧ BitVec.ofNat 32 (rqAt (s.request 3) 0 4) = lane263
      ∧ wordOkRes lane263 = true ∧ s.unitAbsent lane263 = false ∧ s.freeSpare (resType lane263) (resUnit lane263) = some 0
      ∧ resType lane263 ≠ 5 ∧ resType lane263 ≠ 6
      ∧ s.flagged 0 1 = false
      ∧ ({ s with rep := { s.rep with inUse := (List.range 8).map (fun k => mkRes 2 15 k k true) } } : State).freeSpare
          (resType lane263) (resUnit lane263) = none)
    ∧ (let s := doing 3 0x32 [] up; s.job.isOpen = false ∧ s.takes 3 0x32
      ∧ (s.readMap (s.fld rRepMapBase 16 48 * 65536) 8192).2 = true
      ∧ ((s.write 4 (toLE 0xFFFFFFFF 4)).readMap (s.fld rRepMapBase 16 48 * 65536) 8192).2 = false)
    ∧ (let s := doing 3 0x40 (toLE 0x1000 8 ++ toLE 256 4) (up.write 0x1000 firmwareHead);
      let h := s.read (rqAt (s.request 3) 0 8) 256;
      s.takes 3 0x40 ∧ rqAt (s.request 3) 8 4 = 256 + leAt h 8 4 ∧ byteAt h 12 = s.fld rKeySlot 0 2
      ∧ byteAt h 13 = complB 1 (byteAt h 12) ∧ byteAt h 5 = 3 ∧ s.spindle.best ≤ leAt h 6 2) := by
  unfold State.takes; refine ⟨?_, ?_, ?_, ?_⟩ <;> decide +kernel

theorem witness_Heartbeats : up.awake 2 = true ∧ up.spindle.halted = false
    ∧ (let s := doing 3 0x16 [] (timed 100000000 up); s.awake 2 = true ∧ s.timeValid = true ∧ s.spindle.closed = false
      ∧ s.spindle.lastBeat + 100000000 ≤ s.now ∧ s.mbxBusy 3 = true ∧ s.mbxBusy 0 = false) := by decide +kernel

/-! ### Witnesses: links, packets and chunks -/

/-- Port p in a link state. -/
def linked (p : Nat) (l : Link) (s : State) : State := s.setPort p { s.port p with link := l }

/-- The chip's address has been written. -/
def addressed (s : State) : State := { s with ctl := { s.ctl with selfWritten := true } }

theorem witness_LinksAndLanes : 15 < 16 ∧ up.awake 5 = true
    ∧ ((addressed up).port 15).link = .down ∧ (addressed up).mayStart 15 = true ∧ (addressed up).awake 5 = true
    ∧ up.mayStart 15 = false ∧ ((linked 15 .up up).port 15).link ≠ .down ∧ 8 < 9 := by decide +kernel

/-- Port 15 has waited for a sync flit for 10 µs. -/
def resyncing : State := timed 10000 (linked 15 .resync up)

theorem witness_Resynchronises : ((linked 15 .up up).port 15).link = .up
    ∧ (linked 15 .up up).awake 5 = true
    ∧ ((resyncing.port 15).link = .resync ∧ (resyncing.port 15).sawSync = false ∧ resyncing.timeValid = true
      ∧ (resyncing.port 15).resyncAt + 1000 * resyncing.fld rFabTimers 37 10 ≤ resyncing.now)
    ∧ ((linked 0 .start up).port 0).link = .start := by decide +kernel

def auditOf (tx : List Nat) : List Byte :=
  let t := tx.flatMap (fun x => toLE x 2)
  t ++ toLE (complB 8 (leNat t)) 8

theorem witness_Audits : leAt (auditOf [0, 0, 0, 0]) 8 8 = complB 8 (leAt (auditOf [0, 0, 0, 0]) 0 8)
    ∧ (let s := ({ linked 15 .start up with ports := (linked 15 .start up).ports.setIfInBounds 15 { Port.reset with link := .start, sawSync := true } } : State);
      (s.port 15).link = .start ∧ (s.port 15).sawSync = true ∧ leAt (auditOf [0, 0, 0, 0]) 0 8 = 0 ∧ s.awake 5 = true)
    ∧ (let s := linked 15 .up up; let x := s.port 15; let l := lostOf x [512, 48, 48, 32];
      leAt (auditOf [512, 48, 48, 32]) 8 8 = complB 8 (leAt (auditOf [512, 48, 48, 32]) 0 8)
      ∧ (List.range 4).map (fun v => leAt (auditOf [512, 48, 48, 32]) (2 * v) 2) = [512, 48, 48, 32] ∧ x.link = .up
      ∧ (List.range 4).any (fun v => decide (vcSize v < l.getD v 0)
        || decide ((x.rx.getD v 0 + 65536 - x.free.getD v 0) % 65536 ≠ s.heldFlits 15 v % 65536)) = false)
    ∧ (let s := linked 15 .up up; let x := s.port 15; let l := lostOf x [513, 0, 0, 0];
      (List.range 4).any (fun v => decide (vcSize v < l.getD v 0)
        || decide ((x.rx.getD v 0 + 65536 - x.free.getD v 0) % 65536 ≠ s.heldFlits 15 v % 65536)) = true) := by decide +kernel

/-- A credit-return flit that frees nothing. -/
def creditFlit : List Byte := (LinkUnit.credit [1, 2, 3, 4] false).wire

/-- A credit-return flit that asks for a resynchronisation. -/
def askingFlit : List Byte := (LinkUnit.credit [1, 2, 3, 4] true).wire

def goodFlit (b : List Byte) : Prop :=
  b.length = 256 ∧ byteAt b 0 = 0xC5 ∧ byteAt b 1 < 2 ∧ leAt b 10 8 = complB 8 (leAt b 2 8)
    ∧ (∀ k < 234, byteAt b (18 + k) = 0) ∧ leAt b 252 4 = (crc32c (b.take 252)).toNat

set_option maxRecDepth 20000 in
theorem witness_CreditsAndTimers_flits : goodFlit creditFlit ∧ goodFlit askingFlit ∧ bitAt (byteAt askingFlit 1) 0 = true
    ∧ bitAt (byteAt creditFlit 1) 0 = false ∧ ¬ goodFlit (List.replicate 256 0)
    ∧ leAt (List.replicate 256 0) 252 4 ≠ (crc32c ((List.replicate 256 0).take 252)).toNat := by
  unfold goodFlit; refine ⟨?_, ?_, ?_, ?_, ?_, ?_⟩ <;> decide +kernel

theorem witness_CreditsAndTimers : ((linked 15 .up up).port 15).link = .up ∧ (linked 15 .up up).awake 5 = true
    ∧ ((linked 15 .resync up).port 15).link = .resync ∧ ((linked 15 .start up).port 15).link = .start
    ∧ ((linked 15 .up up).port 15).freeDirty = false ∧ ((linked 15 .up up).port 15).peerResync = false
    ∧ (let s := timed 1000000 (up.setPort 15 { Port.reset with link := .up, freeDirty := true, peerResync := true });
      (s.port 15).link = .up ∧ s.awake 5 = true ∧ (s.port 15).freeDirty = true ∧ (s.port 15).peerResync = true
      ∧ (s.port 15).syncAt + 1000 ≤ s.now ∧ s.timeValid = true ∧ (s.port 15).auditAt + 1000 * s.fld rFabTimers 17 10 ≤ s.now)
    ∧ (let s := timed 999 (linked 15 .up up); s.now < (s.port 15).syncAt + 1000
      ∧ s.now < (s.port 15).auditAt + 1000 * s.fld rFabTimers 17 10) := by
  refine ⟨?_, ?_, ?_, ?_, ?_, ?_, ?_, ?_⟩ <;> decide +kernel

/-- A header of a test packet with no payload. -/
def testHdr (phys epoch : Nat) : Hdr :=
  { kind := 0x21, vc := 3, epoch := epoch, route := 3, fence := false, mcast := false, len := 0, resend := false, src := 1, dst := 0
    phys := phys, via := 0, viaValid := false, rowDir := false, mask := 0, pkt := 0, pkts := 1, rep := 0, job := 0, ring := 0, seq := 0
    offset := 0, hop := 0, contrib := 0, check := 0 }

def testPkt : Pkt := { hdr := testHdr 0 0, payload := [] }
def testBytes : List Byte := hdrBytes (testHdr 0 0) [0, 0, 0, 0] true
def auditHdr : List Byte := hdrBytes { testHdr 0 0 with kind := 0x18, len := 16 } [0, 0, 0, 0] false

/-- The rank table gives rank 0 an address, as a table entry. -/
def rankEntry (a : Nat) : Word := BitVec.ofNat 64 (a + 2 ^ 20 + complB 4 (a + 2 ^ 20) * 2 ^ 32)

theorem witness_Receives : 15 < 16 ∧ (linked 15 .up up).awake 5 = true ∧ ((linked 15 .up up).port 15).link = .up
    ∧ hdrOk (List.replicate 64 0) = false ∧ (hdrOk auditHdr = true ∧ (parseHdr auditHdr).kind = 0x18)
    ∧ (hdrOk testBytes = true ∧ (parseHdr testBytes).kind ≠ 0x18) := by decide +kernel

/-- A VC0 packet by table, and a multicast vote. -/
def byTable : Hdr := { testHdr 9 0 with kind := 1, vc := 0, route := 1 }
def toAll (phys mask : Nat) : Hdr := { testHdr phys 0 with kind := 0x11, vc := 1, mcast := true, mask := mask }
def routed (v : Nat) : State := up.wr (rFabRoute 0 0) (BitVec.ofNat 64 (v + complB 2 v * 65536))

theorem witness_Receives_routes : up.epochLive 1 = false ∧ up.epochLive 0 = true
    ∧ (testHdr 5 0).mcast = false ∧ (testHdr 5 0).vc ≠ 0 ∧ (testHdr 5 0).phys ≠ up.selfPhys
    ∧ ((toAll 9 2).mcast = true ∧ (toAll 9 2).phys ≠ up.selfPhys ∧ ¬ ((toAll 9 2).phys / 8 = up.selfHedge ∧ (toAll 9 2).mask = 2 ^ up.selfPos))
    ∧ ((testHdr 0 0).phys = up.selfPhys ∧ (up.wr (rRank 0) (rankEntry 0)).xlat 0 = .ok up.selfPhys ∧ up.xlat 0 = .bad
      ∧ (up.wr (rRank 0) (rankEntry 7)).xlat 0 = .ok 7 ∧ 7 ≠ up.selfPhys
      ∧ (up.wr (rRank 0) 0xFFFFFFFF00000000).xlat 0 = .invalid)
    ∧ (byTable.mcast = false ∧ byTable.vc = 0 ∧ byTable.route = 1 ∧ up.routeEntry 0 0 = none
      ∧ (routed 0x30).routeEntry 0 0 = some (0, true) ∧ (routed 0x2F).routeEntry 0 0 = some (15, false))
    ∧ ((toAll 3 1).mcast = true ∧ (toAll 3 1).phys ≠ up.selfPhys ∧ (toAll 3 1).phys / 8 = up.selfHedge ∧ (toAll 3 1).mask = 2 ^ up.selfPos)
    ∧ ((toAll 0 3).phys = up.selfPhys ∧ bitAt (toAll 0 3).mask up.selfPos = true ∧ bitAt (toAll 0 2).mask up.selfPos = false) := by decide +kernel

/-- A held chunk of a kind, and an empty packet of a command. -/
def chunkOfKind (kind src seq : Nat) (payload : List Byte) : Held :=
  { pkts := [{ hdr := { testHdr 0 0 with kind := kind, src := src, seq := seq, len := payload.length }, payload := payload }], port := 0 }

theorem witness_AssemblesAndAccepts : testPkt.hdr.pkts = 1 ∧ up.hasRoom 0 testPkt.hdr = true
    ∧ up.partials.find? (fun a => sameChunk a.first testPkt.hdr) = none
    ∧ (crc64 testPkt.payload).toNat = testPkt.hdr.check ∧ testPkt.hdr.kind ≠ 0x20
    ∧ (windowed testPkt.hdr && up.isDuplicate testPkt.hdr.src testPkt.hdr.seq) = false
    ∧ up.held.any (fun x => sameChunk x.hdr testPkt.hdr) = false
    ∧ (crc64 [1]).toNat ≠ testPkt.hdr.check
    ∧ (let s := up.writeNat (up.winAt 1) 4 1; (windowed testPkt.hdr && s.isDuplicate 1 0) = true ∧ s.hasRoom 0 testPkt.hdr = true)
    ∧ (chunkOfKind 0x21 1 0 []).hdr.kind ≠ 0x10 ∧ windowed (chunkOfKind 0x10 1 0 []).hdr = false := by decide +kernel

def outOf (dst : Nat) (seq : Option Nat) : OutChunk :=
  { pkts := [{ testPkt with hdr := { testHdr 0 0 with dst := dst, seq := seq.getD 0 } }], seq := seq, owner := none, copy := false
    retained := true, port := 16, keptAt := 16, sentAt := 0, mem := [], near := [] }

theorem witness_ChunkTimeouts :
    (let a : Assembly := { first := testHdr 0 0, parts := [], port := 15, since := 0 };
      let s := timed 40000 { up with partials := [a], outbox := [outOf 65535 (some 0)] };
      s.ctl.resetOn = false ∧ s.timeValid = true
      ∧ s.partials.find? (fun a => a.first.src == 1 && a.first.seq == 0 && a.first.mcast == false) = some a
      ∧ a.since + s.fld rFabTimeout 0 24 ≤ s.now
      ∧ s.outbox.find? (fun c => c.seq == some 0 && c.mc == false && (false || c.dst == 65535)) = some (outOf 65535 (some 0))
      ∧ (outOf 65535 (some 0)).sentAt + s.fld rFabTimeout 0 24 ≤ s.now ∧ (outOf 65535 (some 0)).retained = true)
    ∧ (let c := { outOf 65535 (some 0) with retained := false, copy := true, mem := [[(0x1000, 4)]] };
      let s := timed 40000 { up with outbox := [c] };
      s.outbox.find? (fun c => c.seq == some 0 && c.mc == false && (false || c.dst == 65535)) = some c ∧ c.retained = false
      ∧ c.flagged s = false ∧ c.flagged (withBad [0x10] s) = true) := by refine ⟨?_, ?_⟩ <;> decide +kernel

def waitingPkt (h : Hdr) (inPort : Option Nat) (pinned : Option Nat) : TxPkt :=
  { pkt := { hdr := h, payload := [] }, inPort := inPort, heldVc := h.vc, pinned := pinned, since := 0 }

/-- Two Hedges, with this chip at position 0 of the first, and packet t in the Router. -/
def inRouter (t : TxPkt) (s : State) : State := { s with txq := [t] }

/-- A partial sum that this chip holds for a resend, when the retain buffer of port 0 is full of another. -/
def fullAt0 (s : State) : State :=
  let s := s.setFld (rPortCfg 0) 0 13 1
  { s with outbox := [{ outOf 9 (some 0) with keptAt := 0 }, outOf 1 (some 0)] }

theorem witness_Forwards : up.ctl.resetOn = false
    ∧ (let t := waitingPkt (testHdr 1 1) none none; (inRouter t up).txq[0]? = some t ∧ (inRouter t up).epochLive 1 = false)
    ∧ (let t := waitingPkt (testHdr 1 0) (some 3) none; let s := inRouter t (linked 0 .up up);
      s.ctl.resetOn = false ∧ s.txq[0]? = some t ∧ s.epochLive t.pkt.hdr.epoch = true ∧ s.nextHop t = .send 0 ∧ s.isUp 0 = true
      ∧ charge 0 ≤ (s.port 0).credit 3 ∧ t.inPort.isSome = true ∧ s.retainFor t 0 = some s)
    ∧ (let t := waitingPkt { testHdr 1 0 with dst := 1 } none none; let s := fullAt0 (inRouter t (linked 0 .up up));
      s.txq[0]? = some t ∧ s.nextHop t = .send 0 ∧ s.isUp 0 = true ∧ charge 0 ≤ (s.port 0).credit 3 ∧ s.retainFor t 0 = none)
    ∧ (let t := waitingPkt (testHdr 1 0) none none; let s := inRouter t (up.setPort 0 { Port.reset with link := .up, tx := #v[0, 0, 0, 32] });
      s.nextHop t = .send 0 ∧ s.isUp 0 = true ∧ (s.port 0).credit 3 < charge 0)
    ∧ (let t := waitingPkt { byTable with phys := 1, route := 2 } none (some 0); let s := inRouter t up;
      s.nextHop t = .send 0 ∧ s.isUp 0 = false ∧ t.pkt.hdr.route = 2 ∧ s.epochLive t.pkt.hdr.epoch = true)
    ∧ (let t := waitingPkt (testHdr 8 0) none none; (inRouter t up).nextHop t = .drop)
    ∧ (let t := waitingPkt { byTable with phys := 1 } none none; (inRouter t up).nextHop t = .tableErr)
    ∧ (let t := waitingPkt { byTable with phys := 1, route := 0 } none none; (inRouter t up).nextHop t = .escape)
    ∧ (let t := waitingPkt { byTable with phys := 1 } none none; (inRouter t (routed 0x30)).nextHop t = .deliver 0)
    ∧ (let t := waitingPkt { byTable with phys := 1 } none none;
      let s := timed 1000 (inRouter t ((routed 0x20).setPort 0 { Port.reset with link := .up, tx := #v[512, 0, 0, 0] }));
      s.timeValid = true ∧ t.pkt.hdr.vc = 0 ∧ s.lacksCredit t = true ∧ t.since + s.fld rFabTimers 0 17 ≤ s.now) := by
  refine ⟨?_, ?_, ?_, ?_, ?_, ?_, ?_, ?_, ?_, ?_, ?_⟩ <;> decide +kernel

theorem witness_HoldEnds :
    (let s := timed 5 (({ up with outbox := [outOf 65535 none], holdUntil := 5 } : State).wr (rRank 65535) (rankEntry 1)); let c := outOf 65535 none;
      s.ctl.resetOn = false ∧ s.timeValid = true ∧ s.holdUntil ≤ s.now ∧ s.outbox = [c] ∧ c.seq = none
      ∧ c.mc = false ∧ s.maySend c = true ∧ s.xlat c.dst = .ok 1
      ∧ (s.wr (rRank 65535) 0xFFFFFFFF00000000).xlat c.dst = .invalid)
    ∧ (let s := timed 4 { up with holdUntil := 5 }; s.ctl.resetOn = false ∧ s.timeValid = true ∧ s.now < s.holdUntil)
    ∧ (let c : OutChunk := { outOf 1 none with pkts := [{ hdr := { testHdr 0 0 with mcast := true }, payload := [] }] };
      let s := timed 5 { up with outbox := [c] }; s.holdUntil ≤ s.now ∧ s.outbox = [c] ∧ c.seq = none ∧ c.mc = true)
    ∧ (let c := outOf 65535 none; let s := timed 5 (({ up with outbox := [c, c] } : State).writeNat (up.winAt 65535 + 36) 4 256);
      s.timeValid = true ∧ s.holdUntil ≤ s.now ∧ s.outbox = c :: [c] ∧ s.maySend c = false ∧ c.seq = none ∧ c.mc = false)
    ∧ (∀ c ∈ [outOf 65535 (some 7)], c.seq.isSome = true) := by
  refine ⟨?_, ?_, ?_, ?_, ?_⟩ <;> decide +kernel

/-- An ACK of nothing, by CUM and one listed chunk. -/
def ackBytes (cum flag seq : Nat) : List Byte := toLE cum 4 ++ toLE 1 1 ++ toLE flag 1 ++ toLE 0 2 ++ toLE seq 4 ++ List.replicate 52 0

def holding (h : Held) (s : State) : State := { s with held := [h] }

theorem witness_Acknowledges :
    (let h := chunkOfKind 0x21 65535 255 []; let s := holding h up;
      s.ctl.resetOn = false ∧ s.heldChunk 0x21 65535 255 false = some h ∧ s.passable h = true)
    ∧ (let h := chunkOfKind 0x10 1 0 (ackBytes 1 0 5); (holding h up).heldChunk 0x10 1 0 false = some h ∧ h.payload.length = 64
      ∧ byteAt h.payload 4 ≤ 14 ∧ byteAt h.payload 5 < 2 ∧ leAt h.payload 6 2 = 0 ∧ byteAt h.payload 5 = 0)
    ∧ (let h := chunkOfKind 0x10 1 0 (ackBytes 1 1 5); (holding h up).heldChunk 0x10 1 0 false = some h ∧ byteAt h.payload 5 = 1)
    ∧ (let s := ({ up with ackDue := [{ src := 0, seq := 3, mc := false }] } : State).wr (rRank 0) (rankEntry 5);
      (s.ackDue.filter (fun a => a.src == 0 && a.mc == false)).take 14 ≠ [] ∧ s.xlat 0 = .ok 5) := by
  refine ⟨?_, ?_, ?_, ?_⟩ <;> decide +kernel

theorem witness_EpochsRetire :
    (let s := timed 1000000 (withFirmware (up.setFld rFabEpoch 2 1 1)); s.awake 5 = true ∧ s.draining = true
      ∧ (∀ m < 4, s.begun m = false) ∧ s.firmware = true ∧ s.fld rFabEpoch 3 1 = 0 ∧ s.timeValid = true
      ∧ s.epochAt + 1000 * s.fld rFabTimers 47 14 ≤ s.now)
    ∧ (let s := withFirmware (up.setFld rFabEpoch 2 2 3); s.draining = true ∧ s.fld rFabEpoch 3 1 = 1 ∧ s.firmware = true)
    ∧ up.dateWait = none ∧ ({ up with dateWait := some 5 } : State).dateWait = some 5 := by decide +kernel

/-! ### Witnesses: descriptors -/

/-- A collective parameter block: sources, table, elements, key fields, peer and tag. -/
def blockOf (src dst table elements step key rankBase hedges peer tag compress bucket : Nat) : List Byte :=
  toLE src 8 ++ toLE dst 8 ++ toLE 0 24 ++ toLE table 8 ++ toLE elements 8 ++ toLE step 6 ++ toLE 0 2 ++ toLE 0 8 ++ toLE key 4
    ++ toLE (complB 4 key) 4 ++ toLE rankBase 2 ++ toLE hedges 2 ++ toLE peer 2 ++ toLE tag 2 ++ toLE 0 2 ++ toLE compress 1 ++ toLE 0 1
    ++ toLE 0 4 ++ toLE 0 4 ++ toLE 0 8 ++ toLE 0 8 ++ toLE bucket 4 ++ toLE 0 8

/-- A SEND of one element of format 1 to rank 1 under identifier 3. -/
def sendBlock : List Byte := blockOf 0x1000 0x2000 0 1 5 (3 + 1 * 2 ^ 24 + 1 * 2 ^ 28) 0 0 1 0 0 0

def fetchedOf (desc param : List Byte) : Fetched := { index := 0, desc := desc, param := param, fail := none }

/-- Queue 63 runs, with a fetched descriptor at HEAD. -/
def fetched63 (f : Fetched) (s : State) : State :=
  s.setQueue 63 { QState.reset with st := .running, fetched := [f], nextFetch := 1 }

/-- A running state with a fetched command of a type, and the state that its start sees. -/
def starting (ty : Nat) (param : List Byte) (s : State) : State := fetched63 (fetchedOf (descOf ty 0 0 0x100) param) s

/-- What CollectivesStart asks of a start with status `y`: the state after the step boundary and the configuration gate. -/
def startsWith (ty : Nat) (param : List Byte) (s : State) (y : Option (Nat × Nat)) : Bool :=
  let f := fetchedOf (descOf ty 0 0 0x100) param
  let step := (Cmd.make 63 f.index f.desc f.param [] s.now).step
  let s1 := if s.stepCur < step then s.stepBoundary step else s
  let s2 := s1.cfgGate.2
  s.nextDesc 63 == some f && dType f.desc == ty && s.mayStartDesc 63 f && s.job.isOpen
    && s.jobState (leAt f.param 72 2 % 4096) == 0 && s1.cfgGate.1
    && (match s2.bankFor step with | some bank => (s2.startFail (s2.loadCmd 63 f bank)).1 == y | none => false)

/-- A RECV of one element of format 1 from rank 1 under identifier 3, with room for it. -/
def recvBlock : List Byte :=
  patchB (blockOf 0x1000 0x2000 0 1 0 (3 + 1 * 2 ^ 24 + 1 * 2 ^ 28) 0 0 1 7 0 0) 100 (toLE 64 8)

theorem witness_CollectivesStart : startsWith 0x16 sendBlock (starting 0x16 sendBlock (jobOpen up)) none = true
    ∧ startsWith 0x17 recvBlock (starting 0x17 recvBlock (jobOpen up)) none = true
    ∧ (let b := blockOf 0x1000 0x2000 0x4000 64 0 (4095 + 1 * 2 ^ 24 + 1 * 2 ^ 28) 0 0 0 0 0 0;
      startsWith 0x13 b (starting 0x13 b ((jobOpen up).write 0x4000 pairTable)) none = true)
    ∧ (let b := blockOf 0x1000 0x2000 0x4000 64 0 (4095 + 1 * 2 ^ 24 + 1 * 2 ^ 28) 0 0 0 0 0 0;
      startsWith 0x13 b (starting 0x13 b (jobOpen up)) none = false)
    ∧ (let f := fetchedOf (descOf 0x16 0 0 0x100) sendBlock; let s := fetched63 f up;
      s.nextDesc 63 = some f ∧ dType f.desc = 0x16 ∧ s.mayStartDesc 63 f = true ∧ s.job.isOpen = false)
    ∧ (let f := fetchedOf (descOf 0x16 0 0 0x100) sendBlock; let s := (fetched63 f (jobOpen up)).setJobState 3 2;
      s.nextDesc 63 = some f ∧ s.mayStartDesc 63 f = true ∧ s.job.isOpen = true ∧ s.jobState (leAt f.param 72 2 % 4096) = 2)
    ∧ (let f := fetchedOf (descOf 0x16 0 0 0x100) recvBlock; let s := fetched63 f (jobOpen (crcChecked 9));
      s.nextDesc 63 = some f ∧ s.mayStartDesc 63 f = true ∧ s.job.isOpen = true ∧ s.jobState (leAt f.param 72 2 % 4096) = 0
      ∧ s.cfgGate.1 = false)
    ∧ (let f := fetchedOf (descOf 0x16 0 0 0x100) sendBlock; let s := ({ fetched63 f (jobOpen up) with stepCur := 9 } : State);
      s.nextDesc 63 = some f ∧ s.mayStartDesc 63 f = true ∧ s.cfgGate.1 = true
      ∧ s.cfgGate.2.bankFor (Cmd.make 63 f.index f.desc f.param [] s.now).step = none) := by
  refine ⟨?_, ?_, ?_, ?_, ?_, ?_, ?_, ?_⟩ <;> decide +kernel

/-- A start that fails its checks: the member table in memory is all zeros. -/
theorem witness_CollectivesStart_fails :
    (let f := fetchedOf (descOf 0x13 0 0 0x100) (blockOf 0x1000 0x2000 0x4000 64 0 (4095 + 1 * 2 ^ 24 + 1 * 2 ^ 28) 0 0 0 0 0 0);
      let s := fetched63 f (jobOpen up);
      s.nextDesc 63 = some f ∧ s.mayStartDesc 63 f = true ∧ s.job.isOpen = true ∧ s.jobState (leAt f.param 72 2 % 4096) = 0
      ∧ s.cfgGate.1 = true ∧ s.cfgGate.2.bankFor 0 = some [] ∧ (s.cfgGate.2.startFail (s.cfgGate.2.loadCmd 63 f [])).1.isSome = true) := by
  decide +kernel

/-- A row block: one row of one float32 score at 0x1000, the record to 0x2000, the largest. -/
def rowBlock : List Byte :=
  toLE 0x1000 8 ++ toLE 0x2000 8 ++ toLE 0x3000 8 ++ toLE 1 4 ++ toLE 1 4 ++ toLE 4 4 ++ toLE 0 1 ++ toLE 1 1 ++ toLE 0 2
    ++ toLE 0x3F800000 4 ++ toLE 0x3F800000 4 ++ toLE 0 48

/-- A formed record of a unit. -/
def digestFor (unit cfg : Nat) : DigestRec := { bytes := List.replicate 40 0, unit := unit, q := 0, i := 0, base := 0x4000, cfg := cfg }

/-- A TOPIARY_ROW behind its block at 0x100, whose scores are at 0x1000. -/
def rowing (b : List Byte) (s : State) : State := starting 0x20 [] (s.write 0x100 b)
def plainDesc (ty : Nat) : Fetched := fetchedOf (descOf ty 0 0 0x100) []

theorem witness_PlainCommandsRun_rows :
    (let s := fetched63 (plainDesc 1) up; s.startable 0x01 63 (plainDesc 1))
    ∧ (let s := rowing rowBlock up; let tb := s.rowBlock (plainDesc 0x20).desc; s.startable 0x20 63 (plainDesc 0x20)
      ∧ s.cfgGate.1 = true ∧ s.flagged 0x100 96 = false ∧ tpCheck tb = none ∧ tpK tb ≤ s.kMax ∧ tpRows tb = 1 ∧ tpCounts tb = false
      ∧ leAt tb 0 8 = 0x1000 ∧ tpStride tb = 4 ∧ tpRowLen tb = 1 ∧ tpBf16 tb = false ∧ s.flagged 0x1000 4 = false
      ∧ (withBad [0x10] s).startable 0x20 63 (plainDesc 0x20) ∧ (withBad [0x10] s).flagged 0x100 96 = false ∧ (withBad [0x10] s).flagged 0x1000 4 = true
      ∧ (withBad [1] s).flagged 0x100 96 = true)
    ∧ (let s := rowing [] up; s.startable 0x20 63 (plainDesc 0x20) ∧ (tpCheck (s.rowBlock (plainDesc 0x20).desc)).isSome = true)
    ∧ (let s := ({ rowing (patchB rowBlock 37 [16]) up with grade := .c } : State); let tb := s.rowBlock (plainDesc 0x20).desc;
      s.startable 0x20 63 (plainDesc 0x20) ∧ tpCheck tb = none ∧ s.kMax < tpK tb)
    ∧ (let s := rowing rowBlock (crcChecked 9); s.startable 0x20 63 (plainDesc 0x20) ∧ s.cfgGate.1 = false) := by
  unfold State.startable; refine ⟨?_, ?_, ?_, ?_, ?_⟩ <;> decide +kernel

/-- A TOPIARY_MERGE behind its block at 0x100: n lists whose addresses are at 0, and flags. -/
def merging (n flags rest : Nat) (s : State) : State :=
  starting 0x21 [] (s.write 0x100 (toLE 0 8 ++ toLE 0x2000 8 ++ toLE n 4 ++ toLE flags 1 ++ toLE rest 43))
def mergeBlock (s : State) : List Byte := s.read 0x100 64

theorem witness_PlainCommandsRun_merges :
    (let s := merging 1 0 0 (jobOpen up); let b := mergeBlock s; s.startable 0x21 63 (plainDesc 0x21) ∧ s.cfgGate.1 = true
      ∧ s.job.isOpen = true ∧ leAt b 16 4 = 1 ∧ byteAt b 20 < 2 ∧ leAt b 21 43 = 0 ∧ s.flagged 0x100 64 = false ∧ s.listsFlagged b = false
      ∧ s.grade ≠ .c ∧ mergeAgrees (s.mergeInputs b) = true
      ∧ (withBad [0] s).listsFlagged b = true ∧ (withBad [0] s).flagged 0x100 64 = false ∧ (withBad [1] s).flagged 0x100 64 = true)
    ∧ (let s := merging 65536 2 0 (jobOpen up); let b := mergeBlock s; s.startable 0x21 63 (plainDesc 0x21) ∧ leAt b 16 4 = 65536 ∧ byteAt b 20 = 2)
    ∧ (let s := merging 65537 0 0 (jobOpen up); leAt (mergeBlock s) 16 4 = 65537)
    ∧ (let s := merging 1 1 1 (jobOpen up); let b := mergeBlock s; byteAt b 20 = 1 ∧ leAt b 21 43 ≠ 0)
    ∧ (let s := merging 1 0 0 up; s.startable 0x21 63 (plainDesc 0x21) ∧ s.job.isOpen = false)
    ∧ (let s := ({ merging 1 0 0 (jobOpen (up.write 0x30004 [16])) with grade := .c } : State).write 0 (toLE 0x30000 8);
      s.startable 0x21 63 (plainDesc 0x21) ∧ (s.mergeInputs (mergeBlock s)).any (fun r => decide (s.kMax < r.k)) = true)
    ∧ (let s := (merging 2 0 0 (jobOpen (up.write 0x30004 [1]))).write 8 (toLE 0x30000 8);
      s.startable 0x21 63 (plainDesc 0x21) ∧ mergeAgrees (s.mergeInputs (mergeBlock s)) = false) := by
  unfold State.startable; refine ⟨?_, ?_, ?_, ?_, ?_, ?_, ?_⟩ <;> decide +kernel

/-- A fold of a bucket of no elements from 0x1000 in RES16, and its entry. -/
def foldBlock : List Byte := toLE 0x1000 8 ++ toLE 2 1 ++ toLE (complB 1 2) 1 ++ toLE 0 54
def foldEntry : List Byte := toLE 0 22 ++ toLE 2 1 ++ toLE (complB 1 2) 1 ++ toLE 0 8
def folding (b : List Byte) (s : State) : State := starting 0x28 [] ((s.write 0x100 b).write 0 foldEntry)

theorem witness_PlainCommandsRun_folds :
    (let s := folding foldBlock (jobOpen up); s.startable 0x28 63 (plainDesc 0x28) ∧ s.digestHolds 3 = false ∧ s.job.isOpen = true
      ∧ s.cfgGate.1 = true ∧ s.flagged 0x100 64 = false ∧ foldFields (s.read 0x100 64) = none ∧ s.foldFlagged (s.read 0x100 64) = false
      ∧ s.slotHeld (s.foldEntry (s.read 0x100 64)) = false ∧ isSuccess (s.runFold (s.read 0x100 64)).1.1 = true
      ∧ (withBad [0] s).foldFlagged (s.read 0x100 64) = true ∧ (withBad [1] s).flagged 0x100 64 = true)
    ∧ (let s := folding [] (jobOpen up); s.startable 0x28 63 (plainDesc 0x28) ∧ (foldFields (s.read 0x100 64)).isSome = true)
    ∧ (let s := folding (patchB foldBlock 8 (toLE 1 1 ++ toLE (complB 1 1) 1 ++ toLE 8 6)) (jobOpen up); s.startable 0x28 63 (plainDesc 0x28)
      ∧ foldFields (s.read 0x100 64) = none ∧ isSuccess (s.runFold (s.read 0x100 64)).1.1 = false)
    ∧ (let s := folding foldBlock up; s.startable 0x28 63 (plainDesc 0x28) ∧ s.job.isOpen = false)
    ∧ (let s := folding foldBlock (jobOpen up); let e := s.foldEntry (s.read 0x100 64);
      ({ s with ckp := { s.ckp with image := some { imageOf 1 with resid := [(0, bkSlot e (!bkCur e), 0)] } } } : State).slotHeld e = true)
    ∧ (let s := ({ folding foldBlock (jobOpen up) with digests := [digestFor 3 64] } : State).setFld rDigRingHead 0 32 1;
      s.startable 0x28 63 (plainDesc 0x28) ∧ s.digestHolds 3 = true) := by
  unfold State.startable; refine ⟨?_, ?_, ?_, ?_, ?_, ?_⟩ <;> decide +kernel

def skeinRaw : List Byte := toLE 1 2 ++ toLE 1 2 ++ toLE 0 4 ++ skeinBody
def skeinLoaded (s : State) : State := { s with skein := some (0x1000, skeinRaw) }

theorem witness_SkeinsRun :
    (let f := fetchedOf (descOf 0x19 0 0 0) []; let s := skeinLoaded (fetched63 f (jobOpen up));
      s.nextDesc 63 = some f ∧ dType f.desc = 0x19 ∧ s.mayStartDesc 63 f = true ∧ s.job.isOpen = true ∧ s.cfgGate.1 = true
      ∧ s.skein.isSome = true)
    ∧ (let c := cmdOf (descOf 0x19 0 0 0) []; let s := skeinLoaded (running c up);
      s.ctl.resetOn = false ∧ s.cmd? 0 0 = some c ∧ c.type = 0x19 ∧ c.status = none ∧ s.skein = some (0x1000, skeinRaw)
      ∧ c.entry < skeinCount skeinRaw ∧ leAt (skeinEntry skeinRaw c.entry) 192 2 < 64
      ∧ s.ringOk 0 = true
      ∧ (s.fld (rQTail 0) 0 32 + 2 ^ 32 - s.fld (rQHead 0) 0 32) % 2 ^ 32 < 2 ^ s.fld (rQCfg 0) 0 5) := by
  refine ⟨?_, ?_⟩ <;> decide +kernel

def statusCmd (st : Nat) : Cmd := { cmdOf (descOf 1 0 0 0) [] with status := some (st, 0) }
def failedFetch : Fetched := { fetchedOf (descOf 1 0 0 0) [] with fail := some (stData, 65537) }

theorem witness_Completes :
    (let s := running (statusCmd stOk) up;
      s.ctl.resetOn = false ∧ (s.queue 0).fetched.find? (fun f => f.index == 0 && f.fail.isSome) = none ∧ s.cmd? 0 0 = some (statusCmd stOk)
      ∧ s.statusOf (statusCmd stOk) = some (stOk, 0) ∧ s.mayComplete (statusCmd stOk) = true
      ∧ (s.commitAtEnd (statusCmd stOk) stOk).cmd? 0 0 = some (statusCmd stOk)
      ∧ (s.commitAtEnd (statusCmd stOk) stOk).mayComplete (statusCmd stOk) = true)
    ∧ (let s := fetched63 failedFetch up; (s.queue 63).st = .running
      ∧ (s.queue 63).fetched.find? (fun f => f.index == 0 && f.fail.isSome) = some failedFetch
      ∧ failedFetch.fail = some (stData, 65537))
    ∧ (let f := { failedFetch with fail := some (stReformed, 0) }; let s := queued 63 0 1 .error (fetched63 f up); f.reformed = true
      ∧ (s.queue 63).fetched.find? (fun f => f.index == 0 && f.fail.isSome) = some f) := by decide +kernel

theorem witness_WritesBack : 63 < 64 ∧ dIrq (descOf 1 2 0 0) = true ∧ dIrq (descOf 1 0 0 0) = false
    ∧ (dSignalEn (descOf 1 0x20 0xFF00 0) && (isSuccess stOk || dSignalAlways (descOf 1 0x20 0xFF00 0)) && !false) = true
    ∧ dSignalCtr (descOf 1 0x20 0xFF00 0) = 255 ∧ (!isSuccess stData && !dContinue (descOf 1 0 0 0)) = true
    ∧ ((fetched63 failedFetch up).queue 63).st = .running ∧ (!isSuccess stOk && !dContinue (descOf 1 0 0 0)) = false
    ∧ (up.queue 63).done.contains (up.fld (rQHead 63) 0 32) = false
    ∧ ((up.setQueue 63 { QState.reset with done := [0] }).queue 63).done = [(up.setQueue 63 { QState.reset with done := [0] }).fld (rQHead 63) 0 32] := by
  decide +kernel

/-- A FUSED_STEP and an ALL_GATHER that run, with the watchdog's time past. -/
def gatherCmd : Cmd := cmdOf (descOf 0x13 0 0 0x100) (blockOf 0x1000 0x2000 0 64 0 (3 + 1 * 2 ^ 24 + 1 * 2 ^ 28) 0 1 0 0 0 0)
def reduceCmd : Cmd := cmdOf (descOf 0x10 0 0 0x100) (blockOf 0x1000 0x2000 0 64 0 (3 + 1 * 2 ^ 24 + 1 * 2 ^ 28) 0 1 0 0 0 0)

theorem witness_WatchdogsAndReads :
    (let s := timed 100000000000 (running { gatherCmd with bank := [(rColAbort, 20000000)] } up); let c := s.cmds.head?;
      s.ctl.resetOn = false ∧ s.cmd? 0 0 = c ∧ c = some { gatherCmd with bank := [(rColAbort, 20000000)] }
      ∧ gatherCmd.warned = false
      ∧ s.watchReached { gatherCmd with bank := [(rColAbort, 20000000)] } (smGet regReset [(rColAbort, 20000000)] rColWarn).toNat = true
      ∧ (smGet regReset [(rColAbort, 20000000)] rColAbort).toNat ≠ 0
      ∧ s.watchReached { gatherCmd with bank := [(rColAbort, 20000000)] } (smGet regReset [(rColAbort, 20000000)] rColAbort).toNat = true)
    ∧ (let s := running reduceCmd up; s.allAwake = true ∧ s.cmd? 0 0 = some reduceCmd ∧ reduceCmd.status = none
      ∧ s.outs.find? (fun x => x.cmd.q == 0 && x.cmd.i == 0 && !(s.owedAt x 0x1000).isEmpty) = none
      ∧ reduceCmd.gat.rowStarted = false ∧ reduceCmd.type ≠ 0x12)
    ∧ (up.ctl.resetOn = false ∧ ({ up with feedOut := [(0, [])] } : State).feedOut ≠ []) := by
  refine ⟨?_, ?_, ?_⟩ <;> decide +kernel

/-! ### Witnesses: the engine's work on a collective -/

/-- A block like `blockOf` with an address for the accumulators. -/
def withAux (aux : Nat) (b : List Byte) : List Byte := b.take 16 ++ toLE aux 8 ++ b.drop 24

/-- A reducing command of 64 elements under identifier 3 whose source is the Feed, and the tag of its first beat. -/
def feedReduce (aux : Nat) : Cmd :=
  cmdOf (descOf 0x10 0 0 0x100) (withAux aux (blockOf 0 0x2000 0 64 0 (3 + 2 ^ 20 + 2 ^ 24 + 2 ^ 28) 0 1 0 0 0 0))
def firstTag : BitVec 128 := 192#128

/-- The lead of the command's one group is complete. -/
def agreed (c : Cmd) : Cmd := { c with lead := { c.lead with agreed := [(0, mkLead 1 2 0)], sent := true } }

theorem witness_FeedBeats :
    (let c := feedReduce 0; let s := running c up; s.ctl.resetOn = false ∧ s.feedCmd firstTag = some c ∧ tagMicro firstTag = false
      ∧ s.bucketFree c = true ∧ tagOffset firstTag / 1024 < c.beatCount ∧ c.lead.sent = false ∧ c.lead.surveyed.contains 0 = false
      ∧ c.conv.beats.contains 0 = false ∧ c.leadReady 0 = false ∧ s.flows)
    ∧ (let c := agreed (feedReduce 0); let s := running c up; s.feedCmd firstTag = some c ∧ s.bucketFree c = true
      ∧ tagOffset firstTag / 1024 < c.beatCount ∧ c.conv.beats.contains 0 = false ∧ c.leadReady 0 = true ∧ s.copyHolds c = false
      ∧ ({ s with ckp := { s.ckp with image := some { imageOf 1 with resid := [(0, bkSlot (s.entryOf c) (!bkCur (s.entryOf c)), 0)] } } } : State).ckp.image.isSome = true)
    ∧ (let c := feedReduce 0x50000; (running c up).feedCmd firstTag = some c ∧ c.aux ≠ 0) := by
  unfold State.flows; refine ⟨?_, ?_, ?_⟩ <;> decide +kernel

/-- A held chunk of identifier 3 with some header fields. -/
def chunkFor (kind src ring hop contrib offset : Nat) (mc : Bool) (payload : List Byte) : Held :=
  { pkts := [{ hdr := { testHdr 0 0 with kind := kind, src := src, job := 3, ring := ring, hop := hop, contrib := contrib, offset := offset
                                         mcast := mc, len := payload.length }, payload := payload }], port := 0 }

/-- A running command, and a chunk for it. -/
def serving (c : Cmd) (h : Held) : State := holding h (running c up)

def leadFor3 : List Byte := ({ bucket := 0, step := 0, cls := 2, gsize := 1, bytes := [7] } : LeadMsg).encode

theorem witness_Leads :
    (let c := reduceCmd; let s := running c up;
      let s1 := s.surveyRun c 0 ((List.range c.elements).map (fun j => s.gradOf c j (BitVec.ofNat 16 (s.readNat (c.src + 2 * j) 2))))
        (List.range c.beatCount);
      s.ctl.resetOn = false ∧ s.cmd? 0 0 = some c ∧ isReducing c.type = true ∧ c.status = none ∧ c.lead.sent = false
      ∧ s.bucketFree c = true ∧ s.leadTurn c = true ∧ c.srcFeed = false
      ∧ ∃ d, s1.cmd? 0 0 = some d ∧ d.status = none ∧ allIn (0, d.beatCount) (fun b => d.lead.surveyed.contains b) = true
        ∧ s1.flagged d.fmtAddr 4 = false ∧ fmtWordBad (s1.readNat d.fmtAddr 4) = false)
    ∧ (let h := chunkFor 2 1 0 1 8 0 false leadFor3; (serving reduceCmd h).delivers 2 1 0 false h reduceCmd
      ∧ isReducing reduceCmd.type = true ∧ (leadParts h).isSome = true ∧ h.hdr.contrib = reduceCmd.members)
    ∧ (let h := chunkFor 2 1 13 1 1 0 false leadFor3; (serving (agreed reduceCmd) h).delivers 2 1 0 false h (agreed reduceCmd)
      ∧ (leadParts h).isSome = true ∧ h.hdr.ring < 14 ∧ (agreed reduceCmd).lead.sent = true)
    ∧ (let c := { reduceCmd with lead := { reduceCmd.lead with rowSent := true } }; let h := chunkFor 2 1 14 1 1 0 false leadFor3;
      (serving c h).delivers 2 1 0 false h c ∧ (leadParts h).isSome = true ∧ 14 ≤ h.hdr.ring ∧ c.lead.rowSent = true) := by
  refine ⟨?_, ?_, ?_, ?_⟩
  · refine ⟨by decide +kernel, by decide +kernel, by decide +kernel, by decide +kernel, by decide +kernel, by decide +kernel,
      by decide +kernel, by decide +kernel, _, rfl, ?_, ?_, ?_, ?_⟩ <;> decide +kernel
  all_goals (unfold State.delivers State.flows; decide +kernel)

/-- The data phase of a command has started and its one beat is converted. -/
def started (c : Cmd) : Cmd := { agreed c with dataStarted := true, conv := { c.conv with beats := [0] } }

def zeroOf : List Byte := (zeroRec (-128) 2).bytes
def sparseReduce : Cmd :=
  cmdOf (descOf 0x10 0 0 0x100) ((blockOf 0x1000 0x2000 0 64 0 (3 + 2 ^ 18 + 2 ^ 24 + 2 ^ 28) 0 1 0 0 0 0).take 88 ++ [1, 9]
    ++ (blockOf 0x1000 0x2000 0 64 0 (3 + 2 ^ 18 + 2 ^ 24 + 2 ^ 28) 0 1 0 0 0 0).drop 90)
def fusedCmd : Cmd := cmdOf (descOf 0x12 0 0 0x100) (blockOf 0x1000 0x2000 0 64 0 (3 + 2 ^ 24 + 2 ^ 28) 0 1 0 0 0 0)

theorem witness_Contributions :
    (let c := started reduceCmd; let h := chunkFor 1 1 0 1 1 0 false zeroOf; let s := (serving c h).write c.code zeroOf;
      s.delivers 1 1 0 false h c ∧ isReducing c.type = true
      ∧ ∃ rs, h.pkts.mapM (packetRecs c) = some rs ∧ c.localReady h.hdr.ring (rs.flatten.map (·.1)) = true
        ∧ s.localFlagged c (decide (14 ≤ h.hdr.ring)) (rs.flatten.map (·.1)) = false
        ∧ (rs.flatten.map (·.1)).any (fun g => (s.localRec c h.hdr.ring g).isNone) = false
        ∧ ((List.zip h.pkts rs).mapM (fun (p, r) => s.hopSums c p r)).isSome = true)
    ∧ (let c := started reduceCmd; let h := chunkFor 3 1 0 0 0 0 false (sideBytes 0 [{ rank := 1, pos := 63, value := 0x3F80 }]); let s := serving c h;
      s.delivers 3 1 0 false h c ∧ c.landsNow = true
      ∧ ∃ rs, h.pkts.mapM (fun p => parseSides c.g (p.payload.length / 16 + 1) p.payload) = some rs
        ∧ rs.flatten.all (fun x => c.owns (s.place c).1 (s.place c).2 x.1) = true
        ∧ (let pairs := (rs.flatten.map (·.1)).eraseDups.flatMap (fun g => (s.sideHeld c g).map (fun x => (g, x.1, x.2)))
            ++ rs.flatten.flatMap (fun x => x.2.map (fun e => (x.1, e.pos, e.rank)));
          pairs.Nodup ∧ pairs.all (fun x => decide ((pairs.filter (fun y => y.1 == x.1 && y.2.2 == x.2.2)).length ≤ 8)) = true))
    ∧ (let c := started reduceCmd; let b : Rec := { zeroRec 0 3 with nan := true, zero := false };
      let h := chunkFor 4 1 0 0 0 0 false ({ group := 0, gsize := 1, row := false, body := b, contrib := 1 } : Spill).bytes;
      let s := serving c h;
      s.delivers 4 1 0 false h c ∧ c.landsNow = true
      ∧ ∃ rs, h.pkts.mapM (fun p => parseSpills (p.payload.length / 16 + 1) p.payload) = some rs
        ∧ rs.flatten.all (spillFits c (s.place c).1 (s.place c).2) = true)
    ∧ (let c := started sparseReduce; let h := chunkFor 5 1 0 0 1 0 false ({ block := 0, inf := false, neg := false, nan := false, cls := 3, entries := [(63, -1)] } : Sparse).bytes;
      let s := serving c h;
      s.delivers 5 1 0 false h c ∧ c.landsNow = true ∧ c.sparse = true
      ∧ ∃ rs, h.pkts.mapM (fun p => parseSparses c.selBlock c.elements (p.payload.length / 16 + 1) p.payload) = some rs
        ∧ rs.flatten.all (fun r => c.owns (s.place c).1 (s.place c).2 (r.block * c.selBlock / c.g)
          && decide (r.block * c.selBlock < c.elements)) = true)
    ∧ (let s := running fusedCmd up; s.ctl.resetOn = false ∧ s.cmd? 0 0 = some fusedCmd ∧ fusedCmd.type = 0x12
      ∧ fusedCmd.upd.computed = false ∧ fusedCmd.outcome = none) := by
  refine ⟨⟨?_, ?_, _, rfl, ?_, ?_, ?_, ?_⟩, ⟨?_, ?_, _, rfl, ?_, ?_⟩, ⟨?_, ?_, _, rfl, ?_⟩, ⟨?_, ?_, ?_, _, rfl, ?_⟩, ?_⟩
  all_goals (try unfold State.delivers State.flows)
  all_goals decide +kernel

def typed (t : Nat) : Cmd := cmdOf (descOf t 0 0 0x100) (blockOf 0x1000 0x2000 0 64 0 (3 + 2 ^ 24 + 2 ^ 28) 0 1 1 5 0 0)

/-- A chunk of data for a running command, and the clauses about it: a later repeat, a past one, an owed slot. -/
def writes (c : Cmd) (h : Held) (s : State) : Prop := s.delivers 6 1 0 h.hdr.mcast h c ∧ s.cmd? c.q c.i = some c

def owesOf (s : State) (c : Cmd) (h : Held) : Bool :=
  h.pkts.any (fun p => match c.segAtOff p.hdr.offset with | some g => s.owed c g.num | none => false)

/-- A header's repeat. -/
def inRepeat (n : Nat) (h : Held) : Held := { h with pkts := h.pkts.map (fun p => { p with hdr := { p.hdr with rep := n } }) }

/-- A compressed ALL_GATHER, RECV or other command with one segment, and its entry: state, DAMAGED, units. -/
def packed (t elements : Nat) : Cmd :=
  cmdOf (descOf t 0 0 0x100) (blockOf 0x1000 0x2000 0 elements 0 (3 + 2 ^ 24 + 2 ^ 28) 0 1 1 5 3 0)
def withEntry (c : Cmd) (st : Nat) (damaged : Bool) (units : Nat) (s : State) : State := s.setEntry c 0 st damaged units

def landing : Held := chunkFor 6 1 14 0 8 0 true [1, 2]
def landingIn (c : Cmd) : Held := chunkFor 6 1 14 0 8 c.landOff true [1, 2]

theorem witness_Transfers_gathers :
    (∀ t ∈ [0x10, 0x12, 0x13, 0x15, 0x18], writes (typed t) landing (serving (typed t) landing) ∧ (typed t).type = t
      ∧ (typed t).gat.rep = landing.hdr.rep ∧ (typed t).compress = 0)
    ∧ (let c := typed 0x13; c.transposed = false ∧ c.gat.rowStarted = false ∧ c.gat.voteFormed = false ∧ 14 ≤ landing.hdr.ring
      ∧ c.hedges ≤ landing.hdr.hop + 1 ∧ landing.pkts = [(landing.pkts.getD 0 testPkt)] ∧ (landing.pkts.getD 0 testPkt).payload.length ≤ 4096)
    ∧ (let c := typed 0x13; let h := inRepeat 1 landing; writes c h (serving c h) ∧ c.gat.rep < h.hdr.rep)
    ∧ (let c := { typed 0x13 with gat := { Gat.init with rep := 1 } }; writes c landing (serving c landing) ∧ landing.hdr.rep < c.gat.rep)
    ∧ (let c := packed 0x13 64; let h := landingIn c; let s := withEntry c 2 false 0 (serving c h); writes c h s ∧ c.compress ≠ 0 ∧ owesOf s c h = true)
    ∧ (let c := packed 0x13 64; let h := landingIn c; let s := withEntry c 3 false 0 (serving c h); writes c h s ∧ c.compress ≠ 0 ∧ owesOf s c h = false) := by
  unfold writes State.delivers State.flows; refine ⟨?_, ?_, ?_, ?_, ?_, ?_⟩ <;> decide +kernel

/-- An ALL_TO_ALL of rows of 4 bytes with every member's counts here. -/
def rowsCmd : Cmd := { cmdOf (descOf 0x14 0 0 0x100) (patchB (patchB (typed 0x14).param 96 (toLE 4 4)) 100 (toLE 64 8)) with
  counts := (List.range 8).map (fun u => (u, toLE 1 4)) }

theorem witness_Transfers_rows :
    (let c := rowsCmd; writes c landing (serving c landing) ∧ c.type = 0x14 ∧ c.indexOf 1 = some 1 ∧ c.gat.rep = landing.hdr.rep
      ∧ c.countsHere = true ∧ c.moved = false ∧ c.converts = false ∧ c.rowBytes ≠ 0)
    ∧ (let c := typed 0x14; writes c landing (serving c landing) ∧ c.countsHere = false)
    ∧ (let c := rowsCmd; let h := inRepeat 1 landing; writes c h (serving c h) ∧ c.gat.rep < h.hdr.rep)
    ∧ (let c := { rowsCmd with gat := { Gat.init with rep := 1 } }; writes c landing (serving c landing) ∧ landing.hdr.rep < c.gat.rep
      ∧ c.countsHere = true ∧ (c.indexOf 1).isSome = true) := by
  unfold writes State.delivers State.flows; refine ⟨?_, ?_, ?_, ?_⟩ <;> decide +kernel

/-- A RECV from rank 1 with room, of format 1 or of Ply codes. -/
def recvCmd (fmt : Nat) : Cmd :=
  cmdOf (descOf 0x17 0 0 0x100) (patchB (patchB (typed 0x17).param 100 (toLE 64 8)) 72 (toLE (3 + fmt * 2 ^ 24) 4))
theorem witness_Transfers_recv :
    (let c := recvCmd 1; writes c landing (serving c landing) ∧ c.type = 0x17 ∧ c.peer = 1 ∧ c.compress = 0 ∧ isPly c.recvFmt = false)
    ∧ (let c := recvCmd 11; writes c landing (serving c landing) ∧ c.peer = 1 ∧ c.compress = 0 ∧ isPly c.recvFmt = true)
    ∧ (let c := packed 0x17 64; let h := landingIn c; let s := withEntry c 2 false 0 (serving c h); writes c h s ∧ c.peer = 1 ∧ c.compress ≠ 0
      ∧ owesOf s c h = true)
    ∧ (let h := chunkFor 6 2 14 0 8 0 true [1]; (serving (recvCmd 1) h).delivers 6 2 0 true h (recvCmd 1) ∧ (recvCmd 1).peer ≠ 2) := by
  unfold writes State.delivers State.flows; refine ⟨?_, ?_, ?_, ?_⟩ <;> decide +kernel

/-- A list of a row record of K entries, and the root's merge with the lists of all members but the last. -/
def topList (k : Nat) : List Byte := toLE 0 4 ++ toLE k 2 ++ toLE 0 122
def mergeCmd (k : Nat) : Cmd := { typed 0x18 with counts := (List.range 7).map (fun u => (u, topList k)) }

theorem witness_Transfers_lists :
    (let c := typed 0x14; let h := chunkFor 7 7 0 0 0 0 false [1, 0, 0, 0]; let s := serving c h;
      s.cmd? c.q c.i = some c ∧ s.delivers 7 7 0 false h c ∧ c.type = 0x14 ∧ c.indexOf 7 = some 7 ∧ c.counts.any (fun x => x.1 == 7) = false
      ∧ c.dataStarted = false)
    ∧ (let c := rowsCmd; let h := chunkFor 7 7 0 0 0 0 false [1, 0, 0, 0]; (serving c h).delivers 7 7 0 false h c
      ∧ c.counts.any (fun x => x.1 == 7) = true)
    ∧ (let c := typed 0x18; let h := chunkFor 8 7 0 0 0 0 false (topList 1); (serving c h).delivers 8 7 0 false h c ∧ c.type = 0x18
      ∧ c.indexOf 7 = some 7 ∧ c.counts.any (fun x => x.1 == 7) = false
      ∧ allIn (0, c.members) (fun m => (c.counts ++ [(7, h.payload)]).any (fun x => x.1 == m)) = false)
    ∧ (let c := mergeCmd 2; let h := chunkFor 8 7 0 0 0 0 false (topList 1); (serving c h).delivers 8 7 0 false h c ∧ c.moved = false
      ∧ (let l := c.counts ++ [(7, h.payload)];
        allIn (0, c.members) (fun m => l.any (fun x => x.1 == m)) = true
        ∧ mergeAgrees ((List.range c.members).map (fun m => parseTRec ((l.find? (fun x => x.1 == m)).map (·.2) |>.getD []))) = false))
    ∧ (let h := chunkFor 8 6 0 0 0 0 false (topList 2); (serving (mergeCmd 2) h).delivers 8 6 0 false h (mergeCmd 2)
      ∧ (mergeCmd 2).counts.any (fun x => x.1 == 6) = true) := by
  unfold State.delivers State.flows; refine ⟨?_, ?_, ?_, ?_, ?_⟩ <;> decide +kernel

/-- A READY of rank 1 for tag 5: match number 0, a format and a capacity. -/
def readyFor (tag fmt cap : Nat) : Held := chunkFor 0x13 1 0 0 0 tag false (readyBytes 0 fmt cap)
def sendCmd : Cmd := { typed 0x16 with dataStarted := true }

theorem witness_Transfers_ready :
    (let c := typed 0x16; let h := readyFor 5 1 128; let s := serving c h;
      s.delivers 0x13 1 0 false h c ∧ c.type = 0x16 ∧ c.peer = 1 ∧ c.tag = h.hdr.offset ∧ leAt h.payload 0 4 = c.matchNo ∧ c.dataStarted = false)
    ∧ (let c := sendCmd; let h := readyFor 5 1 127; let s := (serving c h).wr (rRank 1) (rankEntry 9);
      s.delivers 0x13 1 0 false h c ∧ c.dataStarted = true ∧ c.moved = false ∧ leAt h.payload 8 8 < c.sendLen ∧ s.xlat c.peer = .ok 9
      ∧ (∀ x ∈ s.outbox, x.seq.isSome = true))
    ∧ (let c := sendCmd; let h := readyFor 5 2 128; (serving c h).delivers 0x13 1 0 false h c ∧ byteAt h.payload 4 % 16 ≠ c.wireFmt)
    ∧ (let c := sendCmd; let h := readyFor 5 1 128; let s := withBad [0x10] (serving c h); s.delivers 0x13 1 0 false h c
      ∧ c.gat.rowStarted = false ∧ c.sendLen ≤ leAt h.payload 8 8 ∧ byteAt h.payload 4 % 16 = c.wireFmt
      ∧ c.sendReads.any (fun x => ((s.accept h).progress c.q c.i 1 true).flagged x.1 x.2) = true)
    ∧ (let c := sendCmd; let h := readyFor 6 1 128; (serving c h).delivers 0x13 1 0 false h c ∧ c.tag ≠ h.hdr.offset)
    ∧ (let c := typed 0x17; let h := chunkFor 0x14 1 0 0 0 5 false (cancelBytes 0 1); let s := serving c h;
      s.delivers 0x14 1 0 false h c ∧ c.type = 0x17 ∧ c.peer = 1 ∧ c.tag = h.hdr.offset ∧ leAt h.payload 0 4 = c.matchNo)
    ∧ (let c := typed 0x17; let h := chunkFor 0x14 1 0 0 0 5 false (cancelBytes 7 1); (serving c h).delivers 0x14 1 0 false h c
      ∧ leAt h.payload 0 4 ≠ c.matchNo) := by
  unfold State.delivers State.flows; refine ⟨?_, ?_, ?_, ?_, ?_, ?_, ?_⟩ <;> decide +kernel

/-- The drain record of identifier 3, awaiting rank 1. -/
def drain3 (active : Bool) : Drain := { job := 3, await := [1], got := [], active := active, skipped := [], since := 0, heard := [] }

/-- A vote of rank 1 in the Hedge pass. -/
def vote1 : VoteMsg := { step := 0, job := 3, good := true, row := false, guard := false, mixed := false, rep := 0, reasons := 0, origin := 0, hops := 0 }

theorem witness_MarkersAndVotes :
    (let h := chunkFor 6 1 0 1 8 0 false [1]; let s := ({ holding h up with drains := [drain3 true] } : State);
      chunkOfInstr (.writeChunk 1 0 false) = some (6, 1, 0, false) ∧ s.ctl.resetOn = false ∧ s.flows ∧ s.heldChunk 6 1 0 false = some h
      ∧ s.sortChunk h.hdr.job 1 = .stray ∧ s.passable h = true)
    ∧ (let h := chunkFor 0x12 1 0 0 0 0 false (drainBytes 3); let s := ({ holding h up with drains := [drain3 true] } : State);
      s.ctl.resetOn = false ∧ s.heldChunk 0x12 1 0 false = some h ∧ s.passable h = true
      ∧ h.payload = drainBytes (leAt h.payload 0 2 % 4096) ∧ s.drainOf (leAt h.payload 0 2) = some (drain3 true)
      ∧ (drain3 true).skipped.contains 1 = false ∧ (drain3 true).got.contains 1 = false ∧ (drain3 true).active = true)
    ∧ (let h := chunkFor 0x11 1 0 0 0 0 true vote1.bytes; let c := reduceCmd; let s := serving c h;
      s.delivers 0x11 1 0 true h c ∧ parseVote h.payload = some vote1 ∧ vote1.rep = c.gat.rep ∧ reduceCmd.placeOf 1 = some (0, 1)
      ∧ ∃ d, ((s.accept h).progress c.q c.i 1 true).cmd? c.q c.i = some d ∧ d.placeOf 1 = some (0, 1)
        ∧ d.gat.votes.any (fun x => x.row == false && x.at_ == 1) = false)
    ∧ (let s := timed 20000000000 ((({ (doing 3 0x11 [] (jobOpen up)) with drains := [drain3 true] } : State).setBegun 3 true).wr rColAbort 20000000000);
      s.ctl.resetOn = false ∧ 3 < 4 ∧ s.begun 3 = true ∧ rqOpcode (s.request 3) = 0x0011 ∧ s.drainOf 3 = some (drain3 true)
      ∧ (s.rd rColAbort).toNat ≠ 0 ∧ s.timeValid = true ∧ (drain3 true).await.contains 1 = true ∧ (drain3 true).got.contains 1 = false
      ∧ max (drain3 true).since (smGet (fun _ => 0) (drain3 true).heard 1) + (s.rd rColAbort).toNat ≤ s.now) := by
  unfold State.delivers State.flows
  refine ⟨?_, ?_, ⟨?_, ?_, ?_, ?_, _, rfl, ?_, ?_⟩, ?_⟩ <;> decide +kernel

def twoHedges : Cmd := cmdOf (descOf 0x10 0 0 0x100) (blockOf 0x1000 0x2000 0 64 0 (3 + 2 ^ 24 + 2 ^ 28) 0 2 0 0 0 0)

/-- A launch time. -/
def launchedAt (n : Nat) (c : Cmd) : Cmd := { c with param := patchB c.param 64 (toLE n 8) }

def mayRun (s : State) (c : Cmd) : Bool := s.launchReady c && (!isReducing c.type || (c.leadComplete && s.bucketFree c))

theorem witness_Phases_data :
    (let c := gatherCmd; let s := running c up; s.ctl.resetOn = false ∧ s.flows ∧ s.cmd? 0 0 = some c ∧ c.status = none ∧ usesBlock c.type = true
      ∧ c.dataStarted = false ∧ mayRun s c = true ∧ c.type = 0x13 ∧ c.launchAt = 0 ∧ c.late = false)
    ∧ (let c := { launchedAt 5 gatherCmd with late := true }; let s := timed 5 (running c up); mayRun s c = true ∧ c.launchAt ≠ 0 ∧ c.q < 64
      ∧ mayRun (timed 4 (running c up)) c = false)
    ∧ (let c := typed 0x16; mayRun (running c up) c = true ∧ c.ready = none)
    ∧ (let c := typed 0x15; mayRun (running c up) c = true ∧ c.peer ≠ (running c up).job.rank)
    ∧ (let c := typed 0x17; mayRun (running c up) c = true ∧ c.type = 0x17)
    ∧ (let c := agreed reduceCmd; let s := running c up; mayRun s c = true ∧ isReducing c.type = true ∧ c.dataStarted = false)
    ∧ (let c := reduceCmd; mayRun (running c up) c = false)
    ∧ (let c := started reduceCmd; usesBlock c.type = true ∧ c.dataStarted = true) := by
  unfold State.flows; refine ⟨?_, ?_, ?_, ?_, ?_, ?_, ?_, ?_⟩ <;> decide +kernel

theorem witness_Phases :
    (let c := { started twoHedges with red := { Red.init with rowOp := [(0, 9)] } }; let s := running c up;
      s.cmd? 0 0 = some c ∧ isReducing c.type = true ∧ c.hasRow = true ∧ c.red.rowStarted = false ∧ c.dataStarted = true
      ∧ ∀ p ∈ c.roles (s.place c).1 (s.place c).2, allIn (eighth c.ng p) (fun g => smGet (fun _ => 0) c.red.rowOp g != 0) = true)
    ∧ (let c := started twoHedges; let s := running c up;
      ¬ ∀ p ∈ c.roles (s.place c).1 (s.place c).2, allIn (eighth c.ng p) (fun g => smGet (fun _ => 0) c.red.rowOp g != 0) = true)
    ∧ (let c := { gatherCmd with dataStarted := true }; let s := running c up; s.gatherReady c = true ∧ c.compress = 0 ∧ c.gat.rowStarted = false)
    ∧ (let c := gatherCmd; (running c up).gatherReady c = false)
    ∧ (let c := { packed 0x13 64 with dataStarted := true }; let s := withEntry c 2 false 0 (running c up); s.gatherReady c = true
      ∧ (s.mySegments c).any (fun g => s.owed c g.num) = true ∧ c.compress ≠ 0)
    ∧ (let c := { gatherCmd with dataStarted := true, gat := { Gat.init with rowStarted := true, got := [(0, 16)] } }; let s := running c up;
      s.cmd? 0 0 = some c ∧ s.gatherReady c = true ∧ c.gat.rowStarted = true ∧ c.gat.hedgeStarted = false
      ∧ (c.roles (s.place c).1 (s.place c).2).all (s.rangeHere c) = true)
    ∧ (let c := { gatherCmd with dataStarted := true, gat := { Gat.init with rowStarted := true } }; let s := running c up;
      s.gatherReady c = true ∧ (c.roles (s.place c).1 (s.place c).2).all (s.rangeHere c) = false) := by
  refine ⟨?_, ?_, ?_, ?_, ?_, ?_, ?_⟩ <;> decide +kernel

/-- A fused step whose one group is complete, and its apply pass. -/
def fusedReady : Cmd :=
  { started fusedCmd with map := toLE 0 4 ++ toLE 4 4 ++ toLE 0 8 ++ toLE 1 4 ++ toLE 8 4 ++ toLE 1 1 ++ List.replicate 39 0
                          red := { Red.init with stored := [0] }, prog := progOne }
def landed : State := ({ running fusedReady up with bobbinFree := none } : State).setSlotWord (fusedReady.landLoc 0 0 0) 0 (8 * 2 ^ 32)

def fusedApplied (cursor : Nat) : Cmd :=
  { fusedReady with outcome := some .applied, upd := { Upd.init with computed := true, applyCursor := cursor } }

theorem witness_FusedPasses :
    (landed.ctl.resetOn = false ∧ landed.cmd? 0 0 = some fusedReady ∧ fusedReady.type = 0x12 ∧ fusedReady.status = none
      ∧ fusedReady.dataStarted = true ∧ fusedReady.upd.computed = false ∧ landed.allDone fusedReady = true
      ∧ landed.flows
      ∧ (let b := fusedReady.unitAt (landed.place fusedReady).1 (landed.place fusedReady).2 fusedReady.upd.cursor;
        b ≠ [] ∧ landed.pushRoom fusedReady b.length = true))
    ∧ (let c := { fusedReady with upd := { Upd.init with cursor := 2 } };
      c.unitAt 0 0 c.upd.cursor = [])
    ∧ (let c := fusedApplied 0; let s := running c up; s.cmd? 0 0 = some c ∧ applies c.outcome = true ∧ c.upd.applied = false
      ∧ s.ckp.pushes.any (fun p => p.q == 0 && p.i == 0) = false
      ∧ ∃ b r t, (c.espBlocks (s.place c).1 (s.place c).2).drop c.upd.applyCursor = b :: r :: t)
    ∧ (let c := fusedApplied 0; let s := running c up; (c.espBlocks (s.place c).1 (s.place c).2).all (fun b =>
        !s.flagged (owStage (c.ownOf (s.place c).2 b.role) + b.rec_ * stateLen (c.progOf (s.place c).2 b.role)) (stateLen (c.progOf (s.place c).2 b.role))) = true)
    ∧ (let c := fusedApplied 1; let s := running c up; s.cmd? 0 0 = some c
      ∧ (c.espBlocks (s.place c).1 (s.place c).2).drop (c.upd.applyCursor + 1) = []) := by
  unfold State.flows; refine ⟨?_, ?_, ⟨?_, ?_, ?_, ?_, _, _, _, rfl⟩, ?_, ?_⟩ <;> decide +kernel

def pieceOne : Piece :=
  { q := 0, i := 0, job := 3, num := 0, addr := 0x2000, len := 128, sideAddr := 0, sideLen := 0, offset := 0, sideOffset := 0, runEnd := true, last := true }

/-- A committed output of a command, its one piece waiting, and the entry of its one segment. -/
def outOf1 (c : Cmd) : Out := { cmd := c, w := 0, o := 0, oldStep := 0, zeroBase := false, badBase := [], owesDigest := false }
def holdsOut (c : Cmd) (st : Nat) (damaged : Bool) (units : Nat) : State :=
  withEntry c st damaged units { up with pieces := [pieceOne], outs := [outOf1 c] }
def segOne : Seg := (packed 0x15 64).segments.headD { num := 0, off := 0, len := 0, p := 0, w := 0 }

/-- A read of the record of an owed segment. -/
theorem witness_WatchdogsAndReads_segment :
    let c := packed 0x15 64; let s := holdsOut c 2 false 0; s.allAwake = true
      ∧ s.outs.find? (fun x => x.cmd.q == 0 && x.cmd.i == 0 && !(s.owedAt x (c.dst + c.landOff)).isEmpty) = some (outOf1 c) := by decide +kernel

theorem witness_DigestsAndPieces_records :
    (let s := ({ up with digests := [digestFor 0 1] } : State); s.ctl.resetOn = false ∧ s.digests = [digestFor 0 1] ∧ (digestFor 0 1).bytes.length = 40
      ∧ s.ringFull (digestFor 0 1) = false)
    ∧ (let s := ({ up with digests := [digestFor 1 0] } : State).setFld rDigRingHead 0 32 1; s.ringFull (digestFor 1 0) = true
      ∧ bitAt (digestFor 1 0).cfg 6 = false ∧ s.digests = [digestFor 1 0] ∧ s.digestHolds 1 = false)
    ∧ (let s := ({ up with digests := [digestFor 1 64] } : State).setFld rDigRingHead 0 32 1; s.ringFull (digestFor 1 64) = true
      ∧ bitAt (digestFor 1 64).cfg 6 = true ∧ s.digests = [digestFor 1 64] ∧ s.digestHolds 1 = true)
    ∧ up.digests = [] := by
  refine ⟨?_, ?_, ?_, ?_⟩ <;> decide +kernel

/-- A piece is found, and its output. -/
def findsPiece (s : State) (c : Cmd) : Prop :=
  s.ctl.resetOn = false ∧ s.digestHolds 1 = false ∧ s.pieces.find? (fun p => p.q == 0 && p.i == 0 && p.num == 0) = some pieceOne
    ∧ s.outs.find? (fun x => x.cmd.q == 0 && x.cmd.i == 0) = some (outOf1 c)

theorem witness_DigestsAndPieces :
    (let s := ({ up with pieces := [pieceOne] } : State); s.pieces.find? (fun p => p.q == 0 && p.i == 0 && p.num == 0) = some pieceOne
      ∧ s.outs.find? (fun x => x.cmd.q == 0 && x.cmd.i == 0) = none ∧ pieceOne.sideLen = 0)
    ∧ (let c := packed 0x15 64; c.segsOver pieceOne.offset pieceOne.len = [segOne] ∧ segOne.off ≤ pieceOne.offset)
    ∧ (let c := packed 0x15 64; let s := holdsOut c 3 true 0; findsPiece s c ∧ s.segBad c segOne = true ∧ enOk (s.entry c segOne.num) = true)
    ∧ (let c := packed 0x15 64; let s := (holdsOut c 3 true 0).writeNat (c.tableAddr + 64) 4 3; findsPiece s c ∧ enOk (s.entry c segOne.num) = false)
    ∧ (let c := packed 0x15 64; let s := holdsOut c 3 false 0; findsPiece s c ∧ s.segBad c segOne = false ∧ s.owed c segOne.num = false)
    ∧ (let c := packed 0x15 64; let s := holdsOut c 2 false 0; findsPiece s c ∧ s.segBad c segOne = false ∧ s.owed c segOne.num = true
      ∧ (s.expandSeg (outOf1 c) segOne).segBad c segOne = false)
    ∧ (let c := packed 0x15 64; let s := holdsOut c 2 false 1; findsPiece s c ∧ s.segBad c segOne = false ∧ s.owed c segOne.num = true
      ∧ (s.expandSeg (outOf1 c) segOne).segBad c segOne = true) := by
  unfold findsPiece; refine ⟨?_, ?_, ?_, ?_, ?_, ?_, ?_⟩ <;> decide +kernel

/-- A record of 512 zeros against the base of step 5, and a stream output under it. -/
def codedZeros : List Byte := cardRecord 0 512 1 false 0 5 (List.replicate 512 0)
def againstBase : Cmd := cmdOf (descOf 0x15 0 0 0x100) (patchB (packed 0x15 256).param 90 [1])

theorem witness_DigestsAndPieces_expands :
    (let c := packed 0x15 64; let s := holdsOut c 3 false 0; s.outs.find? (fun x => x.cmd.q == 0 && x.cmd.i == 0) = some (outOf1 c)
      ∧ s.nextOwed (outOf1 c) = none)
    ∧ (let c := packed 0x15 64; let s := holdsOut c 2 false 0; s.nextOwed (outOf1 c) = some segOne ∧ enOk (s.entry c 0) = true
      ∧ s.expandFlagged (outOf1 c) segOne = false ∧ (s.expand (outOf1 c) segOne).1.isSome = true ∧ (s.expand (outOf1 c) segOne).2 = true)
    ∧ (let c := packed 0x15 64; let s := holdsOut c 2 false 1; s.nextOwed (outOf1 c) = some segOne ∧ s.owed c 0 = true
      ∧ s.expandFlagged (outOf1 c) segOne = false ∧ (s.expand (outOf1 c) segOne).1 = none)
    ∧ (let c := packed 0x15 64; let s := withBad [memUnit (c.dst + c.landOff)] (holdsOut c 2 false 0); s.owed c 0 = true
      ∧ s.nextOwed (outOf1 c) = some segOne ∧ s.expandFlagged (outOf1 c) segOne = true)
    ∧ (let c := packed 0x15 64; let s := (holdsOut c 2 false 0).writeNat (c.tableAddr + 64) 4 3; s.nextOwed (outOf1 c) = some segOne
      ∧ enOk (s.entry c 0) = false) := by
  refine ⟨?_, ?_, ?_, ?_, ?_⟩ <;> decide +kernel

set_option maxRecDepth 20000 in
theorem witness_DigestsAndPieces_base :
    (let c := againstBase; let s := (holdsOut c 2 false 1).write (c.dst + c.landOff) codedZeros; let g := c.segments.getD 0 segOne;
      s.nextOwed (outOf1 c) = some g ∧ s.owed c g.num = true ∧ s.expandFlagged (outOf1 c) g = false
      ∧ (s.expand (outOf1 c) g).1.isSome = true ∧ (s.expand (outOf1 c) g).2 = false) := by decide +kernel

/-! ### Witnesses: checkpoints, redundancy, faults and ageing -/

def imageOne (written prepared : Bool) : CkpImage :=
  { step := 4, gen := 0, base := 0x100000, size := 0x100000, policy := 1, scope := 0, sections := [], length := 64, exact := true, recs := [], resid := []
    replay := 0, written := written, badTwice := false, prepared := prepared }

theorem witness_ImagesMade :
    (let s := withFirmware ({ up with ckp := { up.ckp with pairs := [(3, 4)] } } : State);
      s.allAwake = true ∧ s.firmware = true ∧ s.ckpDue = some 4 ∧ s.ckp.image = none)
    ∧ (let s := withFirmware ({ up with ckp := { up.ckp with pairs := [(3, 5)], image := some (imageOne false false) } } : State);
      s.firmware = true ∧ s.ckpDue = some 5 ∧ s.ckp.image = some (imageOne false false) ∧ s.ckp.genWait = false)
    ∧ (∃ p, ({ up with ckp := { up.ckp with pushes := [p] } } : State).ckp.pushes = p :: [] ∧ up.ckp.image = none)
    ∧ (let s := ({ up with ckp := { up.ckp with image := some (imageOne true false) } } : State);
      s.ckp.image = some (imageOne true false) ∧ bitAt (imageOne true false).policy 1 = false ∧ bitAt (imageOne true false).policy 2 = false
      ∧ (imageOne true false).badTwice = false ∧ (imageOne true false).prepared = false)
    ∧ (let s := ({ up with ckp := { up.ckp with buddyStep := #v[none, some 4], parityStep := #v[some 4, none] } } : State);
      s.allAwake = true ∧ heldGen s.ckp.buddyStep 4 = some 1 ∧ heldGen s.ckp.parityStep 4 = some 0) := by
  refine ⟨?_, ?_, ⟨⟨0, 0, 0, 0, []⟩, ?_, ?_⟩, ?_, ?_⟩ <;> decide +kernel

/-- A group of two Hedges, by the checkpoint policy. -/
def twoByEight (s : State) : State := s.wr rCkpPolicy (2 * 2 ^ 32)

theorem witness_ImagesMade_votes :
    (let s := twoByEight up; let p := (s.rd rCkpPolicy).toNat;
      s.ckp.votes.contains (7, 4) = false ∧ (s.ckpHedge p (ckpPlace p s.job.rank).1).contains 7 = true
      ∧ (s.ckpHedge p (ckpPlace p s.job.rank).1).all (fun r => (s.ckp.votes ++ [(7, 4)]).contains (r, 4)) = false
      ∧ (s.ckpHedge p 1).all (fun r => s.ckp.votes.contains (r, 4)) = false)
    ∧ (let s := ({ twoByEight up with ckp := { up.ckp with votes := (List.range 7).map (fun r => (r, 4)) } } : State);
      let p := (s.rd rCkpPolicy).toNat;
      (s.ckpHedge p (ckpPlace p s.job.rank).1).contains 7 = true
      ∧ (s.ckpHedge p (ckpPlace p s.job.rank).1).all (fun r => (s.ckp.votes ++ [(7, 4)]).contains (r, 4)) = true) := by
  refine ⟨?_, ?_⟩ <;> decide +kernel

def restoring (loaded : Bool) (chosen : Option Nat) : Restore :=
  { pair := 3, startedAt := 0, engineCause := false, migrate := false, lost := 0xFFFF, own := none, chosen := chosen, source := 0, rows := []
    loaded := loaded, served := [] }

theorem witness_CopiesAndRestores : up.allAwake = true ∧ up.fetching 4 1 = none ∧ 7 < 8 ∧ up.fetching 4 2 = none
    ∧ (up.holdUnit 7 4 0 []).restore = none
    ∧ (let s := ({ up with restore := some (restoring false none) } : State); s.restore = some (restoring false none)
      ∧ (restoring false none).chosen = none ∧ s.allAwake = true)
    ∧ (let s := ({ twoByEight up with restore := some (restoring true (some 4))
                                      ckp := { up.ckp with fence := (List.range 15).map (fun r => (r, 4)) } } : State);
      s.restore = some (restoring true (some 4)) ∧ (restoring true (some 4)).chosen = some 4 ∧ (restoring true (some 4)).loaded = true
      ∧ (restoring true (some 4)).lost = 0xFFFF
      ∧ (∀ r ∈ s.ckpRanks (s.rd rCkpPolicy).toNat, some (Voice.member 15, 4) = some (Voice.member r, 4) ∨ s.ckp.fence.contains (r, 4) = true))
    ∧ (let s := ({ up with restore := some (restoring true (some 4)), ckp := { up.ckp with fence := (List.range 8).map (fun r => (r, 4)) } } : State);
      s.restore = some (restoring true (some 4)) ∧ (∀ r ∈ s.ckpRanks (s.rd rCkpPolicy).toNat, s.ckp.fence.contains (r, 4) = true)) := by
  decide +kernel

/-- A fault event of Ply lane 7 of port 15. -/
def laneFault (atOnce : Bool) : FaultRec := { word := mkRes 2 15 7 0 false, row := 0, col := 0, atOnce := atOnce }

/-- The fault events that FaultsAndAgeing counts, and whether they are few. -/
def fewEvents (s : State) (f : FaultRec) : Prop :=
  f.atOnce = false ∧ (((s.eventsOf f.word).filter (fun e => decide (s.now - e.1 ≤ 1000000 * s.fld rRepCfg 0 16)))
    ++ [(s.now, f.row, f.col)]).length < s.fld rRepCfg 16 4

theorem witness_FaultsAndAgeing_faults :
    up.ctl.resetOn = false ∧ fewEvents up (laneFault false) ∧ ¬ fewEvents up (laneFault true)
    ∧ up.firmware = false
    ∧ (let s := withFirmware up; s.fld rRepOverride 0 1 = 0 ∧ s.firmware = true ∧ s.allAwake = true
      ∧ resType (laneFault true).word = 2 ∧ spareOf (laneFault true).word = none ∧ s.freeSpare 2 15 = some 0
      ∧ ({ s with rep := { s.rep with inUse := (List.range 8).map (fun k => mkRes 2 15 k k true) } } : State).freeSpare 2 15 = none)
    ∧ (let f : FaultRec := { laneFault true with word := mkRes 7 0 0 0 false }; spareCount (resType f.word) = 0 ∧ spareOf f.word = none
      ∧ (withFirmware up).freeSpare (resType f.word) (resUnit f.word) = none)
    ∧ (let f : FaultRec := { laneFault true with word := mkRes 4 1 0 0 false }; resType f.word = 4 ∧ f.atOnce = true ∧ spareOf f.word = none
      ∧ ((withFirmware up).freeSpare 4 1).isSome = true) := by
  unfold fewEvents; decide +kernel

/-- A canary with a lap of so many of its target periods. -/
def canary (n : Nat) : Canary := { word := mkRes 1 0 0 0 false, period := n * targetOf (mkRes 1 0 0 0 false) }

/-- One lap at the target period has the margin 0, and none at all the margin 400. -/
theorem witness_FaultsAndAgeing_margins :
    (slowest [canary 1] = some (canary 1) ∧ marginNum (canary 1) < (up.fld rAgeCfg 12 8 : Int) * (targetOf (canary 1).word : Int)
      ∧ up.offset < up.fld rAgeVlimit 0 6)
    ∧ (let s := up.setFld rAgeCfg 12 8 0; (s.fld rAgeCfg 12 8 : Int) * (targetOf (canary 1).word : Int) ≤ marginNum (canary 1)
      ∧ marginNum (canary 1) ≤ (s.fld rAgeCfg 20 8 : Int) * (targetOf (canary 1).word : Int))
    ∧ ((up.fld rAgeCfg 12 8 : Int) * (targetOf (canary 0).word : Int) ≤ marginNum (canary 0)
      ∧ (up.fld rAgeCfg 20 8 : Int) * (targetOf (canary 0).word : Int) < marginNum (canary 0) ∧ -(up.fld rAgeVlimit 6 6 : Int) < up.offset) := by
  have h1 : up.fld rAgeCfg 12 8 = 16 := by decide +kernel
  have h2 : up.fld rAgeCfg 20 8 = 32 := by decide +kernel
  have h3 : (up.setFld rAgeCfg 12 8 0).fld rAgeCfg 12 8 = 0 := by decide +kernel
  have h5 : 1 ≤ targetOf (mkRes 1 0 0 0 false) := Nat.le_max_left _ _
  refine ⟨⟨rfl, ?_, by decide +kernel⟩, ⟨?_, ?_⟩, ⟨?_, ?_, by decide +kernel⟩⟩
  all_goals simp only [h1, h2, h3, canary, marginNum, one_mul, zero_mul, sub_self, Nat.cast_zero]
  all_goals first | omega | positivity

theorem witness_FaultsAndAgeing :
    (let s := timed 5000000000000 (withFirmware up); s.ctl.resetOn = false ∧ s.firmware = true ∧ s.timeValid = true
      ∧ s.rep.lastSelftest + 1000000000 * s.fld rRepCfg 20 12 ≤ s.now ∧ s.age.lastSweep + 1000000000 * s.fld rAgeCfg 0 12 ≤ s.now
      ∧ (laneFault false).atOnce = false ∧ (s.eventsOf (laneFault false).word).length + 1 < s.fld rRepCfg 16 4
      ∧ s.ctl.offsetReq = none ∧ s.fld rAgeStatus 16 1 = 0)
    ∧ (timed 5000000000000 up).firmware = false := by
  decide +kernel

/-! ### Ill-formed commands are refused -/

theorem wf_queue : Instr.wf (.queueDoorbell 63 0) = true ∧ Instr.wf (.queueDoorbell 64 0) = false := by decide
theorem wf_index : Instr.wf (.watchdogWarn 0 0xFFFFFFFF) = true ∧ Instr.wf (.watchdogWarn 0 0x100000000) = false := by decide
theorem wf_port : Instr.wf (.linkUp 15) = true ∧ Instr.wf (.linkUp 16) = false := by decide
theorem wf_lane : Instr.wf (.laneTransition 0 8) = true ∧ Instr.wf (.laneTransition 0 9) = false := by decide
theorem wf_pair : Instr.wf (.getInfo 3) = true ∧ Instr.wf (.getInfo 4) = false := by decide
theorem wf_rank : Instr.wf (.ackSend 65535 false) = true ∧ Instr.wf (.ackSend 65536 false) = false := by decide
theorem wf_seq : Instr.wf (.ack 0 0xFFFFFFFF) = true ∧ Instr.wf (.ack 0 0x100000000) = false := by decide
theorem wf_step : Instr.wf (.ckpPrepareVote (.member 0) (2 ^ 45 - 1)) = true ∧ Instr.wf (.ckpPrepareVote (.member 0) (2 ^ 45)) = false := by decide
theorem wf_voice : Instr.wf (.restoreFence (some (.hedge 65535 16383 16383, 0))) = true
    ∧ Instr.wf (.restoreFence (some (.hedge 65535 16384 0, 0))) = false := by decide
theorem wf_job : Instr.wf (.silentMemberExpiry 4095 0) = true ∧ Instr.wf (.silentMemberExpiry 4096 0) = false := by decide
theorem wf_position : Instr.wf (.parityUnit 7 0 0 [] false false false) = true ∧ Instr.wf (.parityUnit 8 0 0 [] false false false) = false := by decide
theorem wf_offset : Instr.wf (.registerWrite 0x3FFFFF false 0) = true ∧ Instr.wf (.registerWrite 0x400000 false 0) = false := by decide
theorem wf_header : Instr.wf (.packetReceive 0 (List.replicate 63 0) []) = false := by decide
theorem wf_flit : Instr.wf (.creditReturnFlit 0 (List.replicate 256 0)) = true ∧ Instr.wf (.creditReturnFlit 0 (List.replicate 255 0)) = false := by
  decide +kernel
theorem wf_marker : Instr.wf (.audit 0 (List.replicate 16 0)) = true ∧ Instr.wf (.audit 0 (List.replicate 15 0)) = false := by decide
theorem wf_payload : Instr.wf (.packetReceive 0 (List.replicate 64 0) [0, 0, 0]) = false := by decide
theorem wf_beat : Instr.wf (.surveyBeat 0 (List.replicate 1025 0)) = false := by decide +kernel
theorem wf_counter : Instr.wf (.eventCounterWrite 255 0) = true ∧ Instr.wf (.eventCounterAdd 256 0) = false := by decide
theorem wf_block : Instr.wf (.packetBoundaryApply 16) = true ∧ Instr.wf (.packetBoundaryApply 17) = false := by decide
theorem wf_bank : Instr.wf (.sramMarchTest 6 65 false) = true ∧ Instr.wf (.sramMarchTest 7 0 false) = false
    ∧ Instr.wf (.sramMarchTest 0 66 false) = false := by decide

/-! ### Values that the spec gives -/

def ascii9 : List Byte := [0x31, 0x32, 0x33, 0x34, 0x35, 0x36, 0x37, 0x38, 0x39]

/-- spec/09_fabric.md, before R258 and R265. -/
theorem test_check_values : crc32c ascii9 = 0xE3069283 ∧ crc64 ascii9 = 0x6C40DF5F0B497347 := by decide +kernel

/-- spec/02_formats.md, the example after R61. -/
def chipA : Rec := { zeroRec (-10) 3 with zero := false, codes := [100, -3] ++ List.replicate 30 0 }
def chipB : Rec := { zeroRec (-10) 3 with zero := false, codes := [90, -5] ++ List.replicate 30 0 }
theorem test_ply_records : chipA.bytes.take 6 = [0xF6, 0x09, 0x03, 0xFC, 0x64, 0xFD] ∧ chipA.bytes.length = 36
    ∧ (plySum 32 chipA chipB).1.bytes.take 7 = [0xF6, 0x09, 0x04, 0xFB, 0xBE, 0x80, 0xFF]
    ∧ (plySum 32 chipA chipB).1.bytes.length = 52 := by decide +kernel

/-- spec/02_formats.md, the example after R71. -/
theorem test_order_keys : [0x3F800000, 0x7FC00000, 0x7F800000, 0x80000000, 0].map orderKey
    = [0xBF800000, 0xFFFFFFFF, 0xFF800000, 0x80000000, 0x80000000] := by decide +kernel

/-- spec/02_formats.md, the example after R75: 3.0 becomes 384, pattern 0x7C. -/
theorem test_mx_e4m3 : (mxEncode 2 ([f32Val 0x40400000] ++ List.replicate 31 (f32Val 0))).1 = 120
    ∧ (mxEncode 2 ([f32Val 0x40400000] ++ List.replicate 31 (f32Val 0))).2.head? = some 0x7C := by decide +kernel

/-- spec/02_formats.md, the example after R82: 2.25 and -2.25. -/
theorem test_stochastic : Dy.srAt ⟨9, -2⟩ 0 49152 = 3 ∧ Dy.srAt ⟨9, -2⟩ 0 49151 = 2 ∧ Dy.srAt ⟨-9, -2⟩ 0 16383 = -3
    ∧ Dy.srAt ⟨-9, -2⟩ 0 16384 = -2 := by decide +kernel

/-- spec/03_quantiser.md, the examples after R95. -/
theorem test_row_exponents : [1, 2, 4, 8, 512].map (rowExp 0 8) = [3, 4, 5, 6, 12] ∧ rowExp (-6) 8 1 = -3 := by decide +kernel

/-- spec/05_coppice.md, the example after R143. -/
def rhoA : List Dy := [⟨1, -9⟩, ⟨0, 0⟩, ⟨0, 0⟩, ⟨0, 0⟩, ⟨0, 0⟩, ⟨-(2 ^ 20 + 1), -40⟩] ++ List.replicate 26 ⟨0, 0⟩
theorem test_residual_block : (encodeBlock (resBits 2) rhoA).f = -23
    ∧ ((encodeBlock (resBits 2) rhoA).bytes 2).take 6 = [0x89, 0x04, 0x76, 0xFB, 0x00, 0x40]
    ∧ sliceB ((encodeBlock (resBits 2) rhoA).bytes 2) 14 2 = [0xF8, 0xFF] := by decide +kernel

/-- spec/08_collectives.md, the example after R221. -/
theorem test_rings : edgeLink 4 0 6 = 1 ∧ ringPort 4 0 6 = 11 ∧ ringPort 5 0 4 = 6 ∧ peerPort 6 0 1 = 3 := by decide +kernel

/-- spec/09_fabric.md, the example after R266. -/
theorem test_charges : charge 4080 = 17 ∧ charge 204 = 2
    ∧ (hdrBytes { testHdr 0 1 with vc := 0, route := 2, len := 4080 } [0, 0, 0, 0] false).take 6
      = [(hdrBytes (testHdr 0 1) [0, 0, 0, 0] false).getD 0 0, (hdrBytes (testHdr 0 1) [0, 0, 0, 0] false).getD 1 0, 0x24, 0xDB, 0xF0, 0x0F] := by
  decide +kernel

/-- The same example: a chunk takes 963 records of 68 bytes, in 16 packets of 60 and one of 3. -/
theorem test_chunk_records : (fillBy id 65536 (List.replicate 964 68) [] 0).map List.length = [963, 1]
    ∧ (fillBy id 4096 (List.replicate 963 68) [] 0).map List.length = List.replicate 16 60 ++ [3] := by decide +kernel

/-- spec/10_compression.md, the example after R298. -/
theorem test_huffman :
    let lens := codeLengths ((List.range 256).map (fun s =>
      if s = 0 then 40960 else if s = 0x80 then 12288 else if s = 1 then 8192 else if s = 0x81 then 4096 else 0));
    [0, 0x80, 1, 0x81].map (fun s => lens.getD s 0) = [1, 2, 3, 3] ∧ kraft lens = 2 ^ 12
      ∧ streamBits lens [0x00, 0x80, 0x01] = [false, true, false, true, true, false] := by decide +kernel

/-- spec/13_control.md, the example after R389. -/
def exampleDesc : List Byte := [0x12, 0xED, 0x32, 0xCD, 0x03, 0x04, 0xFC, 0xFB] ++ List.replicate 8 0 ++ toLE 17 8 ++ toLE 1 8 ++ List.replicate 32 0
theorem test_descriptor : dType exampleDesc = 0x12 ∧ dIrq exampleDesc = true ∧ dWaitEn exampleDesc = true ∧ dSignalEn exampleDesc = true
    ∧ dFence exampleDesc = false ∧ dWaitCtr exampleDesc = 3 ∧ dSignalCtr exampleDesc = 4 ∧ dWaitValue exampleDesc = 17
    ∧ (up.finish 5 0 exampleDesc 1 0 false false false).byte (up.descAt 5 0 + 49) = 0x05 := by decide +kernel

/-- spec/14_registers.md, the example after R414. -/
theorem test_aliases : target 0x280068 false = .single { key := rEvtStatus, lo := 26, n := 1, pos := 0 }
    ∧ target 0x220000 false = .single { key := rCtrl, lo := 0, n := 1, pos := 0 } := by decide +kernel
theorem test_alias_reads : (after (.registerReadClear 0x280068 false) (up.raise causeConfigCrc)).bus.data = 1
    ∧ (after (.registerReadClear 0x280068 false) (up.raise causeConfigCrc)).rd rEvtStatus = 0 := by decide +kernel
theorem test_alias_stages : (after (.registerWrite 0x220000 false 1) (jobOpen up)).fld rCtrl 0 1 = 0
    ∧ (after (.registerWrite 0x220000 false 1) (jobOpen up)).stagedValue rCtrl = 1
    ∧ (after (.registerWrite 0x220000 false 1) up).fld rCtrl 0 1 = 1 := by decide +kernel

/-- spec/04_topiary.md, the example after R121: 2.0, 5.0, 1.0, 5.0, 5.0 with K = 2. -/
def rowOf5 : List Byte := [0x4000, 0x40A0, 0x3F80, 0x40A0, 0x40A0].flatMap (fun x => toLE x 2)
def row5Block : List Byte :=
  toLE 0x1000 8 ++ toLE 0x2000 8 ++ toLE 0x3000 8 ++ toLE 5 4 ++ toLE 1 4 ++ toLE 10 4 ++ toLE 1 1 ++ toLE 2 1 ++ toLE 0 2
    ++ toLE 0x3F800000 4 ++ toLE 0x3F800000 4 ++ toLE 0 48
set_option maxRecDepth 20000 in
theorem test_topiary_row :
    let t := (up.write 0x1000 rowOf5).runRows row5Block;
    let r := parseTRec (t.read 0x2000 160);
    r.entries.map (fun e => e.index) = [1, 3] ∧ r.count = 5 ∧ r.tied = 1 := by decide +kernel

/-- spec/04_topiary.md, the example after R130. -/
def listOf (tied count : Nat) (left : Int) (es : List (Nat × F32)) : TRec :=
  { parseTRec [] with k := 2, tied := tied, count := count, exact := true, left := { TSum.zero with exact := left }
                      entries := es.map (fun e => ({ index := e.1, value := e.2, key := e.2, weight := 0 } : TEnt)) }
theorem test_merge :
    let r := (up.mergeRun [listOf 0 3 0 [(10, 0x40A00000), (11, 0x40400000)], listOf 1 4 0 [(10, 0x40800000), (20, 0x40400000)]] false true 0 0).1;
    r.dups = 1 ∧ r.count = 6 ∧ r.tied = 2 ∧ r.entries.map (fun e => e.index) = [10, 11] := by decide +kernel

/-! ### One step of some commands, against the spec's rules -/

/-- spec/13_control.md R390: an add wraps at 2^64. -/
theorem test_counter_wraps : (after (.eventCounterAdd 255 2) (up.wr (rEvc 255) wCounter)).rd (rEvc 255) = 1 := by decide +kernel

/-- spec/13_control.md R392: the watch fires at its value and not before. -/
theorem test_watch : (after (.eventCounterWrite 255 4) armed).fld rEvtStatus 28 1 = 0
    ∧ (after (.eventCounterWrite 255 5) armed).fld rEvtStatus 28 1 = 1 := by decide +kernel

/-- spec/14_registers.md R412: the lock is never cleared by a write. -/
theorem test_lock : (after (.lockWrite false) locked).fld rLock 0 1 = 1 ∧ (after (.lockWrite false) locked).fld rLock 8 8 = 1 := by decide +kernel

/-- spec/14_registers.md R401: a refused width reads as 0 with a bus error of kind 1. -/
theorem test_bus_width : (after (.busErrorAccess 0x1000 16 false) up).bus = { data := 0, error := true }
    ∧ (after (.busErrorAccess 0x1000 16 false) up).fld rBusErr 22 2 = 1 := by decide +kernel

/-- spec/15_bringup_power.md R428: reset held for less than 100 ns. -/
theorem test_reset_too_short : exec (.resetDeassert 99 false true) State.reset = .fault .resetHeldTooShort := rfl

/-- spec/14_registers.md R417: the view does not run backward. -/
theorem test_counter_backward :
    (after (.globalCounterSample 5) (after (.globalCounterSample 9) up)).rd rGcnt = 9
    ∧ (after (.globalCounterSample 5) (after (.globalCounterSample 9) up)).fld rGcntState 1 1 = 1 := by decide +kernel

/-- spec/13_control.md R385: RESUME of a queue in ERROR. -/
theorem test_resume : ((after (.queueResume 63) failed).queue 63).st = .running := by decide +kernel

/-- spec/09_fabric.md R284: ADVANCE drains the epoch it leaves. -/
theorem test_epoch : (after .epochAdvance up).epoch = 1 ∧ (after .epochAdvance up).draining = true := by decide +kernel

/-- spec/13_control.md R376: GET_INFO from the boot ROM. -/
theorem test_boot_rom : (after (.getInfo 3) (busy 3 1 [] up)).fld (rMbxRsp 3 1) 8 8 = stOk
    ∧ (after (.getInfo 3) (busy 3 1 [] up)).fld (rMbxState 3) 0 1 = 0 := by decide +kernel

end Sys2Proof.Tests
end

/-! The links (spec/09_fabric.md R258, R261, R285): what a port's going DOWN, starting and resynchronising change, and what
they leave. -/

namespace Sys2Proof.Machine

/-! ### What the accounts of a link event leave alone -/

/-- `t` is `s` but for the accounts that a link event writes: the registers and their staged copies, the engine's state, the
record of its failures, the counts of the route epochs, the dateline that waits and the window hold. -/
def State.AccountsOnly (s t : State) : Prop :=
  t = { s with regs := t.regs, staged := t.staged, ctl := t.ctl, rep := t.rep, epochInj := t.epochInj
               epochEj := t.epochEj, epochAt := t.epochAt, dateWait := t.dateWait, holdUntil := t.holdUntil }

namespace State.AccountsOnly

variable {s t u : State}

theorem trans (hst : s.AccountsOnly t) (htu : t.AccountsOnly u) : s.AccountsOnly u :=
  calc u = { t with regs := u.regs, staged := u.staged, ctl := u.ctl, rep := u.rep, epochInj := u.epochInj
                    epochEj := u.epochEj, epochAt := u.epochAt, dateWait := u.dateWait, holdUntil := u.holdUntil } := htu
    _ = _ := congrArg (fun x : State =>
      { x with regs := u.regs, staged := u.staged, ctl := u.ctl, rep := u.rep, epochInj := u.epochInj
               epochEj := u.epochEj, epochAt := u.epochAt, dateWait := u.dateWait, holdUntil := u.holdUntil }) hst

theorem ports (h : s.AccountsOnly t) : t.ports = s.ports := (congrArg State.ports h :)
theorem txq (h : s.AccountsOnly t) : t.txq = s.txq := (congrArg State.txq h :)
theorem mem (h : s.AccountsOnly t) : t.mem = s.mem := (congrArg State.mem h :)
theorem held (h : s.AccountsOnly t) : t.held = s.held := (congrArg State.held h :)

theorem port (h : s.AccountsOnly t) (k : Nat) : t.port k = s.port k := by rw [State.port, h.ports, State.port]

/-- The accounts do not look at what the links hold. -/
theorem setPort (h : s.AccountsOnly t) (p : Nat) (v : Port) : (s.setPort p v).AccountsOnly (t.setPort p v) := by
  unfold State.setPort
  rw [h.ports]
  exact congrArg (fun x : State => { x with ports := s.ports.setIfInBounds p v }) h

theorem withTxq (h : s.AccountsOnly t) (q : List TxPkt) :
    ({ s with txq := q } : State).AccountsOnly { t with txq := q } :=
  (congrArg (fun x : State => { x with txq := q }) h :)

end State.AccountsOnly

theorem wr_accounts (s : State) (o : Nat) (v : Word) : s.AccountsOnly (s.wr o v) := rfl

theorem setFld_accounts (s : State) (o lo w x : Nat) : s.AccountsOnly (s.setFld o lo w x) := rfl

theorem sat_accounts (s : State) (o lo w n : Nat) : s.AccountsOnly (s.sat o lo w n) := rfl

theorem addF_accounts (s : State) (o lo w n : Nat) : s.AccountsOnly (s.addF o lo w n) := rfl

theorem startHold_accounts (s : State) : s.AccountsOnly s.startHold := rfl

theorem raise_accounts (s : State) (c : Nat) : s.AccountsOnly (s.raise c) := by
  rw [raise_eq]
  rfl

theorem settled_accounts (s : State) : s.AccountsOnly s.settled := by
  rw [settled_shape]
  rfl

theorem withDateWait_accounts (s : State) (d : Option Nat) : s.AccountsOnly { s with dateWait := d } := rfl

theorem countEj_accounts (s : State) (e n : Nat) : s.AccountsOnly (s.countEj e n) := by
  unfold State.countEj
  split
  · rfl
  · split <;> rfl

theorem foldl_discard_accounts (l : List TxPkt) (s : State) : s.AccountsOnly (l.foldl State.discard s) := by
  induction l generalizing s with
  | nil => rfl
  | cons x xs ih => exact (countEj_accounts s _ 1).trans (ih _)

theorem applyAll_accounts (l : List (Nat × Word × Word)) (s : State) : s.AccountsOnly (s.applyAll l) := by
  induction l generalizing s with
  | nil => rfl
  | cons x xs ih => exact (wr_accounts s _ _).trans (ih _)

theorem applyStaged_accounts (s : State) (f : Nat → Bool) : s.AccountsOnly (s.applyStaged f) := by
  unfold State.applyStaged
  simp only
  split
  · rfl
  · exact (applyAll_accounts _ s).trans rfl

theorem foldl_wr_accounts {α : Type} (l : List α) (f : α → Nat) (g : α → Word) (s : State) :
    s.AccountsOnly (l.foldl (fun s e => s.wr (f e) (g e)) s) := by
  induction l generalizing s with
  | nil => rfl
  | cons x xs ih => exact (wr_accounts s _ _).trans (ih _)

theorem advanceEpoch_accounts (s : State) : s.AccountsOnly s.advanceEpoch := rfl

theorem setDateline_accounts (s : State) (d : Nat) : s.AccountsOnly (s.setDateline d) := by
  unfold State.setDateline
  extract_lets b o rows cleared copied moved
  have hcleared : s.AccountsOnly cleared := foldl_wr_accounts _ _ _ s
  have hcopied : cleared.AccountsOnly copied := foldl_wr_accounts rows _ _ cleared
  have hmoved : copied.AccountsOnly moved := (wr_accounts copied _ _).trans (setFld_accounts _ _ _ _ _)
  exact (((hcleared.trans hcopied).trans hmoved).trans (advanceEpoch_accounts moved)).trans (withDateWait_accounts _ _)

/-- The dateline stays, waits for the draining epoch to be retired, or moves (R276). -/
theorem moveDateline_cases (s : State) (p : Nat) :
    s.moveDateline p = s ∨ ∃ d, s.moveDateline p = { s with dateWait := some d } ∨ s.moveDateline p = s.setDateline d := by
  unfold State.moveDateline
  extract_lets n d
  split
  · exact .inl rfl
  · split
    · exact .inr ⟨d, .inl rfl⟩
    · exact .inr ⟨d, .inr rfl⟩

theorem moveDateline_accounts (s : State) (p : Nat) : s.AccountsOnly (s.moveDateline p) := by
  obtain h | ⟨d, h | h⟩ := moveDateline_cases s p <;> rw [h]
  · rfl
  · exact withDateWait_accounts s _
  · exact setDateline_accounts s d

/-! ### A cause, once raised, stays raised -/

/-- Raising a cause clears no other. -/
theorem raise_keeps_cause (s : State) (c i : Nat) (h : (s.rd rEvtStatus).getLsbD i = true) :
    ((s.raise c).rd rEvtStatus).getLsbD i = true := by
  have hi : i < 64 := BitVec.lt_of_getLsbD h
  rw [raise_rd_self, getLsbD_setBits _ _ _ _ _ hi]
  split
  · rename_i hc
    have : i - c = 0 := by omega
    rw [this]
    rfl
  · exact h

theorem raise_sets_cause (s : State) (c : Nat) (hc : c < 64) : ((s.raise c).rd rEvtStatus).getLsbD c = true := by
  rw [raise_rd_self, getLsbD_setBits _ _ _ _ _ hc]
  simp

theorem watchStep_keeps_cause (s : State) (k i : Nat) (h : (s.rd rEvtStatus).getLsbD i = true) :
    ((s.watchStep k).rd rEvtStatus).getLsbD i = true := by
  unfold State.watchStep
  simp only
  split
  · refine raise_keeps_cause _ 28 i ?_
    rwa [rd_setFld_ne _ _ _ _ _ _ (by simp only [rEvtStatus, rEvwCfg]; omega)]
  · exact h

theorem checkWatches_keeps_cause (s : State) (i : Nat) (h : (s.rd rEvtStatus).getLsbD i = true) :
    (s.checkWatches.rd rEvtStatus).getLsbD i = true := by
  unfold State.checkWatches
  generalize List.range 8 = l
  induction l generalizing s with
  | nil => exact h
  | cons k ks ih => exact ih _ (watchStep_keeps_cause s k i h)

theorem settleQuiesce_keeps_cause (s : State) (i : Nat) (h : (s.rd rEvtStatus).getLsbD i = true) :
    (s.settleQuiesce.rd rEvtStatus).getLsbD i = true := by
  unfold State.settleQuiesce State.enter State.answer
  split
  · split
    · exact h
    · exact raise_keeps_cause _ 29 i h
  · exact h

theorem settled_keeps_cause (s : State) (i : Nat) (h : (s.rd rEvtStatus).getLsbD i = true) :
    (s.settled.rd rEvtStatus).getLsbD i = true :=
  checkWatches_keeps_cause _ i (settleQuiesce_keeps_cause s i h)

/-! ### Registers -/

/-- `settled` leaves every register above the watches as it is: those of the ports and of the Router among them. -/
theorem settled_rd_of_watches_lt (s : State) (o : Nat) (h : rEvwCfg 7 < o) : s.settled.rd o = s.rd o := by
  simp only [rEvwCfg] at h
  refine settled_rd s o ?_ (fun k hk => ?_)
  · simp only [rEvtStatus]; omega
  · simp only [rEvwCfg]; omega

theorem rd_foldl_wr_of_ne {α : Type} (l : List α) (f : α → Nat) (g : α → Word) (s : State) (o : Nat)
    (h : ∀ e ∈ l, o ≠ f e) : (l.foldl (fun s e => s.wr (f e) (g e)) s).rd o = s.rd o := by
  induction l generalizing s with
  | nil => rfl
  | cons x xs ih =>
    rw [List.foldl_cons, ih _ (fun e he => h e (by simp [he])), rd_wr_ne _ _ _ _ (h x (by simp))]

theorem routeRows_ge (s : State) (b : Nat) : ∀ e ∈ s.routeRows b, rFabRoute b 0 ≤ e.1 := by
  intro e he
  simp only [State.routeRows, List.mem_filter, Bool.and_eq_true, decide_eq_true_eq] at he
  exact he.2.1

theorem advanceEpoch_rd_of_lt (s : State) (o : Nat) (h : o < rFabEpoch) : s.advanceEpoch.rd o = s.rd o := by
  have h0 : o ≠ rFabEpoch := by omega
  have h1 : o ≠ rFabEpochInj := by simp only [rFabEpoch, rFabEpochInj] at *; omega
  have h2 : o ≠ rFabEpochEj := by simp only [rFabEpoch, rFabEpochEj] at *; omega
  unfold State.advanceEpoch
  simp only
  change State.rd (State.setFld _ _ _ _ _) o = _
  rw [rd_setFld_ne _ _ _ _ _ _ h0, rd_setFld_ne _ _ _ _ _ _ h0, rd_setFld_ne _ _ _ _ _ _ h0, rd_wr_ne _ _ _ _ h2,
    rd_wr_ne _ _ _ _ h1]

theorem withDateWait_rd (s : State) (d : Option Nat) (o : Nat) : ({ s with dateWait := d } : State).rd o = s.rd o := rfl

/-- A new dateline is written among the Router's registers. -/
theorem setDateline_rd_of_lt (s : State) (d o : Nat) (h : o < rFabEpoch) : (s.setDateline d).rd o = s.rd o := by
  have hrow : ∀ b, o ≠ rFabRow b := fun b => by simp only [rFabEpoch, rFabRow] at *; omega
  unfold State.setDateline
  extract_lets b n rows cleared copied moved
  have hcleared : cleared.rd o = s.rd o := rd_foldl_wr_of_ne _ _ _ s o (fun e he => by
    have := routeRows_ge _ _ e he
    simp only [rFabEpoch, rFabRoute] at *
    omega)
  have hcopied : copied.rd o = cleared.rd o := rd_foldl_wr_of_ne rows _ _ cleared o (fun e _ => by
    simp only [rFabEpoch, rFabRoute] at *
    omega)
  have hmoved : moved.rd o = copied.rd o := (rd_setFld_ne _ _ _ _ _ _ (hrow n)).trans (rd_wr_ne _ _ _ _ (hrow n))
  have hadvanced : moved.advanceEpoch.rd o = moved.rd o := advanceEpoch_rd_of_lt _ _ h
  calc State.rd _ o = moved.advanceEpoch.rd o := withDateWait_rd _ _ _
    _ = s.rd o := by rw [hadvanced, hmoved, hcopied, hcleared]

theorem moveDateline_rd_of_lt (s : State) (p o : Nat) (h : o < rFabEpoch) : (s.moveDateline p).rd o = s.rd o := by
  obtain hd | ⟨d, hd | hd⟩ := moveDateline_cases s p <;> rw [hd]
  · exact withDateWait_rd s _ o
  · exact setDateline_rd_of_lt s d o h

/-! ### A port going DOWN (R285) -/

/-- A port DOWN with nothing of it left in the Router, and `s` as it is otherwise. -/
def State.emptied (s : State) (p : Nat) (keep : Bool) : State :=
  ({ s with txq := s.txq.filter (fun t => !(t.inPort == some p)) } : State).setPort p
    { s.port p with link := .down, phyUp := (s.port p).phyUp && keep, sawSync := false, peerResync := false }

/-- Where a port that was not DOWN already goes DOWN: what is staged for it applies, LINK_STATE is raised and the dateline
moves (R276, R404). -/
def State.announceDown (s : State) (p : Nat) : State :=
  let t := (s.applyStaged (fun k => decide (classOf k = .packet) && packetBlock k == p)).raise causeLink
  if 14 ≤ p then t.moveDateline p else t

theorem announceDown_accounts (s : State) (p : Nat) : s.AccountsOnly (s.announceDown p) := by
  have h := (applyStaged_accounts s (fun k => decide (classOf k = .packet) && packetBlock k == p)).trans
    (raise_accounts _ causeLink)
  unfold State.announceDown
  simp only
  split
  · exact h.trans (moveDateline_accounts _ p)
  · exact h

theorem announceDown_raises_link (s : State) (p : Nat) : ((s.announceDown p).rd rEvtStatus).getLsbD causeLink = true := by
  have h := raise_sets_cause (s.applyStaged (fun k => decide (classOf k = .packet) && packetBlock k == p)) causeLink (by decide)
  unfold State.announceDown
  simp only
  split
  · rwa [moveDateline_rd_of_lt _ _ _ (by decide)]
  · exact h

/-- What `portDown` does, in its parts. -/
theorem portDown_parts (s : State) (p : Nat) (keep : Bool) :
    ∃ t, (s.emptied p keep).AccountsOnly t ∧
      s.portDown p keep = if (s.port p).link = .down then t else t.announceDown p := by
  unfold State.portDown
  extract_lets x mine counted emptied down held raised t
  have hcounted : s.AccountsOnly counted := foldl_discard_accounts mine s
  have hdown : (s.emptied p keep).AccountsOnly down := by
    unfold State.emptied
    rw [← hcounted.txq]
    exact (hcounted.withTxq _).setPort p _
  have hheld : down.AccountsOnly held := by
    unfold held
    split
    · exact startHold_accounts down
    · rfl
  exact ⟨held, hdown.trans hheld, rfl⟩

theorem portDown_accounts (s : State) (p : Nat) (keep : Bool) : (s.emptied p keep).AccountsOnly (s.portDown p keep) := by
  obtain ⟨t, ht, hdown⟩ := portDown_parts s p keep
  rw [hdown]
  split
  · exact ht
  · exact ht.trans (announceDown_accounts t p)

theorem portDown_raises_link (s : State) (p : Nat) (keep : Bool) (h : (s.port p).link ≠ .down) :
    ((s.portDown p keep).rd rEvtStatus).getLsbD causeLink = true := by
  obtain ⟨t, -, hdown⟩ := portDown_parts s p keep
  rw [hdown, if_neg h]
  exact announceDown_raises_link t p

/-! ### A port starting (R285) -/

/-- A port that enters START: it has sent a sync flit and an AUDIT of zeros. -/
def Port.started (x : Port) : Port :=
  { x with link := .start, sawSync := false, peerResync := false, sent := [.sync, .audit [0, 0, 0, 0] x.free.toList false] }

theorem setPort_setPort (s : State) (p : Nat) (v w : Port) : (s.setPort p v).setPort p w = s.setPort p w := by
  simp [State.setPort]

theorem mayStart_setPort (s : State) (p : Nat) (v : Port) (hp : p < 16) (hv : v.active = (s.port p).active) :
    (s.setPort p v).mayStart p = s.mayStart p := by
  unfold State.mayStart
  rw [port_setPort_self _ _ _ hp, hv]
  rfl

theorem tryStart_of_mayStart (s : State) (p : Nat) (hp : p < 16) (hdown : (s.port p).link = .down)
    (hphy : (s.port p).phyUp = true) (hmay : s.mayStart p = true) :
    s.tryStart p = (((s.setPort p (s.port p).started).addF (rPortTxFlits p) 0 64 2).startHold).raise causeLink := by
  simp only [State.tryStart, State.sendUnits, hdown, hphy, hmay, port_setPort_self _ _ _ hp, setPort_setPort, decide_true,
    Bool.and_self, if_true, Port.started]

theorem tryStart_of_not (s : State) (p : Nat) (h : (s.port p).link ≠ .down ∨ s.mayStart p = false) : s.tryStart p = s := by
  unfold State.tryStart
  rcases h with h | h <;> simp [h]

theorem rd_addF_word (s : State) (o n : Nat) : (s.addF o 0 64 n).rd o = s.rd o + BitVec.ofNat 64 n := by
  have hword : ∀ v : Word, bitsAt v.toNat 0 64 = v.toNat := fun v => by simp [bitsAt, Nat.mod_eq_of_lt v.isLt]
  apply BitVec.eq_of_toNat_eq
  rw [State.addF, rd_setFld_self, ← hword (setBits _ _ _ _), bitsAt_setBits_self _ _ _ _ (by decide), State.fld, hword,
    BitVec.toNat_add, BitVec.toNat_ofNat]
  omega

/-! ### A port resynchronising (R40, R285) -/

/-- The packet that is being forwarded from port `p`, if one is, is completed with zeros (R273). -/
def State.zeroForwarded (s : State) (p : Nat) (forwarding : Bool) : State :=
  if forwarding then
    match s.txq.reverse.find? (fun t => t.inPort == some p) with
    | none => s
    | some t =>
      let z := { t with pkt := { t.pkt with payload := List.replicate t.pkt.payload.length 0#8 } }
      { s with txq := s.txq.map (fun u => if u = t then z else u) }
  else s

theorem zeroForwarded_eq (s : State) (p : Nat) (forwarding : Bool) :
    s.zeroForwarded p forwarding = { s with txq := (s.zeroForwarded p forwarding).txq } := by
  unfold State.zeroForwarded
  split
  · split <;> rfl
  · rfl

/-- The headers in the Router stay: only a payload is replaced. -/
theorem zeroForwarded_headers (s : State) (p : Nat) (forwarding : Bool) :
    (s.zeroForwarded p forwarding).txq.map (fun x => x.pkt.hdr) = s.txq.map (fun x => x.pkt.hdr) := by
  unfold State.zeroForwarded
  split
  · split
    · rfl
    · simp only [List.map_map]
      refine List.map_congr_left (fun u _ => ?_)
      simp only [Function.comp_apply]
      split <;> simp [*]
  · rfl

/-- An uncorrectable flit of port `p` is counted, and the packet in progress is lost. -/
def State.flitLost (s : State) (p : Nat) (forwarding : Bool) : State := (s.sat (rPortErr p) 0 8 1).zeroForwarded p forwarding

/-- But for the packets in the Router, a lost flit is a count. -/
theorem flitLost_eq (s : State) (p : Nat) (forwarding : Bool) :
    s.flitLost p forwarding = { s.sat (rPortErr p) 0 8 1 with txq := (s.flitLost p forwarding).txq } :=
  zeroForwarded_eq _ p forwarding

theorem flitLost_headers (s : State) (p : Nat) (forwarding : Bool) :
    (s.flitLost p forwarding).txq.map (fun x => x.pkt.hdr) = s.txq.map (fun x => x.pkt.hdr) :=
  zeroForwarded_headers _ p forwarding

theorem flitLost_port (s : State) (p : Nat) (forwarding : Bool) (k : Nat) : (s.flitLost p forwarding).port k = s.port k := by
  rw [flitLost_eq]
  rfl

theorem flitLost_mem (s : State) (p : Nat) (forwarding : Bool) : (s.flitLost p forwarding).mem = s.mem := by
  rw [flitLost_eq]
  rfl

theorem flitLost_rd (s : State) (p : Nat) (forwarding : Bool) (o : Nat) :
    (s.flitLost p forwarding).rd o = (s.sat (rPortErr p) 0 8 1).rd o := by
  rw [flitLost_eq]
  rfl

theorem flitLost_now (s : State) (p : Nat) (forwarding : Bool) : (s.flitLost p forwarding).now = s.now := by
  rw [State.now, flitLost_rd, rd_sat_ne _ _ _ _ _ _ (by simp only [rGcnt, rPortErr]; omega), State.now]

/-- A port that enters RESYNC at a time. -/
def Port.resyncing (x : Port) (now : Nat) : Port := { x with link := .resync, sawSync := false, resyncAt := now }

theorem toResync_of_up (s : State) (p : Nat) (h : (s.port p).link = .up) :
    s.toResync p = (s.setPort p ((s.port p).resyncing s.now)).sat (rPortErr p) 24 8 1 := by
  simp [State.toResync, Port.resyncing, h]

/-! ### The commands -/

/-- The transitions of a lane that count when one more comes: those of the last 100 ms, and this one (R258). -/
def Port.transitions (x : Port) (lane now : Nat) : List Nat :=
  ((x.laneTimes.getD lane []).filter (fun t => decide (now - t ≤ 100000000))) ++ [now]

theorem resetOn_of_awake (s : State) (n : Nat) (h : s.awake n = true) : s.ctl.resetOn = false := by
  simp only [State.awake, Bool.and_eq_true, Bool.not_eq_true'] at h
  exact h.1

/-- A command of the links acts where the Router is awake. -/
theorem done_live_of_awake (s : State) (f : State → State) (h : s.awake 5 = true) :
    done (s.live f) = .next (f s).settled := by
  rw [live_eq _ _ (resetOn_of_awake s 5 h), done]

section

variable (s : State) (p : Nat) (hp : p < 16) (hs : s.awake 5 = true)

include hp hs

theorem exec_linkUp : exec (.linkUp p) s = .next (((s.setPort p { s.port p with phyUp := true }).tryStart p).settled) := by
  refine (done_live_of_awake s (effLinkUp p) hs).trans ?_
  simp [effLinkUp, hp, hs]

theorem exec_linkDown : exec (.linkDown p) s = .next ((s.portDown p false).settled) := by
  refine (done_live_of_awake s (effLinkDown p) hs).trans ?_
  simp [effLinkDown, hp, hs]

theorem exec_uncorrectableFlit (forwarding : Bool) (hup : (s.port p).link = .up) :
    exec (.uncorrectableFlit p forwarding) s
      = .next ((((s.flitLost p forwarding).setPort p ((s.port p).resyncing s.now)).sat (rPortErr p) 24 8 1).settled) := by
  have heff : effUncorrectableFlit p forwarding s = (s.flitLost p forwarding).toResync p := by
    unfold effUncorrectableFlit
    simp only [hs, hp, hup, decide_true, Bool.and_self, true_or, if_true]
    rfl
  have hlost := flitLost_port s p forwarding p
  refine (done_live_of_awake s (effUncorrectableFlit p forwarding) hs).trans ?_
  rw [heff, toResync_of_up _ _ (hlost ▸ hup), hlost, flitLost_now]

theorem exec_resyncTimeout (hl : (s.port p).link = .resync) (hsync : (s.port p).sawSync = false) (hv : s.timeValid = true)
    (ht : (s.port p).resyncAt + 1000 * s.fld rFabTimers 37 10 ≤ s.now) :
    exec (.resyncTimeout p) s = .next ((s.portDown p false).settled) := by
  refine (done_live_of_awake s (effResyncTimeout p) hs).trans ?_
  simp [effResyncTimeout, hp, hl, hsync, hv, ht]

/-- LINK_UP on a port that may start (R285). -/
theorem exec_linkUp_of_mayStart (hdown : (s.port p).link = .down) (hmay : s.mayStart p = true) :
    exec (.linkUp p) s = .next (((((s.setPort p { s.port p with phyUp := true }.started).addF
      (rPortTxFlits p) 0 64 2).startHold).raise causeLink).settled) := by
  have hself := port_setPort_self s p { s.port p with phyUp := true } hp
  rw [exec_linkUp s p hp hs, tryStart_of_mayStart _ p hp, hself, setPort_setPort]
  · rw [hself, hdown]
  · rw [hself]
  · rw [mayStart_setPort s p { s.port p with phyUp := true } hp rfl, hmay]

/-- LINK_UP on any other port. -/
theorem exec_linkUp_of_not (h : (s.port p).link ≠ .down ∨ s.mayStart p = false) :
    exec (.linkUp p) s = .next ((s.setPort p { s.port p with phyUp := true }).settled) := by
  rw [exec_linkUp s p hp hs, tryStart_of_not]
  rwa [port_setPort_self _ _ _ hp, mayStart_setPort s p { s.port p with phyUp := true } hp rfl]

theorem exec_laneTransition_few (lane : Nat) (hlane : lane < 9) (hfew : ((s.port p).transitions lane s.now).length < 3) :
    exec (.laneTransition p lane) s = .next ((s.setPort p { s.port p with
      laneTimes := (s.port p).laneTimes.setIfInBounds lane ((s.port p).transitions lane s.now) }).settled) := by
  refine (done_live_of_awake s (effLaneTransition p lane) hs).trans ?_
  unfold Port.transitions at hfew ⊢
  simp only [effLaneTransition, hs, hp, hlane, decide_true, Bool.and_self, if_true, Nat.not_le.mpr hfew, if_false]

theorem exec_laneTransition_third (lane : Nat) (hlane : lane < 9) (hmany : 3 ≤ ((s.port p).transitions lane s.now).length) :
    exec (.laneTransition p lane) s
      = .next (((s.setPort p { s.port p with laneTimes := (s.port p).laneTimes.setIfInBounds lane [] }).lasting
          (mkRes 1 p lane 0 false) []).settled) := by
  refine (done_live_of_awake s (effLaneTransition p lane) hs).trans ?_
  unfold Port.transitions at hmany
  simp only [effLaneTransition, hs, hp, hlane, decide_true, Bool.and_self, if_true, hmany]

theorem exec_syncFlit_of_waiting (h : (s.port p).link = .start ∨ (s.port p).link = .resync) :
    exec (.syncFlit p) s = .next (((s.addF (rPortRxFlits p) 0 64 1).setPort p { s.port p with sawSync := true }).settled) := by
  refine (done_live_of_awake s (effSyncFlit p) hs).trans ?_
  rcases h with h | h <;> simp [effSyncFlit, hp, hs, h]

theorem exec_syncFlit_of_up (h : (s.port p).link = .up) :
    exec (.syncFlit p) s = .next ((s.addF (rPortRxFlits p) 0 64 1).settled) := by
  refine (done_live_of_awake s (effSyncFlit p) hs).trans ?_
  simp [effSyncFlit, hp, hs, h]

end

/-! ### What the states that the commands lead to hold -/

theorem emptied_port_self (s : State) (p : Nat) (keep : Bool) (hp : p < 16) :
    (s.emptied p keep).port p = { s.port p with link := .down, phyUp := (s.port p).phyUp && keep, sawSync := false,
                                                peerResync := false } :=
  port_setPort_self _ _ _ hp

theorem emptied_port_ne (s : State) (p k : Nat) (keep : Bool) (h : k ≠ p) : (s.emptied p keep).port k = s.port k :=
  port_setPort_ne _ _ _ _ h

/-- What LINK_DOWN and a resynchronisation that times out lead to. -/
theorem portDown_settled_accounts (s : State) (p : Nat) (keep : Bool) :
    (s.emptied p keep).AccountsOnly (s.portDown p keep).settled :=
  (portDown_accounts s p keep).trans (settled_accounts _)

/-- LINK_UP on a port that may start. -/
theorem linkUp_starts (s : State) (p : Nat) (hp : p < 16) (hs : s.awake 5 = true) (hdown : (s.port p).link = .down)
    (hmay : s.mayStart p = true) :
    ∃ t, exec (.linkUp p) s = .next t ∧ (t.port p).link = .start
      ∧ (t.port p).phyUp = true ∧ (t.port p).sent = [.sync, .audit [0, 0, 0, 0] (s.port p).free.toList false]
      ∧ (t.rd rEvtStatus).getLsbD 31 = true ∧ t.rd (rPortTxFlits p) = s.rd (rPortTxFlits p) + 2
      ∧ (∀ k, k ≠ p → t.port k = s.port k) ∧ t.txq = s.txq ∧ t.mem = s.mem := by
  set x : Port := { s.port p with phyUp := true }.started
  have hacc := (((addF_accounts (s.setPort p x) (rPortTxFlits p) 0 64 2).trans (startHold_accounts _)).trans
    (raise_accounts _ causeLink)).trans (settled_accounts _)
  have hport := (hacc.port p).trans (port_setPort_self s p x hp)
  refine ⟨_, exec_linkUp_of_mayStart s p hp hs hdown hmay, ?_, ?_, ?_, ?_, ?_, ?_, hacc.txq, hacc.mem⟩
  · rw [hport]; rfl
  · rw [hport]; rfl
  · rw [hport]; rfl
  · exact settled_keeps_cause _ _ (raise_sets_cause _ causeLink (by decide))
  · rw [settled_rd_of_watches_lt _ _ (by simp only [rEvwCfg, rPortTxFlits]; omega),
      raise_rd_ne _ _ _ (by simp only [rEvtStatus, rPortTxFlits]; omega)]
    exact rd_addF_word _ _ 2
  · exact fun k hk => (hacc.port k).trans (port_setPort_ne s p k x hk)

theorem linkDown_empties (s : State) (p : Nat) (hp : p < 16) (hs : s.awake 5 = true) :
    ∃ t, exec (.linkDown p) s = .next t ∧ (t.port p).link = .down ∧ (t.port p).phyUp = false
      ∧ t.txq = s.txq.filter (fun x => !(x.inPort == some p)) ∧ (∀ k, k ≠ p → t.port k = s.port k)
      ∧ ((s.port p).link ≠ .down → (t.rd rEvtStatus).getLsbD 31 = true) ∧ t.mem = s.mem ∧ t.held = s.held := by
  have hacc := portDown_settled_accounts s p false
  have hport := (hacc.port p).trans (emptied_port_self s p false hp)
  refine ⟨_, exec_linkDown s p hp hs, ?_, ?_, hacc.txq, ?_, ?_, hacc.mem, hacc.held⟩
  · rw [hport]
  · rw [hport, Bool.and_false]
  · exact fun k hk => (hacc.port k).trans (emptied_port_ne s p k false hk)
  · exact fun h => settled_keeps_cause _ _ (portDown_raises_link s p false h)

/-- UNCORRECTABLE_FLIT on a port that is up. -/
theorem uncorrectableFlit_resyncs (s : State) (p : Nat) (hp : p < 16) (hs : s.awake 5 = true) (forwarding : Bool)
    (hup : (s.port p).link = .up) :
    ∃ t, exec (.uncorrectableFlit p forwarding) s = .next t ∧ (t.port p).link = .resync
      ∧ (t.port p).resyncAt = s.now ∧ (t.port p).sawSync = false
      ∧ t.fld (rPortErr p) 0 8 = min 255 (s.fld (rPortErr p) 0 8 + 1)
      ∧ t.fld (rPortErr p) 24 8 = min 255 (s.fld (rPortErr p) 24 8 + 1) ∧ (forwarding = false → t.txq = s.txq)
      ∧ t.txq.map (fun x => x.pkt.hdr) = s.txq.map (fun x => x.pkt.hdr) ∧ (∀ k, k ≠ p → t.port k = s.port k)
      ∧ t.mem = s.mem := by
  set x := (s.port p).resyncing s.now
  set lost := s.flitLost p forwarding
  have hacc := (sat_accounts (lost.setPort p x) (rPortErr p) 24 8 1).trans (settled_accounts _)
  have hport := (hacc.port p).trans (port_setPort_self lost p x hp)
  have herr (lo w : Nat) : (((lost.setPort p x).sat (rPortErr p) 24 8 1).settled).fld (rPortErr p) lo w
      = ((s.sat (rPortErr p) 0 8 1).sat (rPortErr p) 24 8 1).fld (rPortErr p) lo w := by
    have hlost : (lost.setPort p x).rd (rPortErr p) = (s.sat (rPortErr p) 0 8 1).rd (rPortErr p) := flitLost_rd s p forwarding _
    rw [State.fld, settled_rd_of_watches_lt _ _ (by simp only [rEvwCfg, rPortErr]; omega)]
    simp only [State.sat, State.fld, rd_setFld_self] at hlost ⊢
    rw [hlost]
  refine ⟨_, exec_uncorrectableFlit s p hp hs forwarding hup, ?_, ?_, ?_, ?_, ?_, ?_, ?_, ?_, ?_⟩
  · rw [hport]; rfl
  · rw [hport]; rfl
  · rw [hport]; rfl
  · rw [herr, State.sat, fld_setFld_ne _ _ _ _ _ _ _ (by decide) (by decide)]
    exact fld_sat_self s _ 0 8 1 (by decide)
  · rw [herr, fld_sat_self _ _ _ _ _ (by decide), State.sat, fld_setFld_ne _ _ _ _ _ _ _ (by decide) (by decide)]
    rfl
  · rintro rfl
    exact hacc.txq
  · rw [hacc.txq]
    exact flitLost_headers s p forwarding
  · exact fun k hk => ((hacc.port k).trans (port_setPort_ne lost p k x hk)).trans (flitLost_port s p forwarding k)
  · exact hacc.mem.trans (flitLost_mem s p forwarding)

theorem resyncTimeout_takes_down (s : State) (p : Nat) (hp : p < 16) (hs : s.awake 5 = true)
    (hl : (s.port p).link = .resync) (hsync : (s.port p).sawSync = false) (hv : s.timeValid = true)
    (ht : (s.port p).resyncAt + 1000 * s.fld rFabTimers 37 10 ≤ s.now) :
    ∃ t, exec (.resyncTimeout p) s = .next t ∧ (t.port p).link = .down ∧ (∀ k, k ≠ p → t.port k = s.port k)
      ∧ t.mem = s.mem := by
  have hacc := portDown_settled_accounts s p false
  refine ⟨_, exec_resyncTimeout s p hp hs hl hsync hv ht, ?_, ?_, hacc.mem⟩
  · rw [hacc.port, emptied_port_self s p false hp]
  · exact fun k hk => (hacc.port k).trans (emptied_port_ne s p k false hk)

/-! ### The obligations -/

/-- Settles O33: LINK_UP and LINK_DOWN through the accounts that they leave behind, LANE_TRANSITION by the number of
transitions in the last 100 ms. -/
theorem linksAndLanes : Obligations.LinksAndLanes := by
  unfold Obligations.LinksAndLanes
  refine ⟨fun p s hp hs => ⟨?_, ?_, ?_⟩, fun p lane s hp hlane hs => ⟨?_, ?_⟩⟩
  · exact linkUp_starts s p hp hs
  · exact exec_linkUp_of_not s p hp hs
  · exact linkDown_empties s p hp hs
  · exact exec_laneTransition_few s p hp hs lane hlane
  · exact exec_laneTransition_third s p hp hs lane hlane

/-- Settles O34: each command by the link state that it finds. -/
theorem resynchronises : Obligations.Resynchronises := by
  unfold Obligations.Resynchronises
  refine fun p s hp hs => ⟨?_, ?_, ?_, ?_⟩
  · exact uncorrectableFlit_resyncs s p hp hs
  · exact resyncTimeout_takes_down s p hp hs
  · exact exec_syncFlit_of_waiting s p hp hs
  · exact exec_syncFlit_of_up s p hp hs

end Sys2Proof.Machine

/-! The Quantiser's input (spec/03_quantiser.md R85 to R91, spec/06_ply_reduction.md R176): what a Feed beat does, when a
command's lead leaves, and how a lead chunk joins the leads of its ring. -/

namespace Sys2Proof.Machine

/-! ### Commands that work in a unit -/

/-- Out of reset, and with no unit held up by a digest record (R328), a command that works in some units has its effect. -/
theorem done_live_working (units : List Nat) (f : State → State) (s : State) (hr : s.ctl.resetOn = false) (hf : s.flows) :
    done (s.live (State.working units f)) = .next (f s).settled := by
  rw [live_eq _ _ hr, working_of_flows _ _ _ hf, done]

/-- A chunk of the running collective reaches its consumer (spec/06_ply_reduction.md R180). -/
theorem sorted_of_use {kind src seq : Nat} {mc : Bool} {h : Held} {s : State} (f : State → State)
    (hheld : s.heldChunk kind src seq mc = some h) (huse : s.sortChunk h.hdr.job src = .use) :
    s.sorted kind src seq mc f = f s := by
  simp only [State.sorted, hheld, huse]

/-- A data chunk that reaches its command is handed to its consumer, whatever unit the consumer stands in. -/
theorem done_live_sorted_of_delivers {kind src seq : Nat} {mc : Bool} {h : Held} {c : Cmd} {s : State} (units : List Nat)
    (f : State → State) (hd : s.delivers kind src seq mc h c) (hkind : kind ≤ 6) :
    done (s.live (State.working units (fun s => (s.sorted kind src seq mc f).formDigests))) = .next ((f s).formDigests.settled) := by
  obtain ⟨hr, hflows, hheld, huse, -, -, -⟩ := hd
  rw [done_live_working units _ s hr (hflows hkind), sorted_of_use f hheld huse]

/-! ### Feed beats -/

section

variable {tag : BitVec 128} {c : Cmd} {s : State} (payload : List Bf16) (hc : s.feedCmd tag = some c)

include hc

/-- A micro-batch beat of the value channel adds to the accumulators of its elements (R176). -/
theorem effMicroBeat_of_aux (haux : c.aux ≠ 0) :
    effMicroBeat false tag payload s = (payload.take (c.elements - tagOffset tag)).zipIdx.foldl (fun s x =>
      let a := c.aux + 4 * (tagOffset tag + x.2)
      s.writeNat a 4 (addF32 (BitVec.ofNat 32 (s.readNat a 4)) (bf16ToF32 x.1)).toNat) s := by
  simp only [effMicroBeat, hc, Bool.false_or, beq_eq_false_iff_ne.mpr haux, Bool.false_eq_true, if_false]

/-- A micro-batch beat on the survey channel fails its command. -/
theorem effMicroBeat_survey : effMicroBeat true tag payload s = s.failCmd c.q c.i stInvalid 0 := by
  simp only [effMicroBeat, hc, Bool.true_or, if_true]

variable (hm : tagMicro tag = false) (hfree : s.bucketFree c = true) (hb : tagOffset tag / 1024 < c.beatCount)

include hm hfree hb

/-- A beat of the survey channel that was not surveyed before the lead left is surveyed. -/
theorem effSurveyBeat_of_new (hsent : c.lead.sent = false) (hnew : c.lead.surveyed.contains (tagOffset tag / 1024) = false) :
    effSurveyBeat tag payload s = s.surveyRun c (1024 * (tagOffset tag / 1024))
      (s.beatGrads c (1024 * (tagOffset tag / 1024)) payload) [tagOffset tag / 1024] := by
  simp only [effSurveyBeat, hc, hm, hfree, hsent, hnew, decide_eq_false (Nat.not_le.mpr hb), Bool.not_true, Bool.or_self,
    Bool.false_eq_true, if_false]

/-- What a beat of the value channel that was not converted before waits for, in the order in which it is asked: the agreed
scales of its groups (R90), the copy stream of an image in progress (R152). -/
theorem effValueBeat_of_new (hnew : c.conv.beats.contains (tagOffset tag / 1024) = false) :
    effValueBeat tag payload s =
      (let b := tagOffset tag / 1024
      if c.leadReady b = false then s.putCmd (c.stalled 1 b)
      else if s.copyHolds c = true then s.putCmd (c.stalled 2 b)
      else (((s.convBeat (c.stalled 0 b) b (s.beatGrads c (1024 * b) payload)).zeroAcc c b).convCheck c.q c.i).sendOwn c.q c.i) := by
  simp only [effValueBeat, hc, hm, hfree, hnew, decide_eq_false (Nat.not_le.mpr hb), Bool.not_true, Bool.or_self,
    Bool.false_eq_true, if_false, Bool.not_eq_true']

end

/-! ### The lead leaves -/

/-- The Sequencer surveys a bucket in memory as it reads it (log 8); a bucket of the Feed was surveyed beat by beat. -/
def State.surveySource (s : State) (c : Cmd) : State :=
  if c.srcFeed then s else s.surveyRun c 0 ((List.range c.elements).map (fun j =>
    s.gradOf c j (BitVec.ofNat 16 (s.readNat (c.src + 2 * j) 2)))) (List.range c.beatCount)

/-- A command whose lead has left with the class that it requests under a format state word (R103). -/
def Cmd.leadSent (c : Cmd) (word : Nat) : Cmd := { c with lead := { c.lead with sent := true, cls := requestClass c word } }

/-- A command that may send its lead and surveys its source to the end, with a good format word, sends the lead (R90, R105). -/
theorem effLeadSend_of_surveyed {q i : Nat} {c d : Cmd} {s : State} (hc : s.cmd? q i = some c) (ht : isReducing c.type = true)
    (hst : c.status = none) (hsent : c.lead.sent = false) (hfree : s.bucketFree c = true) (hturn : s.leadTurn c = true)
    (hd : (s.surveySource c).cmd? q i = some d) (hdst : d.status = none)
    (hall : allIn (0, d.beatCount) (fun b => d.lead.surveyed.contains b) = true)
    (hflag : (s.surveySource c).flagged d.fmtAddr 4 = false)
    (hword : fmtWordBad ((s.surveySource c).readNat d.fmtAddr 4) = false) :
    effLeadSend q i s =
      (let e := d.leadSent ((s.surveySource c).readNat d.fmtAddr 4)
      (((s.surveySource c).putCmd e).leadHedge e).leadAdvance q i) := by
  unfold State.surveySource at hd hflag hword ⊢
  simp only [effLeadSend, hc, ht, hst, hsent, hfree, hturn, hd, hdst, hall, hflag, hword, Option.isSome_none, Bool.not_true,
    Bool.or_self, Bool.false_eq_true, if_false, Cmd.leadSent]

/-! ### A lead chunk joins -/

/-- A lead chunk of a running reducing command is taken where nothing has to be there before it (the gather, log 12), or this
chip's own lead or its Hedge lead is; it joins when its parts agree with the command, else it fails the command (R88). -/
theorem effLeadChunk_of_ready {src seq : Nat} {h : Held} {c : Cmd} {s : State} {parts : List (Nat × LeadMsg)}
    (hd : s.delivers 2 src seq false h c) (ht : isReducing c.type = true) (hparts : leadParts h = some parts)
    (hready : h.hdr.contrib = c.members ∨ (h.hdr.ring < 14 ∧ c.lead.sent = true) ∨ (14 ≤ h.hdr.ring ∧ c.lead.rowSent = true)) :
    effLeadChunk src seq s =
      (let s1 := (s.accept h).progress c.q c.i src true
      if parts.all (leadAgrees c h.hdr.ring) then
        (parts.foldl (fun s part => s.leadPart c.q c.i h.hdr.ring h.hdr.hop h.hdr.contrib part) s1).leadAdvance c.q c.i
      else s1.failCmd c.q c.i stMismatch 0) := by
  obtain ⟨-, -, hheld, -, hjob, hpass, hst⟩ := hd
  have hgo : (if h.hdr.contrib == c.members then true
      else if h.hdr.ring < 14 then c.lead.sent else c.lead.rowSent) = true := by
    rcases hready with hgather | ⟨hring, hown⟩ | ⟨hrow, hown⟩
    · simp [hgather]
    · simp [hring, hown]
    · simp [Nat.not_lt.mpr hrow, hown]
  simp only [effLeadChunk, hheld, hjob, hpass, ht, hparts, hgo, hst, Option.isSome_none, Bool.not_true, Bool.or_self,
    Bool.false_and, Bool.false_eq_true, if_false]
  cases parts.all (leadAgrees c h.hdr.ring) <;> rfl

/-! ### The obligations -/

/-- Settles O50: a beat of the survey channel, the value channel by what its conversion waits for, and the micro-batch beats of
both channels. -/
theorem feedBeats : Obligations.FeedBeats := by
  unfold Obligations.FeedBeats
  intro tag payload c s hr hf hc b
  refine ⟨fun hm hfree hb => ⟨fun hsent hnew => ?_, fun hnew hwait => ?_, fun hnew hlead hcopy => ?_,
    fun hnew hlead hcopy => ?_⟩, fun haux => ?_, ?_⟩
  · exact (done_live_working _ _ s hr hf).trans (by rw [effSurveyBeat_of_new payload hc hm hfree hb hsent hnew])
  · refine (done_live_working _ _ s hr hf).trans ?_
    simp only [effValueBeat_of_new payload hc hm hfree hb hnew, if_pos hwait, b]
  · refine (done_live_working _ _ s hr hf).trans ?_
    simp only [effValueBeat_of_new payload hc hm hfree hb hnew, hlead, hcopy, Bool.true_eq_false, if_false, if_true, b]
  · refine (done_live_working _ _ s hr hf).trans ?_
    simp only [effValueBeat_of_new payload hc hm hfree hb hnew, hlead, hcopy, Bool.true_eq_false, Bool.false_eq_true,
      if_false, b]
  · exact (done_live_working _ _ s hr hf).trans (by rw [effMicroBeat_of_aux payload hc haux])
  · exact (done_live_working _ _ s hr hf).trans (by rw [effMicroBeat_survey payload hc])

/-- Settles O51: the lead that leaves after its survey, and the lead chunk that joins or fails its command. -/
theorem leads : Obligations.Leads := by
  unfold Obligations.Leads
  constructor
  · intro q i c d s hr hf hc ht hst hsent hfree hturn t hd hdst hall hflag hword e
    exact (done_live_working _ _ s hr hf).trans
      (by rw [effLeadSend_of_surveyed hc ht hst hsent hfree hturn hd hdst hall hflag hword]; rfl)
  · intro src seq h c s parts hd ht hparts hready
    exact (done_live_sorted_of_delivers _ _ hd (by decide)).trans (by rw [effLeadChunk_of_ready hd ht hparts hready])

end Sys2Proof.Machine

/-! The start of a collective (spec/06_ply_reduction.md R179, spec/08_collectives.md R216, spec/13_control.md R383,
spec/14_registers.md R405, R406, R411): where it stays, pends, fails or runs, and what each leaves. -/

namespace Sys2Proof.Machine

/-! ### Fields of byte strings -/

theorem sliceB_succ (b : List Byte) (off n : Nat) : sliceB b off (n + 1) = b.getD off 0 :: sliceB b (off + 1) n := by
  unfold sliceB
  by_cases h : off < b.length
  · rw [List.drop_eq_getElem_cons h, List.take_succ_cons]
    simp [h]
  · have hoff : b.length ≤ off := Nat.le_of_not_lt h
    simp [List.drop_eq_nil_of_le hoff, List.drop_eq_nil_of_le (Nat.le_succ_of_le hoff), hoff, List.replicate_succ]

theorem leAt_succ (b : List Byte) (off n : Nat) : leAt b off (n + 1) = byteAt b off + 256 * leAt b (off + 1) n := by
  unfold leAt
  rw [sliceB_succ]
  rfl

/-- The job identifier of a command lies in the first two bytes of its key word. -/
theorem Cmd.job_eq (c : Cmd) : c.job = leAt c.param 72 2 % 4096 := by
  simp only [Cmd.job, Cmd.key, bitsAt, leAt_succ]
  omega

/-! ### What a start leaves of the work in hand -/

/-- `t` has the memory, the queues and the work of `s`. -/
structure State.KeepsWork (s t : State) : Prop where
  mem : t.mem = s.mem
  held : t.held = s.held
  queues : t.queues = s.queues
  cmds : t.cmds = s.cmds
  drains : t.drains = s.drains
  job : t.job = s.job

/-- And the counters of match numbers (R233). -/
structure State.KeepsStart (s t : State) : Prop extends s.KeepsWork t where
  matchTx : t.matchTx = s.matchTx
  matchRx : t.matchRx = s.matchRx

namespace State.KeepsWork

variable {s t u : State}

theorem trans (hst : s.KeepsWork t) (htu : t.KeepsWork u) : s.KeepsWork u where
  mem := htu.mem.trans hst.mem
  held := htu.held.trans hst.held
  queues := htu.queues.trans hst.queues
  cmds := htu.cmds.trans hst.cmds
  drains := htu.drains.trans hst.drains
  job := htu.job.trans hst.job

theorem refl (s : State) : s.KeepsWork s := ⟨rfl, rfl, rfl, rfl, rfl, rfl⟩

theorem queue (h : s.KeepsWork t) (q : Nat) : t.queue q = s.queue q := by rw [State.queue, h.queues, State.queue]

theorem nextDesc (h : s.KeepsWork t) (q : Nat) : t.nextDesc q = s.nextDesc q := by
  rw [State.nextDesc, h.queue, State.nextDesc]

theorem drainOf (h : s.KeepsWork t) (job : Nat) : t.drainOf job = s.drainOf job := by
  rw [State.drainOf, h.drains, State.drainOf]

theorem awaits (h : s.KeepsWork t) (c : Cmd) : t.awaits c = s.awaits c := by rw [State.awaits, h.job, State.awaits]

end State.KeepsWork

namespace State.KeepsStart

variable {s t u : State}

theorem trans (hst : s.KeepsStart t) (htu : t.KeepsStart u) : s.KeepsStart u where
  toKeepsWork := hst.toKeepsWork.trans htu.toKeepsWork
  matchTx := htu.matchTx.trans hst.matchTx
  matchRx := htu.matchRx.trans hst.matchRx

theorem ofAccounts (h : s.AccountsOnly t) : s.KeepsStart t where
  mem := h.mem
  held := h.held
  queues := (congrArg State.queues h :)
  cmds := (congrArg State.cmds h :)
  drains := (congrArg State.drains h :)
  job := (congrArg State.job h :)
  matchTx := (congrArg State.matchTx h :)
  matchRx := (congrArg State.matchRx h :)

end State.KeepsStart

theorem settled_keepsStart (s : State) : s.KeepsStart s.settled := .ofAccounts (settled_accounts s)

theorem State.AccountsOnly.stepCur {s t : State} (h : s.AccountsOnly t) : t.stepCur = s.stepCur := (congrArg State.stepCur h :)

/-- The state in which a descriptor of a step starts: behind the step boundary of a later step (R405). -/
def State.atStep (s : State) (step : Nat) : State := if s.stepCur < step then s.stepBoundary step else s

theorem atStep_keepsStart (s : State) (step : Nat) : s.KeepsStart (s.atStep step) := by
  unfold State.atStep
  split
  · have hstaged := State.KeepsStart.ofAccounts (applyStaged_accounts s (fun k => decide (classOf k = .step)))
    exact { hstaged with }
  · exact .ofAccounts rfl

theorem atStep_stepCur (s : State) (step : Nat) :
    (s.atStep step).stepCur = if s.stepCur < step then step else s.stepCur := by
  unfold State.atStep
  split <;> rfl

theorem cfgGate_accounts (s : State) : s.AccountsOnly s.cfgGate.2 := by
  unfold State.cfgGate
  split
  · rfl
  split
  · rfl
  split
  · rfl
  split
  · rfl
  · exact raise_accounts _ causeConfigCrc

theorem ite_accounts {s t : State} (p : Prop) [Decidable p] (h : s.AccountsOnly t) : s.AccountsOnly (if p then t else s) := by
  split
  · exact h
  · rfl

/-- The start checks raise the memory-error event and count format errors and protected commands, and no more. -/
theorem startFail_accounts (s : State) (c : Cmd) : s.AccountsOnly (s.startFail c).2 := by
  have hflagged := ite_accounts (s.anyFlagged c.startReads = true) (raise_accounts s causeMemory)
  unfold State.startFail
  simp only
  generalize (if s.anyFlagged c.startReads = true then s.raise causeMemory else s) = u at hflagged ⊢
  split
  · exact hflagged
  generalize (if isReducing c.type = true then u.tableFail c else (none, false)) = table
  have htables := hflagged.trans (ite_accounts (table.2 = true) (sat_accounts u rCpcEvents 0 16 1))
  generalize (if table.2 = true then u.sat rCpcEvents 0 16 1 else u) = v at htables ⊢
  split
  · exact htables
  have hareas := htables.trans (ite_accounts ((v.compFail c).2 = true) (sat_accounts v rCrdEvents 16 16 1))
  split <;> exact hareas

theorem refreshReplay_keepsStart (s : State) : s.KeepsStart s.refreshReplay := by
  unfold State.refreshReplay
  split <;> exact ⟨⟨rfl, rfl, rfl, rfl, rfl, rfl⟩, rfl, rfl⟩

theorem refreshReplay_stepCur (s : State) : s.refreshReplay.stepCur = s.stepCur := by
  unfold State.refreshReplay
  split <;> rfl

/-! ### The next descriptor -/

/-- The next descriptor of a queue stands first among the fetched ones of one of the 64 queues. -/
theorem fetched_of_nextDesc {s : State} {q : Nat} {f : Fetched} (h : s.nextDesc q = some f) :
    q < 64 ∧ (s.queue q).fetched = f :: (s.queue q).fetched.drop 1 := by
  unfold State.nextDesc at h
  constructor
  · by_contra hq
    simp [State.queue, Vector.getD, hq, QState.reset] at h
  · cases hk : (s.queue q).fetched with
    | nil => simp [hk] at h
    | cons g t => simp_all

/-- A queue whose next descriptor `f` fails as it starts: it stays at the head with the failure (R383). -/
def QState.failNext (k : QState) (f : Fetched) (x : Nat × Nat) : QState :=
  { k with fetched := { f with fail := some x } :: k.fetched.drop 1, onJob := false }

theorem failDesc_eq {s : State} {q : Nat} {f : Fetched} (h : s.nextDesc q = some f) (x : Nat × Nat) :
    s.failDesc q x = s.setQueue q ((s.queue q).failNext f x) := by
  have hf := (fetched_of_nextDesc h).2
  simp only [State.failDesc]
  split
  · simp_all
  · rename_i g t hg
    obtain ⟨rfl, -⟩ := List.cons.inj (hg.symm.trans hf)
    rw [QState.failNext, hg]
    rfl

theorem failDesc_settled {s u : State} {q : Nat} {f : Fetched} (x : Nat × Nat) (hkeeps : s.KeepsWork u)
    (h : s.nextDesc q = some f) :
    s.failedAs (u.failDesc q x).settled q f x ∧ (u.failDesc q x).settled.mem = s.mem
      ∧ (u.failDesc q x).settled.stepCur = u.stepCur := by
  have hu := (hkeeps.nextDesc q).trans h
  obtain ⟨hq, -⟩ := fetched_of_nextDesc hu
  have hsettled := settled_accounts (u.failDesc q x)
  have hqueue (k : Nat) : (u.failDesc q x).settled.queue k = (u.failDesc q x).queue k :=
    (settled_keepsStart _).queue k
  rw [failDesc_eq hu] at hqueue hsettled ⊢
  refine ⟨⟨?_, fun k hk => ?_, ?_⟩, hsettled.mem.trans hkeeps.mem, hsettled.stepCur.trans (State.setQueue_stepCur _ _ _)⟩
  · rw [hqueue, queue_setQueue_self _ _ _ hq, hkeeps.queue]
    rfl
  · rw [hqueue, queue_setQueue_ne _ _ _ _ hk, hkeeps.queue]
  · rw [settled_cmds, State.setQueue_cmds, hkeeps.cmds]

/-! ### The record of a command that starts -/

/-- A record of a fetched command as it starts with a bank. -/
structure Cmd.Fresh (c : Cmd) (q : Nat) (f : Fetched) (bank : SMap Word) : Prop where
  q : c.q = q
  i : c.i = f.index
  desc : c.desc = f.desc
  param : c.param = f.param
  bank : c.bank = bank
  status : c.status = none
  dataStarted : c.dataStarted = false

theorem loadCmd_fresh (s : State) (q : Nat) (f : Fetched) (bank : SMap Word) : (s.loadCmd q f bank).Fresh q f bank := by
  unfold State.loadCmd
  simp only
  split <;> exact ⟨rfl, rfl, rfl, rfl, rfl, rfl, rfl⟩

/-- Its number among the commands is no part of it. -/
theorem Cmd.Fresh.withOrdinal {c : Cmd} {q : Nat} {f : Fetched} {bank : SMap Word} (h : c.Fresh q f bank) (n : Nat) :
    ({ c with ordinal := n } : Cmd).Fresh q f bank :=
  ⟨h.q, h.i, h.desc, h.param, h.bank, h.status, h.dataStarted⟩

/-- A match number changes a record's match number alone (R233). -/
theorem takeMatch_fresh {c : Cmd} {q : Nat} {f : Fetched} {bank : SMap Word} (s : State) (h : c.Fresh q f bank) :
    (s.takeMatch c).1.Fresh q f bank := by
  unfold State.takeMatch
  simp only
  split
  · exact ⟨h.q, h.i, h.desc, h.param, h.bank, h.status, h.dataStarted⟩
  split
  · exact ⟨h.q, h.i, h.desc, h.param, h.bank, h.status, h.dataStarted⟩
  · exact h

theorem takeMatch_keepsWork (s : State) (c : Cmd) : s.KeepsWork (s.takeMatch c).2 := by
  unfold State.takeMatch
  simp only
  split
  · exact ⟨rfl, rfl, rfl, rfl, rfl, rfl⟩
  split
  · exact ⟨rfl, rfl, rfl, rfl, rfl, rfl⟩
  · exact .refl s

theorem takeMatch_stepCur (s : State) (c : Cmd) : (s.takeMatch c).2.stepCur = s.stepCur := by
  unfold State.takeMatch
  simp only
  split
  · rfl
  split <;> rfl

/-- The number that matches a SEND or RECV with its peer's: that of a peer and a tag. -/
def Cmd.matchKey (c : Cmd) : Nat := c.peer * 65536 + c.tag

theorem takeMatch_send (s : State) (c : Cmd) (h : c.type = 0x16) :
    (s.takeMatch c).1.matchNo = smGet (fun _ => 0) s.matchTx c.matchKey
      ∧ smGet (fun _ => 0) (s.takeMatch c).2.matchTx c.matchKey = ((s.takeMatch c).1.matchNo + 1) % 2 ^ 32 := by
  simp [State.takeMatch, Cmd.matchKey, h]

theorem takeMatch_recv (s : State) (c : Cmd) (h : c.type = 0x17) :
    (s.takeMatch c).1.matchNo = smGet (fun _ => 0) s.matchRx c.matchKey
      ∧ smGet (fun _ => 0) (s.takeMatch c).2.matchRx c.matchKey = ((s.takeMatch c).1.matchNo + 1) % 2 ^ 32 := by
  simp [State.takeMatch, Cmd.matchKey, h]

/-! ### An identifier becomes ACTIVE -/

theorem jobState_setJobState (s : State) (job v : Nat) : (s.setJobState job v).jobState job = v % 4 :=
  fld_setFld_self _ _ _ 2 _ (by omega)

/-- The states of job identifiers lie among the registers of the Ply adders. -/
theorem settled_jobState (s : State) (job : Nat) : s.settled.jobState job = s.jobState job := by
  rw [State.jobState, State.fld, settled_rd_of_watches_lt _ _ (by simp only [rEvwCfg, rPlyJobst]; omega), State.jobState,
    State.fld]

theorem putDrain_drainOf (s : State) (d : Drain) : (s.putDrain d).drainOf d.job = some d := by
  have hnone : (s.drains.filter (fun x => x.job != d.job)).find? (fun x => x.job == d.job) = none := by
    simp [List.find?_eq_none]
  simp [State.putDrain, State.drainOf, List.find?_append, hnone]

/-- An identifier that a command takes is ACTIVE, with a drain record of the ranks that it awaits (R179, R249). -/
theorem openDrain_active (s : State) (c : Cmd) :
    (s.openDrain c).jobState c.job = 1
      ∧ ∃ d, (s.openDrain c).drainOf c.job = some d ∧ d.await = s.awaits c ∧ d.got = [] ∧ d.active = false :=
  ⟨jobState_setJobState s c.job 1, _, putDrain_drainOf _ _, rfl, rfl, rfl⟩

/-- The step that a fetched descriptor starts with (R381). -/
def Fetched.step (f : Fetched) (q now : Nat) : Nat := (Cmd.make q f.index f.desc f.param [] now).step

/-- The configuration comparison as a descriptor starts: whether it may go on, and the state behind it (R405, R411). -/
def State.startGate (s : State) (q : Nat) (f : Fetched) : Bool × State := (s.atStep (f.step q s.now)).cfgGate

theorem startGate_keepsStart (s : State) (q : Nat) (f : Fetched) : s.KeepsStart (s.startGate q f).2 :=
  (atStep_keepsStart s _).trans (.ofAccounts (cfgGate_accounts _))

theorem startGate_stepCur (s : State) (q : Nat) (f : Fetched) :
    (s.startGate q f).2.stepCur = if s.stepCur < f.step q s.now then f.step q s.now else s.stepCur :=
  (cfgGate_accounts _).stepCur.trans (atStep_stepCur s _)

/-- The state behind the checks of a command that passes them. -/
def State.startReady (s : State) (q : Nat) (f : Fetched) (bank : SMap Word) : State :=
  (s.startFail (s.loadCmd q f bank)).2.refreshReplay

/-- The record of a command that passes its checks, with its number among the commands (R327). -/
def State.startRecord (s : State) (q : Nat) (f : Fetched) (bank : SMap Word) : Cmd :=
  { s.loadCmd q f bank with ordinal := (s.startReady q f bank).numberOf (s.loadCmd q f bank) }

/-- The record with its match number, and the state that has given it (R233). -/
def State.startMatch (s : State) (q : Nat) (f : Fetched) (bank : SMap Word) : Cmd × State :=
  (s.startReady q f bank).takeMatch (s.startRecord q f bank)

/-- A command leaves the fetched descriptors and runs under its identifier. -/
def State.runCmd (s : State) (q : Nat) (c : Cmd) : State := ((s.takeDesc q).addCmd c).openDrain c

/-- A command that passes its checks runs (R383). -/
def State.startWith (s : State) (q : Nat) (f : Fetched) (bank : SMap Word) : State :=
  (s.startMatch q f bank).2.runCmd q (s.startMatch q f bank).1

/-! ### Where the start of a collective ends -/

section

variable {s : State} {q : Nat} {f : Fetched}

theorem startCollective_noJob (hjob : s.job.isOpen = false) : s.startCollective q f = s.failDesc q (stNoJob, 0) := by
  simp [State.startCollective, hjob]

variable (hjob : s.job.isOpen = true)

include hjob

/-- The configuration does not agree: the descriptor stays (R411). -/
theorem startCollective_gated (hgate : (s.startGate q f).1 = false) : s.startCollective q f = (s.startGate q f).2 := by
  unfold State.startGate State.atStep Fetched.step at hgate ⊢
  simp [State.startCollective, hjob, hgate]

variable (hgate : (s.startGate q f).1 = true)

include hgate

/-- No bank serves the step (R406). -/
theorem startCollective_noBank (hbank : (s.startGate q f).2.bankFor (f.step q s.now) = none) :
    s.startCollective q f = (s.startGate q f).2.failDesc q (stMismatch, 0) := by
  unfold State.startGate State.atStep Fetched.step at *
  simp [State.startCollective, hjob, hgate, hbank]

variable {bank : SMap Word} (hbank : (s.startGate q f).2.bankFor (f.step q s.now) = some bank)

include hbank

/-- A check fails (R216). -/
theorem startCollective_failed {x : Nat × Nat}
    (hfail : ((s.startGate q f).2.startFail ((s.startGate q f).2.loadCmd q f bank)).1 = some x) :
    s.startCollective q f =
      ((s.startGate q f).2.startFail ((s.startGate q f).2.loadCmd q f bank)).2.failDesc q x := by
  unfold State.startGate State.atStep Fetched.step at *
  simp [State.startCollective, hjob, hgate, hbank, hfail]

/-- Every check passes. -/
theorem startCollective_runs
    (hpass : ((s.startGate q f).2.startFail ((s.startGate q f).2.loadCmd q f bank)).1 = none) :
    s.startCollective q f = (s.startGate q f).2.startWith q f bank := by
  unfold State.startGate State.atStep Fetched.step at *
  unfold State.startWith State.runCmd State.startMatch State.startRecord State.startReady
  simp [State.startCollective, hjob, hgate, hbank, hpass]

end

/-! ### The state in which a collective runs -/

section

variable (s : State) (q : Nat) (f : Fetched) (bank : SMap Word)

theorem startReady_keepsStart : s.KeepsStart (s.startReady q f bank) :=
  (State.KeepsStart.ofAccounts (startFail_accounts s _)).trans (refreshReplay_keepsStart _)

theorem startRecord_fresh : (s.startRecord q f bank).Fresh q f bank := (loadCmd_fresh s q f bank).withOrdinal _

theorem startMatch_fresh : (s.startMatch q f bank).1.Fresh q f bank := takeMatch_fresh _ (startRecord_fresh s q f bank)

theorem startMatch_keepsWork : s.KeepsWork (s.startMatch q f bank).2 :=
  (startReady_keepsStart s q f bank).toKeepsWork.trans (takeMatch_keepsWork _ _)

theorem startMatch_stepCur : (s.startMatch q f bank).2.stepCur = s.stepCur :=
  calc (s.startMatch q f bank).2.stepCur = (s.startReady q f bank).stepCur := takeMatch_stepCur _ _
    _ = (s.startFail (s.loadCmd q f bank)).2.stepCur := refreshReplay_stepCur _
    _ = s.stepCur := (startFail_accounts s _).stepCur

/-- The record's match key, type and identifier are those of its descriptor and parameter block. -/
theorem matchKey_of_fresh {c : Cmd} (h : c.Fresh q f bank) : c.matchKey = leAt f.param 84 2 * 65536 + leAt f.param 86 2 := by
  rw [Cmd.matchKey, Cmd.peer, Cmd.tag, h.param]

theorem type_of_fresh {c : Cmd} (h : c.Fresh q f bank) : c.type = dType f.desc := by rw [Cmd.type, h.desc]

theorem job_of_fresh {c : Cmd} (h : c.Fresh q f bank) : c.job = leAt f.param 72 2 % 4096 := by rw [Cmd.job_eq, h.param]

theorem startMatch_send (ht : dType f.desc = 0x16) :
    (s.startMatch q f bank).1.matchNo = smGet (fun _ => 0) s.matchTx (leAt f.param 84 2 * 65536 + leAt f.param 86 2)
      ∧ smGet (fun _ => 0) (s.startMatch q f bank).2.matchTx (leAt f.param 84 2 * 65536 + leAt f.param 86 2)
        = ((s.startMatch q f bank).1.matchNo + 1) % 2 ^ 32 := by
  have hrecord := startRecord_fresh s q f bank
  rw [← matchKey_of_fresh q f bank hrecord, ← (startReady_keepsStart s q f bank).matchTx]
  exact takeMatch_send _ _ ((type_of_fresh q f bank hrecord).trans ht)

theorem startMatch_recv (ht : dType f.desc = 0x17) :
    (s.startMatch q f bank).1.matchNo = smGet (fun _ => 0) s.matchRx (leAt f.param 84 2 * 65536 + leAt f.param 86 2)
      ∧ smGet (fun _ => 0) (s.startMatch q f bank).2.matchRx (leAt f.param 84 2 * 65536 + leAt f.param 86 2)
        = ((s.startMatch q f bank).1.matchNo + 1) % 2 ^ 32 := by
  have hrecord := startRecord_fresh s q f bank
  rw [← matchKey_of_fresh q f bank hrecord, ← (startReady_keepsStart s q f bank).matchRx]
  exact takeMatch_recv _ _ ((type_of_fresh q f bank hrecord).trans ht)

end

section

variable (s : State) (q : Nat) (c : Cmd)

@[simp] theorem runCmd_mem : (s.runCmd q c).mem = s.mem := rfl
@[simp] theorem runCmd_held : (s.runCmd q c).held = s.held := rfl
@[simp] theorem runCmd_cmds : (s.runCmd q c).cmds = s.cmds ++ [c] := rfl
@[simp] theorem runCmd_matchTx : (s.runCmd q c).matchTx = s.matchTx := rfl
@[simp] theorem runCmd_matchRx : (s.runCmd q c).matchRx = s.matchRx := rfl
@[simp] theorem runCmd_stepCur : (s.runCmd q c).stepCur = s.stepCur := rfl

theorem runCmd_queue_self (hq : q < 64) :
    (s.runCmd q c).queue q = { s.queue q with fetched := (s.queue q).fetched.drop 1, onJob := false } :=
  queue_setQueue_self s q _ hq

theorem runCmd_queue_ne (k : Nat) (h : k ≠ q) : (s.runCmd q c).queue k = s.queue k := queue_setQueue_ne s q k _ h

/-- An identifier that a command takes is ACTIVE, with a drain record of the ranks that it awaits (R179, R249). -/
theorem runCmd_active : (s.runCmd q c).jobState c.job = 1
    ∧ ∃ d, (s.runCmd q c).drainOf c.job = some d ∧ d.await = s.awaits c ∧ d.got = [] ∧ d.active = false :=
  openDrain_active ((s.takeDesc q).addCmd c) c

end

/-! ### A command that has started, once everything has settled -/

section

variable {s u : State} (q : Nat) (f : Fetched) (bank : SMap Word)

/-- The list of commands has one more. -/
theorem startWith_cmds (hkeeps : s.KeepsWork u) :
    (u.startWith q f bank).settled.cmds = s.cmds ++ [(u.startMatch q f bank).1] := by
  rw [settled_cmds, State.startWith, runCmd_cmds, (startMatch_keepsWork u q f bank).cmds, hkeeps.cmds]

theorem startWith_queue_self (hkeeps : s.KeepsWork u) (hq : q < 64) :
    (u.startWith q f bank).settled.queue q = { s.queue q with fetched := (s.queue q).fetched.drop 1, onJob := false } := by
  rw [(settled_keepsStart _).queue, State.startWith, runCmd_queue_self _ _ _ hq, (startMatch_keepsWork u q f bank).queue,
    hkeeps.queue]

theorem startWith_queue_ne (hkeeps : s.KeepsWork u) (k : Nat) (hk : k ≠ q) :
    (u.startWith q f bank).settled.queue k = s.queue k := by
  rw [(settled_keepsStart _).queue, State.startWith, runCmd_queue_ne _ _ _ _ hk, (startMatch_keepsWork u q f bank).queue,
    hkeeps.queue]

theorem startWith_mem (hkeeps : s.KeepsWork u) : (u.startWith q f bank).settled.mem = s.mem := by
  rw [settled_mem, State.startWith, runCmd_mem, (startMatch_keepsWork u q f bank).mem, hkeeps.mem]

theorem startWith_held (hkeeps : s.KeepsWork u) : (u.startWith q f bank).settled.held = s.held := by
  rw [settled_held, State.startWith, runCmd_held, (startMatch_keepsWork u q f bank).held, hkeeps.held]

theorem startWith_stepCur : (u.startWith q f bank).settled.stepCur = u.stepCur := by
  rw [(settled_accounts _).stepCur, State.startWith, runCmd_stepCur, startMatch_stepCur]

/-- The identifier of the descriptor is ACTIVE, with a drain record (R179, R249). -/
theorem startWith_active :
    (u.startWith q f bank).settled.jobState (leAt f.param 72 2 % 4096) = 1
      ∧ ∃ d, (u.startWith q f bank).settled.drainOf (leAt f.param 72 2 % 4096) = some d
          ∧ d.await = u.awaits (u.startMatch q f bank).1 ∧ d.got = [] ∧ d.active = false := by
  rw [settled_jobState, (settled_keepsStart _).drainOf, ← job_of_fresh q f bank (startMatch_fresh u q f bank),
    ← (startMatch_keepsWork u q f bank).awaits]
  exact runCmd_active _ q _

theorem startWith_send (hkeeps : s.KeepsStart u) (ht : dType f.desc = 0x16) :
    let match_ := leAt f.param 84 2 * 65536 + leAt f.param 86 2
    (u.startMatch q f bank).1.matchNo = smGet (fun _ => 0) s.matchTx match_
      ∧ smGet (fun _ => 0) (u.startWith q f bank).settled.matchTx match_ = ((u.startMatch q f bank).1.matchNo + 1) % 2 ^ 32 := by
  rw [(settled_keepsStart _).matchTx, State.startWith, runCmd_matchTx, ← hkeeps.matchTx]
  exact startMatch_send u q f bank ht

theorem startWith_recv (hkeeps : s.KeepsStart u) (ht : dType f.desc = 0x17) :
    let match_ := leAt f.param 84 2 * 65536 + leAt f.param 86 2
    (u.startMatch q f bank).1.matchNo = smGet (fun _ => 0) s.matchRx match_
      ∧ smGet (fun _ => 0) (u.startWith q f bank).settled.matchRx match_ = ((u.startMatch q f bank).1.matchNo + 1) % 2 ^ 32 := by
  rw [(settled_keepsStart _).matchRx, State.startWith, runCmd_matchRx, ← hkeeps.matchRx]
  exact startMatch_recv u q f bank ht

end

/-! ### The commands -/

/-- A descriptor of a collective that may start, with its identifier free or no job open. -/
theorem startType_starts {s : State} {t q : Nat} {f : Fetched} (h : s.startable t q f)
    (hfree : s.jobState (leAt f.param 72 2 % 4096) = 0 ∨ s.job.isOpen = false) : s.startType t q = s.startCollective q f := by
  obtain ⟨hnext, ht, hmay⟩ := h
  simp [State.startType, hnext, ht, hmay, hfree]

/-- One whose identifier is in use is recorded as pending on it (R179). -/
theorem startType_pends {s : State} {t q : Nat} {f : Fetched} (h : s.startable t q f) (hopen : s.job.isOpen = true)
    (hused : s.jobState (leAt f.param 72 2 % 4096) ≠ 0) :
    s.startType t q =
      (if s.jobState (leAt f.param 72 2 % 4096) = 2 then
        (s.setQueue q { s.queue q with onJob := true }).setJobState (leAt f.param 72 2 % 4096) 3
      else s.setQueue q { s.queue q with onJob := true }) := by
  obtain ⟨hnext, ht, hmay⟩ := h
  simp [State.startType, hnext, ht, hmay, hopen, hused]

theorem jobState_setQueue (s : State) (q : Nat) (k : QState) (job : Nat) : (s.setQueue q k).jobState job = s.jobState job := rfl

/-- What a pending descriptor leaves: its mark in its queue, and a draining identifier DRAIN_PENDING. -/
theorem startType_pends_settled {s : State} {t q : Nat} {f : Fetched} (h : s.startable t q f) (hopen : s.job.isOpen = true)
    (hused : s.jobState (leAt f.param 72 2 % 4096) ≠ 0) :
    let u := (s.startType t q).settled
    let job := leAt f.param 72 2 % 4096
    u.queue q = { s.queue q with onJob := true } ∧ (∀ k, k ≠ q → u.queue k = s.queue k) ∧ u.cmds = s.cmds ∧ u.mem = s.mem
      ∧ u.jobState job = (if s.jobState job = 2 then 3 else s.jobState job) := by
  obtain ⟨hq, -⟩ := fetched_of_nextDesc h.1
  have hqueues : (s.startType t q).settled.queues = (s.setQueue q { s.queue q with onJob := true }).queues := by
    rw [settled_queues, startType_pends h hopen hused]
    split <;> rfl
  have hqueue (k : Nat) : (s.startType t q).settled.queue k = (s.setQueue q { s.queue q with onJob := true }).queue k :=
    congrArg (fun v => v.getD k QState.reset) hqueues
  refine ⟨?_, fun k hk => ?_, ?_, ?_, ?_⟩
  · rw [hqueue, queue_setQueue_self _ _ _ hq]
  · rw [hqueue, queue_setQueue_ne _ _ _ _ hk]
  · rw [settled_cmds, startType_pends h hopen hused]
    split <;> rfl
  · rw [settled_mem, startType_pends h hopen hused]
    split <;> rfl
  · rw [settled_jobState, startType_pends h hopen hused]
    split
    · exact jobState_setJobState _ _ 3
    · exact jobState_setQueue _ _ _ _

theorem resetOn_of_startable {s : State} {t q : Nat} {f : Fetched} (h : s.startable t q f) : s.ctl.resetOn = false := by
  obtain ⟨-, -, hmay⟩ := h
  simp only [State.mayStartDesc, Bool.and_eq_true] at hmay
  obtain ⟨⟨⟨⟨⟨⟨hawake, -⟩, -⟩, -⟩, -⟩, -⟩, -⟩ := hmay
  exact resetOn_of_awake s 16 hawake

/-- The commands that start a collective, with the descriptor type of each (R387). -/
def collectiveStarts (q : Nat) : List (Instr × Nat) :=
  [(.allReduce q, 0x10), (.reduceScatter q, 0x11), (.fusedStep q, 0x12), (.allGather q, 0x13), (.allToAll q, 0x14),
    (.broadcast q, 0x15), (.send q, 0x16), (.recv q, 0x17), (.topkMerge q, 0x18)]

/-- All nine start alike. -/
theorem exec_collectiveStarts {q : Nat} {x : Instr × Nat} {s : State} (hx : x ∈ collectiveStarts q)
    (hr : s.ctl.resetOn = false) : exec x.1 s = .next ((s.startType x.2 q).settled) := by
  have hexec : exec x.1 s = done (s.live (fun s => s.startType x.2 q)) := by
    simp only [collectiveStarts, List.mem_cons, List.not_mem_nil, or_false] at hx
    rcases hx with rfl | rfl | rfl | rfl | rfl | rfl | rfl | rfl | rfl <;> rfl
  rw [hexec, live_eq _ _ hr, done]

/-- Settles O44: the nine commands start alike, and a start ends as its descriptor's job, identifier, configuration, bank and
checks have it. -/
theorem collectivesStart : Obligations.CollectivesStart := by
  unfold Obligations.CollectivesStart
  intro q x f s hx hstart job step s1 s2 match_
  have hr := resetOn_of_startable hstart
  have ⟨hnext, ht, _⟩ := hstart
  obtain ⟨hq, -⟩ := fetched_of_nextDesc hnext
  have hexec := exec_collectiveStarts hx hr
  refine ⟨fun hclosed => ?_, fun hopen hused => ?_, fun hopen hfree => ?_⟩
  · rw [startType_starts hstart (.inr hclosed), startCollective_noJob hclosed] at hexec
    exact ⟨_, hexec, failDesc_settled _ (.refl s) hnext⟩
  · obtain ⟨hself, hother, hcmds, hmem, hjobState⟩ := startType_pends_settled hstart hopen hused
    exact ⟨_, hexec, hself, hother, hcmds, hmem, hjobState⟩
  · rw [startType_starts hstart (.inl hfree)] at hexec
    have hgated : s.KeepsStart s2 := startGate_keepsStart s q f
    refine ⟨fun hgate => ?_, fun hgate hbank => ?_, fun bank hgate hbank => ⟨fun y hfail => ?_, fun hpass => ?_⟩⟩
    · rw [startCollective_gated hopen hgate] at hexec
      exact hexec
    · rw [startCollective_noBank hopen hgate hbank] at hexec
      obtain ⟨hfailed, hmem, -⟩ := failDesc_settled (stMismatch, 0) hgated.toKeepsWork hnext
      exact ⟨_, hexec, hfailed, hmem⟩
    · rw [startCollective_failed hopen hgate hbank hfail] at hexec
      have hchecked := hgated.trans (.ofAccounts (startFail_accounts s2 (s2.loadCmd q f bank)))
      obtain ⟨hfailed, hmem, -⟩ := failDesc_settled y hchecked.toKeepsWork hnext
      exact ⟨_, hexec, hfailed, hmem⟩
    · rw [startCollective_runs hopen hgate hbank hpass] at hexec
      obtain ⟨hcq, hci, hdesc, hparam, hcbank, hstatus, hdata⟩ := startMatch_fresh s2 q f bank
      obtain ⟨hactive, hdrain⟩ := startWith_active (u := s2) q f bank
      have hqueue := startWith_queue_self q f bank hgated.toKeepsWork hq
      exact ⟨_, (s2.startMatch q f bank).1, hexec, startWith_cmds q f bank hgated.toKeepsWork, hcq, hci, hdesc, hparam, hcbank,
        hstatus, hdata, congrArg QState.fetched hqueue, congrArg QState.onJob hqueue, hactive, hdrain,
        (startWith_stepCur q f bank).trans (startGate_stepCur s q f),
        fun h => startWith_send q f bank hgated (ht.trans h), fun h => startWith_recv q f bank hgated (ht.trans h),
        startWith_mem q f bank hgated.toKeepsWork, startWith_held q f bank hgated.toKeepsWork,
        startWith_queue_ne q f bank hgated.toKeepsWork⟩

end Sys2Proof.Machine

/-! Contributions of other chips (spec/06_ply_reduction.md R159, R166, R172, R173) and the check adder (R187): when a chunk
is summed or lands, and what a wrong add leaves. -/

namespace Sys2Proof.Machine

/-! ### Chunks that are summed or land -/


/-- The outliers, as group, position and source rank, that side records meet or bring: those that the groups they name hold
already, then their own (R173). -/
def State.sidePairs (s : State) (c : Cmd) (sides : List (Nat × List SideEntry)) : List (Nat × Nat × Nat) :=
  (sides.map (·.1)).eraseDups.flatMap (fun g => (s.sideHeld c g).map (fun x => (g, x.1, x.2)))
    ++ sides.flatMap (fun x => x.2.map (fun e => (x.1, e.pos, e.rank)))

section

variable {src seq : Nat} {h : Held} {c : Cmd} {s : State}

/-- A REDUCE chunk whose local records are there and whose sums are valid is summed (R160 to R163). -/
theorem effReduceChunk_of_sums {rs : List (List (Nat × Rec))} {ps : List (List (Nat × Rec × Nat))}
    (hd : s.delivers 1 src seq false h c) (ht : isReducing c.type = true) (hrs : h.pkts.mapM (packetRecs c) = some rs)
    (hready : c.localReady h.hdr.ring (rs.flatten.map (·.1)) = true)
    (hflag : s.localFlagged c (decide (14 ≤ h.hdr.ring)) (rs.flatten.map (·.1)) = false)
    (hlocal : (rs.flatten.map (·.1)).any (fun g => (s.localRec c h.hdr.ring g).isNone) = false)
    (hsums : (List.zip h.pkts rs).mapM (fun (p, r) => s.hopSums c p r) = some ps) :
    effReduceChunk src seq s = ((s.accept h).progress c.q c.i src true).reduceSums c.q c.i h ps := by
  obtain ⟨-, -, hheld, -, hjob, hpass, hst⟩ := hd
  simp only [effReduceChunk, hheld, hjob, hpass, ht, hrs, hst, hready, hflag, hlocal, hsums, Option.isSome_none, Bool.not_true,
    Bool.or_self, Bool.false_eq_true, if_false]

/-- Side records of owned groups land when no outlier of theirs repeats and no source brings a group more than eight. -/
theorem effSideChunk_of_fits {rs : List (List (Nat × List SideEntry))} (hd : s.delivers 3 src seq false h c)
    (hlands : c.landsNow = true)
    (hrs : h.pkts.mapM (fun p => parseSides c.g (p.payload.length / 16 + 1) p.payload) = some rs)
    (howned : rs.flatten.all (fun x => c.owns (s.place c).1 (s.place c).2 x.1) = true)
    (hnodup : (s.sidePairs c rs.flatten).Nodup)
    (height : (s.sidePairs c rs.flatten).all (fun x =>
      decide (((s.sidePairs c rs.flatten).filter (fun y => y.1 == x.1 && y.2.2 == x.2.2)).length ≤ 8)) = true) :
    effSideChunk src seq s = rs.flatten.foldl (fun s x => s.landSide c.q c.i x.1 x.2) ((s.accept h).progress c.q c.i src true) := by
  obtain ⟨-, -, hheld, -, hjob, hpass, hst⟩ := hd
  unfold State.sidePairs at hnodup height
  simp only [effSideChunk, hheld, hjob, hpass, hlands, hrs, howned, hnodup, height, hst, decide_true, Option.isSome_none,
    Bool.not_true, Bool.or_self, Bool.false_eq_true, if_false]

/-- Spill records that fit the landing map and the lead land (R166). -/
theorem effSpillChunk_of_fits {rs : List (List Spill)} (hd : s.delivers 4 src seq false h c) (hlands : c.landsNow = true)
    (hrs : h.pkts.mapM (fun p => parseSpills (p.payload.length / 16 + 1) p.payload) = some rs)
    (hfits : rs.flatten.all (spillFits c (s.place c).1 (s.place c).2) = true) :
    effSpillChunk src seq s = rs.flatten.foldl (fun s r =>
      if r.row || !c.hasRow then s.landOwned c.q c.i r.group r.body r.contrib true src
      else s.landPending c.q c.i r.group r.body r.contrib true src) ((s.accept h).progress c.q c.i src true) := by
  obtain ⟨-, -, hheld, -, hjob, hpass, hst⟩ := hd
  simp only [effSpillChunk, hheld, hjob, hpass, hlands, hrs, hfits, hst, Option.isSome_none, Bool.not_true, Bool.and_false,
    Bool.or_self, Bool.false_eq_true, if_false]

/-- Sparse records of owned blocks of a sparse command land (R172). -/
theorem effSparseChunk_of_fits {rs : List (List Sparse)} (hd : s.delivers 5 src seq false h c) (hlands : c.landsNow = true)
    (hsparse : c.sparse = true)
    (hrs : h.pkts.mapM (fun p => parseSparses c.selBlock c.elements (p.payload.length / 16 + 1) p.payload) = some rs)
    (howned : rs.flatten.all (fun r => c.owns (s.place c).1 (s.place c).2 (r.block * c.selBlock / c.g)
      && decide (r.block * c.selBlock < c.elements)) = true) :
    effSparseChunk src seq s =
      rs.flatten.foldl (fun s r => s.landSparse c.q c.i r src) ((s.accept h).progress c.q c.i src true) := by
  obtain ⟨-, -, hheld, -, hjob, hpass, hst⟩ := hd
  simp only [effSparseChunk, hheld, hjob, hpass, hlands, hrs, howned, hsparse, hst, Option.isSome_none, Bool.not_true,
    Bool.or_self, Bool.false_eq_true, if_false]

end

/-! ### The check adder (R187) -/

/-- The accounts of a wrong add: SDE, its count, and the group and job of the last one. -/
def State.recordSde (s : State) (globalGroup job : Nat) : State :=
  ((s.raise causeSde).sat rPlySde 0 32 1).wr rPlySdeAt (BitVec.ofNat 64 (globalGroup % 2 ^ 40 + job % 4096 * 2 ^ 40))

/-- `t` is `s` but for the contents of memory and Bobbin. -/
def State.ContentsOnly (s t : State) : Prop :=
  t = { s with mem := t.mem, badUnits := t.badUnits, bobbin := t.bobbin }

namespace State.ContentsOnly

variable {s t : State}

theorem rd (h : s.ContentsOnly t) (o : Nat) : t.rd o = s.rd o := (congrArg (State.rd · o) h :)
theorem rep (h : s.ContentsOnly t) : t.rep = s.rep := (congrArg State.rep h :)
theorem queues (h : s.ContentsOnly t) : t.queues = s.queues := (congrArg State.queues h :)
theorem held (h : s.ContentsOnly t) : t.held = s.held := (congrArg State.held h :)
theorem cmd? (h : s.ContentsOnly t) (q i : Nat) : t.cmd? q i = s.cmd? q i := (congrArg (State.cmd? · q i) h :)

end State.ContentsOnly

theorem setSlotWord_contents (s : State) (l : Loc) (n v : Nat) : s.ContentsOnly (s.setSlotWord l n v) := by
  cases l <;> rfl

/-- The command found at an index of a queue stands there. -/
theorem index_of_cmd? {s : State} {q i : Nat} {c : Cmd} (hc : s.cmd? q i = some c) : c.q = q ∧ c.i = i := by
  simpa [State.cmd?] using List.find?_some hc

/-- A command's new record is found where its old one was. -/
theorem cmd?_putCmd {s : State} {c d : Cmd} (hc : s.cmd? d.q d.i = some c) : (s.putCmd d).cmd? d.q d.i = some d := by
  have hat : ((fun x : Cmd => x.q == d.q && x.i == d.i) ∘ fun x => if x.q == d.q && x.i == d.i then d else x)
      = fun x => x.q == d.q && x.i == d.i := by
    funext x
    simp only [Function.comp_apply]
    split <;> simp [*]
  obtain ⟨hq, hi⟩ := index_of_cmd? hc
  unfold State.cmd? at hc ⊢
  rw [State.putCmd_cmds, List.find?_map, hat, hc]
  simp [hq, hi]

theorem recordSde_cmd? (s : State) (globalGroup job q i : Nat) : (s.recordSde globalGroup job).cmd? q i = s.cmd? q i := by
  unfold State.cmd? State.recordSde
  rw [State.wr_cmds, State.sat_cmds, raise_eq]

theorem recordSde_keeps (s : State) (globalGroup job : Nat) :
    (s.recordSde globalGroup job).rep = (s.raise causeSde).rep ∧ (s.recordSde globalGroup job).queues = s.queues
      ∧ (s.recordSde globalGroup job).held = s.held := by
  unfold State.recordSde
  refine ⟨?_, ?_, ?_⟩
  · rw [State.wr_rep, State.sat_rep]
  · rw [State.wr_queues, State.sat_queues, raise_eq]
  · rw [State.wr_held, State.sat_held, raise_eq]

/-- The slot of a group that a command keeps here is marked as wrong. -/
def State.markWrong (s : State) (c : Cmd) (group : Nat) : State :=
  if isReducing c.type && c.dataStarted && c.owns (s.place c).1 (s.place c).2 group then
    let l := c.landLoc (s.place c).1 (s.place c).2 group
    s.setSlotWord l 0 (putBit (s.slotWord l 0) 14 true)
  else s

theorem markWrong_contents (s : State) (c : Cmd) (group : Nat) : s.ContentsOnly (s.markWrong c group) := by
  unfold State.markWrong
  split
  · exact setSlotWord_contents s _ _ _
  · rfl

/-- A command with the guard reason of a wrong add (R187). -/
def Cmd.sdeGuarded (c : Cmd) : Cmd := { c with upd := { c.upd with reasons := c.upd.reasons ||| 0x10 } }

/-- A mismatch of a running command: the accounts, the mark, and the guard reason while a fused step has no outcome. -/
theorem effCheckAdderMismatch_eq (q i group globalGroup job : Nat) (c : Cmd) (s : State) (hc : s.cmd? q i = some c) :
    effCheckAdderMismatch q i group globalGroup job s =
      if c.type = 0x12 ∧ c.upd.computed = false ∧ c.outcome.isNone = true then
        ((s.recordSde globalGroup job).markWrong c group).putCmd c.sdeGuarded
      else (s.recordSde globalGroup job).markWrong c group := by
  have hrecorded := (recordSde_cmd? s globalGroup job q i).trans hc
  unfold State.recordSde at hrecorded
  simp only [effCheckAdderMismatch, hrecorded]
  rfl

/-- The registers, the failures, the queues and the chunks are those of the accounts. -/
theorem effCheckAdderMismatch_keeps (q i group globalGroup job : Nat) (c : Cmd) (s : State) (hc : s.cmd? q i = some c) :
    let t := effCheckAdderMismatch q i group globalGroup job s
    (∀ o, t.rd o = (s.recordSde globalGroup job).rd o) ∧ t.rep = (s.raise causeSde).rep ∧ t.queues = s.queues
      ∧ t.held = s.held := by
  have hmarked := markWrong_contents (s.recordSde globalGroup job) c group
  obtain ⟨hrep, hqueues, hheld⟩ := recordSde_keeps s globalGroup job
  rw [effCheckAdderMismatch_eq q i group globalGroup job c s hc]
  split
  all_goals exact ⟨hmarked.rd, hmarked.rep.trans hrep, hmarked.queues.trans hqueues, hmarked.held.trans hheld⟩

/-- What a mismatch leaves in the command that it names. -/
theorem effCheckAdderMismatch_cmd? (q i group globalGroup job : Nat) (c : Cmd) (s : State) (hc : s.cmd? q i = some c)
    (ht : c.type = 0x12) (hcomp : c.upd.computed = false) (hopen : c.outcome = none) :
    (effCheckAdderMismatch q i group globalGroup job s).cmd? q i = some c.sdeGuarded := by
  have hmarked := (markWrong_contents (s.recordSde globalGroup job) c group).cmd? q i
  rw [recordSde_cmd?, hc] at hmarked
  obtain ⟨rfl, rfl⟩ := index_of_cmd? hc
  rw [effCheckAdderMismatch_eq _ _ _ _ _ _ _ hc, if_pos ⟨ht, hcomp, by rw [hopen]; rfl⟩]
  exact cmd?_putCmd (d := c.sdeGuarded) hmarked

/-! ### What `settled` leaves -/

theorem settled_rep (s : State) : s.settled.rep = s.rep := by rw [settled_shape]

theorem settled_cmd? (s : State) (q i : Nat) : s.settled.cmd? q i = s.cmd? q i := by
  rw [State.cmd?, settled_cmds, State.cmd?]

theorem raise_rep_detected (s : State) : (s.raise causeSde).rep.detected ≠ none := by
  have hdetect : s.detect.rep.detected ≠ none := by
    unfold State.detect
    split
    · rename_i h
      exact Option.isSome_iff_ne_none.mp h
    · simp
  exact hdetect

/-- The registers of a mismatch, once everything has settled. -/
theorem recordSde_rd (s : State) (globalGroup job : Nat) :
    ((s.recordSde globalGroup job).rd rEvtStatus).getLsbD 7 = true
      ∧ (s.recordSde globalGroup job).fld rPlySde 0 32 = min (2 ^ 32 - 1) (s.fld rPlySde 0 32 + 1)
      ∧ (s.recordSde globalGroup job).rd rPlySdeAt = BitVec.ofNat 64 (globalGroup % 2 ^ 40 + job % 4096 * 2 ^ 40) := by
  unfold State.recordSde
  refine ⟨?_, ?_, rd_wr_self _ _ _⟩
  · rw [rd_wr_ne _ _ _ _ (by decide), rd_sat_ne _ _ _ _ _ _ (by decide)]
    exact raise_sets_cause s causeSde (by decide)
  · rw [State.fld, rd_wr_ne _ _ _ _ (by decide)]
    refine (fld_sat_self (s.raise causeSde) rPlySde 0 32 1 (by decide)).trans ?_
    rw [State.fld, raise_rd_ne _ _ _ (by decide), State.fld]

/-- A register of the Ply adders keeps its value while everything settles. -/
theorem settled_rd_ply (s : State) (o : Nat) (h : 0x043000 ≤ o) : s.settled.rd o = s.rd o :=
  settled_rd_of_watches_lt s o (by simp only [rEvwCfg]; omega)

/-- A check-adder mismatch of a running command. -/
theorem checkAdderMismatch_recorded (q i group globalGroup job : Nat) (c : Cmd) (s : State) (hr : s.ctl.resetOn = false)
    (hc : s.cmd? q i = some c) :
    ∃ t, exec (.checkAdderMismatch q i group globalGroup job) s = .next t ∧ (t.rd rEvtStatus).getLsbD 7 = true
      ∧ t.fld rPlySde 0 32 = min (2 ^ 32 - 1) (s.fld rPlySde 0 32 + 1)
      ∧ t.rd rPlySdeAt = BitVec.ofNat 64 (globalGroup % 2 ^ 40 + job % 4096 * 2 ^ 40)
      ∧ (c.type = 0x12 → c.upd.computed = false → c.outcome = none →
          ∃ d, t.cmd? q i = some d ∧ d.upd.reasons = c.upd.reasons ||| 0x10)
      ∧ t.rep.detected ≠ none ∧ t.queues = s.queues ∧ t.held = s.held := by
  obtain ⟨hcause, hcount, hat⟩ := recordSde_rd s globalGroup job
  obtain ⟨hrd, hrep, hqueues, hheld⟩ := effCheckAdderMismatch_keeps q i group globalGroup job c s hc
  refine ⟨_, congrArg done (live_eq s (effCheckAdderMismatch q i group globalGroup job) hr), ?_, ?_, ?_, ?_, ?_,
    (settled_queues _).trans hqueues, (settled_held _).trans hheld⟩
  · refine settled_keeps_cause _ _ ?_
    rwa [hrd]
  · rwa [State.fld, settled_rd_ply _ _ (by decide), hrd]
  · rwa [settled_rd_ply _ _ (by decide), hrd]
  · intro ht hcomp hopen
    refine ⟨c.sdeGuarded, ?_, rfl⟩
    rw [settled_cmd?, effCheckAdderMismatch_cmd? q i group globalGroup job c s hc ht hcomp hopen]
  · rw [settled_rep, hrep]
    exact raise_rep_detected s

/-! ### The obligation -/

/-- Settles O52: the four kinds of contributions as their consumers take them, and the check adder by its accounts. -/
theorem contributions : Obligations.Contributions := by
  unfold Obligations.Contributions
  refine ⟨fun src seq h c s => ⟨?_, ?_, ?_, ?_⟩, ?_⟩
  · intro rs ps hd ht hrs hready hflag hlocal hsums
    exact (done_live_sorted_of_delivers _ _ hd (by decide)).trans
      (by rw [effReduceChunk_of_sums hd ht hrs hready hflag hlocal hsums])
  · intro rs hd hlands hrs howned old pairs hnodup height
    exact (done_live_sorted_of_delivers _ _ hd (by decide)).trans
      (by rw [effSideChunk_of_fits hd hlands hrs howned hnodup height])
  · intro rs hd hlands hrs hfits
    exact (done_live_sorted_of_delivers _ _ hd (by decide)).trans (by rw [effSpillChunk_of_fits hd hlands hrs hfits])
  · intro rs hd hlands hsparse hrs howned
    exact (done_live_sorted_of_delivers _ _ hd (by decide)).trans
      (by rw [effSparseChunk_of_fits hd hlands hsparse hrs howned])
  · exact fun q i group globalGroup job c s hr hc => checkAdderMismatch_recorded q i group globalGroup job c s hr hc

end Sys2Proof.Machine

/-! A vote whose sender is a member of the command at an index and not of the command of the vote's identifier
(spec/09_fabric.md R269). -/

namespace Sys2Proof.Machine


/-- A collective of queue 0 at index 0, of job identifier `job` and of the eight ranks from `base` on in one Hedge. -/
def hedgeCmd (job base : Nat) : Cmd :=
  Cmd.make 0 0 (toLE 0x10 64) (List.replicate 72 0 ++ toLE job 4 ++ toLE 0 4 ++ toLE base 2 ++ toLE 1 2 ++ toLE 0 44) [] 0

/-- A good vote of the Hedge pass, which names step 0, identifier 3 and repeat 0. -/
def hedgeVote : VoteMsg :=
  { step := 0, job := 3, good := true, row := false, guard := false, mixed := false, rep := 0, reasons := 0, origin := 0, hops := 0 }

/-- The vote of rank 1 for identifier 3. -/
def voteOfRank1 : Held :=
  { pkts := [{ hdr := { kind := 0x11, vc := 3, epoch := 0, route := 3, fence := false, mcast := true, len := 16, resend := false
                        src := 1, dst := 0, phys := 0, via := 0, viaValid := false, rowDir := false, mask := 0, pkt := 0, pkts := 1
                        rep := 0, job := 3, ring := 0, seq := 0, offset := 0, hop := 0, contrib := 0, check := 0 }
               payload := hedgeVote.bytes }]
    port := 0 }

/-- Two commands stand at index 0 of queue 0: the one of identifier 4 has rank 1 as a member, the one of identifier 3 has not. -/
def sharedIndex : State :=
  { State.reset with ctl := { Ctl.reset with resetOn := false }, cmds := [hedgeCmd 4 0, hedgeCmd 3 8], held := [voteOfRank1] }

/-- How many votes each command of an outcome keeps. -/
def keptVotes : Host.Outcome State Fault Refusal → List Nat
  | .next t => t.cmds.map (fun c => c.gat.votes.length)
  | _ => []

theorem voteOfRank1_delivered : sharedIndex.delivers 0x11 1 0 true voteOfRank1 (hedgeCmd 3 8) := by
  unfold State.delivers State.flows
  decide +kernel

/-- The model looks the sender up in the command of identifier 3, of which it is no member, and keeps no vote. -/
theorem keptVotes_sharedIndex : keptVotes (exec (.vote 1 0 true) sharedIndex) = [0, 0] := by decide +kernel

/-- Refutes O54: its clause on votes looks the sender up in the command at the index of the command that the chunk reaches, the
model in that command itself, and nothing in its premises makes the two one. In `sharedIndex` they differ: the clause's state
keeps a vote, the model's none. -/
theorem not_markersAndVotes : ¬ Obligations.MarkersAndVotes := by
  unfold Obligations.MarkersAndVotes
  rintro ⟨-, -, hvotes, -⟩
  have hkept := hvotes 1 0 0 1 true voteOfRank1 (hedgeCmd 3 8) _ hedgeVote sharedIndex voteOfRank1_delivered rfl rfl rfl rfl rfl
  have hcounts := keptVotes_sharedIndex.symm.trans (congrArg keptVotes hkept)
  exact absurd hcounts (by decide +kernel)

end Sys2Proof.Machine

/-! Timers of chunks (spec/08_collectives.md R242, R243, spec/09_fabric.md R266) and the Router (R272, R276 to R286): what a
timer that has run out and a packet's next hop do. -/

namespace Sys2Proof.Machine

/-! ### Commands that a read failed (spec/01_engine_and_step.md R39) -/

/-- A read that fails changes commands alone. -/
theorem failCmd_eq (s : State) (q i st detail : Nat) :
    s.failCmd q i st detail = { s with cmds := (s.failCmd q i st detail).cmds } := by
  unfold State.failCmd
  split
  · rfl
  · split <;> rfl

theorem readFailed_eq (s : State) (c : Cmd) (kind : ReadKind) :
    s.readFailed c kind = { s with cmds := (s.readFailed c kind).cmds } := by
  unfold State.readFailed
  simp only
  split
  · rfl
  split
  · rfl
  split
  · rfl
  rw [failCmd_eq]
  split <;> rfl

/-- The memory-error event, and a command that fails. -/
theorem memError_eq (s : State) (q i : Nat) (kind : ReadKind) :
    s.memError q i kind = { s.raise causeMemory with cmds := (s.memError q i kind).cmds } := by
  unfold State.memError
  simp only
  split
  · rfl
  · rw [readFailed_eq]

theorem memError_rd (s : State) (q i : Nat) (kind : ReadKind) (o : Nat) :
    (s.memError q i kind).rd o = (s.raise causeMemory).rd o := by
  rw [memError_eq]
  rfl

/-! ### Timers of chunks -/

section

variable {rank seq : Nat} {mc : Bool} {s : State} (hv : s.timeValid = true)

include hv

/-- A chunk that is not whole in time leaves the reorder buffer, counted at its port (R266). -/
theorem effChunkPartialTimeout_of_late {a : Assembly}
    (ha : s.partials.find? (fun a => a.first.src == rank && a.first.seq == seq && a.first.mcast == mc) = some a)
    (hlate : a.since + s.fld rFabTimeout 0 24 ≤ s.now) :
    effChunkPartialTimeout rank seq mc s
      = ({ s with partials := s.partials.filter (fun x => decide (x ≠ a)) } : State).sat (rPortDrop a.port) 8 8 1 := by
  simp only [effChunkPartialTimeout, ha, hv, hlate, decide_true, Bool.and_self, if_true]

variable {c : OutChunk}
  (hc : s.outbox.find? (fun c => c.seq == some seq && c.mc == mc && (mc || c.dst == rank)) = some c)
  (hlate : c.sentAt + s.fld rFabTimeout 0 24 ≤ s.now)

include hc hlate

/-- A chunk not acknowledged in time is sent again: as kept while it is retained, else as memory holds it (R242, R243). -/
theorem effChunkTimeout_of_good (hgood : c.retained = true ∨ c.flagged s = false) :
    effChunkTimeout rank seq mc s =
      (let again := { (if c.retained then c else c.refreshed s) with sentAt := s.now }
      (({ s with outbox := s.outbox.map (fun d => if d = c then again else d) } : State).sat rColResends
        (if c.retained then 0 else 32) 32 1).launch again (if c.port < 16 then some c.port else none) true) := by
  have hread : (!c.retained && c.flagged s) = false := by rcases hgood with h | h <;> simp [h]
  simp only [effChunkTimeout, hc, hv, hlate, hread, decide_true, Bool.and_self, Bool.false_eq_true, if_true, if_false]
  cases c.retained <;> rfl

/-- One whose memory cannot be read raises the memory-error event, and nothing is sent (R39). -/
theorem effChunkTimeout_of_flagged (hret : c.retained = false) (hflag : c.flagged s = true) :
    ((effChunkTimeout rank seq mc s).rd rEvtStatus).getLsbD causeMemory = true
      ∧ (effChunkTimeout rank seq mc s).txq = s.txq ∧ (effChunkTimeout rank seq mc s).mem = s.mem := by
  set u : State := { s with outbox := s.outbox.map (fun d => if d = c then { c with sentAt := s.now } else d) }
  have heff : effChunkTimeout rank seq mc s =
      match c.owner with
      | some (q, i) => u.memError q i .other
      | none => u.raise causeMemory := by
    have hread : (!c.retained && c.flagged s) = true := by simp [hret, hflag]
    simp only [effChunkTimeout, hc, hv, hlate, hread, decide_true, Bool.and_self, if_true]
    rfl
  have hraised := raise_accounts u causeMemory
  have hcause := raise_sets_cause u causeMemory (by decide)
  rw [heff]
  split
  · refine ⟨?_, ?_, ?_⟩
    · rw [memError_rd]
      exact hcause
    · rw [memError_eq]
      exact hraised.txq
    · rw [memError_eq]
      exact hraised.mem
  · exact ⟨hcause, hraised.txq, hraised.mem⟩

end

/-! ### The Router -/

/-- Packet `n` of the Router goes on with a header of its own, no longer bound to a port. -/
def State.reheader (s : State) (n : Nat) (t : TxPkt) (h : Hdr) : State :=
  { s with txq := s.txq.set n { t with pkt := { t.pkt with hdr := h }, pinned := none } }

/-- A packet leaves by port `p`: its buffer is free, its credits are charged, and it is on the link (R272). -/
def State.leaveBy (s : State) (n : Nat) (t : TxPkt) (p : Nat) : State :=
  let s1 := s.unqueue n t
  let x := s1.port p
  (s1.setPort p { x with tx := addAt x.tx t.pkt.hdr.vc (charge t.pkt.hdr.len), freeDirty := false }).sendUnits p
    [.packet t.pkt x.free.toList (x.link == .resync)] (charge t.pkt.hdr.len)

section

variable {n : Nat} {t : TxPkt} {s : State} (ht : s.txq[n]? = some t)

include ht

/-- A packet of an epoch that is neither current nor draining is discarded and counted (R284). -/
theorem effPacketForward_of_dead (hdead : s.epochLive t.pkt.hdr.epoch = false) :
    effPacketForward n s = ((s.countEj t.pkt.hdr.epoch 1).sat rFabEvents 16 8 1).unqueue n t := by
  simp only [effPacketForward, ht, hdead, Bool.not_false, if_true]

/-- The Router carries out its choice for a packet of a live epoch. -/
theorem effPacketForward_of_live (hlive : s.epochLive t.pkt.hdr.epoch = true) :
    effPacketForward n s =
      match s.nextHop t with
      | .tableErr => ((s.countEj t.pkt.hdr.epoch 1).sat rFabEvents 24 4 1).unqueue n t
      | .deliver p => (s.unqueue n t).deliver p t.pkt
      | .drop => (((s.countEj t.pkt.hdr.epoch 1).sat rFabEvents 0 8 1).raise causePartition).unqueue n t
      | .escape => (s.reheader n t { t.pkt.hdr with route := 3, vc := 2 }).sat rFabEscaped 0 32 1
      | .send p =>
        if !s.isUp p then
          (if t.pkt.hdr.route = 2 then
            (s.sprayFields { t.pkt.hdr with route := 0 }).2.reheader n t (s.sprayFields { t.pkt.hdr with route := 0 }).1
          else s)
        else if (s.port p).credit t.pkt.hdr.vc < charge t.pkt.hdr.len then s
        else
          match s.retainFor t p with
          | none => s
          | some s => s.leaveBy n t p := by
  simp only [effPacketForward, ht, hlive, Bool.not_true, Bool.false_eq_true, if_false]
  rfl

/-- A VC0 packet that waited too long for credits moves to the escape channel (R277). -/
theorem effEscapeWaitExpiry_of_late (hv : s.timeValid = true) (hvc : t.pkt.hdr.vc = 0) (hlacks : s.lacksCredit t = true)
    (hlate : t.since + s.fld rFabTimers 0 17 ≤ s.now) :
    effEscapeWaitExpiry n s = (s.reheader n t { t.pkt.hdr with route := 3, vc := 2 }).sat rFabEscaped 0 32 1 := by
  simp only [effEscapeWaitExpiry, ht, hv, hvc, hlacks, hlate, beq_self_eq_true, decide_true, Bool.and_self, if_true,
    State.reheader]

end

/-! ### The obligations -/

/-- Out of reset a command's outcome is its effect, settled. -/
theorem done_live (f : State → State) (s : State) (hr : s.ctl.resetOn = false) : done (s.live f) = .next (f s).settled := by
  rw [live_eq _ _ hr, done]

/-- Settles O39: the timer of a chunk that is not whole, and the timer of one not acknowledged by what its resending reads. -/
theorem chunkTimeouts : Obligations.ChunkTimeouts := by
  unfold Obligations.ChunkTimeouts
  refine fun rank seq mc s hr hv => ⟨fun a ha hlate => ?_, fun c hc => ?_⟩
  · exact (done_live _ s hr).trans (by rw [effChunkPartialTimeout_of_late hv ha hlate])
  intro again hlate
  refine ⟨fun hgood => ?_, fun hret hflag => ?_⟩
  · exact (done_live _ s hr).trans (by rw [effChunkTimeout_of_good hv hc hlate hgood])
  · obtain ⟨hcause, htxq, hmem⟩ := effChunkTimeout_of_flagged hv hc hlate hret hflag
    exact ⟨_, done_live _ s hr, settled_keeps_cause _ _ hcause, (settled_accounts _).txq.trans htxq,
      (settled_mem _).trans hmem⟩

/-- Settles O40: a packet of a dead epoch, then each choice of the Router for one of a live epoch, and the wait for credits. -/
theorem forwards : Obligations.Forwards := by
  unfold Obligations.Forwards
  intro n t s hr ht
  dsimp only
  have hforward : exec (.packetForward n) s = .next (effPacketForward n s).settled := done_live _ s hr
  refine ⟨fun hdead => ?_, fun hlive => ?_, fun hv hvc hlacks hlate => ?_⟩
  · rw [hforward, effPacketForward_of_dead ht hdead]
  · rw [effPacketForward_of_live ht hlive] at hforward
    refine ⟨fun p hhop hup hcredit => ⟨fun s2 hretain => ?_, fun hin => ?_, fun hretain => ?_⟩, fun p hhop hup hcredit => ?_,
      fun p hhop hdown hpinned => ?_, fun p hhop => ?_, fun hhop => ?_, fun hhop => ?_, fun hhop => ?_⟩
    · simp only [hhop, hup, if_neg (Nat.not_lt.mpr hcredit), hretain, Bool.not_true, Bool.false_eq_true, if_false] at hforward
      exact hforward
    · simp only [State.retainFor, hin, if_true]
    · simpa only [hhop, hup, if_neg (Nat.not_lt.mpr hcredit), hretain, Bool.not_true, Bool.false_eq_true, if_false] using hforward
    · simpa only [hhop, hup, if_pos hcredit, Bool.not_true, Bool.false_eq_true, if_false] using hforward
    · simp only [hhop, hdown, Bool.not_false, hpinned, if_true] at hforward
      exact hforward
    · simpa only [hhop] using hforward
    · simpa only [hhop] using hforward
    · simpa only [hhop] using hforward
    · simp only [hhop] at hforward
      exact hforward
  · exact (done_live _ s hr).trans (by rw [effEscapeWaitExpiry_of_late ht hv hvc hlacks hlate]; rfl)

end Sys2Proof.Machine

/-! The entries of a skein that become descriptors (spec/08_collectives.md R252), the watchdog of a collective (R248), and reads
that return the uncorrectable-error flag (spec/01_engine_and_step.md R39, spec/10_compression.md R305). -/

namespace Sys2Proof.Machine

/-! ### TAIL moves by one (spec/13_control.md R380) -/

theorem fld_lt (s : State) (o lo w : Nat) : s.fld o lo w < 2 ^ w := Nat.mod_lt _ (Nat.two_pow_pos w)

@[simp] theorem putCmd_rd (s : State) (c : Cmd) (o : Nat) : (s.putCmd c).rd o = s.rd o := rfl

/-- A doorbell that is not refused moves TAIL. -/
theorem ringTail_of_good {s : State} {q tail : Nat} (h : s.badDoorbell q tail = false) :
    s.ringTail q tail = s.setFld (rQTail q) 0 32 tail := by
  simp only [State.ringTail, h, Bool.false_eq_true, if_false]

/-- Where the ring has room for one descriptor more, TAIL may move by one. -/
theorem badDoorbell_next {s : State} {q : Nat} (hring : s.ringOk q = true)
    (hroom : sub32 (s.fld (rQTail q) 0 32) (s.fld (rQHead q) 0 32) < 2 ^ s.fld (rQCfg q) 0 5) :
    s.badDoorbell q ((s.fld (rQTail q) 0 32 + 1) % 2 ^ 32) = false := by
  have hhead := fld_lt s (rQHead q) 0 32
  have htail := fld_lt s (rQTail q) 0 32
  have hsize : 2 ^ s.fld (rQCfg q) 0 5 ≤ 2 ^ 16 := by
    simp only [State.ringOk, Bool.and_eq_true, decide_eq_true_eq] at hring
    exact Nat.pow_le_pow_right (by decide) hring.2
  have hfits : ¬ 2 ^ s.fld (rQCfg q) 0 5 < sub32 ((s.fld (rQTail q) 0 32 + 1) % 2 ^ 32) (s.fld (rQHead q) 0 32) := by
    unfold sub32 at hroom ⊢
    omega
  have hforward : ¬ 2 ^ 31 ≤ sub32 ((s.fld (rQTail q) 0 32 + 1) % 2 ^ 32) (s.fld (rQTail q) 0 32) := by
    unfold sub32
    omega
  rw [State.badDoorbell, hring, decide_eq_false hfits, decide_eq_false hforward]
  rfl

/-! ### One entry of a skein -/

/-- ARG of the descriptor of an entry: 0, or the launch time that the entry's offset gives (R252). -/
def Cmd.skeinArg (c : Cmd) (img : List Byte) : Nat :=
  let off := leAt (skeinEntry img c.entry) 200 8
  if off = 0 then 0 else (dArg c.desc + leAt img 8 8 + off) % 2 ^ 64

/-- The descriptor that the next entry of a skein at `addr` becomes (R252). -/
def Cmd.skeinDescriptor (c : Cmd) (addr : Nat) (img : List Byte) : List Byte :=
  skeinDesc (skeinEntry img c.entry) (addr + 64 + 256 * c.entry + 64) (dParamAddr c.desc % 2 ^ 48) (c.skeinArg img)

/-- The queue that the next entry of a skein names. -/
@[reducible] def Cmd.skeinQueue (c : Cmd) (img : List Byte) : Nat := leAt (skeinEntry img c.entry) 192 2

/-- A collective of a skein has the number that its entry gives it (spec/11_reproducibility.md R327). -/
def State.numberEntry (s : State) (c : Cmd) (img : List Byte) : State :=
  let ent := skeinEntry img c.entry
  if usesBlock (byteAt ent 0) then
    { s with ordinals := s.ordinals ++ [{ job := leAt ent 136 2 % 4096, step := dParamAddr c.desc % 2 ^ 48, q := c.skeinQueue img
                                          i := s.fld (rQTail (c.skeinQueue img)) 0 32, num := skeinOrdinal img c.entry }] }
  else s

theorem numberEntry_eq (s : State) (c : Cmd) (img : List Byte) :
    s.numberEntry c img = { s with ordinals := (s.numberEntry c img).ordinals } := by
  unfold State.numberEntry
  simp only
  split <;> rfl

/-- The next entry of a skein at `addr` stands at the TAIL of its queue. -/
def State.writeEntry (s : State) (c : Cmd) (addr : Nat) (img : List Byte) : State :=
  (s.numberEntry c img).write ((s.numberEntry c img).descAt (c.skeinQueue img) (s.fld (rQTail (c.skeinQueue img)) 0 32))
    (c.skeinDescriptor addr img)

theorem writeEntry_regs (s : State) (c : Cmd) (addr : Nat) (img : List Byte) : (s.writeEntry c addr img).regs = s.regs := by
  rw [State.writeEntry, State.write_regs, numberEntry_eq]

theorem writeEntry_rd (s : State) (c : Cmd) (addr : Nat) (img : List Byte) (o : Nat) : (s.writeEntry c addr img).rd o = s.rd o := by
  rw [State.rd, writeEntry_regs, State.rd]

theorem writeEntry_mem (s : State) (c : Cmd) (addr : Nat) (img : List Byte) : (s.writeEntry c addr img).mem =
    memWrite s.mem (s.descAt (c.skeinQueue img) (s.fld (rQTail (c.skeinQueue img)) 0 32)) (c.skeinDescriptor addr img) := by
  rw [State.writeEntry, State.write_mem, numberEntry_eq]
  rfl

theorem writeEntry_cmds (s : State) (c : Cmd) (addr : Nat) (img : List Byte) : (s.writeEntry c addr img).cmds = s.cmds := by
  rw [State.writeEntry, State.write_cmds, numberEntry_eq]

/-- A doorbell is judged by registers alone. -/
theorem badDoorbell_congr {s t : State} (h : ∀ o, t.rd o = s.rd o) (q tail : Nat) : t.badDoorbell q tail = s.badDoorbell q tail := by
  unfold State.badDoorbell State.ringOk State.fld
  rw [h, h, h]

/-- The next entry has been appended. -/
def State.appendEntry (s : State) (c : Cmd) (addr : Nat) (img : List Byte) : State :=
  ((s.writeEntry c addr img).setFld (rQTail (c.skeinQueue img)) 0 32 ((s.fld (rQTail (c.skeinQueue img)) 0 32 + 1) % 2 ^ 32)).putCmd
    { c with entry := c.entry + 1 }

theorem appendEntry_tail (s : State) (c : Cmd) (addr : Nat) (img : List Byte) :
    (s.appendEntry c addr img).fld (rQTail (c.skeinQueue img)) 0 32 = (s.fld (rQTail (c.skeinQueue img)) 0 32 + 1) % 2 ^ 32 := by
  rw [State.appendEntry, State.fld, putCmd_rd, ← State.fld, fld_setFld_self _ _ _ _ _ (by decide), Nat.mod_mod]

theorem appendEntry_mem (s : State) (c : Cmd) (addr : Nat) (img : List Byte) : (s.appendEntry c addr img).mem =
    memWrite s.mem (s.descAt (c.skeinQueue img) (s.fld (rQTail (c.skeinQueue img)) 0 32)) (c.skeinDescriptor addr img) := by
  rw [State.appendEntry, State.putCmd_mem, State.setFld_mem, writeEntry_mem]

theorem appendEntry_entries (s : State) (c : Cmd) (addr : Nat) (img : List Byte) : (s.appendEntry c addr img).cmds.map (·.entry)
    = s.cmds.map (fun d => if d.q == c.q && d.i == c.i then c.entry + 1 else d.entry) := by
  rw [State.appendEntry, State.putCmd_cmds, State.setFld_cmds, writeEntry_cmds, List.map_map]
  refine List.map_congr_left (fun d _ => ?_)
  simp only [Function.comp_apply]
  split <;> rfl

/-- An entry whose queue has room is appended, and the next one is looked at. -/
theorem appendSkein_of_room {q i addr : Nat} {img : List Byte} {c : Cmd} {s : State} (n : Nat) (hc : s.cmd? q i = some c)
    (himg : s.skein = some (addr, img)) (hleft : c.entry < skeinCount img) (hq : c.skeinQueue img < 64)
    (hring : s.ringOk (c.skeinQueue img) = true)
    (hroom : sub32 (s.fld (rQTail (c.skeinQueue img)) 0 32) (s.fld (rQHead (c.skeinQueue img)) 0 32)
      < 2 ^ s.fld (rQCfg (c.skeinQueue img)) 0 5) :
    s.appendSkein q i (n + 1) = (s.appendEntry c addr img).appendSkein q i n := by
  have hgood := (badDoorbell_congr (writeEntry_rd s c addr img) (c.skeinQueue img) _).trans (badDoorbell_next hring hroom)
  rw [State.appendEntry, ← ringTail_of_good hgood]
  unfold Cmd.skeinQueue at hq hring hroom
  simp only [State.appendSkein, State.writeEntry, State.numberEntry, Cmd.skeinQueue, Cmd.skeinDescriptor, Cmd.skeinArg, hc, himg,
    if_neg (Nat.not_le.mpr hleft), if_neg (Nat.not_le.mpr hq), hring, Bool.true_eq_false, if_false,
    if_neg (Nat.not_le.mpr hroom)]

/-! ### RUN_SKEIN -/

/-- A descriptor that may start runs its command in an open job behind the configuration comparison (R383, R411). -/
theorem startPlain_runs {t q : Nat} {f : Fetched} {s : State} (run : State → Fetched → State) (hs : s.startable t q f)
    (hjob : s.job.isOpen = true) (hgate : s.cfgGate.1 = true) : s.startPlain t q true true run = run s.cfgGate.2 f := by
  obtain ⟨hnext, ht, hmay⟩ := hs
  simp only [State.startPlain, hnext, ht, hmay, hjob, hgate, ne_eq, not_true_eq_false, Bool.true_eq_false, or_self, Bool.not_true,
    Bool.and_false, Bool.false_eq_true, if_false, if_true]

/-- The configuration comparison leaves the loaded skein alone. -/
theorem cfgGate_skein (s : State) : s.cfgGate.2.skein = s.skein := (congrArg State.skein (cfgGate_accounts s) :)

/-- Settles O46: the start of RUN_SKEIN and its going on by what they do, and one entry as it is appended. -/
theorem skeinsRun : Obligations.SkeinsRun := by
  unfold Obligations.SkeinsRun
  refine ⟨fun q f s hs hjob hgate hskein => ?_, fun q i c s hr hc ht hst => ?_,
    fun q i n addr img c s hc himg hleft => ?_⟩
  · intro s1
    have hloaded : s.cfgGate.2.skein.isNone = false := by rw [cfgGate_skein, Option.isNone_eq_false_iff, hskein]
    refine (done_live _ s (resetOn_of_startable hs)).trans ?_
    simp only [effRunSkein, startPlain_runs _ hs hjob hgate, hloaded, Bool.false_eq_true, if_false, s1]
  · refine (done_live _ s hr).trans ?_
    simp only [effSkeinAppendResume, hc, ht, hst, ne_eq, not_true_eq_false, Option.isSome_none, Bool.false_eq_true, or_self,
      if_false]
  · dsimp only
    intro hq hring hroom
    exact ⟨s.appendEntry c addr img, appendSkein_of_room n hc himg hleft hq hring hroom, appendEntry_tail s c addr img,
      ⟨c.skeinArg img, appendEntry_mem s c addr img⟩, appendEntry_entries s c addr img⟩

/-! ### The watchdog (R248) -/

section

variable {q i : Nat} {c : Cmd} {s : State} (hc : s.cmd? q i = some c)

include hc

theorem effWatchdogWarn_of_reached (hwarned : c.warned = false)
    (hreached : s.watchReached c (smGet regReset c.bank rColWarn).toNat = true) :
    effWatchdogWarn q i s = (((s.putCmd { c with warned := true }).wr rColStraggler
      (BitVec.ofNat 64 (s.straggler c % 65536 + c.job * 2 ^ 16 + q * 2 ^ 28 + 2 ^ 63))).sat rColEvents 0 8 1).raise
        causeStraggler := by
  simp only [effWatchdogWarn, hc, hwarned, hreached, Bool.not_true, Bool.or_self, Bool.false_eq_true, if_false]

theorem effWatchdogAbort_of_reached (hlim : (smGet regReset c.bank rColAbort).toNat ≠ 0)
    (hreached : s.watchReached c (smGet regReset c.bank rColAbort).toNat = true) :
    effWatchdogAbort q i s =
      (let rank := s.fld rColStraggler 0 16
      let s1 := s.sat rColEvents 8 8 1
      let s2 := if isReducing c.type then (s1.reportShort q i rank).failCmd q i stContrib rank else s1.failCmd q i stTimeout rank
      (s2.withhold q i).dropStaged c) := by
  simp only [effWatchdogAbort, hc, hlim, hreached, Bool.true_eq_false, or_self, if_false]

end

/-! ### What depends on memory alone -/

section

variable {s t : State} (h : t.mem = s.mem)

include h

theorem byte_congr (a : Nat) : t.byte a = s.byte a := by rw [State.byte, h, State.byte]

theorem read_congr (a n : Nat) : t.read a n = s.read a n := by
  induction n generalizing a with
  | zero => rfl
  | succ n ih => rw [State.read, State.read, byte_congr h, ih]

theorem readNat_congr (a n : Nat) : t.readNat a n = s.readNat a n := by rw [State.readNat, read_congr h, State.readNat]

/-- So do the segments that the expander owes, and where their records and bases lie. -/
theorem owedAt_congr (x : Out) (addr : Nat) : t.owedAt x addr = s.owedAt x addr := by
  have hread : t.readNat = s.readNat := funext fun a => funext fun n => readNat_congr h a n
  unfold State.owedAt State.owed State.recordLen State.expandBaseAt State.tabCur State.tabKey State.entry
  rw [hread]

end

/-! ### Damaged segments (spec/10_compression.md R305) -/

/-- `t` is a later state of the expander: no damage and no event is forgotten, and no other read has failed. -/
structure State.Damages (s t : State) : Prop where
  memFail : t.memFail = s.memFail
  cause : ∀ i, (s.rd rEvtStatus).getLsbD i = true → (t.rd rEvtStatus).getLsbD i = true
  damaged : ∀ d ∈ s.damaged, d ∈ t.damaged

theorem State.Damages.trans {s t u : State} (hst : s.Damages t) (htu : t.Damages u) : s.Damages u where
  memFail := htu.memFail.trans hst.memFail
  cause i h := htu.cause i (hst.cause i h)
  damaged d h := htu.damaged d (hst.damaged d h)

/-- What a damaged segment leaves before its event. -/
def State.noteDamage (s : State) (c : Cmd) (j : Nat) : State :=
  let e := s.entry c j
  let u := ((s.setEntry c j (enState e) true (enUnits e)).sat rExpErr 0 16 1).wr rExpErrAt
    (BitVec.ofNat 64 (j + c.job * 2 ^ 32 + c.q * 2 ^ 44))
  { u with damaged := if u.damaged.contains (c.dst, j) then u.damaged else (c.dst, j) :: u.damaged }

theorem damage_eq (s : State) (c : Cmd) (j : Nat) : s.damage c j false = (s.noteDamage c j).raise causeSegment := by
  simp only [State.damage, State.noteDamage, Bool.false_eq_true, if_false]

theorem setEntry_rd (s : State) (c : Cmd) (j st : Nat) (damaged : Bool) (units o : Nat) :
    (s.setEntry c j st damaged units).rd o = s.rd o := by
  rw [State.rd, State.setEntry, State.writeNat, State.write_regs, State.rd]

theorem setEntry_memFail (s : State) (c : Cmd) (j st : Nat) (damaged : Bool) (units : Nat) :
    (s.setEntry c j st damaged units).memFail = s.memFail := by
  rw [State.setEntry, State.writeNat, State.write_memFail]

theorem setEntry_damaged (s : State) (c : Cmd) (j st : Nat) (damaged : Bool) (units : Nat) :
    (s.setEntry c j st damaged units).damaged = s.damaged := by
  rw [State.setEntry, State.writeNat, State.write_damaged]

theorem withDamaged_rd (s : State) (l : List (Nat × Nat)) (o : Nat) : ({ s with damaged := l } : State).rd o = s.rd o := rfl

theorem noteDamage_evt (s : State) (c : Cmd) (j : Nat) : (s.noteDamage c j).rd rEvtStatus = s.rd rEvtStatus := by
  simp only [State.noteDamage]
  rw [withDamaged_rd, rd_wr_ne _ _ _ _ (by decide), rd_sat_ne _ _ _ _ _ _ (by decide), setEntry_rd]

theorem noteDamage_memFail (s : State) (c : Cmd) (j : Nat) : (s.noteDamage c j).memFail = s.memFail := by
  simp only [State.noteDamage, State.wr_memFail, State.sat_memFail, setEntry_memFail]

theorem mem_noteDamage (s : State) (c : Cmd) (j : Nat) (d : Nat × Nat) :
    d ∈ (s.noteDamage c j).damaged ↔ d = (c.dst, j) ∨ d ∈ s.damaged := by
  simp only [State.noteDamage, State.wr_damaged, State.sat_damaged, setEntry_damaged]
  split
  · rename_i hin
    exact ⟨.inr, Or.rec (fun h => h ▸ List.contains_iff_mem.mp hin) id⟩
  · exact List.mem_cons

theorem raise_damaged (s : State) (cause : Nat) : (s.raise cause).damaged = s.damaged := by rw [raise_eq]

theorem damage_damages (s : State) (c : Cmd) (j : Nat) : s.Damages (s.damage c j false) where
  memFail := by rw [damage_eq, raise_eq, noteDamage_memFail]
  cause i h := by
    rw [damage_eq]
    exact raise_keeps_cause _ _ _ (by rwa [noteDamage_evt])
  damaged d h := by
    rw [damage_eq, raise_damaged]
    exact (mem_noteDamage s c j d).mpr (.inr h)

theorem foldl_damage_damages (c : Cmd) (l : List Seg) (s : State) :
    s.Damages (l.foldl (fun s g => s.damage c g.num false) s) := by
  induction l generalizing s with
  | nil => exact ⟨rfl, fun _ h => h, fun _ h => h⟩
  | cons g gs ih => exact (damage_damages s c g.num).trans (ih _)

theorem foldl_damage_marks (c : Cmd) (l : List Seg) (s : State) :
    ∀ g ∈ l, (c.dst, g.num) ∈ (l.foldl (fun s g => s.damage c g.num false) s).damaged := by
  induction l generalizing s with
  | nil => simp
  | cons x xs ih =>
    intro g hg
    rcases List.mem_cons.mp hg with rfl | hg
    · refine (foldl_damage_damages c xs (s.damage c g.num false)).damaged _ ?_
      rw [damage_eq, raise_damaged]
      exact (mem_noteDamage s c g.num _).mpr (.inl rfl)
    · exact ih _ g hg

/-! ### Flagged reads (spec/01_engine_and_step.md R39) -/

/-- A read of an address has returned the uncorrectable-error flag: its address is kept, its unit is bad, and the memory-error
event has occurred. -/
def State.noteFlag (s : State) (addr : Word) : State :=
  ({ s with memFail := some addr.toNat
            badUnits := memUnit addr.toNat :: s.badUnits.filter (· != memUnit addr.toNat) } : State).raise causeMemory

theorem noteFlag_eq (s : State) (addr : Word) : s.noteFlag addr = { s with
    memFail := some addr.toNat, badUnits := memUnit addr.toNat :: s.badUnits.filter (· != memUnit addr.toNat)
    regs := (s.noteFlag addr).regs } := by
  unfold State.noteFlag
  rw [raise_eq, raise_rep _ _ (by decide)]

theorem noteFlag_cause (s : State) (addr : Word) : ((s.noteFlag addr).rd rEvtStatus).getLsbD causeMemory = true :=
  raise_sets_cause _ _ (by decide)

theorem noteFlag_cmd? (s : State) (addr : Word) (q i : Nat) : (s.noteFlag addr).cmd? q i = s.cmd? q i := by
  rw [noteFlag_eq]
  rfl

/-- A flagged response is for the segments that the expander read it for, or else for the command that it served. -/
theorem effMemoryReadResponse_flagged (q i : Nat) (kind : ReadKind) (addr : Word) (s : State) (h : s.allAwake = true) :
    effMemoryReadResponse q i kind addr true s =
      match s.outs.find? (fun x => x.cmd.q == q && x.cmd.i == i && !(s.owedAt x addr.toNat).isEmpty) with
      | some x => (s.owedAt x addr.toNat).foldl (fun s g => s.damage x.cmd g.num false) (s.noteFlag addr)
      | none =>
        match s.cmd? q i with
        | some c => (s.noteFlag addr).readFailed c kind
        | none => s.noteFlag addr := by
  have hmem : (s.noteFlag addr).mem = s.mem := by rw [noteFlag_eq]
  have houts : (s.noteFlag addr).outs = s.outs := by rw [noteFlag_eq]
  rw [← noteFlag_cmd? s addr, ← houts]
  simp only [← owedAt_congr hmem]
  simp only [effMemoryReadResponse, h, Bool.not_true, Bool.or_self, Bool.false_eq_true, if_false]
  rfl

/-- A command without a status fails with the first one that it meets (spec/13_control.md R394). -/
theorem failCmd_cmd? {s : State} {q i : Nat} {c : Cmd} (st detail : Nat) (hc : s.cmd? q i = some c) (hst : c.status = none) :
    (s.failCmd q i st detail).cmd? q i = some { c with status := some (st, detail) } := by
  obtain ⟨rfl, rfl⟩ := index_of_cmd? hc
  simp only [State.failCmd, hc, hst, Option.isSome_none, Bool.false_eq_true, if_false]
  exact cmd?_putCmd (d := { c with status := some (st, detail) }) hc

/-- A flagged read that neither the guard nor a gather covers fails its command (R204, R244). -/
theorem readFailed_status {s : State} {q i : Nat} {c : Cmd} {kind : ReadKind} (hc : s.cmd? q i = some c) (hst : c.status = none)
    (hrow : c.gat.rowStarted = false) (hkind : c.type ≠ 0x12 ∨ kind = .other) :
    ∃ d, (s.readFailed c kind).cmd? q i = some d ∧ d.status = some (stData, s.ownRank) := by
  obtain ⟨rfl, rfl⟩ := index_of_cmd? hc
  have hguard : (c.type == 0x12 && !c.upd.computed && (kind == .ownedState || kind == .stepScalars || kind == .landingSlot))
      = false := by
    rcases hkind with h | rfl
    · simp [h]
    · simp [show (ReadKind.other == .ownedState) = false from rfl, show (ReadKind.other == .stepScalars) = false from rfl,
        show (ReadKind.other == .landingSlot) = false from rfl]
  simp only [State.readFailed, hguard, hrow, hst, Bool.false_eq_true, if_false, Bool.and_false,
    show ((none : Option (Nat × Nat)) == some (stOk, 0)) = false from rfl]
  split
  · exact ⟨_, failCmd_cmd? _ _ (cmd?_putCmd hc) rfl, rfl⟩
  · exact ⟨_, failCmd_cmd? _ _ hc hst, rfl⟩

section

variable {q i : Nat} {kind : ReadKind} {addr : Word} {s : State} (h : s.allAwake = true)

include h

theorem exec_memoryReadResponse_flagged :
    exec (.memoryReadResponse q i kind addr true) s = .next (effMemoryReadResponse q i kind addr true s).settled :=
  done_live _ s (resetOn_of_awake s 16 h)

/-- A flagged read of segments that the expander owes marks them damaged. -/
theorem memoryReadResponse_damages {x : Out}
    (hx : s.outs.find? (fun x => x.cmd.q == q && x.cmd.i == i && !(s.owedAt x addr.toNat).isEmpty) = some x) :
    ∃ t, exec (.memoryReadResponse q i kind addr true) s = .next t ∧ t.memFail = some addr.toNat
      ∧ (t.rd rEvtStatus).getLsbD causeMemory = true
      ∧ ∀ g ∈ s.owedAt x addr.toNat, t.damaged.contains (x.cmd.dst, g.num) = true := by
  have hdamages := foldl_damage_damages x.cmd (s.owedAt x addr.toNat) (s.noteFlag addr)
  have hmarks := foldl_damage_marks x.cmd (s.owedAt x addr.toNat) (s.noteFlag addr)
  have hsettled := settled_accounts (effMemoryReadResponse q i kind addr true s)
  refine ⟨_, exec_memoryReadResponse_flagged h, ?_, ?_, fun g hg => ?_⟩
  · rw [show State.memFail (State.settled _) = _ from congrArg State.memFail hsettled, effMemoryReadResponse_flagged _ _ _ _ _ h, hx]
    exact hdamages.memFail.trans (by rw [noteFlag_eq])
  · refine settled_keeps_cause _ _ ?_
    rw [effMemoryReadResponse_flagged _ _ _ _ _ h, hx]
    exact hdamages.cause _ (noteFlag_cause s addr)
  · rw [show State.damaged (State.settled _) = _ from congrArg State.damaged hsettled, effMemoryReadResponse_flagged _ _ _ _ _ h, hx]
    exact List.contains_iff_mem.mpr (hmarks g hg)

/-- Any other flagged read is its command's. -/
theorem memoryReadResponse_fails {c : Cmd}
    (hx : s.outs.find? (fun x => x.cmd.q == q && x.cmd.i == i && !(s.owedAt x addr.toNat).isEmpty) = none)
    (hc : s.cmd? q i = some c) :
    exec (.memoryReadResponse q i kind addr true) s = .next (((s.noteFlag addr).readFailed c kind).settled) := by
  rw [exec_memoryReadResponse_flagged h, effMemoryReadResponse_flagged _ _ _ _ _ h, hx, hc]

end

/-- A microsecond with an outbound beat waiting is counted (R35). -/
theorem effFeedStallTick_of_waiting (s : State) (h : s.feedOut ≠ []) :
    effFeedStallTick s = s.wr rFeedStall (s.rd rFeedStall + 1) := by
  simp only [effFeedStallTick, List.isEmpty_iff, h, if_false]

/-- Settles O49: the two watchdogs, a flagged read by whom it was made for, and the Feed's stall. -/
theorem watchdogsAndReads : Obligations.WatchdogsAndReads := by
  unfold Obligations.WatchdogsAndReads
  refine ⟨fun q i c s hr hc => ⟨fun hwarned hreached => ?_, ?_⟩, fun q i kind addr s => ?_⟩
  · exact (done_live _ s hr).trans (by rw [effWatchdogWarn_of_reached hc hwarned hreached])
  · intro lim hlim hreached
    exact (done_live _ s hr).trans (by rw [effWatchdogAbort_of_reached hc hlim hreached])
  · intro mine
    refine ⟨fun c h hmine hc => ?_, fun x h hmine => ?_, fun c h hmine hc hst hrow hkind => ?_, fun hr hbeat => ?_⟩
    · exact memoryReadResponse_fails h hmine hc
    · exact memoryReadResponse_damages h hmine
    · have hflagged := (noteFlag_cmd? s addr q i).trans hc
      obtain ⟨d, hd, hdst⟩ := readFailed_status hflagged hst hrow hkind
      have hfailed := readFailed_eq (s.noteFlag addr) c kind
      refine ⟨_, memoryReadResponse_fails h hmine hc, ?_, ?_, ⟨d, (settled_cmd? _ _ _).trans hd, ?_⟩, ?_⟩
      · rw [settled_shape, hfailed, noteFlag_eq]
      · refine settled_keeps_cause _ _ ?_
        rw [hfailed]
        exact noteFlag_cause s addr
      · rw [hdst, noteFlag_eq]
        rfl
      · rw [settled_mem, hfailed, noteFlag_eq]
    · exact (done_live _ s hr).trans (by rw [effFeedStallTick_of_waiting s hbeat])

end Sys2Proof.Machine

/-! What a chunk or a phase leaves behind it, said once for the units that share it: the digests formed after it
(spec/11_reproducibility.md R324), the acceptance of a chunk (spec/09_fabric.md R268), the bytes that land, and the chunks that
leave (spec/08_collectives.md R241 to R243). -/

namespace Sys2Proof.Machine

/-! ### Commands as a view of them sees them -/

/-- `t` has the commands of `s`, as far as the view `f` of a command tells them apart. -/
def State.CmdsAs {α : Type} (f : Cmd → α) (s t : State) : Prop := ∀ q i, (t.cmd? q i).map f = (s.cmd? q i).map f

theorem cmd?_congr {s t : State} (h : t.cmds = s.cmds) (q i : Nat) : t.cmd? q i = s.cmd? q i := by rw [State.cmd?, h, State.cmd?]

/-- A new record leaves the commands at other places alone. -/
theorem cmd?_putCmd_ne {d : Cmd} {q i : Nat} (s : State) (h : ¬ (d.q = q ∧ d.i = i)) : (s.putCmd d).cmd? q i = s.cmd? q i := by
  have hat : ((fun x : Cmd => x.q == q && x.i == i) ∘ fun x => if x.q == d.q && x.i == d.i then d else x)
      = fun x => x.q == q && x.i == i := by
    funext x
    simp only [Function.comp_apply]
    split
    · rename_i hx
      simp only [Bool.and_eq_true, beq_iff_eq] at hx
      rw [hx.1, hx.2]
    · rfl
  unfold State.cmd?
  rw [State.putCmd_cmds, List.find?_map, hat]
  cases hx : s.cmds.find? (fun x => x.q == q && x.i == i) with
  | none => rfl
  | some x =>
    have hplace : x.q = q ∧ x.i = i := by simpa using List.find?_some hx
    have hne : (x.q == d.q && x.i == d.i) = false := by
      rw [hplace.1, hplace.2, Bool.and_eq_false_iff, beq_eq_false_iff_ne, beq_eq_false_iff_ne]
      exact not_and_or.mp (fun e => h ⟨e.1.symm, e.2.symm⟩)
    rw [Option.map_some, if_neg (Bool.eq_false_iff.mp hne)]

namespace State.CmdsAs

variable {α : Type} {f : Cmd → α} {s t u : State}

theorem refl (f : Cmd → α) (s : State) : s.CmdsAs f s := fun _ _ => rfl

theorem trans (hst : s.CmdsAs f t) (htu : t.CmdsAs f u) : s.CmdsAs f u := fun q i => (htu q i).trans (hst q i)

theorem ofCmds (f : Cmd → α) (h : t.cmds = s.cmds) : s.CmdsAs f t := fun q i => by rw [cmd?_congr h]

theorem exists_cmd (h : s.CmdsAs f t) {q i : Nat} {c : Cmd} (hc : s.cmd? q i = some c) :
    ∃ d, t.cmd? q i = some d ∧ f d = f c := by
  have hview := h q i
  rw [hc, Option.map_some, Option.map_eq_some_iff] at hview
  exact hview

end State.CmdsAs

/-- A new record that looks like the old one. -/
theorem putCmd_cmdsAs {α : Type} {f : Cmd → α} {s : State} {c d : Cmd} (hc : s.cmd? d.q d.i = some c) (h : f d = f c) :
    s.CmdsAs f (s.putCmd d) := by
  intro q i
  by_cases hplace : d.q = q ∧ d.i = i
  · obtain ⟨rfl, rfl⟩ := hplace
    rw [cmd?_putCmd hc, hc, Option.map_some, Option.map_some, h]
  · rw [cmd?_putCmd_ne s hplace]

/-! ### The digests that are formed (spec/11_reproducibility.md R324) -/

/-- A command without its record of the digest sites that it has reached. -/
def Cmd.undigested (c : Cmd) : Cmd := { c with digested := [] }

/-- `t` is `s` but for digests: their records, and the note of them that commands and committed outputs keep. -/
structure State.Forms (s t : State) : Prop where
  frame : t = { s with cmds := t.cmds, digests := t.digests, outs := t.outs }
  cmds : s.CmdsAs Cmd.undigested t

theorem State.Forms.refl (s : State) : s.Forms s := ⟨rfl, .refl _ s⟩

theorem State.Forms.trans {s t u : State} (hst : s.Forms t) (htu : t.Forms u) : s.Forms u where
  frame := htu.frame.trans (congrArg (fun x : State => { x with cmds := u.cmds, digests := u.digests, outs := u.outs }) hst.frame)
  cmds := hst.cmds.trans htu.cmds

theorem foldl_forms {α : Type} (f : State → α → State) (h : ∀ (s : State) (x : α), s.Forms (f s x)) (l : List α) (s : State) :
    s.Forms (l.foldl f s) := by
  induction l generalizing s with
  | nil => exact .refl s
  | cons x xs ih => exact (h s x).trans (ih _)

theorem formSite_cmds (s : State) (c : Cmd) (site : Nat) (xs : List DItem) : (s.formSite c site xs).cmds = s.cmds := by
  unfold State.formSite
  simp only
  split <;> rfl

theorem formSite_forms (s : State) (c : Cmd) (site : Nat) (xs : List DItem) : s.Forms (s.formSite c site xs) where
  frame := by
    unfold State.formSite
    simp only
    split <;> rfl
  cmds := .ofCmds _ (formSite_cmds s c site xs)

theorem reachSite_forms (s : State) (q i site : Nat) : s.Forms (s.reachSite q i site) := by
  unfold State.reachSite
  split
  · exact .refl s
  · rename_i c hc
    split
    · exact .refl s
    · have hformed := formSite_forms s c site (s.siteItems c site)
      obtain ⟨rfl, rfl⟩ := index_of_cmd? hc
      exact hformed.trans ⟨rfl, putCmd_cmdsAs (c := c) ((cmd?_congr (formSite_cmds s c site _) _ _).trans hc) rfl⟩

theorem withOuts_forms (s : State) (l : List Out) : s.Forms { s with outs := l } := ⟨rfl, .ofCmds _ rfl⟩

theorem formDigests_forms (s : State) : s.Forms s.formDigests := by
  unfold State.formDigests
  refine (foldl_forms _ (fun (s : State) c => foldl_forms _ (fun s site => reachSite_forms s c.q c.i site) _ s) s.cmds s).trans
    (foldl_forms _ (fun (s : State) x => ?_) _ _)
  simp only
  split
  · exact .refl s
  · exact (formSite_forms s x.cmd 7 _).trans (withOuts_forms _ _)

/-! ### The end of a command: digests are formed, and all settles -/

section

variable (s : State)

theorem formed_mem : s.formDigests.settled.mem = s.mem :=
  (settled_mem _).trans (congrArg State.mem (formDigests_forms s).frame :)

theorem formed_held : s.formDigests.settled.held = s.held :=
  (settled_held _).trans (congrArg State.held (formDigests_forms s).frame :)

theorem settled_outbox : s.settled.outbox = s.outbox := (congrArg State.outbox (settled_accounts s) :)

theorem formed_outbox : s.formDigests.settled.outbox = s.outbox :=
  (settled_outbox _).trans (congrArg State.outbox (formDigests_forms s).frame :)

theorem formDigests_rd (o : Nat) : s.formDigests.rd o = s.rd o := (congrArg (State.rd · o) (formDigests_forms s).frame :)

theorem formed_rd {o : Nat} (h1 : o ≠ rEvtStatus) (h2 : ∀ k < 8, o ≠ rEvwCfg k) : s.formDigests.settled.rd o = s.rd o :=
  (settled_rd _ _ h1 h2).trans (formDigests_rd s o)

theorem formed_keeps_cause {i : Nat} (h : (s.rd rEvtStatus).getLsbD i = true) :
    (s.formDigests.settled.rd rEvtStatus).getLsbD i = true :=
  settled_keeps_cause _ _ (by rwa [formDigests_rd])

theorem formed_cmd? {q i : Nat} {c : Cmd} (hc : s.cmd? q i = some c) :
    ∃ d, s.formDigests.settled.cmd? q i = some d ∧ d.undigested = c.undigested := by
  obtain ⟨d, hd, hview⟩ := (formDigests_forms s).cmds.exists_cmd hc
  exact ⟨d, (settled_cmd? _ _ _).trans hd, hview⟩

end

/-! ### Byte strings -/

theorem length_toLE (v n : Nat) : (toLE v n).length = n := by
  induction n generalizing v with
  | zero => rfl
  | succ n ih => rw [toLE, List.length_cons, ih]

theorem leNat_toLE (v n : Nat) : leNat (toLE v n) = v % 256 ^ n := by
  induction n generalizing v with
  | zero => simp [toLE, leNat, Nat.mod_one]
  | succ n ih =>
    rw [toLE, leNat, ih, BitVec.toNat_ofNat, Nat.pow_succ' (m := 256)]
    exact Nat.mod_mul.symm

theorem length_sliceB (b : List Byte) (off n : Nat) : (sliceB b off n).length = n := by
  unfold sliceB
  simp only [List.length_append, List.length_replicate, List.length_take, List.length_drop]
  omega

/-- Equal parts of a list, one for each element, come out whole. -/
theorem take_drop_flatMap {α β : Type} (f : α → List β) (m : Nat) (hf : ∀ x, (f x).length = m) (l : List α) (k : Nat)
    (hk : k < l.length) : ((l.flatMap f).drop (m * k)).take m = f l[k] := by
  induction l generalizing k with
  | nil => simp at hk
  | cons x xs ih =>
    rw [List.flatMap_cons]
    cases k with
    | zero => rw [Nat.mul_zero, List.drop_zero, List.take_left' (hf x), List.getElem_cons_zero]
    | succ k =>
      rw [Nat.mul_succ, Nat.add_comm, ← List.drop_drop, List.drop_left' (hf x), List.getElem_cons_succ]
      exact ih k (Nat.lt_of_succ_lt_succ hk)

theorem length_flatMap_of_const {α β : Type} (f : α → List β) (m : Nat) (hf : ∀ x, (f x).length = m) (l : List α) :
    (l.flatMap f).length = m * l.length := by
  induction l with
  | nil => rfl
  | cons x xs ih => rw [List.flatMap_cons, List.length_append, hf, ih, List.length_cons, Nat.mul_succ, Nat.add_comm]

/-- A read within known bytes. -/
theorem read_of_bytes {t : State} {a : Nat} {b : List Byte} (h : ∀ k < b.length, t.byte (a + k) = b.getD k 0) (k n : Nat)
    (hn : k + n ≤ b.length) : t.read (a + k) n = (b.drop k).take n := by
  induction n generalizing k with
  | zero => rfl
  | succ n ih =>
    have hk : k < b.length := by omega
    rw [State.read, h k hk, Nat.add_assoc, ih (k + 1) (by omega), List.drop_eq_getElem_cons hk, List.take_succ_cons,
      List.getD_eq_getElem _ _ hk]

/-! ### The consumer takes a chunk (spec/09_fabric.md R268) -/

theorem winAt_congr {s t : State} (h : t.regs = s.regs) (rank : Nat) : t.winAt rank = s.winAt rank := by
  unfold State.winAt State.rd
  rw [h]

/-- A SEEN bit changes 36 bytes of the window entry of its rank. -/
theorem markSeen_byte_out (s : State) (rank seq a : Nat) (h : ∀ k < 36, (s.winAt rank + k) % 2 ^ 64 ≠ a % 2 ^ 64) :
    (s.markSeen rank seq).byte a = s.byte a := by
  unfold State.markSeen
  simp only [State.writeNat]
  rw [byte_write_out, byte_write_out]
  · intro k hk
    rw [length_toLE] at hk
    exact h k (by omega)
  · intro k hk
    rw [length_toLE] at hk
    have := h (4 + k) (by omega)
    rwa [← Nat.add_assoc] at this

theorem State.ContentsOnly.trans {s t u : State} (hst : s.ContentsOnly t) (htu : t.ContentsOnly u) : s.ContentsOnly u :=
  Eq.trans htu (congrArg (fun x : State => { x with mem := u.mem, badUnits := u.badUnits, bobbin := u.bobbin }) hst)

theorem write_contents (s : State) (a : Nat) (b : List Byte) : s.ContentsOnly (s.write a b) := rfl

theorem markSeen_contents (s : State) (rank seq : Nat) : s.ContentsOnly (s.markSeen rank seq) := by
  unfold State.markSeen
  exact (write_contents _ _ _).trans (write_contents _ _ _)

/-- `t` is `s` after a consumer has taken a chunk of `rank`: what is held, the window entry of the rank, and the
acknowledgements due. -/
structure State.Takes (rank : Nat) (s t : State) : Prop where
  frame : t = { s with held := t.held, mem := t.mem, badUnits := t.badUnits, bobbin := t.bobbin, ackDue := t.ackDue }
  held : ∀ x ∈ t.held, x ∈ s.held
  byte : ∀ a, (∀ k < 36, (s.winAt rank + k) % 2 ^ 64 ≠ a % 2 ^ 64) → t.byte a = s.byte a

theorem State.Takes.regs {rank : Nat} {s t : State} (h : State.Takes rank s t) : t.regs = s.regs := (congrArg State.regs h.frame :)

theorem State.Takes.trans {rank : Nat} {s t u : State} (hst : State.Takes rank s t) (htu : State.Takes rank t u) :
    State.Takes rank s u where
  frame := htu.frame.trans (congrArg (fun x : State =>
    { x with held := u.held, mem := u.mem, badUnits := u.badUnits, bobbin := u.bobbin, ackDue := u.ackDue }) hst.frame)
  held x hx := hst.held x (htu.held x hx)
  byte a ha := (htu.byte a (by rwa [winAt_congr hst.regs])).trans (hst.byte a ha)

/-- `s` without a chunk, its SEEN bit set. -/
def State.unhold (s : State) (h : Held) : State :=
  let s := { s with held := s.held.filter (fun x => decide (x ≠ h)) }
  if windowed h.hdr then s.markSeen h.hdr.src h.hdr.seq else s

theorem unhold_held (s : State) (h : Held) : (s.unhold h).held = s.held.filter (fun x => decide (x ≠ h)) := by
  unfold State.unhold
  simp only
  split
  · exact (markSeen_contents _ _ _).held
  · rfl

theorem withHeld_takes (rank : Nat) (s : State) (l : List Held) (hl : ∀ x ∈ l, x ∈ s.held) :
    State.Takes rank s { s with held := l } :=
  ⟨rfl, hl, fun _ _ => rfl⟩

theorem takes_of_contents {rank : Nat} {s t : State} (h : s.ContentsOnly t)
    (hbyte : ∀ a, (∀ k < 36, (s.winAt rank + k) % 2 ^ 64 ≠ a % 2 ^ 64) → t.byte a = s.byte a) : State.Takes rank s t where
  frame := Eq.trans h (by rw [h.held, congrArg State.ackDue h])
  held x hx := h.held ▸ hx
  byte := hbyte

theorem unhold_takes (s : State) (h : Held) : State.Takes h.hdr.src s (s.unhold h) := by
  have hfilter : State.Takes h.hdr.src s { s with held := s.held.filter (fun x => decide (x ≠ h)) } :=
    withHeld_takes _ s _ (fun x hx => List.mem_of_mem_filter hx)
  unfold State.unhold
  simp only
  split
  · exact hfilter.trans (takes_of_contents (markSeen_contents _ _ _) (markSeen_byte_out _ _ _))
  · exact hfilter

/-- Then its acknowledgement is due, unless it is one itself. -/
theorem acceptOne_eq (s : State) (h : Held) : s.acceptOne h = { s.unhold h with ackDue := (s.acceptOne h).ackDue } := by
  unfold State.acceptOne
  simp only
  change (if h.hdr.kind = 0x10 then s.unhold h else _) = _
  split <;> rfl

theorem withAckDue_takes (rank : Nat) (s : State) (l : List AckDue) : State.Takes rank s { s with ackDue := l } :=
  ⟨rfl, fun _ h => h, fun _ _ => rfl⟩

theorem acceptOne_takes (s : State) (h : Held) : State.Takes h.hdr.src s (s.acceptOne h) := by
  rw [acceptOne_eq]
  exact (unhold_takes s h).trans (withAckDue_takes _ _ _)

theorem acceptMgmt_takes (s : State) (rank n : Nat) : State.Takes rank s (s.acceptMgmt rank n) := by
  induction n generalizing s with
  | zero => exact ⟨rfl, fun _ h => h, fun _ _ => rfl⟩
  | succ n ih =>
    rw [State.acceptMgmt]
    split
    · exact ⟨rfl, fun _ h => h, fun _ _ => rfl⟩
    · rename_i h hfind
      have hsrc : h.hdr.src = rank := by
        have hfound := List.find?_some hfind
        simp only [Bool.and_eq_true, beq_iff_eq] at hfound
        exact hfound.1.1.2
      have hone := acceptOne_takes s h
      rw [hsrc] at hone
      exact hone.trans (ih _)

theorem accept_takes (s : State) (h : Held) : State.Takes h.hdr.src s (s.accept h) :=
  (acceptOne_takes s h).trans (acceptMgmt_takes _ _ _)

/-- A chunk that was taken is held no more. -/
theorem not_mem_accept_held (s : State) (h : Held) : h ∉ (s.accept h).held := by
  intro hin
  have hone := (acceptMgmt_takes (s.acceptOne h) h.hdr.src s.held.length).held h hin
  rw [acceptOne_eq] at hone
  have hkept : h ∈ (s.unhold h).held := hone
  rw [unhold_held] at hkept
  simp at hkept

/-! ### A chunk taken for a command: its watchdog restarts (R248) -/

/-- A command that has heard from a rank. -/
def Cmd.heard (c : Cmd) (rank now : Nat) : Cmd :=
  { c with watchAt := now, lastFrom := smSet (fun _ => 0) c.lastFrom rank now }

/-- The consumer takes a chunk for a running command. -/
def State.taken (s : State) (c : Cmd) (h : Held) : State := (s.accept h).progress c.q c.i h.hdr.src true

section

variable {c : Cmd} {s : State} (h : Held) (hc : s.cmd? c.q c.i = some c)

include hc

theorem taken_eq : s.taken c h = (s.accept h).putCmd (c.heard h.hdr.src s.now) := by
  have haccept := accept_takes s h
  have hcmds : (s.accept h).cmds = s.cmds := (congrArg State.cmds haccept.frame :)
  have hnow : (s.accept h).now = s.now := by rw [State.now, State.rd, haccept.regs, State.now, State.rd]
  simp only [State.taken, State.progress, (cmd?_congr hcmds c.q c.i).trans hc, hnow]
  rfl

theorem taken_cmd? : (s.taken c h).cmd? c.q c.i = some (c.heard h.hdr.src s.now) := by
  have hcmds : (s.accept h).cmds = s.cmds := (congrArg State.cmds (accept_takes s h).frame :)
  rw [taken_eq h hc]
  exact cmd?_putCmd (d := c.heard h.hdr.src s.now) ((cmd?_congr hcmds c.q c.i).trans hc)

theorem taken_frame : s.taken c h = { s with
    cmds := (s.taken c h).cmds, held := (s.taken c h).held, mem := (s.taken c h).mem, badUnits := (s.taken c h).badUnits
    bobbin := (s.taken c h).bobbin, ackDue := (s.taken c h).ackDue } := by
  rw [taken_eq h hc]
  exact congrArg (fun x : State => { x with cmds := ((s.accept h).putCmd (c.heard h.hdr.src s.now)).cmds })
    (accept_takes s h).frame

theorem taken_regs : (s.taken c h).regs = s.regs := (congrArg State.regs (taken_frame h hc) :)

theorem taken_outbox : (s.taken c h).outbox = s.outbox := (congrArg State.outbox (taken_frame h hc) :)

theorem not_mem_taken_held : h ∉ (s.taken c h).held := by
  rw [taken_eq h hc, State.putCmd_held]
  exact not_mem_accept_held s h

theorem taken_byte (a : Nat) (ha : ∀ k < 36, (s.winAt h.hdr.src + k) % 2 ^ 64 ≠ a % 2 ^ 64) :
    (s.taken c h).byte a = s.byte a := by
  rw [taken_eq h hc]
  exact (accept_takes s h).byte a ha

end

/-! ### Bytes that land -/

/-- `t` is `s` after the chunk `h` was taken and `b` has landed at `a`: all other memory but the window entry of the source is
as before, and nothing was sent. -/
structure State.Lands (s t : State) (h : Held) (a : Nat) (b : List Byte) : Prop where
  held : h ∉ t.held
  outbox : t.outbox = s.outbox
  inside : ∀ k < b.length, t.byte (a + k) = b.getD k 0
  outside : ∀ x, (∀ k < b.length, (a + k) % 2 ^ 64 ≠ x % 2 ^ 64) →
    (¬ ∃ k < 36, (s.winAt h.hdr.src + k) % 2 ^ 64 = x % 2 ^ 64) → t.byte x = s.byte x

theorem State.Lands.congr {s t u : State} {h : Held} {a : Nat} {b : List Byte} (hst : s.Lands t h a b) (hheld : u.held = t.held)
    (houtbox : u.outbox = t.outbox) (hmem : u.mem = t.mem) : s.Lands u h a b where
  held := hheld ▸ hst.held
  outbox := houtbox.trans hst.outbox
  inside k hk := (byte_congr hmem _).trans (hst.inside k hk)
  outside x hx hwindow := (byte_congr hmem x).trans (hst.outside x hx hwindow)

/-- The digests that follow a landing read it, and change none of it. -/
theorem State.Lands.formed {s t : State} {h : Held} {a : Nat} {b : List Byte} (hst : s.Lands t h a b) :
    s.Lands t.formDigests.settled h a b :=
  hst.congr (formed_held t) (formed_outbox t) (formed_mem t)

/-- What memory holds after a write to a state that has taken a chunk. -/
theorem taken_lands {c : Cmd} {s t : State} (h : Held) (hc : s.cmd? c.q c.i = some c) (a : Nat) (b : List Byte)
    (hb : b.length ≤ 2 ^ 64) (hheld : t.held = (s.taken c h).held) (houtbox : t.outbox = (s.taken c h).outbox)
    (hmem : t.mem = memWrite (s.taken c h).mem a b) : s.Lands t h a b where
  held := hheld ▸ not_mem_taken_held h hc
  outbox := houtbox.trans (taken_outbox h hc)
  inside k hk := (byte_congr (s := (s.taken c h).write a b) hmem _).trans (byte_write_in _ a k b hk hb)
  outside x hx hwindow := by
    rw [byte_congr (s := (s.taken c h).write a b) hmem, byte_write_out _ _ _ _ hx]
    exact taken_byte h hc x (fun k hk e => hwindow ⟨k, hk, e⟩)

end Sys2Proof.Machine

/-! What sending leaves behind it (spec/08_collectives.md R241, spec/09_fabric.md R267, R275, R282): the chunks retained, what
is held, and the commands but for what a failed read or translation leaves in them. -/

namespace Sys2Proof.Machine

/-! ### A command's failures set apart -/

/-- A command without what a failed read or translation leaves in it. -/
def Cmd.unfailed (c : Cmd) : Cmd := { c with status := none, readError := false, upd := Upd.init }

/-- `t` holds the chunks that `s` holds, in the same job, and has its commands, failures apart. -/
structure State.Carries (s t : State) : Prop where
  held : t.held = s.held
  job : t.job = s.job
  cmds : s.CmdsAs Cmd.unfailed t

theorem State.Carries.refl (s : State) : s.Carries s := ⟨rfl, rfl, .refl _ s⟩

theorem State.Carries.trans {s t u : State} (hst : s.Carries t) (htu : t.Carries u) : s.Carries u :=
  ⟨htu.held.trans hst.held, htu.job.trans hst.job, hst.cmds.trans htu.cmds⟩

theorem carries_of_eq {s t : State} (hheld : t.held = s.held) (hjob : t.job = s.job) (hcmds : t.cmds = s.cmds) : s.Carries t :=
  ⟨hheld, hjob, .ofCmds _ hcmds⟩

theorem foldl_carries {α : Type} (f : State → α → State) (h : ∀ (s : State) (x : α), s.Carries (f s x)) (l : List α) (s : State) :
    s.Carries (l.foldl f s) := by
  induction l generalizing s with
  | nil => exact .refl s
  | cons x xs ih => exact (h s x).trans (ih _)

theorem putCmd_carries {s : State} {c d : Cmd} (hc : s.cmd? d.q d.i = some c) (h : d.unfailed = c.unfailed) : s.Carries (s.putCmd d) :=
  ⟨rfl, rfl, putCmd_cmdsAs hc h⟩

theorem failCmd_carries (s : State) (q i st detail : Nat) : s.Carries (s.failCmd q i st detail) := by
  unfold State.failCmd
  split
  · exact .refl s
  · rename_i c hc
    obtain ⟨rfl, rfl⟩ := index_of_cmd? hc
    split
    · exact .refl s
    · exact putCmd_carries (c := c) hc rfl

theorem raise_carries (s : State) (cause : Nat) : s.Carries (s.raise cause) :=
  carries_of_eq (congrArg State.held (raise_accounts s cause) :) (congrArg State.job (raise_accounts s cause) :)
    (congrArg State.cmds (raise_accounts s cause) :)

theorem raise_cmd? (s : State) (cause q i : Nat) : (s.raise cause).cmd? q i = s.cmd? q i :=
  cmd?_congr (congrArg State.cmds (raise_accounts s cause) :) q i

theorem readFailed_carries {s : State} {c : Cmd} (kind : ReadKind) (hc : s.cmd? c.q c.i = some c) : s.Carries (s.readFailed c kind) := by
  unfold State.readFailed
  simp only
  split
  · exact putCmd_carries (c := c) hc rfl
  split
  · exact putCmd_carries (c := c) hc rfl
  split
  · exact putCmd_carries (c := c) hc rfl
  split
  · refine State.Carries.trans ?_ (failCmd_carries _ _ _ _ _)
    exact putCmd_carries (c := c) hc rfl
  · exact failCmd_carries _ _ _ _ _

theorem memError_carries (s : State) (q i : Nat) (kind : ReadKind) : s.Carries (s.memError q i kind) := by
  unfold State.memError
  simp only
  split
  · exact raise_carries _ _
  · rename_i c hc
    obtain ⟨rfl, rfl⟩ := index_of_cmd? hc
    exact (raise_carries _ _).trans (readFailed_carries kind hc)

/-! ### Packets enter the Router -/

/-- Only what waits in the Router, the Spray rotation and the count of injected packets differ. -/
def State.RouterOnly (s t : State) : Prop :=
  t = { s with txq := t.txq, viaNext := t.viaNext, rowAlt := t.rowAlt, epochInj := t.epochInj }

theorem State.RouterOnly.refl (s : State) : s.RouterOnly s := rfl

theorem State.RouterOnly.trans {s t u : State} (hst : s.RouterOnly t) (htu : t.RouterOnly u) : s.RouterOnly u :=
  Eq.trans htu (congrArg (fun x : State =>
    { x with txq := u.txq, viaNext := u.viaNext, rowAlt := u.rowAlt, epochInj := u.epochInj }) hst)

theorem foldl_router {α : Type} (f : State → α → State) (h : ∀ (s : State) (x : α), s.RouterOnly (f s x)) (l : List α) (s : State) :
    s.RouterOnly (l.foldl f s) := by
  induction l generalizing s with
  | nil => exact .refl s
  | cons x xs ih => exact (h s x).trans (ih _)

theorem sprayFields_router (s : State) (h : Hdr) : s.RouterOnly (s.sprayFields h).2 := by
  unfold State.sprayFields
  simp only
  split
  · split <;> rfl
  · rfl

theorem routeFor_router (s : State) (h : Hdr) (pinned : Option Nat) : s.RouterOnly (s.routeFor h pinned).2.2 := by
  unfold State.routeFor
  simp only
  split
  · rfl
  split
  · split
    · rfl
    · exact sprayFields_router _ _
  · split
    · rfl
    · exact sprayFields_router _ _

theorem countInj_router (s : State) (n : Nat) : s.RouterOnly (s.countInj s.epoch n) := by
  rw [State.countInj, if_pos rfl]
  rfl

theorem withTxq_router (s : State) (l : List TxPkt) : s.RouterOnly { s with txq := l } := rfl

theorem putPkt_router (s : State) (phys : Nat) (pinned : Option Nat) (resend : Bool) (p : Pkt) :
    s.RouterOnly (s.putPkt phys pinned resend p) :=
  ((routeFor_router s _ _).trans (countInj_router _ _)).trans (withTxq_router _ _)

theorem putMc_router (s : State) (resend : Bool) (p : Pkt) : s.RouterOnly (s.putMc resend p) := by
  refine foldl_router _ (fun s o => ?_) _ s
  simp only
  split
  · exact (countInj_router s 1).trans (withTxq_router _ _)
  · exact .refl s

theorem State.RouterOnly.carries {s t : State} (h : s.RouterOnly t) : s.Carries t :=
  carries_of_eq (congrArg State.held h :) (congrArg State.job h :) (congrArg State.cmds h :)

theorem launch_router {s : State} {c : OutChunk} {phys : Nat} (pinned : Option Nat) (resend : Bool) (hmc : c.mc = false)
    (hx : s.xlat c.dst = .ok phys) : s.RouterOnly (s.launch c pinned resend) := by
  rw [State.launch, hmc, if_neg Bool.false_ne_true, hx]
  exact foldl_router _ (fun s p => putPkt_router s _ _ _ p) _ s

theorem launch_carries (s : State) (c : OutChunk) (pinned : Option Nat) (resend : Bool) : s.Carries (s.launch c pinned resend) := by
  unfold State.launch
  split
  · exact (foldl_router _ (fun s p => putMc_router s _ p) _ s).carries
  split
  · exact (foldl_router _ (fun s p => putPkt_router s _ _ _ p) _ s).carries
  · exact .refl s
  · simp only
    split
    · exact raise_carries _ _
    · exact (raise_carries _ _).trans (failCmd_carries _ _ _ _ _)

theorem failCmd_outbox (s : State) (q i st detail : Nat) : (s.failCmd q i st detail).outbox = s.outbox :=
  (congrArg State.outbox (failCmd_eq s q i st detail) :)

theorem raise_outbox (s : State) (cause : Nat) : (s.raise cause).outbox = s.outbox := (congrArg State.outbox (raise_accounts s cause) :)

theorem launch_outbox (s : State) (c : OutChunk) (pinned : Option Nat) (resend : Bool) :
    (s.launch c pinned resend).outbox = s.outbox := by
  unfold State.launch
  split
  · exact (congrArg State.outbox (foldl_router _ (fun s p => putMc_router s _ p) _ s) :)
  split
  · exact (congrArg State.outbox (foldl_router _ (fun s p => putPkt_router s _ _ _ p) _ s) :)
  · rfl
  · simp only
    split
    · exact raise_outbox _ _
    · exact (failCmd_outbox _ _ _ _ _).trans (raise_outbox _ _)

/-! ### Chunks take their sequence numbers (R275) -/

/-- What a retained chunk carries, and where to. -/
def OutChunk.cargo (c : OutChunk) : Nat × Nat × List (List Byte) := (c.kind, c.dst, c.pkts.map (·.payload))

/-- The sequence number that a chunk takes. -/
def State.seqFor (s : State) (c : OutChunk) : Nat := if c.mc then s.mcastSeq else s.txNext c.dst

/-- The chunk under its sequence number. -/
def State.numbered (s : State) (c : OutChunk) : OutChunk :=
  { c with seq := some (s.seqFor c), sentAt := s.now
           pkts := c.pkts.map (fun p => { p with hdr := { p.hdr with seq := s.seqFor c } }) }

/-- The state once a chunk has taken its sequence number. -/
def State.sequence (s : State) (c : OutChunk) : State :=
  let s' := { s with outbox := s.outbox.set (s.outbox.idxOf c) (s.numbered c) }
  if c.mc then { s' with mcastSeq := (s.seqFor c + 1) % 2 ^ 32 } else s'.writeNat (s'.winAt c.dst + 36) 4 ((s.seqFor c + 1) % 2 ^ 32)

theorem pumpList_cons (s : State) (blocked : List Nat) (c : OutChunk) (l : List OutChunk) : s.pumpList blocked (c :: l) =
    if c.seq.isSome then s.pumpList blocked l
    else if blocked.contains c.dst && !c.mc then s.pumpList blocked l
    else if !s.maySend c then s.pumpList (c.dst :: blocked) l
    else ((s.sequence c).launch (s.numbered c) (if c.port < 16 then some c.port else none) false).pumpList blocked l := rfl

theorem numbered_cargo (s : State) (c : OutChunk) : (s.numbered c).cargo = c.cargo := by
  obtain ⟨pkts, _⟩ := c
  cases pkts with
  | nil => rfl
  | cons p ps => simp [OutChunk.cargo, State.numbered, OutChunk.kind, OutChunk.dst, Function.comp_def]

theorem numbered_dst (s : State) (c : OutChunk) : (s.numbered c).dst = c.dst := congrArg (fun x => x.2.1) (numbered_cargo s c)

theorem numbered_mc (s : State) (c : OutChunk) : (s.numbered c).mc = c.mc := by
  obtain ⟨pkts, _⟩ := c
  cases pkts with
  | nil => rfl
  | cons p ps => rfl

theorem writeNat_contents (s : State) (a n v : Nat) : s.ContentsOnly (s.writeNat a n v) := write_contents _ _ _

theorem contents_outbox {s t : State} (h : s.ContentsOnly t) : t.outbox = s.outbox := (congrArg State.outbox h :)

theorem contents_cmds {s t : State} (h : s.ContentsOnly t) : t.cmds = s.cmds := (congrArg State.cmds h :)

theorem contents_job {s t : State} (h : s.ContentsOnly t) : t.job = s.job := (congrArg State.job h :)

theorem contents_regs {s t : State} (h : s.ContentsOnly t) : t.regs = s.regs := (congrArg State.regs h :)

section

variable (s : State) (c : OutChunk)

theorem sequence_held : (s.sequence c).held = s.held := by
  unfold State.sequence
  simp only
  split
  · rfl
  · exact (writeNat_contents _ _ _ _).held.trans rfl

theorem sequence_job : (s.sequence c).job = s.job := by
  unfold State.sequence
  simp only
  split
  · rfl
  · exact (contents_job (writeNat_contents _ _ _ _)).trans rfl

theorem sequence_cmds : (s.sequence c).cmds = s.cmds := by
  unfold State.sequence
  simp only
  split
  · rfl
  · exact (contents_cmds (writeNat_contents _ _ _ _)).trans rfl

theorem sequence_regs : (s.sequence c).regs = s.regs := by
  unfold State.sequence
  simp only
  split
  · rfl
  · exact (contents_regs (writeNat_contents _ _ _ _)).trans rfl

theorem sequence_outbox : (s.sequence c).outbox = s.outbox.set (s.outbox.idxOf c) (s.numbered c) := by
  unfold State.sequence
  simp only
  split
  · rfl
  · exact (contents_outbox (writeNat_contents _ _ _ _)).trans rfl

/-- The chunks retained carry what they carried. -/
theorem sequence_cargo : (s.sequence c).outbox.map OutChunk.cargo = s.outbox.map OutChunk.cargo := by
  rw [sequence_outbox, List.map_set, numbered_cargo]
  by_cases hin : c ∈ s.outbox
  · have hat : s.outbox.idxOf c < s.outbox.length := List.idxOf_lt_length_of_mem hin
    refine List.ext_getElem (by simp) (fun n h1 h2 => ?_)
    rw [List.getElem_set]
    split
    · rename_i hn
      subst hn
      rw [List.getElem_map, List.getElem_idxOf]
    · rfl
  · rw [List.idxOf_eq_length hin, List.set_eq_of_length_le (by simp)]

end

theorem pumpList_carries (s : State) (blocked : List Nat) (l : List OutChunk) : s.Carries (s.pumpList blocked l) := by
  induction l generalizing s blocked with
  | nil => exact .refl s
  | cons c l ih =>
    rw [pumpList_cons]
    split
    · exact ih _ _
    split
    · exact ih _ _
    split
    · exact ih _ _
    · exact ((carries_of_eq (sequence_held s c) (sequence_job s c) (sequence_cmds s c)).trans (launch_carries _ _ _ _)).trans (ih _ _)

theorem pumpList_cargo (s : State) (blocked : List Nat) (l : List OutChunk) :
    (s.pumpList blocked l).outbox.map OutChunk.cargo = s.outbox.map OutChunk.cargo := by
  induction l generalizing s blocked with
  | nil => rfl
  | cons c l ih =>
    rw [pumpList_cons]
    split
    · exact ih _ _
    split
    · exact ih _ _
    split
    · exact ih _ _
    · rw [ih, launch_outbox, sequence_cargo]

theorem xlat_congr {s t : State} (h : t.regs = s.regs) (rank : Nat) : t.xlat rank = s.xlat rank := by
  rw [State.xlat, State.rd, h, State.xlat, State.rd]

/-- Chunks that all translate change no register and no command as they leave. -/
theorem pumpList_keeps (s : State) (blocked : List Nat) (l : List OutChunk)
    (h : ∀ c ∈ l, c.seq.isSome = true ∨ (c.mc = false ∧ ∃ phys, s.xlat c.dst = .ok phys)) :
    (s.pumpList blocked l).regs = s.regs ∧ (s.pumpList blocked l).cmds = s.cmds := by
  induction l generalizing s blocked with
  | nil => exact ⟨rfl, rfl⟩
  | cons c l ih =>
    have hl : ∀ x ∈ l, _ := fun x hx => h x (List.mem_cons_of_mem c hx)
    rw [pumpList_cons]
    split
    · exact ih _ _ hl
    split
    · exact ih _ _ hl
    split
    · exact ih _ _ hl
    · rename_i hseq _ _
      obtain hseq' | ⟨hmc, phys, hx⟩ := h c List.mem_cons_self
      · exact absurd hseq' hseq
      · have hlaunch := launch_router (s := s.sequence c) (c := s.numbered c) (if c.port < 16 then some c.port else none) false
          ((numbered_mc s c).trans hmc) (by rw [numbered_dst, xlat_congr (sequence_regs s c), hx])
        have hregs := (congrArg State.regs hlaunch :).trans (sequence_regs s c)
        have hcmds := (congrArg State.cmds hlaunch :).trans (sequence_cmds s c)
        have htail := ih _ blocked fun x hx => (hl x hx).imp_right fun ⟨hm, p, hp⟩ => ⟨hm, p, (xlat_congr hregs x.dst).trans hp⟩
        exact ⟨htail.1.trans hregs, htail.2.trans hcmds⟩

theorem emit_carries (s : State) (owner : Option (Nat × Nat)) (copy : Bool) (port : Nat) (pkts : List Pkt)
    (mem : List (List (Nat × Nat))) (near : List (Nat × Nat)) : s.Carries (s.emit owner copy port pkts mem near) := by
  unfold State.emit
  split
  · exact .refl s
  · refine State.Carries.trans ?_ (pumpList_carries _ _ _)
    exact carries_of_eq rfl rfl rfl

theorem sendDrafts_carries (s : State) (c : Cmd) (kind dst port ring rep : Nat) (copy : Bool) (ds : List Draft) :
    s.Carries (s.sendDrafts c kind dst port ring rep copy ds) :=
  foldl_carries _ (fun s _ => emit_carries s _ _ _ _ _ _) _ s

/-! ### A marker to the peer (R233) -/

/-- The chunk that a marker is. -/
def Cmd.marker (c : Cmd) (rank kind : Nat) (b : List Byte) : OutChunk :=
  { pkts := mkPkts kind c.peer rank c.job 0 0 0 false false [{ offset := c.tag, hop := 0, contrib := 0, payload := b }]
    seq := none, owner := some (c.q, c.i), copy := false, retained := true, port := 16, keptAt := 16
    sentAt := 0, mem := [], near := [] }

theorem sendMarker_eq (s : State) (c : Cmd) (kind : Nat) (b : List Byte) :
    s.sendMarker c kind b = ({ s with outbox := s.outbox ++ [c.marker s.job.rank kind b] } : State).pump := rfl

theorem sendMarker_carries (s : State) (c : Cmd) (kind : Nat) (b : List Byte) : s.Carries (s.sendMarker c kind b) := emit_carries _ _ _ _ _ _ _

theorem sendMarker_cargo (s : State) (c : Cmd) (kind : Nat) (b : List Byte) :
    (s.sendMarker c kind b).outbox.map OutChunk.cargo = s.outbox.map OutChunk.cargo ++ [(kind, c.peer, [b])] := by
  rw [sendMarker_eq, State.pump, pumpList_cargo, List.map_append]
  rfl

/-- A marker whose peer translates leaves registers and commands as they are, when nothing else waits to be sent. -/
theorem sendMarker_keeps {s : State} {c : Cmd} (kind : Nat) (b : List Byte) (hx : ∃ phys, s.xlat c.peer = .ok phys)
    (hsent : ∀ x ∈ s.outbox, x.seq.isSome = true) :
    (s.sendMarker c kind b).regs = s.regs ∧ (s.sendMarker c kind b).cmds = s.cmds := by
  rw [sendMarker_eq]
  refine pumpList_keeps _ _ _ (fun x hin => ?_)
  obtain hold | hnew := List.mem_append.mp hin
  · exact .inl (hsent x hold)
  · rw [List.mem_singleton.mp hnew]
    exact .inr ⟨rfl, hx⟩

/-- The last chunk retained, from what the chunks carry. -/
theorem last_of_cargo {l l' : List OutChunk} {y : Nat × Nat × List (List Byte)}
    (h : l'.map OutChunk.cargo = l.map OutChunk.cargo ++ [y]) :
    l'.length = l.length + 1 ∧ ∃ x, l'.getLast? = some x ∧ x.kind = y.1 ∧ x.dst = y.2.1 ∧ x.pkts.map (·.payload) = y.2.2 := by
  refine ⟨by simpa using congrArg List.length h, ?_⟩
  have hlast : l'.getLast?.map OutChunk.cargo = some y := by rw [← List.getLast?_map, h, List.getLast?_concat]
  obtain ⟨x, hx, rfl⟩ := Option.map_eq_some_iff.mp hlast
  exact ⟨x, hx, rfl, rfl, rfl⟩

end Sys2Proof.Machine

/-! Chunks of the direct transfers and gathers (spec/08_collectives.md R226, R231 to R235, R245, R301): what takes a WRITE,
COUNT, TOPK, READY or CANCEL chunk. -/

namespace Sys2Proof.Machine

/-! ### Memory and a command's spans after a landing -/

/-- A command to which spans of its output have come. -/
def Cmd.gains (c : Cmd) (xs : List (Nat × Nat)) : Cmd :=
  { c with gat := { c.gat with got := c.gat.got ++ xs.filter (fun x => !c.gat.got.contains x) } }

theorem addGot_eq {s : State} {q i : Nat} {c : Cmd} (hc : s.cmd? q i = some c) (xs : List (Nat × Nat)) :
    s.addGot q i xs = s.putCmd (c.gains xs) := by
  simp only [State.addGot, hc]
  rfl

theorem mem_gains_got (c : Cmd) {xs : List (Nat × Nat)} {x : Nat × Nat} (hx : x ∈ xs) : x ∈ (c.gains xs).gat.got := by
  by_cases hin : x ∈ c.gat.got
  · exact List.mem_append_left _ hin
  · exact List.mem_append_right _ (List.mem_filter.mpr ⟨hx, by simpa using hin⟩)

/-- What lands of the first bytes of a payload. -/
theorem State.Lands.of_take {s t : State} {h : Held} {a n : Nat} {b : List Byte} (hst : s.Lands t h a (b.take n)) (hn : n ≤ b.length) :
    (∀ k < n, t.byte (a + k) = b.getD k 0) ∧ ∀ x, (∀ k < n, (a + k) % 2 ^ 64 ≠ x % 2 ^ 64) →
      (¬ ∃ k < 36, (s.winAt h.hdr.src + k) % 2 ^ 64 = x % 2 ^ 64) → t.byte x = s.byte x := by
  have hlen : (b.take n).length = n := List.length_take_of_le hn
  refine ⟨fun k hk => ?_, fun x hx => hst.outside x (by rwa [hlen])⟩
  rw [hst.inside k (by rwa [hlen]), List.getD_eq_getElem?_getD, List.getElem?_take_of_lt hk, ← List.getD_eq_getElem?_getD]

section

variable {c : Cmd} {s : State} (h : Held) (hc : s.cmd? c.q c.i = some c) (a : Nat) (b : List Byte) (xs : List (Nat × Nat))

/-- A chunk of `c` is taken, bytes of it are written, and the command notes the spans that came. -/
def State.landed (s : State) (c : Cmd) (h : Held) (a : Nat) (b : List Byte) (xs : List (Nat × Nat)) : State :=
  ((s.taken c h).write a b).addGot c.q c.i xs

include hc

theorem written_cmd? : ((s.taken c h).write a b).cmd? c.q c.i = some (c.heard h.hdr.src s.now) :=
  (cmd?_congr (State.write_cmds _ _ _) _ _).trans (taken_cmd? h hc)

theorem landed_eq : s.landed c h a b xs = ((s.taken c h).write a b).putCmd ((c.heard h.hdr.src s.now).gains xs) :=
  addGot_eq (written_cmd? h hc a b) xs

theorem landed_cmd? : (s.landed c h a b xs).cmd? c.q c.i = some ((c.heard h.hdr.src s.now).gains xs) := by
  rw [landed_eq h hc]
  exact cmd?_putCmd (d := (c.heard h.hdr.src s.now).gains xs) (written_cmd? h hc a b)

theorem landed_lands (hb : b.length ≤ 2 ^ 64) : s.Lands (s.landed c h a b xs) h a b := by
  refine taken_lands h hc a b hb ?_ ?_ ?_
  · rw [landed_eq h hc, State.putCmd_held, State.write_held]
  · rw [landed_eq h hc, State.putCmd_outbox, State.write_outbox]
  · rw [landed_eq h hc, State.putCmd_mem]
    rfl

end

/-! ### Chunks of a gather, a broadcast or a merge (R226, R234, R245, R301) -/

/-- The expander owes a slot that a chunk's packets go to (R301). -/
def State.owesSlot (s : State) (c : Cmd) (h : Held) : Bool :=
  h.pkts.any (fun p => match c.segAtOff p.hdr.offset with | some g => s.owed c g.num | none => false)

theorem delivers_src {kind src seq : Nat} {mc : Bool} {h : Held} {c : Cmd} {s : State} (hd : s.delivers kind src seq mc h c) :
    h.hdr.src = src := by
  obtain ⟨-, -, hheld, -, -, -, -⟩ := hd
  have hfound := List.find?_some hheld
  simp only [Bool.and_eq_true, beq_iff_eq] at hfound
  exact hfound.1.1.2

section

variable {c : Cmd} {h : Held} {s : State}

/-- A chunk whose slot the expander owes waits (R301). -/
theorem gatherWrite_of_owed (hrep : c.gat.rep = h.hdr.rep) (hz : c.compress ≠ 0) (howes : s.owesSlot c h = true) :
    s.gatherWrite c h = s := by
  have howed : (c.compress != 0 && s.owesSlot c h) = true := by simp [hz, howes]
  unfold State.gatherWrite
  rw [if_neg (by omega), if_neg (by omega)]
  exact if_pos howed

theorem gatherWrite_of_early (hrep : c.gat.rep < h.hdr.rep) : s.gatherWrite c h = s := if_pos hrep

theorem gatherWrite_of_past (hrep : h.hdr.rep < c.gat.rep) : s.gatherWrite c h = s.taken c h :=
  (if_neg (Nat.lt_asymm hrep)).trans (if_pos hrep)

theorem passWrite_of_end (htype : c.type ≠ 0x15 ∧ c.type ≠ 0x18) (hring : 14 ≤ h.hdr.ring) (hhop : c.hedges ≤ h.hdr.hop + 1) :
    s.passWrite c h = s := by
  unfold State.passWrite
  simp only
  rw [if_neg (by simp [htype]), if_neg (by omega), if_neg (by omega)]

/-- Nothing of a fence happens before the gather has started. -/
theorem fenceOn_of_early {q i : Nat} (hc : s.cmd? q i = some c) (hrow : c.gat.rowStarted = false) (hvote : c.gat.voteFormed = false) :
    s.fenceOn q i = s := by
  have hform : s.formVote q i = s := by
    simp only [State.formVote, hc, hrow, Bool.not_false, Bool.or_true, Bool.true_or, if_true]
  rw [State.fenceOn, hform]
  simp only [State.fence, hc, hvote, Bool.not_false, Bool.or_true, Bool.true_or, if_true]

theorem clip_le (c : Cmd) (ring off n : Nat) : c.clip ring off n ≤ n := by
  unfold Cmd.clip
  split
  · exact le_rfl
  split
  · exact Nat.min_le_left _ _
  split
  · exact le_rfl
  split
  · exact Nat.min_le_left _ _
  · exact Nat.zero_le _

/-- A chunk of a plain gather that has landed and goes no further lets the fence go on. -/
theorem gatherWrite_of_landing {t : State} {d : Cmd} (hrep : c.gat.rep = h.hdr.rep) (howes : c.compress = 0 ∨ s.owesSlot c h = false)
    (hland : (s.taken c h).landWrite c h = t) (hd : t.cmd? c.q c.i = some d) (htype : d.type ≠ 0x15 ∧ d.type ≠ 0x18)
    (hpass : t.passWrite d h = t) : s.gatherWrite c h = t.fenceOn d.q d.i := by
  have hgo : ¬ (c.compress != 0 && s.owesSlot c h) = true := by
    rcases howes with hz | ho
    · simp [hz]
    · simp [ho]
  unfold State.taken at hland
  unfold State.gatherWrite
  rw [if_neg (by omega), if_neg (by omega)]
  refine (if_neg hgo).trans ?_
  simp only [hland, hd, hpass, if_neg htype.1, if_neg htype.2]

variable {p : Pkt} (hc : s.cmd? c.q c.i = some c)

include hc

/-- The one packet of a chunk goes to the output, padding clipped. -/
theorem landWrite_one (hpkts : h.pkts = [p]) (htype : c.type ≠ 0x18) (hplace : c.compress ≠ 0 ∨ c.transposed = false) :
    (s.taken c h).landWrite c h = s.landed c h (c.dst + p.hdr.offset)
      (p.payload.take (c.clip h.hdr.ring p.hdr.offset p.payload.length))
      [(p.hdr.offset, c.clip h.hdr.ring p.hdr.offset p.payload.length)] := by
  have htaken := taken_cmd? h hc
  rw [State.landWrite, hpkts, List.foldl_cons, List.foldl_nil]
  simp only
  by_cases hz : c.compress = 0
  · have hplain : (c.heard h.hdr.src s.now).transposed = false := hplace.resolve_left (fun hne => hne hz)
    rw [if_pos (by simp [hz, htype]), State.outWrite, htaken]
    simp only [hplain, Bool.false_eq_true, if_false]
    rfl
  · rw [if_neg (by simp [hz])]
    rfl

/-- A chunk that ends its Row path before the gather of this chip has started lands, and nothing else happens. -/
theorem gatherWrite_of_end (hrep : c.gat.rep = h.hdr.rep) (howes : c.compress = 0 ∨ s.owesSlot c h = false) (hpkts : h.pkts = [p])
    (htype : c.type ∈ [0x10, 0x12, 0x13]) (hplace : c.compress ≠ 0 ∨ c.transposed = false) (hrow : c.gat.rowStarted = false)
    (hvote : c.gat.voteFormed = false) (hring : 14 ≤ h.hdr.ring) (hhop : c.hedges ≤ h.hdr.hop + 1) :
    s.gatherWrite c h = s.landed c h (c.dst + p.hdr.offset) (p.payload.take (c.clip h.hdr.ring p.hdr.offset p.payload.length))
      [(p.hdr.offset, c.clip h.hdr.ring p.hdr.offset p.payload.length)] := by
  have hother : c.type ≠ 0x15 ∧ c.type ≠ 0x18 := by
    constructor <;> rintro ht <;> simp [ht] at htype
  have hcmd := landed_cmd? h hc (c.dst + p.hdr.offset) (p.payload.take (c.clip h.hdr.ring p.hdr.offset p.payload.length))
    [(p.hdr.offset, c.clip h.hdr.ring p.hdr.offset p.payload.length)]
  exact (gatherWrite_of_landing hrep howes (landWrite_one hc hpkts hother.2 hplace) hcmd hother
    (passWrite_of_end hother hring hhop)).trans (fenceOn_of_early hcmd hrow hvote)

end

section

variable {src seq : Nat} {mc : Bool} {h : Held} {c : Cmd} {s : State} (hd : s.delivers 6 src seq mc h c)

include hd

theorem exec_writeChunk : exec (.writeChunk src seq mc) s = .next ((effWriteChunk src seq mc s).formDigests.settled) :=
  done_live_sorted_of_delivers _ _ hd (by decide)

theorem effWriteChunk_gather (htype : c.type ∈ [0x10, 0x12, 0x13, 0x15, 0x18]) : effWriteChunk src seq mc s = s.gatherWrite c h := by
  obtain ⟨-, -, hheld, -, hjob, hpass, hst⟩ := hd
  simp only [List.mem_cons, List.not_mem_nil, or_false] at htype
  rcases htype with ht | ht | ht | ht | ht <;>
    simp only [effWriteChunk, hheld, hjob, hpass, hst, ht, Bool.not_true, Bool.false_eq_true, if_false, Option.isSome_none]

theorem effWriteChunk_rows (htype : c.type = 0x14) : effWriteChunk src seq mc s = s.rowWrite c h := by
  obtain ⟨-, -, hheld, -, hjob, hpass, hst⟩ := hd
  simp only [effWriteChunk, hheld, hjob, hpass, hst, htype, Bool.not_true, Bool.false_eq_true, if_false, Option.isSome_none]

theorem effWriteChunk_recv (htype : c.type = 0x17) : effWriteChunk src seq mc s = if c.peer = src then s.recvWrite c h else s := by
  obtain ⟨-, -, hheld, -, hjob, hpass, hst⟩ := hd
  simp only [effWriteChunk, hheld, hjob, hpass, hst, htype, Bool.not_true, Bool.false_eq_true, if_false, Option.isSome_none]

end

/-- A chunk of a gather: it waits, has no use, or lands. -/
theorem writeChunk_gather {src seq : Nat} {mc : Bool} {h : Held} {c : Cmd} {s : State} (hc : s.cmd? c.q c.i = some c)
    (hd : s.delivers 6 src seq mc h c) (htype : c.type ∈ [0x10, 0x12, 0x13, 0x15, 0x18]) :
    (c.gat.rep < h.hdr.rep → exec (.writeChunk src seq mc) s = .next (s.formDigests).settled)
    ∧ (h.hdr.rep < c.gat.rep → exec (.writeChunk src seq mc) s = .next ((s.taken c h).formDigests).settled)
    ∧ (c.gat.rep = h.hdr.rep → c.compress ≠ 0 → s.owesSlot c h = true →
        exec (.writeChunk src seq mc) s = .next (s.formDigests).settled)
    ∧ (c.gat.rep = h.hdr.rep → c.compress = 0 ∨ s.owesSlot c h = false →
      exec (.writeChunk src seq mc) s = .next (((s.gatherWrite c h).formDigests).settled)
      ∧ ∀ p, h.pkts = [p] → p.payload.length ≤ 4096 → c.type ∈ [0x10, 0x12, 0x13] → c.compress ≠ 0 ∨ c.transposed = false →
        c.gat.rowStarted = false → c.gat.voteFormed = false → 14 ≤ h.hdr.ring → c.hedges ≤ h.hdr.hop + 1 →
        ∃ t d, exec (.writeChunk src seq mc) s = .next t
          ∧ s.Lands t h (c.dst + p.hdr.offset) (p.payload.take (c.clip h.hdr.ring p.hdr.offset p.payload.length))
          ∧ t.cmd? c.q c.i = some d ∧ (p.hdr.offset, c.clip h.hdr.ring p.hdr.offset p.payload.length) ∈ d.gat.got) := by
  rw [exec_writeChunk hd, effWriteChunk_gather hd htype]
  refine ⟨fun hrep => by rw [gatherWrite_of_early hrep], fun hrep => by rw [gatherWrite_of_past hrep],
    fun hrep hz howes => by rw [gatherWrite_of_owed hrep hz howes], fun hrep howes => ⟨rfl, ?_⟩⟩
  intro p hpkts hlen ht hplace hrow hvote hring hhop
  rw [gatherWrite_of_end hc hrep howes hpkts ht hplace hrow hvote hring hhop]
  obtain ⟨d, hd, hview⟩ := formed_cmd? _ (landed_cmd? h hc (c.dst + p.hdr.offset)
    (p.payload.take (c.clip h.hdr.ring p.hdr.offset p.payload.length))
    [(p.hdr.offset, c.clip h.hdr.ring p.hdr.offset p.payload.length)])
  have hgat : d.gat = _ := (congrArg Cmd.gat hview :)
  refine ⟨_, d, rfl, (landed_lands h hc _ _ _ ?_).formed, hd, ?_⟩
  · rw [List.length_take]
    omega
  · rw [hgat]
    exact mem_gains_got _ List.mem_cons_self

/-! ### Rows of an ALL_TO_ALL (R231, R232) -/

/-- Bytes written one by one from an address on, but for those left out. -/
def State.writeSome (s : State) (a : Nat) (out : Nat → Prop) [DecidablePred out] (l : List (Byte × Nat)) : State :=
  l.foldl (fun s x => if out x.2 then s else s.write (a + x.2) [x.1]) s

section

variable (s : State) (a : Nat) (out : Nat → Prop) [DecidablePred out]

theorem writeSome_contents (l : List (Byte × Nat)) : s.ContentsOnly (s.writeSome a out l) := by
  induction l generalizing s with
  | nil => rfl
  | cons x l ih =>
    refine State.ContentsOnly.trans ?_ (ih _)
    simp only
    split
    · rfl
    · exact write_contents _ _ _

theorem writeSome_outside (b : List Byte) (i x : Nat) (h : ∀ k < b.length, (a + (i + k)) % 2 ^ 64 ≠ x % 2 ^ 64) :
    (s.writeSome a out (b.zipIdx i)).byte x = s.byte x := by
  induction b generalizing s i with
  | nil => rfl
  | cons v b ih =>
    have htail := fun s => ih s (i + 1) (fun k hk => by simpa [Nat.add_assoc, Nat.add_comm 1] using h (k + 1) (by simpa using hk))
    rw [List.zipIdx_cons]
    refine (htail _).trans ?_
    simp only
    split
    · rfl
    · exact byte_write_out _ _ _ _ (fun k hk => by simpa [Nat.lt_one_iff.mp hk] using h 0 (by simp))

theorem writeSome_inside (b : List Byte) (i k : Nat) (hb : b.length ≤ 2 ^ 64) (hk : k < b.length) (hout : ¬ out (i + k)) :
    (s.writeSome a out (b.zipIdx i)).byte (a + (i + k)) = b.getD k 0 := by
  induction b generalizing s i k with
  | nil => simp at hk
  | cons v b ih =>
    rw [List.length_cons] at hb hk
    rw [List.zipIdx_cons]
    cases k with
    | zero =>
      refine (writeSome_outside _ a out b (i + 1) _ (fun j hj => by omega)).trans ?_
      simp only
      rw [if_neg (by simpa using hout)]
      exact byte_write_in s (a + i) 0 [v] (by simp) (by simp)
    | succ k =>
      have htail := ih (if out i then s else s.write (a + i) [v]) (i + 1) k (by omega) (by omega)
        (by rwa [Nat.add_assoc, Nat.add_comm 1])
      rwa [Nat.add_assoc i, Nat.add_comm 1] at htail

end

section

variable {c : Cmd} (hconv : c.converts = false) (hrow : c.rowBytes ≠ 0)

include hconv

theorem wireRow_plain : c.wireRow = c.rowBytes := by rw [Cmd.wireRow, hconv, if_neg Bool.false_ne_true]

theorem landRow_plain : c.landRow = c.rowBytes := by rw [Cmd.landRow, hconv, if_neg Bool.false_ne_true]

include hrow

/-- Rows that are not converted land at their source's place in the order they came. -/
theorem landRows_plain (s : State) (u off : Nat) (b : List Byte) :
    s.landRows c u off b = s.writeSome (c.dst + c.rowsBefore u * c.rowBytes + off)
      (fun k => c.dstCap / c.rowBytes ≤ c.rowsBefore u + (off + k) / c.rowBytes ∨ c.rowsFrom u ≤ (off + k) / c.rowBytes) b.zipIdx := by
  have hone : max 1 c.rowBytes = c.rowBytes := by omega
  have hat : ∀ t, c.dst + (c.rowsBefore u + t / c.rowBytes) * c.rowBytes + t % c.rowBytes = c.dst + c.rowsBefore u * c.rowBytes + t := by
    intro t
    have := Nat.div_add_mod' t c.rowBytes
    rw [Nat.add_mul]
    omega
  have hcap : c.rowCap = c.dstCap / c.rowBytes := by rw [Cmd.rowCap, landRow_plain hconv, if_neg hrow]
  unfold State.landRows State.writeSome
  simp only [wireRow_plain hconv, landRow_plain hconv, hone, hcap, hconv, Bool.false_and, Bool.false_eq_true, if_false, hat,
    Nat.add_assoc]

end

section

variable {c : Cmd} {h : Held} {s : State} {u : Nat}

theorem rowWrite_of_early (hearly : c.gat.rep < h.hdr.rep ∨ c.countsHere = false) : s.rowWrite c h = s := by
  unfold State.rowWrite
  split
  · rfl
  · exact if_pos (by simpa using hearly)

theorem rowWrite_of_past (hpast : h.hdr.rep < c.gat.rep) (hcounts : c.countsHere = true) (hu : (c.indexOf h.hdr.src).isSome = true) :
    s.rowWrite c h = s.taken c h := by
  obtain ⟨u, hu⟩ := Option.isSome_iff_exists.mp hu
  have hlate : ¬ (decide (c.gat.rep < h.hdr.rep) || !c.countsHere) = true := by
    simp [hcounts, Nat.le_of_lt hpast]
  simp only [State.rowWrite, hu]
  exact (if_neg hlate).trans (if_pos hpast)

/-- Until this chip's own rows have moved, the output is not complete. -/
theorem rowsDone_of_unmoved {q i : Nat} {d : Cmd} (hd : s.cmd? q i = some d) (hmoved : d.moved = false) : s.rowsDone q i = s := by
  simp only [State.rowsDone, hd, hmoved, Bool.not_false, Bool.true_or, if_true]

/-- Rows that come before this chip's own rows have moved land, and nothing else happens. -/
theorem rowWrite_of_here {p : Pkt} (hc : s.cmd? c.q c.i = some c) (hu : c.indexOf h.hdr.src = some u) (hrep : c.gat.rep = h.hdr.rep)
    (hcounts : c.countsHere = true) (hmoved : c.moved = false) (hconv : c.converts = false) (hrow : c.rowBytes ≠ 0)
    (hpkts : h.pkts = [p]) :
    s.rowWrite c h = ((s.taken c h).writeSome (c.dst + c.rowsBefore u * c.rowBytes + p.hdr.offset)
      (fun k => c.dstCap / c.rowBytes ≤ c.rowsBefore u + (p.hdr.offset + k) / c.rowBytes
        ∨ c.rowsFrom u ≤ (p.hdr.offset + k) / c.rowBytes)
      (p.payload.take (min p.payload.length (c.rowsFrom u * c.rowBytes - p.hdr.offset))).zipIdx).putCmd
        ((c.heard h.hdr.src s.now).gains
          [((u + 1) * 2 ^ 48 + p.hdr.offset, min p.payload.length (c.rowsFrom u * c.rowBytes - p.hdr.offset))]) := by
  have hgo : ¬ (decide (c.gat.rep < h.hdr.rep) || !c.countsHere) = true := by simp [hcounts, hrep]
  have hcmd := fun a out (inst : DecidablePred out) (l : List (Byte × Nat)) =>
    (cmd?_congr (contents_cmds (writeSome_contents (s.taken c h) a out l)) _ _).trans (taken_cmd? h hc)
  simp only [State.rowWrite, hu]
  refine (if_neg hgo).trans ((if_neg (by omega)).trans ?_)
  rw [← State.taken, hpkts, List.foldl_cons, List.foldl_nil, landRows_plain hconv hrow, wireRow_plain hconv, addGot_eq (hcmd _ _ _ _)]
  exact rowsDone_of_unmoved (cmd?_putCmd (d := (c.heard h.hdr.src s.now).gains _) (hcmd _ _ _ _)) hmoved

end

/-- A chunk of rows: it waits, has no use, or its rows land up to the capacity. -/
theorem writeChunk_rows {src seq : Nat} {mc : Bool} {h : Held} {c : Cmd} {s : State} (hc : s.cmd? c.q c.i = some c)
    (hd : s.delivers 6 src seq mc h c) (htype : c.type = 0x14) :
    (c.gat.rep < h.hdr.rep ∨ c.countsHere = false → exec (.writeChunk src seq mc) s = .next (s.formDigests).settled)
    ∧ (h.hdr.rep < c.gat.rep → c.countsHere = true → (c.indexOf h.hdr.src).isSome = true →
        exec (.writeChunk src seq mc) s = .next ((s.taken c h).formDigests).settled)
    ∧ exec (.writeChunk src seq mc) s = .next (((s.rowWrite c h).formDigests).settled)
    ∧ ∀ u p, c.indexOf h.hdr.src = some u → c.gat.rep = h.hdr.rep → c.countsHere = true → c.moved = false →
        c.converts = false → c.rowBytes ≠ 0 → h.pkts = [p] → p.payload.length ≤ 4096 →
      let n := min p.payload.length (c.rowsFrom u * c.rowBytes - p.hdr.offset)
      ∃ t, exec (.writeChunk src seq mc) s = .next t ∧ h ∉ t.held
        ∧ (∀ k < n, c.rowsBefore u + (p.hdr.offset + k) / c.rowBytes < c.dstCap / c.rowBytes →
            t.byte (c.dst + c.rowsBefore u * c.rowBytes + p.hdr.offset + k) = p.payload.getD k 0)
        ∧ (∀ a, (∀ k < n, (c.dst + c.rowsBefore u * c.rowBytes + p.hdr.offset + k) % 2 ^ 64 ≠ a % 2 ^ 64) →
            (¬ ∃ k < 36, (s.winAt h.hdr.src + k) % 2 ^ 64 = a % 2 ^ 64) → t.byte a = s.byte a) := by
  rw [exec_writeChunk hd, effWriteChunk_rows hd htype]
  refine ⟨fun hearly => by rw [rowWrite_of_early hearly], fun hpast hcounts hu => by rw [rowWrite_of_past hpast hcounts hu],
    rfl, ?_⟩
  intro u p hu hrep hcounts hmoved hconv hrow hpkts hlen n
  rw [rowWrite_of_here hc hu hrep hcounts hmoved hconv hrow hpkts]
  have hn : (p.payload.take n).length = n := List.length_take_of_le (Nat.min_le_left _ _)
  refine ⟨_, rfl, ?_, fun k hk hroom => ?_, fun a ha hwindow => ?_⟩
  · rw [formed_held, State.putCmd_held, (writeSome_contents _ _ _ _).held]
    exact not_mem_taken_held h hc
  · have hstream : (p.hdr.offset + k) / c.rowBytes < c.rowsFrom u :=
      (Nat.div_lt_iff_lt_mul (Nat.pos_of_ne_zero hrow)).mpr (by omega)
    have hin := writeSome_inside (s.taken c h) (c.dst + c.rowsBefore u * c.rowBytes + p.hdr.offset)
      (fun k => c.dstCap / c.rowBytes ≤ c.rowsBefore u + (p.hdr.offset + k) / c.rowBytes
        ∨ c.rowsFrom u ≤ (p.hdr.offset + k) / c.rowBytes) (p.payload.take n) 0 k (by omega) (by omega)
      (by rw [Nat.zero_add]; omega)
    rw [Nat.zero_add] at hin
    rw [byte_congr (formed_mem _), byte_congr (State.putCmd_mem _ _), hin, List.getD_eq_getElem?_getD,
      List.getElem?_take_of_lt hk, ← List.getD_eq_getElem?_getD]
  · rw [byte_congr (formed_mem _), byte_congr (State.putCmd_mem _ _), writeSome_outside _ _ _ _ _ _ (fun k hk => by
      rw [Nat.zero_add]
      exact ha k (by rwa [hn] at hk))]
    exact taken_byte h hc a (fun k hk e => hwindow ⟨k, hk, e⟩)

/-! ### Data of a SEND (R107, R232, R233) -/

theorem length_plyCodes (f : Nat) (b : Byte) : (plyCodes f b).length = if f = 11 then 2 else 1 := by
  unfold plyCodes
  split <;> rfl

/-- The bytes of Ply codes as bfloat16, the first one at an element of the transfer. -/
def State.actBytes (s : State) (c : Cmd) (j : Nat) (codes : List Int) : List Byte :=
  codes.zipIdx.flatMap (fun x => toLE (s.actValue c (j + x.2) x.1).toNat 2)

theorem length_actBytes (s : State) (c : Cmd) (j : Nat) (codes : List Int) : (s.actBytes c j codes).length = 2 * codes.length := by
  rw [State.actBytes, length_flatMap_of_const _ 2 (fun _ => length_toLE _ _), List.length_zipIdx]

theorem actBytes_at (s : State) (c : Cmd) (j : Nat) (codes : List Int) (k : Nat) (hk : k < codes.length) :
    ((s.actBytes c j codes).drop (2 * k)).take 2 = toLE (s.actValue c (j + k) codes[k]).toNat 2 := by
  rw [State.actBytes, take_drop_flatMap _ 2 (fun _ => length_toLE _ _) _ k (by simpa using hk), List.getElem_zipIdx, Nat.zero_add]

section

variable {c : Cmd} {h : Held} {s : State} {p : Pkt}

theorem recvWrite_of_owed (hz : c.compress ≠ 0) (howes : s.owesSlot c h = true) : s.recvWrite c h = s := by
  have howed : (c.compress != 0 && s.owesSlot c h) = true := by simp [hz, howes]
  exact if_pos howed

variable (howes : c.compress = 0 ∨ s.owesSlot c h = false) (hpkts : h.pkts = [p])

include howes hpkts

theorem recvWrite_one : s.recvWrite c h =
    if c.compress != 0 then s.landed c h (c.dst + p.hdr.offset) p.payload [(p.hdr.offset, p.payload.length)]
    else if isPly c.recvFmt then
      let per := if c.recvFmt = 11 then 2 else 1
      let n := min (per * p.payload.length) (c.dstCap / 2 - per * p.hdr.offset)
      s.landed c h (c.dst + 2 * per * p.hdr.offset)
        ((s.taken c h).actBytes c (per * p.hdr.offset) ((p.payload.flatMap (plyCodes c.recvFmt)).take n))
        [(2 * per * p.hdr.offset, 2 * n)]
    else s.landed c h (c.dst + p.hdr.offset) (p.payload.take (min p.payload.length (c.dstCap - p.hdr.offset)))
      [(p.hdr.offset, min p.payload.length (c.dstCap - p.hdr.offset))] := by
  have hgo : ¬ (c.compress != 0 && s.owesSlot c h) = true := by
    rcases howes with hz | ho
    · simp [hz]
    · simp [ho]
  unfold State.recvWrite
  refine (if_neg hgo).trans ?_
  rw [hpkts]
  rfl

theorem recvWrite_plain (hplain : c.compress ≠ 0 ∨ isPly c.recvFmt = false) :
    s.recvWrite c h = s.landed c h (c.dst + p.hdr.offset)
      (p.payload.take (if c.compress = 0 then min p.payload.length (c.dstCap - p.hdr.offset) else p.payload.length))
      [(p.hdr.offset, if c.compress = 0 then min p.payload.length (c.dstCap - p.hdr.offset) else p.payload.length)] := by
  rw [recvWrite_one howes hpkts]
  by_cases hz : c.compress = 0
  · rw [if_neg (by simp [hz]), if_neg (by simp [hplain.resolve_left (fun hne => hne hz)]), if_pos hz]
  · rw [if_pos (by simp [hz]), if_neg hz, List.take_length]

theorem recvWrite_ply (hz : c.compress = 0) (hply : isPly c.recvFmt = true) :
    let per := if c.recvFmt = 11 then 2 else 1
    let n := min (per * p.payload.length) (c.dstCap / 2 - per * p.hdr.offset)
    s.recvWrite c h = s.landed c h (c.dst + 2 * per * p.hdr.offset)
      ((s.taken c h).actBytes c (per * p.hdr.offset) ((p.payload.flatMap (plyCodes c.recvFmt)).take n))
      [(2 * per * p.hdr.offset, 2 * n)] := by
  intro per n
  rw [recvWrite_one howes hpkts, if_neg (by simp [hz]), if_pos hply]

end

/-- Received Ply codes read back as bfloat16 values, within the capacity (R107). -/
theorem landed_ply {h : Held} {c : Cmd} {s : State} {p : Pkt} (hc : s.cmd? c.q c.i = some c) (hlen : p.payload.length ≤ 4096) :
    let per := if c.recvFmt = 11 then 2 else 1
    let n := min (per * p.payload.length) (c.dstCap / 2 - per * p.hdr.offset)
    let codes := p.payload.flatMap (plyCodes c.recvFmt)
    let t := (s.landed c h (c.dst + 2 * per * p.hdr.offset) ((s.taken c h).actBytes c (per * p.hdr.offset) (codes.take n))
      [(2 * per * p.hdr.offset, 2 * n)]).formDigests.settled
    h ∉ t.held ∧ ∀ k < n, t.readNat (c.dst + 2 * (per * p.hdr.offset + k)) 2
      = ((s.taken c h).actValue c (per * p.hdr.offset + k) (codes.getD k 0)).toNat := by
  intro per n codes t
  have hper : per ≤ 2 := by
    simp only [per]
    split <;> omega
  have hcodes : codes.length = per * p.payload.length := length_flatMap_of_const _ per (fun b => length_plyCodes _ b) _
  have hmul : per * p.payload.length ≤ 2 * p.payload.length := Nat.mul_le_mul_right _ hper
  have hkept : (codes.take n).length = n := List.length_take_of_le (hcodes ▸ Nat.min_le_left _ _)
  have hbytes := length_actBytes (s.taken c h) c (per * p.hdr.offset) (codes.take n)
  have hlands : s.Lands t h _ _ := (landed_lands h hc _ ((s.taken c h).actBytes c (per * p.hdr.offset) (codes.take n)) _
    (by omega)).formed
  refine ⟨hlands.held, fun k hk => ?_⟩
  have hkeep : k < (codes.take n).length := hk.trans_eq hkept.symm
  have hat : c.dst + 2 * (per * p.hdr.offset + k) = c.dst + 2 * per * p.hdr.offset + 2 * k := by
    rw [Nat.mul_add, ← Nat.mul_assoc, Nat.add_assoc]
  have hcode : (codes.take n)[k] = codes.getD k 0 := by rw [List.getElem_take, List.getD_eq_getElem _ _ (by omega)]
  rw [State.readNat, hat, read_of_bytes hlands.inside (2 * k) 2 (by omega), actBytes_at _ _ _ _ _ hkeep, hcode, leNat_toLE]
  exact Nat.mod_eq_of_lt (BitVec.isLt _)

/-- A chunk of a SEND: it waits, or it lands within the capacity, Ply codes as bfloat16. -/
theorem writeChunk_recv {src seq : Nat} {mc : Bool} {h : Held} {c : Cmd} {s : State} (hc : s.cmd? c.q c.i = some c)
    (hd : s.delivers 6 src seq mc h c) (htype : c.type = 0x17) :
    (c.peer ≠ src → exec (.writeChunk src seq mc) s = .next (s.formDigests).settled)
    ∧ (c.peer = src → c.compress ≠ 0 → s.owesSlot c h = true → exec (.writeChunk src seq mc) s = .next (s.formDigests).settled)
    ∧ (c.peer = src → c.compress = 0 ∨ s.owesSlot c h = false →
      exec (.writeChunk src seq mc) s = .next (((s.recvWrite c h).formDigests).settled)
      ∧ (∀ p, h.pkts = [p] → p.payload.length ≤ 4096 → c.compress ≠ 0 ∨ isPly c.recvFmt = false →
        ∃ t, exec (.writeChunk src seq mc) s = .next t ∧ s.Lands t h (c.dst + p.hdr.offset)
          (p.payload.take (if c.compress = 0 then min p.payload.length (c.dstCap - p.hdr.offset) else p.payload.length)))
      ∧ (∀ p, h.pkts = [p] → p.payload.length ≤ 4096 → c.compress = 0 → isPly c.recvFmt = true →
        let per := if c.recvFmt = 11 then 2 else 1
        let codes := p.payload.flatMap (plyCodes c.recvFmt)
        ∃ t, exec (.writeChunk src seq mc) s = .next t ∧ h ∉ t.held
          ∧ ∀ k < min (per * p.payload.length) (c.dstCap / 2 - per * p.hdr.offset),
            t.readNat (c.dst + 2 * (per * p.hdr.offset + k)) 2
              = ((s.taken c h).actValue c (per * p.hdr.offset + k) (codes.getD k 0)).toNat)) := by
  rw [exec_writeChunk hd, effWriteChunk_recv hd htype]
  refine ⟨fun hpeer => by rw [if_neg hpeer], fun hpeer hz howes => by rw [if_pos hpeer, recvWrite_of_owed hz howes],
    fun hpeer howes => ?_⟩
  rw [if_pos hpeer]
  refine ⟨rfl, fun p hpkts hlen hplain => ?_, ?_⟩
  · rw [recvWrite_plain howes hpkts hplain]
    refine ⟨_, rfl, (landed_lands h hc _ _ _ ?_).formed⟩
    rw [List.length_take]
    omega
  · intro p hpkts hlen hz hply per codes
    rw [recvWrite_ply howes hpkts hz hply]
    exact ⟨_, rfl, (landed_ply hc hlen).1, (landed_ply hc hlen).2⟩

end Sys2Proof.Machine

/-! Counts, lists and markers of the direct transfers (spec/08_collectives.md R231, R233, R235, spec/09_fabric.md R271). -/

namespace Sys2Proof.Machine

/-! ### A message that reaches its command -/

section

variable {kind src seq : Nat} {mc : Bool} {h : Held} {c : Cmd} {s : State} (f : State → State)
  (hd : s.delivers kind src seq mc h c)

include hd

omit f in
theorem delivers_status : c.status = none := by
  obtain ⟨-, -, -, -, -, -, hst⟩ := hd
  exact hst

theorem done_live_sorted_formed :
    done (s.live (fun s => (s.sorted kind src seq mc f).formDigests)) = .next ((f s).formDigests.settled) := by
  obtain ⟨hr, -, hheld, huse, -, -, -⟩ := hd
  rw [done_live _ s hr, sorted_of_use f hheld huse]

theorem done_live_sorted : done (s.live (fun s => s.sorted kind src seq mc f)) = .next (f s).settled := by
  obtain ⟨hr, -, hheld, huse, -, -, -⟩ := hd
  rw [done_live _ s hr, sorted_of_use f hheld huse]

end

/-! ### Counts and lists are kept with their source's index (R231, R235) -/

/-- A command to which the words of a member have come. -/
def Cmd.counted (c : Cmd) (u : Nat) (words : List Byte) : Cmd := { c with counts := c.counts ++ [(u, words)] }

section

variable {src seq u : Nat} {h : Held} {c : Cmd} {s : State} (hc : s.cmd? c.q c.i = some c) (hu : c.indexOf src = some u)

include hc hu

theorem effCountChunk_of_delivers (hd : s.delivers 7 src seq false h c) (htype : c.type = 0x14) :
    effCountChunk src seq s = if c.counts.any (fun x => x.1 == u) then s.taken c h
      else (((s.taken c h).write (c.aux + 4 * c.members * c.slots + 4 * c.slots * u) (sliceB h.payload 0 (4 * c.slots))).putCmd
        ((c.heard src s.now).counted u (sliceB h.payload 0 (4 * c.slots)))).rowsPhase c.q c.i := by
  obtain rfl := delivers_src hd
  have htaken := taken_cmd? h hc
  obtain ⟨-, -, hheld, -, hjob, hpass, hst⟩ := hd
  have hst' : (c.heard h.hdr.src s.now).status.isSome = false := congrArg Option.isSome hst
  unfold State.taken at htaken ⊢
  simp only [effCountChunk, hheld, hjob, hpass, htype, htaken, hu, hst', bne_self_eq_false, Bool.not_true, Bool.false_eq_true,
    if_false, Bool.or_self, Bool.false_or]
  rfl

theorem effTopkChunk_of_delivers (hd : s.delivers 8 src seq false h c) (htype : c.type = 0x18) :
    effTopkChunk src seq s = if c.counts.any (fun x => x.1 == u) then s.taken c h
      else ((s.taken c h).putCmd ((c.heard src s.now).counted u h.payload)).mergeRoot c.q c.i := by
  obtain rfl := delivers_src hd
  have htaken := taken_cmd? h hc
  obtain ⟨-, -, hheld, -, hjob, hpass, hst⟩ := hd
  have hst' : (c.heard h.hdr.src s.now).status.isSome = false := congrArg Option.isSome hst
  unfold State.taken at htaken ⊢
  simp only [effTopkChunk, hheld, hjob, hpass, htype, htaken, hu, hst', bne_self_eq_false, Bool.not_true, Bool.false_eq_true,
    if_false, Bool.or_self, Bool.false_or]
  rfl

end

section

variable {q i : Nat} {d : Cmd} {s : State} (hd : s.cmd? q i = some d)

include hd

/-- The rows move once the data phase has started and every count is here, and once. -/
theorem rowsPhase_of_waiting (h : d.dataStarted = false ∨ d.moved = true ∨ d.countsHere = false) : s.rowsPhase q i = s := by
  have hstop : (d.moved || d.status.isSome || !d.dataStarted || !d.countsHere) = true := by
    rcases h with h | h | h <;> simp [h]
  simp only [State.rowsPhase, hd, hstop, if_true]

/-- The root merges once every list is here, and once. -/
theorem mergeRoot_of_waiting (h : d.moved = true ∨ allIn (0, d.members) (fun m => d.counts.any (fun x => x.1 == m)) = false) :
    s.mergeRoot q i = s := by
  have hstop : (d.moved || d.status.isSome || !allIn (0, d.members) (fun m => d.counts.any (fun x => x.1 == m))) = true := by
    rcases h with h | h <;> simp [h]
  simp only [State.mergeRoot, hd, hstop, if_true]

/-- Lists that disagree fail the command (spec/04_topiary.md R128). -/
theorem mergeRoot_of_disagreeing (hmoved : d.moved = false) (hst : d.status = none)
    (hwhole : allIn (0, d.members) (fun m => d.counts.any (fun x => x.1 == m)) = true)
    (hlists : mergeAgrees ((List.range d.members).map (fun m =>
      parseTRec ((d.counts.find? (fun x => x.1 == m)).map (·.2) |>.getD []))) = false) :
    s.mergeRoot q i = s.failCmd q i stMismatch 0 := by
  simp only [State.mergeRoot, hd, hmoved, hst, hwhole, hlists, Option.isSome_none, Bool.not_true, Bool.or_self, Bool.not_false,
    Bool.false_eq_true, if_false, if_true]

end

theorem failCmd_held (s : State) (q i st detail : Nat) : (s.failCmd q i st detail).held = s.held :=
  (congrArg State.held (failCmd_eq s q i st detail) :)

/-- Count words: a second copy has no use; the first is written at its member's place and kept. -/
theorem countChunk_kept {src seq u : Nat} {h : Held} {c : Cmd} {s : State} (hc : s.cmd? c.q c.i = some c)
    (hu : c.indexOf src = some u) (hd : s.delivers 7 src seq false h c) (htype : c.type = 0x14) :
    let words := sliceB h.payload 0 (4 * c.slots)
    let at_ := c.aux + 4 * c.members * c.slots + 4 * c.slots * u
    let d := (c.heard src s.now).counted u words
    (c.counts.any (fun x => x.1 == u) = true → exec (.countChunk src seq) s = .next ((s.taken c h).formDigests).settled)
    ∧ (c.counts.any (fun x => x.1 == u) = false →
      exec (.countChunk src seq) s = .next ((((((s.taken c h).write at_ words).putCmd d).rowsPhase c.q c.i)).formDigests).settled
      ∧ (c.dataStarted = false ∨ c.moved = true ∨ d.countsHere = false →
        ∃ t e, exec (.countChunk src seq) s = .next t ∧ t.cmd? c.q c.i = some e ∧ e.counts = d.counts
          ∧ s.Lands t h at_ words)) := by
  intro words at_ d
  have hexec : exec (.countChunk src seq) s = .next ((effCountChunk src seq s).formDigests.settled) := done_live_sorted_formed _ hd
  rw [hexec, effCountChunk_of_delivers hc hu hd htype]
  refine ⟨fun htwice => by rw [if_pos htwice], fun hfirst => ?_⟩
  rw [if_neg (by simp [hfirst])]
  refine ⟨rfl, fun hwaits => ?_⟩
  have hcmd : (((s.taken c h).write at_ words).putCmd d).cmd? c.q c.i = some d := cmd?_putCmd (d := d) (written_cmd? h hc at_ words)
  rw [rowsPhase_of_waiting hcmd hwaits]
  obtain ⟨e, he, hview⟩ := formed_cmd? _ hcmd
  have hlen : words.length = 4 * c.slots := length_sliceB _ _ _
  have hslots : c.slots ≤ 256 := by
    have : byteAt c.param 91 < 256 := BitVec.isLt _
    unfold Cmd.slots
    omega
  refine ⟨_, e, rfl, he, (congrArg Cmd.counts hview :), State.Lands.formed ?_⟩
  exact taken_lands h hc at_ words (by omega) rfl rfl rfl

/-- A partial list: a second copy has no use; the first is kept, and the merge goes on. -/
theorem topkChunk_kept {src seq u : Nat} {h : Held} {c : Cmd} {s : State} (hc : s.cmd? c.q c.i = some c)
    (hu : c.indexOf src = some u) (hd : s.delivers 8 src seq false h c) (htype : c.type = 0x18) :
    let d := (c.heard src s.now).counted u h.payload
    let whole := allIn (0, c.members) (fun m => d.counts.any (fun x => x.1 == m))
    let lists := (List.range c.members).map (fun m => parseTRec ((d.counts.find? (fun x => x.1 == m)).map (·.2) |>.getD []))
    (c.counts.any (fun x => x.1 == u) = true → exec (.topkChunk src seq) s = .next ((s.taken c h).formDigests).settled)
    ∧ (c.counts.any (fun x => x.1 == u) = false →
      exec (.topkChunk src seq) s = .next (((((s.taken c h).putCmd d).mergeRoot c.q c.i).formDigests).settled)
      ∧ (c.moved = true ∨ whole = false → ∃ t e, exec (.topkChunk src seq) s = .next t ∧ h ∉ t.held
          ∧ t.cmd? c.q c.i = some e ∧ e.counts = d.counts ∧ e.status = none ∧ t.outbox = s.outbox)
      ∧ (c.moved = false → whole = true → mergeAgrees lists = false → ∃ t e, exec (.topkChunk src seq) s = .next t
          ∧ h ∉ t.held ∧ t.cmd? c.q c.i = some e ∧ e.status = some (stMismatch, 0) ∧ t.outbox = s.outbox)) := by
  intro d whole lists
  have hst : d.status = none := (delivers_status hd :)
  have hexec : exec (.topkChunk src seq) s = .next ((effTopkChunk src seq s).formDigests.settled) := done_live_sorted_formed _ hd
  rw [hexec, effTopkChunk_of_delivers hc hu hd htype]
  refine ⟨fun htwice => by rw [if_pos htwice], fun hfirst => ?_⟩
  rw [if_neg (by simp [hfirst])]
  have hcmd : ((s.taken c h).putCmd d).cmd? c.q c.i = some d := cmd?_putCmd (d := d) (taken_cmd? h hc)
  refine ⟨rfl, fun hwaits => ?_, fun hmoved hwhole hlists => ?_⟩
  · rw [mergeRoot_of_waiting hcmd hwaits]
    obtain ⟨e, he, hview⟩ := formed_cmd? _ hcmd
    refine ⟨_, e, rfl, ?_, he, (congrArg Cmd.counts hview :), (congrArg Cmd.status hview :).trans hst, ?_⟩
    · rw [formed_held, State.putCmd_held]
      exact not_mem_taken_held h hc
    · rw [formed_outbox, State.putCmd_outbox, taken_outbox h hc]
  · rw [mergeRoot_of_disagreeing hcmd hmoved hst hwhole hlists]
    obtain ⟨e, he, hview⟩ := formed_cmd? _ (failCmd_cmd? stMismatch 0 hcmd hst)
    refine ⟨_, e, rfl, ?_, he, (congrArg Cmd.status hview :), ?_⟩
    · rw [formed_held, failCmd_held, State.putCmd_held]
      exact not_mem_taken_held h hc
    · rw [formed_outbox, failCmd_outbox, State.putCmd_outbox, taken_outbox h hc]

/-! ### READY and CANCEL (R233, R271) -/

/-- The marker is of the transfer that the command is a part of. -/
def Cmd.isMarked (c : Cmd) (h : Held) : Prop := c.peer = h.hdr.src ∧ c.tag = h.hdr.offset ∧ leAt h.payload 0 4 = c.matchNo

/-- A SEND with what its receiver's READY marker says. -/
def Cmd.readied (c : Cmd) (r : Nat × Nat × Nat) : Cmd := { c with ready := some r }

section

variable {src seq : Nat} {h : Held} {c : Cmd} {s : State}

theorem not_marked_iff (hsrc : h.hdr.src = src) :
    (c.peer != src || c.tag != h.hdr.offset || leAt h.payload 0 4 != c.matchNo) = true ↔ ¬ c.isMarked h := by
  subst hsrc
  simp only [Cmd.isMarked, Bool.or_eq_true, bne_iff_ne, not_and_or, or_assoc]

/-- A marker of another transfer waits. -/
theorem effReady_of_other (hd : s.delivers 0x13 src seq false h c) (htype : c.type = 0x16) (hmine : ¬ c.isMarked h) :
    effReady src seq s = s := by
  have hother := (not_marked_iff (delivers_src hd)).mpr hmine
  obtain ⟨-, -, hheld, -, hjob, hpass, -⟩ := hd
  simp only [Bool.or_assoc] at hother
  simp only [effReady, hheld, hjob, hpass, htype, bne_self_eq_false, Bool.not_true, Bool.false_or, Bool.or_assoc, hother, if_true]

theorem effCancel_of_other (hd : s.delivers 0x14 src seq false h c) (htype : c.type = 0x17) (hmine : ¬ c.isMarked h) :
    effCancel src seq s = s := by
  have hother := (not_marked_iff (delivers_src hd)).mpr hmine
  obtain ⟨-, -, hheld, -, hjob, hpass, -⟩ := hd
  simp only [Bool.or_assoc] at hother
  simp only [effCancel, hheld, hjob, hpass, htype, bne_self_eq_false, Bool.not_true, Bool.false_or, Bool.or_assoc, hother, if_true]

theorem effCancel_of_mine (hd : s.delivers 0x14 src seq false h c) (htype : c.type = 0x17) (hmine : c.isMarked h) :
    effCancel src seq s = ((s.taken c h).sat rColEvents 24 8 1).failCmd c.q c.i stMismatch 0 := by
  have hmarked := Bool.eq_false_iff.mpr (fun e => (not_marked_iff (delivers_src hd)).mp e hmine)
  obtain rfl := delivers_src hd
  obtain ⟨-, -, hheld, -, hjob, hpass, hst⟩ := hd
  unfold State.taken
  simp only [Bool.or_assoc] at hmarked
  simp only [effCancel, hheld, hjob, hpass, htype, hst, bne_self_eq_false, Bool.not_true, Bool.false_or, Bool.or_assoc, hmarked,
    Bool.false_eq_true, if_false, Option.isSome_none]

variable (hc : s.cmd? c.q c.i = some c)

include hc

theorem effReady_of_mine (hd : s.delivers 0x13 src seq false h c) (htype : c.type = 0x16) (hmine : c.isMarked h) :
    effReady src seq s = ((s.taken c h).putCmd
      ((c.heard src s.now).readied (leAt h.payload 0 4, byteAt h.payload 4 % 16, leAt h.payload 8 8))).sendGo c.q c.i := by
  have hmarked := Bool.eq_false_iff.mpr (fun e => (not_marked_iff (delivers_src hd)).mp e hmine)
  obtain rfl := delivers_src hd
  have htaken := taken_cmd? h hc
  obtain ⟨-, -, hheld, -, hjob, hpass, -⟩ := hd
  unfold State.taken at htaken ⊢
  simp only [Bool.or_assoc] at hmarked
  simp only [effReady, hheld, hjob, hpass, htype, htaken, bne_self_eq_false, Bool.not_true, Bool.false_or, Bool.or_assoc, hmarked,
    Bool.false_eq_true, if_false]
  rfl

end

section

variable {q i : Nat} {d : Cmd} {s : State} (hd : s.cmd? q i = some d)

include hd

/-- A SEND sends once its data phase has started and its READY marker is here, and once. -/
theorem sendGo_of_waiting (h : d.ready = none ∨ d.dataStarted = false ∨ d.moved = true) : s.sendGo q i = s := by
  simp only [State.sendGo, hd]
  split
  · rfl
  · rename_i hready
    refine if_pos ?_
    rcases h with h | h | h
    · simp [h] at hready
    · simp [h]
    · simp [h]

variable {m fmt cap : Nat} (hready : d.ready = some (m, fmt, cap)) (hstarted : d.dataStarted = true) (hmoved : d.moved = false)
  (hst : d.status = none)

include hready hstarted hmoved hst

/-- A receiver without the room or in another format: the SEND is cancelled (R233). -/
theorem sendGo_of_mismatch (h : cap < d.sendLen ∨ fmt ≠ d.wireFmt) : s.sendGo q i
    = ((s.sendMarker d 0x14 (cancelBytes d.matchNo (if cap < d.sendLen then 1 else 2))).sat rColEvents 24 8 1).failCmd q i stMismatch 0 := by
  have hgo : ¬ (!d.dataStarted || d.moved || d.status.isSome) = true := by simp [hstarted, hmoved, hst]
  have hreason : (if cap < d.sendLen then 1 else if fmt ≠ d.wireFmt then 2 else 0) = (if cap < d.sendLen then 1 else 2) := by
    split
    · rfl
    · rw [if_pos (h.resolve_left (by assumption))]
  simp only [State.sendGo, hd, hready]
  rw [if_neg hgo, hreason, if_pos (by split <;> decide)]

/-- A SEND whose data cannot be read sends nothing. -/
theorem sendGo_of_flagged (hroom : d.sendLen ≤ cap) (hfmt : fmt = d.wireFmt)
    (hflag : d.sendReads.any (fun x => s.flagged x.1 x.2) = true) : s.sendGo q i = s.memError q i .other := by
  have hgo : ¬ (!d.dataStarted || d.moved || d.status.isSome) = true := by simp [hstarted, hmoved, hst]
  simp only [State.sendGo, hd, hready]
  rw [if_neg hgo, if_neg (by simp [Nat.not_lt.mpr hroom, hfmt]), if_pos hflag]

end

theorem memError_outbox (s : State) (q i : Nat) (kind : ReadKind) : (s.memError q i kind).outbox = s.outbox :=
  (congrArg State.outbox (memError_eq s q i kind) :).trans (raise_outbox _ _)

theorem raise_ownRank (s : State) (cause : Nat) : (s.raise cause).ownRank = s.ownRank := by
  have hjob : (s.raise cause).job = s.job := (congrArg State.job (raise_accounts s cause) :)
  rw [State.ownRank, hjob, State.ownRank]

/-- A read that no guard and no gather covers fails its command. -/
theorem memError_status {s : State} {q i : Nat} {c : Cmd} (hc : s.cmd? q i = some c) (hst : c.status = none)
    (hrow : c.gat.rowStarted = false) :
    ∃ d, (s.memError q i .other).cmd? q i = some d ∧ d.status = some (stData, s.ownRank) := by
  have hraised := (raise_cmd? s causeMemory q i).trans hc
  rw [← raise_ownRank s causeMemory]
  simp only [State.memError, hraised]
  exact readFailed_status hraised hst hrow (.inr rfl)

theorem colEvents_unwatched : rColEvents ≠ rEvtStatus ∧ ∀ k < 8, rColEvents ≠ rEvwCfg k := by decide

theorem formed_colEvents (s : State) (lo w : Nat) : s.formDigests.settled.fld rColEvents lo w = s.fld rColEvents lo w := by
  rw [State.fld, formed_rd s colEvents_unwatched.1 colEvents_unwatched.2, State.fld]

theorem failCmd_fld (s : State) (q i st detail o lo w : Nat) : (s.failCmd q i st detail).fld o lo w = s.fld o lo w :=
  (congrArg (fun x : State => x.fld o lo w) (failCmd_eq s q i st detail) :)

theorem fld_congr {s t : State} (h : t.regs = s.regs) (o lo w : Nat) : t.fld o lo w = s.fld o lo w := by
  rw [State.fld, State.rd, h, State.fld, State.rd]

section

variable {src seq : Nat} {h : Held} {c : Cmd} {s : State} (hc : s.cmd? c.q c.i = some c)

include hc

/-- A CANCEL ends the RECV it matches with CONFIG_MISMATCH, counted. -/
theorem cancel_ends (hd : s.delivers 0x14 src seq false h c) (htype : c.type = 0x17) (hmine : c.isMarked h) :
    ∃ t e, exec (.cancel src seq) s = .next t ∧ h ∉ t.held ∧ t.cmd? c.q c.i = some e
      ∧ e.status = some (stMismatch, 0) ∧ t.fld rColEvents 24 8 = min 255 (s.fld rColEvents 24 8 + 1)
      ∧ t.outbox = s.outbox ∧ t.queues = s.queues := by
  have hexec : exec (.cancel src seq) s = .next (effCancel src seq s).settled := done_live_sorted _ hd
  have hcmd : ((s.taken c h).sat rColEvents 24 8 1).cmd? c.q c.i = some (c.heard h.hdr.src s.now) := taken_cmd? h hc
  have hfail := failCmd_eq ((s.taken c h).sat rColEvents 24 8 1) c.q c.i stMismatch 0
  rw [hexec, effCancel_of_mine hd htype hmine]
  refine ⟨_, _, rfl, ?_, (settled_cmd? _ _ _).trans (failCmd_cmd? stMismatch 0 hcmd (delivers_status hd :)), rfl, ?_, ?_, ?_⟩
  · rw [settled_held, failCmd_held]
    exact not_mem_taken_held h hc
  · rw [State.fld, settled_rd _ _ colEvents_unwatched.1 colEvents_unwatched.2, ← State.fld, failCmd_fld,
      fld_sat_self _ _ _ _ _ (by decide), fld_congr (taken_regs h hc)]
    rfl
  · rw [settled_outbox, failCmd_outbox]
    exact taken_outbox h hc
  · rw [settled_queues, (congrArg State.queues hfail :)]
    exact (congrArg State.queues (taken_frame h hc) :)

variable (hd : s.delivers 0x13 src seq false h c) (htype : c.type = 0x16) (hmine : c.isMarked h)

include hd htype hmine

theorem exec_ready : exec (.ready src seq) s = .next ((((s.taken c h).putCmd
    ((c.heard src s.now).readied (leAt h.payload 0 4, byteAt h.payload 4 % 16, leAt h.payload 8 8))).sendGo c.q c.i).formDigests).settled := by
  have hexec : exec (.ready src seq) s = .next ((effReady src seq s).formDigests.settled) := done_live_sorted_formed _ hd
  rw [hexec, effReady_of_mine hc hd htype hmine]

omit hd htype hmine in
theorem readied_cmd? (r : Nat × Nat × Nat) :
    ((s.taken c h).putCmd ((c.heard src s.now).readied r)).cmd? c.q c.i = some ((c.heard src s.now).readied r) :=
  cmd?_putCmd (d := (c.heard src s.now).readied r) (taken_cmd? h hc)

/-- A READY marker before the SEND's data phase, or after it has sent, is kept. -/
theorem ready_kept (hwaits : c.dataStarted = false ∨ c.moved = true) :
    ∃ t e, exec (.ready src seq) s = .next t ∧ h ∉ t.held ∧ t.cmd? c.q c.i = some e
      ∧ e.ready = some (leAt h.payload 0 4, byteAt h.payload 4 % 16, leAt h.payload 8 8) ∧ e.status = none ∧ t.outbox = s.outbox := by
  have hcmd := readied_cmd? (h := h) (src := src) hc (leAt h.payload 0 4, byteAt h.payload 4 % 16, leAt h.payload 8 8)
  rw [exec_ready hc hd htype hmine, sendGo_of_waiting hcmd (.inr hwaits)]
  obtain ⟨e, he, hview⟩ := formed_cmd? _ hcmd
  refine ⟨_, e, rfl, ?_, he, (congrArg Cmd.ready hview :), (congrArg Cmd.status hview :).trans (delivers_status hd :), ?_⟩
  · rw [formed_held, State.putCmd_held]
    exact not_mem_taken_held h hc
  · rw [formed_outbox, State.putCmd_outbox, taken_outbox h hc]

/-- A READY marker without the room or of another format cancels the SEND: a CANCEL marker leaves, and the mismatch is counted. -/
theorem ready_cancels (hstarted : c.dataStarted = true) (hmoved : c.moved = false)
    (hbad : leAt h.payload 8 8 < c.sendLen ∨ byteAt h.payload 4 % 16 ≠ c.wireFmt) (hx : ∃ phys, s.xlat c.peer = .ok phys)
    (hsent : ∀ x ∈ s.outbox, x.seq.isSome = true) :
    ∃ t e x, exec (.ready src seq) s = .next t ∧ h ∉ t.held
      ∧ t.cmd? c.q c.i = some e ∧ e.status = some (stMismatch, 0)
      ∧ t.fld rColEvents 24 8 = min 255 (s.fld rColEvents 24 8 + 1)
      ∧ t.outbox.length = s.outbox.length + 1 ∧ t.outbox.getLast? = some x ∧ x.kind = 0x14 ∧ x.dst = c.peer
      ∧ x.pkts.map (·.payload) = [cancelBytes c.matchNo (if leAt h.payload 8 8 < c.sendLen then 1 else 2)] := by
  have hcmd := readied_cmd? (h := h) (src := src) hc (leAt h.payload 0 4, byteAt h.payload 4 % 16, leAt h.payload 8 8)
  have hst := delivers_status hd
  rw [exec_ready hc hd htype hmine, sendGo_of_mismatch hcmd rfl hstarted hmoved hst hbad]
  generalize hr : (leAt h.payload 0 4, byteAt h.payload 4 % 16, leAt h.payload 8 8) = r at hcmd ⊢
  generalize hb : cancelBytes ((c.heard src s.now).readied r).matchNo
    (if leAt h.payload 8 8 < ((c.heard src s.now).readied r).sendLen then 1 else 2) = b
  have hregs : ((s.taken c h).putCmd ((c.heard src s.now).readied r)).regs = s.regs := taken_regs h hc
  have hout : ((s.taken c h).putCmd ((c.heard src s.now).readied r)).outbox = s.outbox := taken_outbox h hc
  obtain ⟨hmr, hmc⟩ := sendMarker_keeps (c := (c.heard src s.now).readied r) 0x14 b
    (hx.imp fun phys hp => (xlat_congr hregs c.peer).trans hp) (by rwa [hout])
  obtain ⟨hlen, x, hx, hkind, hdst, hpay⟩ := last_of_cargo
    (sendMarker_cargo ((s.taken c h).putCmd ((c.heard src s.now).readied r)) ((c.heard src s.now).readied r) 0x14 b)
  have hmark := sendMarker_carries ((s.taken c h).putCmd ((c.heard src s.now).readied r)) ((c.heard src s.now).readied r) 0x14 b
  generalize ((s.taken c h).putCmd ((c.heard src s.now).readied r)).sendMarker ((c.heard src s.now).readied r) 0x14 b = u at *
  have hu : (u.sat rColEvents 24 8 1).cmd? c.q c.i = some ((c.heard src s.now).readied r) :=
    (cmd?_congr (t := u.sat rColEvents 24 8 1) hmc c.q c.i).trans hcmd
  obtain ⟨e, he, hview⟩ := formed_cmd? _ (failCmd_cmd? stMismatch 0 hu hst)
  have hend : (((u.sat rColEvents 24 8 1).failCmd c.q c.i stMismatch 0).formDigests.settled).outbox = u.outbox := by
    rw [formed_outbox, failCmd_outbox]
    rfl
  refine ⟨_, e, x, rfl, ?_, he, (congrArg Cmd.status hview :), ?_, ?_, ?_, hkind, hdst, ?_⟩
  · rw [formed_held, failCmd_held]
    exact fun hin => not_mem_taken_held h hc (hmark.held ▸ hin)
  · rw [formed_colEvents, failCmd_fld, fld_sat_self _ _ _ _ _ (by decide), fld_congr (hmr.trans hregs)]
    rfl
  · rw [hend, hlen, hout]
  · rw [hend, hx]
  · rw [hpay, ← hb]
    rfl

/-- A SEND whose data cannot be read fails, and nothing of it leaves. -/
theorem ready_fails (hstarted : c.dataStarted = true) (hmoved : c.moved = false) (hrow : c.gat.rowStarted = false)
    (hroom : c.sendLen ≤ leAt h.payload 8 8) (hfmt : byteAt h.payload 4 % 16 = c.wireFmt)
    (hflag : c.sendReads.any (fun x => (s.taken c h).flagged x.1 x.2) = true) :
    ∃ t e, exec (.ready src seq) s = .next t ∧ h ∉ t.held
      ∧ t.cmd? c.q c.i = some e ∧ e.status = some (stData, s.ownRank) ∧ (t.rd rEvtStatus).getLsbD 10 = true
      ∧ t.outbox = s.outbox := by
  have hcmd := readied_cmd? (h := h) (src := src) hc (leAt h.payload 0 4, byteAt h.payload 4 % 16, leAt h.payload 8 8)
  have hst := delivers_status hd
  rw [exec_ready hc hd htype hmine, sendGo_of_flagged hcmd rfl hstarted hmoved hst hroom hfmt hflag]
  obtain ⟨d, hd, hfail⟩ := memError_status hcmd hst hrow
  obtain ⟨e, he, hview⟩ := formed_cmd? _ hd
  refine ⟨_, e, rfl, ?_, he, ((congrArg Cmd.status hview :).trans hfail).trans ?_, formed_keeps_cause _ ?_, ?_⟩
  · rw [formed_held, (memError_carries _ _ _ _).held, State.putCmd_held]
    exact not_mem_taken_held h hc
  · have hjob : (s.taken c h).job = s.job := (congrArg State.job (taken_frame h hc) :)
    rw [State.ownRank, State.putCmd_job, hjob, State.ownRank]
  · rw [memError_rd]
    exact raise_sets_cause _ _ (by decide)
  · rw [formed_outbox, memError_outbox, State.putCmd_outbox, taken_outbox h hc]

end

/-- Settles O53: each chunk and marker by what its consumer does with it. -/
theorem transfers : Obligations.Transfers := by
  unfold Obligations.Transfers
  intro src seq h c s hc s1 c1 waits unused window owes
  refine ⟨fun mc hd => ?_, fun u hu => ⟨fun hd htype => ?_, fun hd htype => ?_⟩, ⟨fun hd htype => ?_, fun hd htype => ?_⟩⟩
  · obtain rfl := delivers_src hd
    refine ⟨fun htype => ?_, fun htype => ?_, fun htype => ?_⟩
    · obtain ⟨hearly, hpast, howed, hgo⟩ := writeChunk_gather hc hd htype
      refine ⟨hearly, hpast, howed, fun hrep howes => ?_⟩
      obtain ⟨hgather, hend⟩ := hgo hrep howes
      refine ⟨hgather, ?_⟩
      intro p hpkts hlen ht hplace hrow hvote hring hhop n
      obtain ⟨t, d, hexec, hlands, hd, hgot⟩ := hend p hpkts hlen ht hplace hrow hvote hring hhop
      have hbytes := hlands.of_take (clip_le c h.hdr.ring p.hdr.offset p.payload.length)
      exact ⟨t, d, hexec, hlands.held, hlands.outbox, hbytes.1, hbytes.2, hd, hgot⟩
    · exact writeChunk_rows hc hd htype
    · obtain ⟨hother, howed, hgo⟩ := writeChunk_recv hc hd htype
      refine ⟨hother, howed, fun hpeer howes => ?_⟩
      obtain ⟨hrecv, hbytes, hply⟩ := hgo hpeer howes
      refine ⟨hrecv, ?_, hply⟩
      intro p hpkts hlen hplain n
      obtain ⟨t, hexec, hlands⟩ := hbytes p hpkts hlen hplain
      have hbytes := hlands.of_take (n := n) (by simp only [n]; split <;> omega)
      exact ⟨t, hexec, hlands.held, hbytes.1, hbytes.2⟩
  · obtain rfl := delivers_src hd
    intro words at_ d
    obtain ⟨htwice, hfirst⟩ := countChunk_kept hc hu hd htype
    refine ⟨htwice, fun hnew => ?_⟩
    obtain ⟨hkept, hidle⟩ := hfirst hnew
    refine ⟨hkept, fun hwaits => ?_⟩
    obtain ⟨t, e, hexec, he, hcounts, hlands⟩ := hidle hwaits
    have hlen : words.length = 4 * c.slots := length_sliceB _ _ _
    exact ⟨t, e, hexec, hlands.held, he, hcounts, fun k hk => hlands.inside k (hk.trans_eq hlen.symm),
      fun a ha => hlands.outside a (fun k hk => ha k (hk.trans_eq hlen))⟩
  · obtain rfl := delivers_src hd
    exact topkChunk_kept hc hu hd htype
  · obtain rfl := delivers_src hd
    refine ⟨fun hother => ?_, fun hmine => ⟨exec_ready hc hd htype hmine, ready_kept hc hd htype hmine,
      ready_cancels hc hd htype hmine, ready_fails hc hd htype hmine⟩⟩
    exact (done_live_sorted_formed _ hd).trans (by rw [effReady_of_other hd htype hother])
  · obtain rfl := delivers_src hd
    refine ⟨fun hother => ?_, cancel_ends hc hd htype⟩
    exact (done_live_sorted _ hd).trans (by rw [effCancel_of_other hd htype hother])

end Sys2Proof.Machine

/-! The phases of a running collective (spec/08_collectives.md R224, R226, R244 to R246, R301, spec/01_engine_and_step.md R45). -/

namespace Sys2Proof.Machine

/-! ### The marks of a launch (R45) -/

section

variable (s : State) (c : Cmd)

/-- The largest slip, if this one is larger. -/
def State.markSlip (s : State) (slip : Nat) : State :=
  if (s.rd rLaunchSlip).toNat < slip then s.wr rLaunchSlip (BitVec.ofNat 64 slip) else s

theorem markSlip_accounts (slip : Nat) : s.AccountsOnly (s.markSlip slip) := by
  unfold State.markSlip
  split
  · exact wr_accounts _ _ _
  · rfl

theorem markSlip_rd_ne (slip : Nat) {o : Nat} (h : o ≠ rLaunchSlip) : (s.markSlip slip).rd o = s.rd o := by
  unfold State.markSlip
  split
  · exact rd_wr_ne _ _ _ _ h
  · rfl

theorem markSlip_slip {slip : Nat} (h : slip < 2 ^ 64) : ((s.markSlip slip).rd rLaunchSlip).toNat = max (s.rd rLaunchSlip).toNat slip := by
  unfold State.markSlip
  split
  · rw [rd_wr_self, BitVec.toNat_ofNat, Nat.mod_eq_of_lt h]
    omega
  · omega

/-- The marks of a launch past its time. -/
def State.lateMarks (s : State) (c : Cmd) : State :=
  (((s.wr rLaunchLast (BitVec.ofNat 64 s.now)).setFld rLaunchLate c.q 1 1).markSlip (s.now - c.launchAt)).raise causeLateLaunch

theorem launchMarks_eq : s.launchMarks c = if c.launchAt = 0 then s
    else if !c.late then s.wr rLaunchLast (BitVec.ofNat 64 s.now) else s.lateMarks c := by
  have hnow : ((s.wr rLaunchLast (BitVec.ofNat 64 s.now)).setFld rLaunchLate c.q 1 1).now = s.now := by
    rw [State.now, rd_setFld_ne _ _ _ _ _ _ (by decide), rd_wr_ne _ _ _ _ (by decide), State.now]
  unfold State.launchMarks State.lateMarks
  simp only [hnow]
  rfl

theorem launchMarks_accounts : s.AccountsOnly (s.launchMarks c) := by
  rw [launchMarks_eq]
  split
  · rfl
  split
  · exact wr_accounts _ _ _
  · exact ((wr_accounts s rLaunchLast (BitVec.ofNat 64 s.now)).trans
      ((wr_accounts _ rLaunchLate _).trans (markSlip_accounts _ _))).trans (raise_accounts _ _)

theorem launchMarks_last (h : c.launchAt ≠ 0) : (s.launchMarks c).rd rLaunchLast = BitVec.ofNat 64 s.now := by
  rw [launchMarks_eq, if_neg h]
  split
  · exact rd_wr_self _ _ _
  · rw [State.lateMarks, raise_rd_ne _ _ _ (by decide), markSlip_rd_ne _ _ (by decide), rd_setFld_ne _ _ _ _ _ _ (by decide),
      rd_wr_self]

theorem launchMarks_onTime (h : c.late = false) : (s.launchMarks c).rd rLaunchLate = s.rd rLaunchLate
    ∧ (s.launchMarks c).rd rLaunchSlip = s.rd rLaunchSlip := by
  rw [launchMarks_eq, h]
  split
  · exact ⟨rfl, rfl⟩
  · exact ⟨rd_wr_ne _ _ _ _ (by decide), rd_wr_ne _ _ _ _ (by decide)⟩

theorem launchMarks_late (h : c.launchAt ≠ 0) (hlate : c.late = true) : s.launchMarks c = s.lateMarks c := by
  rw [launchMarks_eq, if_neg h, hlate]
  rfl

theorem lateMarks_bit (hq : c.q < 64) : (s.lateMarks c).fld rLaunchLate c.q 1 = 1 := by
  rw [State.lateMarks, State.fld, raise_rd_ne _ _ _ (by decide), markSlip_rd_ne _ _ (by decide), ← State.fld,
    fld_setFld_self _ _ _ _ _ (by omega), Nat.mod_eq_of_lt (by decide)]

theorem lateMarks_cause : ((s.lateMarks c).rd rEvtStatus).getLsbD causeLateLaunch = true := raise_sets_cause _ _ (by decide)

theorem lateMarks_slip : ((s.lateMarks c).rd rLaunchSlip).toNat = max (s.rd rLaunchSlip).toNat (s.now - c.launchAt) := by
  have hnow : s.now < 2 ^ 64 := BitVec.isLt _
  rw [State.lateMarks, raise_rd_ne _ _ _ (by decide), markSlip_slip _ (by omega), rd_setFld_ne _ _ _ _ _ _ (by decide),
    rd_wr_ne _ _ _ _ (by decide)]

end

/-! ### The data phase (R246) -/

/-- The data phase may start: its launch time has come, and a reducing one has its lead and its bucket. -/
def State.mayBegin (s : State) (c : Cmd) : Prop :=
  s.launchReady c = true ∧ (isReducing c.type = true → c.leadComplete = true ∧ s.bucketFree c = true)

/-- A command whose data phase starts. -/
def Cmd.begun (c : Cmd) (now : Nat) : Cmd := { c with dataStarted := true, dataAt := now }

/-- The state in which the data phase of a command does its work. -/
def State.began (s : State) (c : Cmd) : State := (s.launchMarks c).putCmd (c.begun s.now)

section

variable {q i : Nat} {c : Cmd} {s : State} (hc : s.cmd? q i = some c)

include hc

theorem began_cmd? : (s.began c).cmd? q i = some (c.begun s.now) := by
  obtain ⟨rfl, rfl⟩ := index_of_cmd? hc
  exact cmd?_putCmd (d := c.begun s.now) ((cmd?_congr (congrArg State.cmds (launchMarks_accounts s c) :) _ _).trans hc)

omit hc in
theorem began_outbox : (s.began c).outbox = s.outbox := (congrArg State.outbox (launchMarks_accounts s c) :)

omit hc in
theorem began_job : (s.began c).job = s.job := (congrArg State.job (launchMarks_accounts s c) :)

omit hc in
theorem began_mem : (s.began c).mem = s.mem := (launchMarks_accounts s c).mem

variable (hst : c.status.isSome = false) (hblock : usesBlock c.type = true)

include hst hblock

theorem effDataPhaseStart_of_waiting (hstarted : c.dataStarted = false) (hmay : ¬ s.mayBegin c) : effDataPhaseStart q i s = s := by
  simp only [effDataPhaseStart, hc, hst, hblock, hstarted, Bool.not_true, Bool.or_self, Bool.false_eq_true, if_false]
  split
  · rfl
  split
  · rfl
  split
  · rfl
  · rename_i hready hlead hfree
    refine absurd ⟨by simpa using hready, fun hred => ?_⟩ hmay
    exact ⟨by simpa [hred] using hlead, by simpa [hred] using hfree⟩

theorem effDataPhaseStart_of_may (hstarted : c.dataStarted = false) (hmay : s.mayBegin c) :
    effDataPhaseStart q i s = (s.began c).dataPhase q i := by
  obtain ⟨hready, hred⟩ := hmay
  have hlead : ¬ (isReducing c.type && !c.leadComplete) = true := by
    simp only [Bool.and_eq_true, Bool.not_eq_true']
    exact fun ⟨h, hl⟩ => by simp [(hred h).1] at hl
  have hfree : ¬ (isReducing c.type && !s.bucketFree c) = true := by
    simp only [Bool.and_eq_true, Bool.not_eq_true']
    exact fun ⟨h, hf⟩ => by simp [(hred h).2] at hf
  simp only [effDataPhaseStart, hc, hst, hblock, hstarted, hready, Bool.not_true, Bool.or_self,
    Bool.false_eq_true, if_false]
  rw [if_neg hlead, if_neg hfree]
  rfl

theorem effDataPhaseStart_again (hstarted : c.dataStarted = true) : effDataPhaseStart q i s = s.dataAgain q i := by
  simp only [effDataPhaseStart, hc, hst, hblock, hstarted, Bool.not_true, Bool.or_self, Bool.false_eq_true,
    if_false, if_true]

omit hst hblock in
/-- A gather, a SEND without its READY marker and a broadcast elsewhere than at its root have no work of their own yet. -/
theorem dataPhase_idle (h : c.type = 0x13 ∨ (c.type = 0x16 ∧ c.ready = none) ∨ (c.type = 0x15 ∧ c.peer ≠ s.job.rank)) :
    (s.began c).dataPhase q i = s.began c := by
  have hcmd := began_cmd? hc
  have htype : (c.begun s.now).type = c.type := rfl
  rcases h with ht | ⟨ht, hready⟩ | ⟨ht, hpeer⟩
  · simp only [State.dataPhase, hcmd, htype, ht]
  · simp only [State.dataPhase, hcmd, htype, ht]
    exact sendGo_of_waiting hcmd (.inl hready)
  · simp only [State.dataPhase, hcmd, htype, ht]
    rw [began_job]
    exact if_neg hpeer

omit hst hblock in
theorem dataPhase_recv (ht : c.type = 0x17) : (s.began c).dataPhase q i
    = (s.began c).sendMarker (c.begun s.now) 0x13 (readyBytes c.matchNo c.recvFmt c.dstCap) := by
  have htype : (c.begun s.now).type = c.type := rfl
  simp only [State.dataPhase, began_cmd? hc, htype, ht]
  rfl

end

/-! ### What a launch leaves in the launch registers -/

section

variable (s : State) (c : Cmd)

theorem launch_unwatched : ∀ o ∈ [rLaunchLast, rLaunchSlip, rLaunchLate], o ≠ rEvtStatus ∧ ∀ k < 8, o ≠ rEvwCfg k := by decide

theorem began_rd {o : Nat} (h : o ∈ [rLaunchLast, rLaunchSlip, rLaunchLate]) :
    ((s.began c).formDigests.settled).rd o = (s.launchMarks c).rd o :=
  (formed_rd _ (launch_unwatched o h).1 (launch_unwatched o h).2).trans (putCmd_rd _ _ _)

/-- The launch registers after a data phase that has no work of its own yet. -/
structure State.Launched (s : State) (c : Cmd) (t : State) : Prop where
  unset : c.launchAt = 0 → t.rd rLaunchLast = s.rd rLaunchLast ∧ t.rd rLaunchSlip = s.rd rLaunchSlip
  last : c.launchAt ≠ 0 → t.rd rLaunchLast = BitVec.ofNat 64 s.now
  late : c.launchAt ≠ 0 → c.late = true → c.q < 64 → t.fld rLaunchLate c.q 1 = 1 ∧ (t.rd rEvtStatus).getLsbD causeLateLaunch = true
    ∧ (t.rd rLaunchSlip).toNat = max (s.rd rLaunchSlip).toNat (s.now - c.launchAt)
  onTime : c.late = false → t.rd rLaunchLate = s.rd rLaunchLate ∧ t.rd rLaunchSlip = s.rd rLaunchSlip

theorem began_launched : s.Launched c (s.began c).formDigests.settled where
  unset h := by
    have hsame : s.launchMarks c = s := by rw [launchMarks_eq, if_pos h]
    rw [began_rd s c (by simp), began_rd s c (by simp), hsame]
    exact ⟨rfl, rfl⟩
  last h := by
    rw [began_rd s c (by simp), launchMarks_last s c h]
  late h hlate hq := by
    have hmarks := launchMarks_late s c h hlate
    refine ⟨?_, formed_keeps_cause _ ?_, ?_⟩
    · rw [State.fld, began_rd s c (by simp), hmarks, ← State.fld]
      exact lateMarks_bit s c hq
    · rw [State.began, putCmd_rd, hmarks]
      exact lateMarks_cause s c
    · rw [began_rd s c (by simp), hmarks]
      exact lateMarks_slip s c
  onTime h := by
    rw [began_rd s c (by simp), began_rd s c (by simp)]
    exact launchMarks_onTime s c h

end

/-! ### The Row phase (R224) -/

theorem badMemory_carries (s : State) (q i : Nat) : s.Carries (s.badMemory q i) :=
  (raise_carries _ _).trans (failCmd_carries _ _ _ _ _)

theorem sendRecs_carries (s : State) (c : Cmd) (dst port ring : Nat) (copy : Bool) (recs : List (Nat × Rec × Nat)) :
    s.Carries (s.sendRecs c dst port ring copy recs) :=
  foldl_carries _ (fun s _ => sendDrafts_carries s _ _ _ _ _ _ _ _) _ s

theorem sendRow_carries (s : State) (c : Cmd) (w p d : Nat) : s.Carries (s.sendRow c w p d) := by
  unfold State.sendRow
  simp only
  split
  · exact memError_carries _ _ _ _
  split
  · exact badMemory_carries _ _ _
  · exact sendRecs_carries _ _ _ _ _ _ _

/-- A command whose Row phase starts. -/
def Cmd.rowBegun (c : Cmd) : Cmd := { c with red := { c.red with rowStarted := true } }

/-- Every Row operand of this chip's roles is ready. -/
def State.rowReady (s : State) (c : Cmd) : Prop := c.dataStarted = true ∧ c.red.rowStarted = false
  ∧ ∀ p ∈ c.roles (s.place c).1 (s.place c).2, allIn (eighth c.ng p) (fun g => smGet (fun _ => 0) c.red.rowOp g != 0) = true

/-- The state in which hop 1 of the Row phase has left in both directions, for every role. -/
def State.rowSent (s : State) (c : Cmd) : State :=
  (c.roles (s.place c).1 (s.place c).2).foldl (fun t p => (t.sendRow c (t.place c).1 p 0).sendRow c (t.place c).1 p 1)
    (s.putCmd c.rowBegun)

theorem place_congr {s t : State} (h : t.job = s.job) (c : Cmd) : t.place c = s.place c := by
  rw [State.place, h, State.place]

/-- Steps that agree where an invariant holds, and keep it, come to the same. -/
theorem foldl_congr_of_invariant {α : Type} (inv : State → Prop) (f g : State → α → State) (hagree : ∀ s x, inv s → f s x = g s x)
    (hkeep : ∀ s x, inv s → inv (f s x)) (l : List α) (s : State) (hs : inv s) : l.foldl f s = l.foldl g s := by
  induction l generalizing s with
  | nil => rfl
  | cons x l ih => rw [List.foldl_cons, List.foldl_cons, ← hagree s x hs, ih _ (hkeep s x hs)]

/-- A chip keeps its place in a command while it sends. -/
theorem foldl_sendRow_place (c : Cmd) (w : Nat) (l : List Nat) (s : State) (hw : (s.place c).1 = w) :
    l.foldl (fun t p => (t.sendRow c w p 0).sendRow c w p 1) s
      = l.foldl (fun t p => (t.sendRow c (t.place c).1 p 0).sendRow c (t.place c).1 p 1) s := by
  refine foldl_congr_of_invariant (fun t => (t.place c).1 = w) _ _ (fun t p ht => ?_) (fun t p ht => ?_) l s hw
  · rw [ht]
  · rw [place_congr ((sendRow_carries t c w p 0).trans (sendRow_carries _ c w p 1)).job, ht]

section

variable {q i : Nat} {c : Cmd} {s : State} (hc : s.cmd? q i = some c)

include hc

/-- The Row phase keeps what is held, and its command has started it. -/
theorem rowSent_started : (s.rowSent c).held = s.held ∧ ∃ d, (s.rowSent c).cmd? q i = some d ∧ d.red.rowStarted = true := by
  obtain ⟨rfl, rfl⟩ := index_of_cmd? hc
  have hsent : (s.putCmd c.rowBegun).Carries (s.rowSent c) :=
    foldl_carries _ (fun t p => (sendRow_carries t c _ p 0).trans (sendRow_carries _ c _ p 1)) _ _
  obtain ⟨d, hd, hview⟩ := hsent.cmds.exists_cmd (cmd?_putCmd (d := c.rowBegun) hc)
  have hred : d.red = c.rowBegun.red := (congrArg Cmd.red hview :)
  exact ⟨hsent.held, d, hd, by rw [hred, Cmd.rowBegun]⟩

variable (hst : c.status.isSome = false) (hred : isReducing c.type = true) (hrow : c.hasRow = true)

include hst hred hrow

theorem effRowPhaseStart_of_waiting (h : ¬ s.rowReady c) : effRowPhaseStart q i s = s := by
  simp only [effRowPhaseStart, hc]
  refine if_pos (not_not.mp fun hgo => h ?_)
  simp only [hst, hred, hrow, Bool.not_true, Bool.false_or, Bool.or_false, Bool.or_eq_true, Bool.not_eq_true', not_or,
    Bool.not_eq_false, Bool.not_eq_true, List.all_eq_true] at hgo
  obtain ⟨⟨hnot, hstarted⟩, hops⟩ := hgo
  exact ⟨hstarted, hnot, hops⟩

theorem effRowPhaseStart_of_ready (h : s.rowReady c) : effRowPhaseStart q i s = s.rowSent c := by
  obtain ⟨hstarted, hnot, hops⟩ := h
  simp only [effRowPhaseStart, hc]
  refine (if_neg ?_).trans (foldl_sendRow_place c _ _ (s.putCmd c.rowBegun) rfl)
  simp only [hst, hred, hrow, hnot, hstarted, List.all_eq_true.mpr hops, Bool.not_true, Bool.or_self, Bool.false_eq_true,
    not_false_eq_true]

end

/-! ### The gather phases (R226, R301) -/

section

variable {q i : Nat} {c : Cmd} {s : State} (hc : s.cmd? q i = some c) (hst : c.status.isSome = false)

include hc

theorem effGatherPhaseStart_of_early (h : s.gatherReady c = false) : effGatherPhaseStart q i s = s := by
  simp only [effGatherPhaseStart, hc, h, Bool.not_false, Bool.or_true, if_true]

include hst

variable (hready : s.gatherReady c = true)

include hready

theorem effGatherPhaseStart_row (hrow : c.gat.rowStarted = false) : effGatherPhaseStart q i s =
    if c.compress != 0 && (s.mySegments c).any (fun g => s.owed c g.num) then s else (s.gatherRow c).fenceOn q i := by
  simp only [effGatherPhaseStart, hc, hst, hready, hrow, Bool.not_true, Bool.or_self, Bool.false_eq_true, Bool.not_false, if_false,
    if_true]

theorem effGatherPhaseStart_hedge (hrow : c.gat.rowStarted = true) : effGatherPhaseStart q i s =
    if !c.gat.hedgeStarted && (c.roles (s.place c).1 (s.place c).2).all (s.rangeHere c) then (s.gatherHedge c).fenceOn q i else s := by
  simp only [effGatherPhaseStart, hc, hst, hready, hrow, Bool.not_true, Bool.or_self, Bool.false_eq_true, if_false]

end

/-! ### The obligation -/

section

variable {q i : Nat} {c : Cmd} {s : State} (hc : s.cmd? q i = some c) (hr : s.ctl.resetOn = false) (hflows : s.flows)
  (hst : c.status = none)

include hr hflows

theorem exec_dataPhaseStart : exec (.dataPhaseStart q i) s = .next ((effDataPhaseStart q i s).formDigests).settled :=
  done_live_working _ _ s hr hflows

theorem exec_rowPhaseStart : exec (.rowPhaseStart q i) s = .next ((effRowPhaseStart q i s).formDigests).settled :=
  done_live_working _ _ s hr hflows

theorem exec_gatherPhaseStart : exec (.gatherPhaseStart q i) s = .next ((effGatherPhaseStart q i s).formDigests).settled :=
  done_live_working _ _ s hr hflows

include hc hst

/-- The data phase starts, with the marks of the launch, and a RECV sends its READY marker. -/
theorem dataPhaseStart_starts (hblock : usesBlock c.type = true) (hstarted : c.dataStarted = false) (hmay : s.mayBegin c) :
    exec (.dataPhaseStart q i) s = .next (((s.began c).dataPhase q i).formDigests).settled
    ∧ (c.type = 0x13 ∨ (c.type = 0x16 ∧ c.ready = none) ∨ (c.type = 0x15 ∧ c.peer ≠ s.job.rank) → ∃ t d,
        exec (.dataPhaseStart q i) s = .next t ∧ t.cmd? q i = some d ∧ d.dataStarted = true ∧ d.dataAt = s.now
        ∧ d.watchAt = c.watchAt ∧ t.outbox = s.outbox ∧ t.mem = s.mem ∧ s.Launched c t)
    ∧ (c.type = 0x17 → ∃ t d x, exec (.dataPhaseStart q i) s = .next t ∧ t.cmd? q i = some d ∧ d.dataStarted = true
        ∧ t.outbox.length = s.outbox.length + 1 ∧ t.outbox.getLast? = some x ∧ x.kind = 0x13 ∧ x.dst = c.peer
        ∧ x.pkts.map (·.payload) = [readyBytes c.matchNo c.recvFmt c.dstCap]) := by
  rw [exec_dataPhaseStart hr hflows, effDataPhaseStart_of_may hc (congrArg Option.isSome hst) hblock hstarted hmay]
  refine ⟨rfl, fun hidle => ?_, fun hrecv => ?_⟩
  · rw [dataPhase_idle hc hidle]
    obtain ⟨d, hd, hview⟩ := formed_cmd? _ (began_cmd? hc)
    exact ⟨_, d, rfl, hd, (congrArg Cmd.dataStarted hview :), (congrArg Cmd.dataAt hview :), (congrArg Cmd.watchAt hview :),
      (formed_outbox _).trans began_outbox, (formed_mem _).trans began_mem, began_launched s c⟩
  · rw [dataPhase_recv hc hrecv]
    obtain ⟨e, he, hsent⟩ := (sendMarker_carries (s.began c) (c.begun s.now) 0x13
      (readyBytes c.matchNo c.recvFmt c.dstCap)).cmds.exists_cmd (began_cmd? hc)
    obtain ⟨d, hd, hview⟩ := formed_cmd? _ he
    obtain ⟨hlen, x, hx, hkind, hdst, hpay⟩ := last_of_cargo
      (sendMarker_cargo (s.began c) (c.begun s.now) 0x13 (readyBytes c.matchNo c.recvFmt c.dstCap))
    have hstartedAt : d.dataStarted = e.dataStarted := (congrArg Cmd.dataStarted hview :)
    rw [began_outbox] at hlen
    exact ⟨_, d, x, rfl, hd, hstartedAt.trans (congrArg Cmd.dataStarted hsent :), (congrArg List.length (formed_outbox _)).trans hlen,
      (congrArg List.getLast? (formed_outbox _)).trans hx, hkind, hdst, hpay⟩

/-- The Row phase starts. -/
theorem rowPhaseStart_starts (hred : isReducing c.type = true) (hrow : c.hasRow = true) (hready : s.rowReady c) :
    exec (.rowPhaseStart q i) s = .next ((s.rowSent c).formDigests).settled
    ∧ ∃ t d, exec (.rowPhaseStart q i) s = .next t ∧ t.cmd? q i = some d ∧ d.red.rowStarted = true ∧ t.held = s.held := by
  rw [exec_rowPhaseStart hr hflows, effRowPhaseStart_of_ready hc (congrArg Option.isSome hst) hred hrow hready]
  obtain ⟨hheld, e, he, hstarted⟩ := rowSent_started hc
  obtain ⟨d, hd, hview⟩ := formed_cmd? _ he
  have hsame : d.red = e.red := (congrArg Cmd.red hview :)
  exact ⟨rfl, _, d, rfl, hd, hsame ▸ hstarted, (formed_held _).trans hheld⟩

end

/-- Settles O55: each phase by its condition, and what it then leaves. -/
theorem phases : Obligations.Phases := by
  unfold Obligations.Phases
  intro q i c s hr hflows hc hst waits begun
  have hst' : c.status.isSome = false := congrArg Option.isSome hst
  have hdata := exec_dataPhaseStart (q := q) (i := i) hr hflows
  have hrowExec := exec_rowPhaseStart (q := q) (i := i) hr hflows
  have hgather := exec_gatherPhaseStart (q := q) (i := i) hr hflows
  refine ⟨fun hblock hstarted => ⟨fun hmay => ?_, fun hmay => ?_⟩, fun hblock hstarted => ?_, fun hred hrow => ⟨fun hready => ?_,
    rowPhaseStart_starts hc hr hflows hst hred hrow⟩, fun hready => ?_, fun hready => ?_⟩
  · exact hdata.trans (by rw [effDataPhaseStart_of_waiting hc hst' hblock hstarted hmay])
  · obtain ⟨hexec, hidle, hrecv⟩ := dataPhaseStart_starts hc hr hflows hst hblock hstarted hmay
    refine ⟨hexec, fun hkind => ?_, hrecv⟩
    obtain ⟨t, d, ht, hd, hbegun, hat, hwatch, hout, hmem, hmarks⟩ := hidle hkind
    exact ⟨t, d, ht, hd, hbegun, hat, hwatch, hout, hmem, hmarks.unset, hmarks.last, hmarks.late, hmarks.onTime⟩
  · exact hdata.trans (by rw [effDataPhaseStart_again hc hst' hblock hstarted])
  · exact hrowExec.trans (by rw [effRowPhaseStart_of_waiting hc hst' hred hrow hready])
  · exact hgather.trans (by rw [effGatherPhaseStart_of_early hc hready])
  · intro owes here
    refine ⟨fun hrow howes => hgather.trans ?_, fun hrow howes => hgather.trans ?_, fun hrow hhedge hhere => hgather.trans ?_,
      fun hrow hwaits => hgather.trans ?_⟩
    · rw [effGatherPhaseStart_row hc hst' hready hrow, if_pos howes]
    · rw [effGatherPhaseStart_row hc hst' hready hrow, if_neg (Bool.eq_false_iff.mp howes)]
    · have hgo : (!c.gat.hedgeStarted && here) = true := by rw [hhedge, hhere]; rfl
      rw [effGatherPhaseStart_hedge hc hst' hready hrow, if_pos hgo]
    · have hstop : ¬ (!c.gat.hedgeStarted && here) = true := by
        rcases hwaits with h | h <;> simp [h]
      rw [effGatherPhaseStart_hedge hc hst' hready hrow, if_neg hstop]

end Sys2Proof.Machine

/-! A port's credits, its audits and its timers (spec/09_fabric.md R260, R273, R274, R285): each command of a link changes its own
port and the accounts of the links. -/

namespace Sys2Proof.Machine

/-! ### One port changes -/

/-- `t` has the other ports of `s`, its memory, its packets and its work. -/
def State.PortAlone (p : Nat) (s t : State) : Prop :=
  (∀ k, k ≠ p → t.port k = s.port k) ∧ t.mem = s.mem ∧ t.txq = s.txq ∧ t.held = s.held ∧ t.queues = s.queues
    ∧ t.cmds = s.cmds ∧ t.outbox = s.outbox

theorem State.AccountsOnly.portAlone {s t : State} (h : s.AccountsOnly t) (p : Nat) : s.PortAlone p t :=
  ⟨fun k _ => h.port k, h.mem, h.txq, h.held, (congrArg State.queues h :), (congrArg State.cmds h :), (congrArg State.outbox h :)⟩

/-- A port that is set, with accounts besides, is the one that changes. -/
theorem portAlone_of_setPort {s t : State} {p : Nat} {v : Port} (hp : p < 16) (h : (s.setPort p v).AccountsOnly t) :
    t.port p = v ∧ s.PortAlone p t := by
  obtain ⟨hports, hrest⟩ := h.portAlone p
  exact ⟨(h.port p).trans (port_setPort_self s p v hp), fun k hk => (hports k hk).trans (port_setPort_ne s p k v hk), hrest⟩

/-! ### Registers of a port -/

/-- The registers of a port lie above those that settling changes. -/
theorem settled_rd_port (s : State) (o : Nat) (h : 0x080000 ≤ o) : s.settled.rd o = s.rd o :=
  settled_rd_of_watches_lt s o (by simp only [rEvwCfg]; omega)

theorem rd_addF_ne (s : State) (o o' lo w n : Nat) (h : o' ≠ o) : (s.addF o lo w n).rd o' = s.rd o' := rd_setFld_ne _ _ _ _ _ _ h

theorem fld_sat_ne (s : State) (o lo w n lo' w' : Nat) (h : lo' + w' ≤ lo ∨ lo + w ≤ lo') (h64 : lo' + w' ≤ 64) :
    (s.sat o lo w n).fld o lo' w' = s.fld o lo' w' := fld_setFld_ne _ _ _ _ _ _ _ h h64

theorem now_addF_flits (s : State) (o n : Nat) (h : 0x080000 ≤ o) : (s.addF o 0 64 n).now = s.now := by
  rw [State.now, rd_addF_ne _ _ _ _ _ _ (by simp only [rGcnt]; omega), State.now]

/-! ### Units that leave a port -/

theorem sendUnits_setPort (s : State) (p : Nat) (v : Port) (us : List LinkUnit) (flits : Nat) (hp : p < 16) :
    (s.setPort p v).sendUnits p us flits = (s.setPort p { v with sent := us }).addF (rPortTxFlits p) 0 64 flits := by
  rw [State.sendUnits, port_setPort_self _ _ _ hp, setPort_setPort]

/-- A port that has asked for a resynchronisation with a sync flit and an AUDIT (R273, R285). -/
def Port.syncing (x : Port) (now : Nat) : Port :=
  { x with peerResync := true, syncAt := now, auditAt := now, freeDirty := false
           sent := [.sync, .audit x.tx.toList x.free.toList (x.link == .resync)] }

theorem sendSync_eq (s : State) (p : Nat) (hp : p < 16) :
    s.sendSync p = (s.setPort p ((s.port p).syncing s.now)).addF (rPortTxFlits p) 0 64 2 :=
  sendUnits_setPort s p _ _ _ hp

/-- A port that has heard RSYNC_REQ: a new request is answered (R285). -/
def Port.hears (x : Port) (req : Bool) (now : Nat) : Port :=
  if req = true ∧ x.peerResync = false then x.syncing now else { x with peerResync := req }

theorem hearRsync_setPort (s : State) (p : Nat) (v : Port) (req : Bool) (hp : p < 16) :
    (s.setPort p v).hearRsync p req = if req = true ∧ v.peerResync = false then
      (s.setPort p (v.syncing s.now)).addF (rPortTxFlits p) 0 64 2 else s.setPort p { v with peerResync := req } := by
  have hself := port_setPort_self s p v hp
  have hsync : (s.setPort p v).sendSync p = (s.setPort p (v.syncing s.now)).addF (rPortTxFlits p) 0 64 2 := by
    rw [sendSync_eq _ _ hp, hself, setPort_setPort]
    rfl
  unfold State.hearRsync
  simp only [hself, hsync, setPort_setPort]
  cases req
  · simp
  · cases hpeer : v.peerResync <;> simp [← hpeer]

theorem hearRsync_accounts (s : State) (p : Nat) (v : Port) (req : Bool) (hp : p < 16) :
    (s.setPort p (v.hears req s.now)).AccountsOnly ((s.setPort p v).hearRsync p req) := by
  rw [hearRsync_setPort s p v req hp, Port.hears]
  split
  · exact addF_accounts _ _ _ _ _
  · rfl

theorem hearRsync_rd (s : State) (p : Nat) (v : Port) (req : Bool) (hp : p < 16) (o : Nat) (ho : o ≠ rPortTxFlits p) :
    ((s.setPort p v).hearRsync p req).rd o = s.rd o := by
  rw [hearRsync_setPort s p v req hp]
  split
  · exact rd_addF_ne _ _ _ _ _ _ ho
  · rfl

/-! ### Credit-return flits (R260) -/

theorem all_zero_sliceB (b : List Byte) (off n : Nat) :
    (sliceB b off n).all (· == 0) = true ↔ ∀ k < n, byteAt b (off + k) = 0 := by
  induction n generalizing off with
  | zero => simp [sliceB]
  | succ n ih =>
    have hhead : (b.getD off 0 == 0) = true ↔ byteAt b off = 0 := by
      rw [byteAt, beq_iff_eq, ← BitVec.toNat_inj]
      rfl
    rw [sliceB_succ, List.all_cons, Bool.and_eq_true, ih, hhead, Nat.forall_lt_succ_left]
    simp only [Nat.add_zero, Nat.add_right_comm, Nat.add_assoc]

/-- A credit-return flit with its complement, its check and its reserved bytes right (R260). -/
def creditFlitGood (b : List Byte) : Prop :=
  b.length = 256 ∧ byteAt b 0 = 0xC5 ∧ byteAt b 1 < 2 ∧ leAt b 10 8 = complB 8 (leAt b 2 8)
    ∧ (∀ k < 234, byteAt b (18 + k) = 0) ∧ leAt b 252 4 = (crc32c (b.take 252)).toNat

/-- What the port looks at in a flit. -/
theorem creditFlitGood_iff (b : List Byte) : (decide (b.length = 256) && decide (byteAt b 0 = 0xC5) && decide (byteAt b 1 < 2)
      && decide (leAt b 10 8 = complB 8 (leAt b 2 8)) && (sliceB b 18 234).all (· == 0)
      && decide (leAt b 252 4 = (crc32c (b.take 252)).toNat)) = true ↔ creditFlitGood b := by
  simp only [creditFlitGood, Bool.and_eq_true, decide_eq_true_eq, all_zero_sliceB, and_assoc]

section

variable (s : State) (p : Nat) (hp : p < 16) (hs : s.awake 5 = true)

include hp hs

theorem exec_creditReturnFlit_of_good (b : List Byte) (hup : (s.port p).link = .up) (hgood : creditFlitGood b) :
    exec (.creditReturnFlit p b) s = .next ((((s.addF (rPortRxFlits p) 0 64 1).setPort p
      { s.port p with ret := quad (fun v => leAt b (2 + 2 * v) 2) }).hearRsync p (bitAt (byteAt b 1) 0)).settled) := by
  refine (done_live_of_awake s (effCreditReturnFlit p b) hs).trans ?_
  have hcheck := (creditFlitGood_iff b).mpr hgood
  simp only [effCreditReturnFlit, hp, hs, hup, hcheck, decide_true, Bool.and_self, true_or, if_true, reduceCtorEq, if_false]

theorem exec_creditReturnFlit_of_bad (b : List Byte) (hup : (s.port p).link = .up) (hbad : ¬ creditFlitGood b) :
    exec (.creditReturnFlit p b) s
      = .next ((((s.addF (rPortRxFlits p) 0 64 1).sat (rPortErr p) 8 8 1).toResync p).settled) := by
  refine (done_live_of_awake s (effCreditReturnFlit p b) hs).trans ?_
  have hcheck := Bool.eq_false_iff.mpr (mt (creditFlitGood_iff b).mp hbad)
  simp only [effCreditReturnFlit, hp, hs, hup, hcheck, decide_true, Bool.and_self, true_or, if_true, reduceCtorEq, if_false,
    Bool.false_eq_true]

theorem exec_creditReturnFlit_of_resync (b : List Byte) (hl : (s.port p).link = .resync) :
    exec (.creditReturnFlit p b) s = .next ((s.addF (rPortRxFlits p) 0 64 1).settled) := by
  refine (done_live_of_awake s (effCreditReturnFlit p b) hs).trans ?_
  simp [effCreditReturnFlit, hp, hs, hl]

omit hp in
theorem exec_creditReturnFlit_of_not_live (b : List Byte) (hl : ¬ ((s.port p).link = .up ∨ (s.port p).link = .resync)) :
    exec (.creditReturnFlit p b) s = .next s.settled := by
  refine (done_live_of_awake s (effCreditReturnFlit p b) hs).trans ?_
  simp only [effCreditReturnFlit, hl, decide_false, Bool.and_false, Bool.false_eq_true, if_false]

/-! ### What leaves at its time -/

theorem exec_creditReturnSend (hl : (s.port p).link = .up ∨ (s.port p).link = .resync)
    (hdue : (s.port p).freeDirty = true ∨ (s.port p).link = .resync) :
    exec (.creditReturnSend p) s = .next (((s.setPort p { s.port p with
      freeDirty := false, sent := [.credit (s.port p).free.toList ((s.port p).link == .resync)] }).addF
        (rPortTxFlits p) 0 64 1).settled) := by
  refine (done_live_of_awake s (effCreditReturnSend p) hs).trans ?_
  have hgo : ((s.port p).freeDirty || (s.port p).link == .resync) = true := by
    rcases hdue with h | h <;> simp [h]
  simp only [effCreditReturnSend, hp, hl, hgo, decide_true, Bool.and_self, if_true, sendUnits_setPort _ _ _ _ _ hp]

omit hp in
theorem exec_creditReturnSend_of_not
    (h : ¬ ((s.port p).link = .up ∨ (s.port p).link = .resync) ∨ ((s.port p).freeDirty = false ∧ (s.port p).link = .up)) :
    exec (.creditReturnSend p) s = .next s.settled := by
  refine (done_live_of_awake s (effCreditReturnSend p) hs).trans ?_
  rcases h with h | ⟨hclean, hup⟩
  · simp [effCreditReturnSend, h]
  · simp [effCreditReturnSend, hclean, hup]

theorem exec_syncRepeatTimer (hl : (s.port p).link = .up ∨ (s.port p).link = .resync) (hpeer : (s.port p).peerResync = true)
    (ht : (s.port p).syncAt + 1000 ≤ s.now) :
    exec (.syncRepeatTimer p) s
      = .next (((s.setPort p ((s.port p).syncing s.now)).addF (rPortTxFlits p) 0 64 2).settled) := by
  refine (done_live_of_awake s (effSyncRepeatTimer p) hs).trans ?_
  simp only [effSyncRepeatTimer, hp, hl, hpeer, ht, decide_true, Bool.and_self, if_true, sendSync_eq _ _ hp]

omit hp in
theorem exec_syncRepeatTimer_of_not
    (h : ¬ ((s.port p).link = .up ∨ (s.port p).link = .resync) ∨ (s.port p).peerResync = false ∨ s.now < (s.port p).syncAt + 1000) :
    exec (.syncRepeatTimer p) s = .next s.settled := by
  refine (done_live_of_awake s (effSyncRepeatTimer p) hs).trans ?_
  rcases h with h | h | h
  · simp [effSyncRepeatTimer, h]
  · simp [effSyncRepeatTimer, h]
  · simp [effSyncRepeatTimer, Nat.not_le.mpr h]

theorem exec_auditTimer (hl : (s.port p).link = .up ∨ (s.port p).link = .resync) (hv : s.timeValid = true)
    (ht : (s.port p).auditAt + 1000 * s.fld rFabTimers 17 10 ≤ s.now) :
    exec (.auditTimer p) s = .next (((s.setPort p { s.port p with
      auditAt := s.now, freeDirty := false
      sent := [.audit (s.port p).tx.toList (s.port p).free.toList ((s.port p).link == .resync)] }).addF
        (rPortTxFlits p) 0 64 1).settled) := by
  refine (done_live_of_awake s (effAuditTimer p) hs).trans ?_
  simp only [effAuditTimer, hp, hl, hv, ht, decide_true, Bool.and_self, if_true, sendUnits_setPort _ _ _ _ _ hp]

omit hp in
theorem exec_auditTimer_of_not (h : ¬ ((s.port p).link = .up ∨ (s.port p).link = .resync) ∨ s.timeValid = false
      ∨ s.now < (s.port p).auditAt + 1000 * s.fld rFabTimers 17 10) :
    exec (.auditTimer p) s = .next s.settled := by
  refine (done_live_of_awake s (effAuditTimer p) hs).trans ?_
  rcases h with h | h | h
  · simp [effAuditTimer, h]
  · simp [effAuditTimer, h]
  · simp [effAuditTimer, Nat.not_le.mpr h]

end

/-! ### What each leaves -/

/-- Units that a port sends: the port, and the flits counted. -/
theorem sent_settled (s : State) (p : Nat) (v : Port) (flits : Nat) (hp : p < 16) :
    let t := ((s.setPort p v).addF (rPortTxFlits p) 0 64 flits).settled
    s.PortAlone p t ∧ t.port p = v ∧ t.rd (rPortTxFlits p) = s.rd (rPortTxFlits p) + BitVec.ofNat 64 flits := by
  obtain ⟨hport, halone⟩ := portAlone_of_setPort hp ((addF_accounts (s.setPort p v) (rPortTxFlits p) 0 64 flits).trans
    (settled_accounts _))
  refine ⟨halone, hport, ?_⟩
  rw [settled_rd_port _ _ (by simp only [rPortTxFlits]; omega)]
  exact rd_addF_word _ _ _

theorem quad_getD (f : Nat → Nat) (v : Nat) (hv : v < 4) : (quad f).getD v 0 = f v := by
  interval_cases v <;> rfl

section

variable (s : State) (p : Nat) (hp : p < 16) (hs : s.awake 5 = true) (b : List Byte)

include hp hs

theorem creditReturnFlit_good (hup : (s.port p).link = .up) (hgood : creditFlitGood b) :
    ∃ t, exec (.creditReturnFlit p b) s = .next t ∧ s.PortAlone p t ∧ (t.port p).link = .up
      ∧ (∀ v < 4, (t.port p).ret.getD v 0 = leAt b (2 + 2 * v) 2)
      ∧ (t.port p).peerResync = bitAt (byteAt b 1) 0
      ∧ (t.port p).sent = (if bitAt (byteAt b 1) 0 = true ∧ (s.port p).peerResync = false then
          [.sync, .audit (s.port p).tx.toList (s.port p).free.toList false] else (s.port p).sent)
      ∧ t.rd (rPortRxFlits p) = s.rd (rPortRxFlits p) + 1 ∧ t.rd (rPortErr p) = s.rd (rPortErr p)
      ∧ (t.port p).tx = (s.port p).tx ∧ (t.port p).rx = (s.port p).rx ∧ (t.port p).free = (s.port p).free := by
  set req := bitAt (byteAt b 1) 0
  set counted := s.addF (rPortRxFlits p) 0 64 1
  set v : Port := { s.port p with ret := quad (fun v => leAt b (2 + 2 * v) 2) }
  have hset : (s.setPort p (v.hears req counted.now)).AccountsOnly (counted.setPort p (v.hears req counted.now)) :=
    (addF_accounts s (rPortRxFlits p) 0 64 1).setPort p _
  obtain ⟨hport, halone⟩ := portAlone_of_setPort hp
    ((hset.trans (hearRsync_accounts counted p v req hp)).trans (settled_accounts _))
  have hrd (o : Nat) (ho : 0x080000 ≤ o) (hne : o ≠ rPortTxFlits p) :
      ((counted.setPort p v).hearRsync p req).settled.rd o = counted.rd o := by
    rw [settled_rd_port _ _ ho, hearRsync_rd counted p v req hp o hne]
  refine ⟨_, exec_creditReturnFlit_of_good s p hp hs b hup hgood, halone, ?_⟩
  rw [hport, hrd _ (by simp only [rPortRxFlits]; omega) (by simp only [rPortRxFlits, rPortTxFlits]; omega),
    hrd _ (by simp only [rPortErr]; omega) (by simp only [rPortErr, rPortTxFlits]; omega), Port.hears]
  have hrx : counted.rd (rPortRxFlits p) = s.rd (rPortRxFlits p) + 1 := rd_addF_word _ _ 1
  have herr : counted.rd (rPortErr p) = s.rd (rPortErr p) :=
    rd_addF_ne _ _ _ _ _ _ (by simp only [rPortErr, rPortRxFlits]; omega)
  have hret := fun k hk => quad_getD (fun v => leAt b (2 + 2 * v) 2) k hk
  by_cases hnew : req = true ∧ (s.port p).peerResync = false
  · have hnot : ((s.port p).link == .resync) = false := by rw [hup]; rfl
    rw [if_pos hnew, if_pos hnew, ← hnot]
    exact ⟨hup, hret, hnew.1.symm, rfl, hrx, herr, rfl, rfl, rfl⟩
  · rw [if_neg hnew, if_neg hnew]
    exact ⟨hup, hret, rfl, rfl, hrx, herr, rfl, rfl, rfl⟩

theorem creditReturnFlit_bad (hup : (s.port p).link = .up) (hbad : ¬ creditFlitGood b) :
    ∃ t, exec (.creditReturnFlit p b) s = .next t ∧ s.PortAlone p t
      ∧ t.port p = { s.port p with link := .resync, sawSync := false, resyncAt := s.now }
      ∧ t.fld (rPortErr p) 8 8 = min 255 (s.fld (rPortErr p) 8 8 + 1)
      ∧ t.fld (rPortErr p) 24 8 = min 255 (s.fld (rPortErr p) 24 8 + 1)
      ∧ t.rd (rPortRxFlits p) = s.rd (rPortRxFlits p) + 1 := by
  set counted := s.addF (rPortRxFlits p) 0 64 1
  set header := counted.sat (rPortErr p) 8 8 1
  set x := (s.port p).resyncing s.now
  have hnow : header.now = s.now := by
    rw [State.now, rd_sat_ne _ _ _ _ _ _ (by simp only [rGcnt, rPortErr]; omega), ← State.now,
      now_addF_flits _ _ _ (by simp only [rPortRxFlits]; omega)]
  have hresync : header.toResync p = (header.setPort p x).sat (rPortErr p) 24 8 1 := by
    rw [toResync_of_up header p hup, hnow]
    rfl
  have hset : (s.setPort p x).AccountsOnly (header.setPort p x) :=
    ((addF_accounts s (rPortRxFlits p) 0 64 1).trans (sat_accounts counted (rPortErr p) 8 8 1)).setPort p x
  obtain ⟨hport, halone⟩ := portAlone_of_setPort hp
    ((hset.trans (sat_accounts _ (rPortErr p) 24 8 1)).trans (settled_accounts _))
  have hcounted (lo w : Nat) : counted.fld (rPortErr p) lo w = s.fld (rPortErr p) lo w := by
    rw [State.fld, rd_addF_ne _ _ _ _ _ _ (by simp only [rPortErr, rPortRxFlits]; omega), State.fld]
  have hfld (lo w : Nat) : ((header.setPort p x).sat (rPortErr p) 24 8 1).settled.fld (rPortErr p) lo w
      = (header.sat (rPortErr p) 24 8 1).fld (rPortErr p) lo w := by
    rw [State.fld, settled_rd_port _ _ (by simp only [rPortErr]; omega)]
    rfl
  refine ⟨_, exec_creditReturnFlit_of_bad s p hp hs b hup hbad, ?_⟩
  rw [hresync]
  refine ⟨halone, hport, ?_, ?_, ?_⟩
  · rw [hfld, fld_sat_ne _ _ _ _ _ _ _ (by decide) (by decide), fld_sat_self _ _ _ _ _ (by decide), hcounted]
    rfl
  · rw [hfld, fld_sat_self _ _ _ _ _ (by decide), fld_sat_ne _ _ _ _ _ _ _ (by decide) (by decide), hcounted]
    rfl
  · have herr : rPortRxFlits p ≠ rPortErr p := by simp only [rPortErr, rPortRxFlits]; omega
    rw [settled_rd_port _ _ (by simp only [rPortRxFlits]; omega), rd_sat_ne _ _ _ _ _ _ herr]
    exact (rd_sat_ne counted _ _ _ _ _ herr).trans (rd_addF_word _ _ 1)

theorem creditReturnFlit_resync (hl : (s.port p).link = .resync) :
    ∃ t, exec (.creditReturnFlit p b) s = .next t ∧ s.PortAlone p t ∧ t.port p = s.port p
      ∧ t.rd (rPortRxFlits p) = s.rd (rPortRxFlits p) + 1 ∧ t.rd (rPortErr p) = s.rd (rPortErr p) := by
  have hacc := (addF_accounts s (rPortRxFlits p) 0 64 1).trans (settled_accounts _)
  refine ⟨_, exec_creditReturnFlit_of_resync s p hp hs b hl, hacc.portAlone p, hacc.port p, ?_, ?_⟩
  · rw [settled_rd_port _ _ (by simp only [rPortRxFlits]; omega)]
    exact rd_addF_word _ _ 1
  · rw [settled_rd_port _ _ (by simp only [rPortErr]; omega),
      rd_addF_ne _ _ _ _ _ _ (by simp only [rPortErr, rPortRxFlits]; omega)]

end

/-- Settles O36: each command by the state of its link, the flit by its check, the timers by their time. -/
theorem creditsAndTimers : Obligations.CreditsAndTimers := by
  unfold Obligations.CreditsAndTimers
  intro p s hp hs x live asks kept
  refine ⟨fun b => ⟨?_, ?_, ?_, ?_⟩, fun hl hdue => ?_, ?_, fun hl hpeer ht => ?_, ?_, fun hl hv ht => ?_, ?_⟩
  · exact creditReturnFlit_good s p hp hs b
  · exact creditReturnFlit_bad s p hp hs b
  · exact creditReturnFlit_resync s p hp hs b
  · exact exec_creditReturnFlit_of_not_live s p hs b
  · exact ⟨_, exec_creditReturnSend s p hp hs hl hdue, sent_settled s p _ 1 hp⟩
  · exact exec_creditReturnSend_of_not s p hs
  · have hkeep : x.syncing s.now = { x with syncAt := s.now, auditAt := s.now, freeDirty := false
                                            sent := [.sync, .audit x.tx.toList x.free.toList asks] } := by
      rw [Port.syncing, ← hpeer]
    exact ⟨_, exec_syncRepeatTimer s p hp hs hl hpeer ht, hkeep ▸ sent_settled s p _ 2 hp⟩
  · exact exec_syncRepeatTimer_of_not s p hs
  · exact ⟨_, exec_auditTimer s p hp hs hl hv ht, sent_settled s p _ 1 hp⟩
  · exact exec_auditTimer_of_not s p hs

end Sys2Proof.Machine

/-! An AUDIT that arrives (spec/09_fabric.md R273, R274, R285): a port comes up, gets its lost credits back, or breaks the
conservation and goes DOWN. -/

namespace Sys2Proof.Machine

/-! ### Registers that a port's going DOWN leaves -/

theorem countEj_rd_ne (s : State) (e n o : Nat) (h : o ≠ rFabEpochEj) : (s.countEj e n).rd o = s.rd o := by
  unfold State.countEj
  split
  · rfl
  split
  · exact rd_addF_ne _ _ _ _ _ _ h
  · rfl

theorem foldl_discard_rd_ne (l : List TxPkt) (s : State) (o : Nat) (h : o ≠ rFabEpochEj) :
    (l.foldl State.discard s).rd o = s.rd o := by
  induction l generalizing s with
  | nil => rfl
  | cons x xs ih => rw [List.foldl_cons, ih, State.discard, countEj_rd_ne _ _ _ _ h]

theorem applyAll_rd_of_not_mem (l : List (Nat × Word × Word)) (s : State) (o : Nat) (h : ∀ e ∈ l, e.1 ≠ o) :
    (s.applyAll l).rd o = s.rd o := by
  induction l generalizing s with
  | nil => rfl
  | cons x xs ih =>
    obtain ⟨k, v, m⟩ := x
    rw [State.applyAll, ih _ (fun e he => h e (List.mem_cons_of_mem _ he)), State.merge,
      rd_wr_ne _ _ _ _ (h (k, v, m) List.mem_cons_self).symm]

/-- Applying staged copies changes the registers that they are copies of, and the CRC that becomes due. -/
theorem applyStaged_rd_of_not (s : State) (f : Nat → Bool) (o : Nat) (hf : f o = false) (ho : o ≠ rCfgCtl) :
    (s.applyStaged f).rd o = s.rd o := by
  have happlied : (s.applyAll (s.staged.filter (fun e => f e.1))).rd o = s.rd o := by
    refine applyAll_rd_of_not_mem _ s o ?_
    rintro e he rfl
    rw [List.mem_filter, hf] at he
    exact absurd he.2 Bool.false_ne_true
  unfold State.applyStaged
  simp only
  split
  · rfl
  · exact (rd_setFld_ne _ _ _ _ _ _ ho).trans happlied

/-- A register that nothing stages for a port, other than the event status, keeps its value as the port goes DOWN. -/
theorem announceDown_rd_of_lt (s : State) (p o : Nat) (hclass : classOf o ≠ .packet) (hlt : o < rFabEpoch) (hcfg : o ≠ rCfgCtl)
    (hevt : o ≠ rEvtStatus) : (s.announceDown p).rd o = s.rd o := by
  have hraised : ((s.applyStaged (fun k => decide (classOf k = .packet) && packetBlock k == p)).raise causeLink).rd o = s.rd o := by
    rw [raise_rd_ne _ _ _ hevt, applyStaged_rd_of_not _ _ _ (by simp [hclass]) hcfg]
  unfold State.announceDown
  simp only
  split
  · rw [moveDateline_rd_of_lt _ _ _ hlt, hraised]
  · exact hraised

/-- Before a port's going DOWN is announced, only EPOCH_EJ has counted what it discards (R284). -/
theorem portDown_eq_announceDown (s : State) (p : Nat) (keep : Bool) :
    ∃ t, s.portDown p keep = (if (s.port p).link = .down then t else t.announceDown p)
      ∧ ∀ o, o ≠ rFabEpochEj → t.rd o = s.rd o := by
  unfold State.portDown
  extract_lets x mine counted emptied down held raised t
  refine ⟨held, rfl, fun o ho => ?_⟩
  have hdown : down.rd o = s.rd o := foldl_discard_rd_ne mine s o ho
  unfold held
  split
  · exact hdown
  · exact hdown

theorem portDown_rd_of_lt (s : State) (p : Nat) (keep : Bool) (o : Nat) (hclass : classOf o ≠ .packet) (hlt : o < rFabEpoch)
    (hcfg : o ≠ rCfgCtl) (hevt : o ≠ rEvtStatus) : (s.portDown p keep).rd o = s.rd o := by
  have hej : o ≠ rFabEpochEj := by simp only [rFabEpoch, rFabEpochEj] at *; omega
  obtain ⟨t, hdown, hrd⟩ := portDown_eq_announceDown s p keep
  rw [hdown, ← hrd o hej]
  split
  · rfl
  · exact announceDown_rd_of_lt t p o hclass hlt hcfg hevt

/-- A raised cause stays raised: what is staged for a port is no copy of EVT_STATUS. -/
theorem announceDown_keeps_cause (s : State) (p i : Nat) (h : (s.rd rEvtStatus).getLsbD i = true) :
    ((s.announceDown p).rd rEvtStatus).getLsbD i = true := by
  have hclass : classOf rEvtStatus ≠ .packet := by decide +kernel
  have hraised : (((s.applyStaged (fun k => decide (classOf k = .packet) && packetBlock k == p)).raise causeLink).rd
      rEvtStatus).getLsbD i = true :=
    raise_keeps_cause _ _ _ (by rwa [applyStaged_rd_of_not _ _ _ (by simp [hclass]) (by decide)])
  unfold State.announceDown
  simp only
  split
  · rwa [moveDateline_rd_of_lt _ _ _ (by decide)]
  · exact hraised

theorem portDown_keeps_cause (s : State) (p : Nat) (keep : Bool) (i : Nat) (h : (s.rd rEvtStatus).getLsbD i = true) :
    ((s.portDown p keep).rd rEvtStatus).getLsbD i = true := by
  obtain ⟨t, hdown, hrd⟩ := portDown_eq_announceDown s p keep
  rw [← hrd rEvtStatus (by decide)] at h
  rw [hdown]
  split
  · exact h
  · exact announceDown_keeps_cause t p i h

/-- LGX_PORT_AUDIT is never staged. -/
theorem rPortAudit_not_packet : ∀ p < 16, classOf (rPortAudit p) ≠ .packet := by decide +kernel

/-! ### The payload of an AUDIT -/

/-- The TX values that an AUDIT carries (R273). -/
def auditTx (payload : List Byte) : List Nat := (List.range 4).map (fun v => leAt payload (2 * v) 2)

theorem leAt_eq_zero (b : List Byte) (off n : Nat) : leAt b off n = 0 ↔ ∀ k < n, byteAt b (off + k) = 0 := by
  induction n generalizing off with
  | zero => simp [leAt, sliceB, leNat]
  | succ n ih =>
    rw [leAt_succ, Nat.add_eq_zero_iff, Nat.mul_eq_zero, or_iff_right (by decide : ¬ 256 = 0), ih, Nat.forall_lt_succ_left]
    simp only [Nat.add_zero, Nat.add_right_comm, Nat.add_assoc]

/-- An AUDIT whose eight bytes of TX are zero says that nothing was sent. -/
theorem auditTx_zero (payload : List Byte) (h : leAt payload 0 8 = 0) : (auditTx payload).all (· == 0) = true := by
  rw [leAt_eq_zero] at h
  simp only [auditTx, List.all_map, List.all_eq_true, List.mem_range, Function.comp_apply, beq_iff_eq, leAt_eq_zero]
  intro v hv k hk
  have := h (2 * v + k) (by omega)
  rwa [Nat.zero_add] at this

/-! ### Credits that come back -/

theorem addAt_getD (l : Vector Nat 4) (i n v : Nat) (hv : v < 4) :
    (addAt l i n).getD v 0 = if v = i then (l.getD i 0 + n) % 65536 else l.getD v 0 := by
  unfold addAt
  by_cases h : v = i
  · subst h
    simp [Vector.getD, hv]
  · simp [Vector.getD, hv, h, Ne.symm h]

/-- RX and FREE of each VC get the restored flits (R273). -/
theorem restore_getD (x : Port) (back : List Nat) (v : Nat) (hv : v < 4) :
    (x.restore back).rx.getD v 0 = (x.rx.getD v 0 + back.getD v 0) % 65536
      ∧ (x.restore back).free.getD v 0 = (x.free.getD v 0 + back.getD v 0) % 65536 := by
  have hrange : List.range 4 = [0, 1, 2, 3] := rfl
  simp only [Port.restore, hrange, List.foldl_cons, List.foldl_nil]
  interval_cases v <;> simp [addAt_getD]

theorem restore_link (x : Port) (back : List Nat) : (x.restore back).link = x.link := by
  have hrange : List.range 4 = [0, 1, 2, 3] := rfl
  simp only [Port.restore, hrange, List.foldl_cons, List.foldl_nil]

/-- A VC that lost more than its buffer, or whose buffer does not hold what its counters say, breaks the conservation (R274). -/
def State.breaksConservation (s : State) (p : Nat) (tx : List Nat) : Bool :=
  (List.range 4).any (fun v => decide (vcSize v < (lostOf (s.port p) tx).getD v 0)
    || decide (((s.port p).rx.getD v 0 + 65536 - (s.port p).free.getD v 0) % 65536 ≠ s.heldFlits p v % 65536))

/-- Where no VC breaks it, every lost flit is restored. -/
theorem restoredOf_of_conserved (s : State) (p : Nat) (tx : List Nat) (h : s.breaksConservation p tx = false) :
    restoredOf (lostOf (s.port p) tx) = lostOf (s.port p) tx := by
  have hfits (v : Nat) (hv : v < 4) : (lostOf (s.port p) tx).getD v 0 ≤ vcSize v := by
    have := List.any_eq_false.mp h v (List.mem_range.mpr hv)
    simp only [Bool.or_eq_true, decide_eq_true_eq, not_or, Nat.not_lt] at this
    exact this.1
  refine List.ext_getElem (by simp [restoredOf, lostOf]) (fun v h1 h2 => ?_)
  have hv : v < 4 := by simpa [restoredOf] using h1
  simp only [restoredOf, List.getElem_map, List.getElem_range, if_pos (hfits v hv)]
  exact List.getD_eq_getElem _ _ h2

/-! ### The command -/

section

variable (s : State) (p : Nat) (payload : List Byte) (hp : p < 16) (hs : s.awake 5 = true)
  (hcompl : leAt payload 8 8 = complB 8 (leAt payload 0 8))

/-- A port that an AUDIT of zeros brings up. -/
def Port.fresh (x : Port) (now : Nat) : Port :=
  { x with link := .up, tx := #v[0, 0, 0, 0], ret := #v[0, 0, 0, 0], rx := #v[0, 0, 0, 0], free := #v[0, 0, 0, 0]
           freeDirty := false, sawSync := false, auditAt := now }

/-- The flit of an AUDIT is counted, and the lost flits of a port are given back. -/
def State.givenBack (s : State) (p : Nat) (back : List Nat) : State :=
  ((s.addF (rPortRxFlits p) 0 64 1).setPort p ((s.port p).restore back)).sat (rPortAudit p) 0 24 back.sum

theorem givenBack_accounts (back : List Nat) : (s.setPort p ((s.port p).restore back)).AccountsOnly (s.givenBack p back) :=
  ((addF_accounts s (rPortRxFlits p) 0 64 1).setPort p _).trans (sat_accounts _ _ _ _ _)

theorem givenBack_fld (back : List Nat) :
    (s.givenBack p back).fld (rPortAudit p) 0 24 = min (2 ^ 24 - 1) (s.fld (rPortAudit p) 0 24 + back.sum)
      ∧ (s.givenBack p back).fld (rPortAudit p) 24 8 = s.fld (rPortAudit p) 24 8 := by
  have hcounted (lo w : Nat) : ((s.addF (rPortRxFlits p) 0 64 1).setPort p ((s.port p).restore back)).fld (rPortAudit p) lo w
      = s.fld (rPortAudit p) lo w :=
    fld_setFld_other _ _ _ _ _ _ _ _ (by simp only [rPortAudit, rPortRxFlits]; omega)
  constructor
  · rw [State.givenBack, fld_sat_self _ _ _ _ _ (by decide), hcounted]
  · rw [State.givenBack, fld_sat_ne _ _ _ _ _ _ _ (by decide) (by decide), hcounted]

include hp hs hcompl

theorem exec_audit_of_start (hl : (s.port p).link = .start) (hsync : (s.port p).sawSync = true) (hzero : leAt payload 0 8 = 0) :
    exec (.audit p payload) s
      = .next (((s.addF (rPortRxFlits p) 0 64 1).setPort p ((s.port p).fresh (s.addF (rPortRxFlits p) 0 64 1).now)).settled) := by
  refine (done_live_of_awake s (effAudit p payload) hs).trans ?_
  have hport : (s.addF (rPortRxFlits p) 0 64 1).port p = s.port p := rfl
  have htx := auditTx_zero payload hzero
  unfold auditTx at htx
  simp only [effAudit, State.takeAudit, hp, hs, hport, hl, hsync, hcompl, htx, decide_true, Bool.and_self, if_true, reduceCtorEq,
    if_false, ne_eq, not_true_eq_false, Port.fresh]

/-- An AUDIT on a port that is up (R274). -/
theorem exec_audit_of_up (hl : (s.port p).link = .up) :
    let back := restoredOf (lostOf (s.port p) (auditTx payload))
    exec (.audit p payload) s = .next ((if s.breaksConservation p (auditTx payload) then
      (((s.givenBack p back).raise causeConservation).sat (rPortAudit p) 24 8 1).portDown p false
      else s.givenBack p back).settled) := by
  refine (done_live_of_awake s (effAudit p payload) hs).trans ?_
  have hport : (s.addF (rPortRxFlits p) 0 64 1).port p = s.port p := rfl
  have hheld (v : Nat) : (s.addF (rPortRxFlits p) 0 64 1).heldFlits p v = s.heldFlits p v := rfl
  have hstays : ((s.port p).restore (restoredOf (lostOf (s.port p) (auditTx payload)))).link ≠ .resync := by
    rw [restore_link, hl]
    decide
  unfold auditTx at hstays ⊢
  simp only [effAudit, State.takeAudit, State.applyAudit, State.breaksConservation, State.givenBack, hp, hs, hport, hheld, hl,
    hcompl, hstays, decide_true, Bool.and_self, if_true, reduceCtorEq, if_false, ne_eq, not_true_eq_false,
    Bool.false_and, Bool.false_eq_true, decide_false, decide_not]

theorem audit_starts (hl : (s.port p).link = .start) (hsync : (s.port p).sawSync = true) (hzero : leAt payload 0 8 = 0) :
    ∃ t, exec (.audit p payload) s = .next t ∧ (t.port p).link = .up ∧ (t.port p).tx = #v[0, 0, 0, 0]
      ∧ (t.port p).ret = #v[0, 0, 0, 0] ∧ (t.port p).rx = #v[0, 0, 0, 0] ∧ (t.port p).free = #v[0, 0, 0, 0]
      ∧ (∀ k, k ≠ p → t.port k = s.port k) ∧ t.mem = s.mem := by
  obtain ⟨hport, hports, hmem, -⟩ := portAlone_of_setPort hp
    (((addF_accounts s (rPortRxFlits p) 0 64 1).setPort p _).trans (settled_accounts _))
  refine ⟨_, exec_audit_of_start s p payload hp hs hcompl hl hsync hzero, ?_⟩
  rw [hport]
  exact ⟨rfl, rfl, rfl, rfl, rfl, hports, hmem⟩

theorem audit_restores (hl : (s.port p).link = .up) (hgood : s.breaksConservation p (auditTx payload) = false) :
    let lost := lostOf (s.port p) (auditTx payload)
    ∃ t, exec (.audit p payload) s = .next t ∧ (t.port p).link = .up
      ∧ (∀ v < 4, (t.port p).rx.getD v 0 = ((s.port p).rx.getD v 0 + lost.getD v 0) % 65536
          ∧ (t.port p).free.getD v 0 = ((s.port p).free.getD v 0 + lost.getD v 0) % 65536)
      ∧ t.fld (rPortAudit p) 0 24 = min (2 ^ 24 - 1) (s.fld (rPortAudit p) 0 24 + lost.sum) ∧ t.txq = s.txq ∧ t.mem = s.mem := by
  intro lost
  have hexec := exec_audit_of_up s p payload hp hs hcompl hl
  simp only [hgood, restoredOf_of_conserved s p _ hgood, Bool.false_eq_true, if_false] at hexec
  obtain ⟨hport, -, hmem, htxq, -⟩ := portAlone_of_setPort hp ((givenBack_accounts s p lost).trans (settled_accounts _))
  refine ⟨_, hexec, ?_, ?_, ?_, htxq, hmem⟩
  · rw [hport, restore_link, hl]
  · rw [hport]
    exact restore_getD _ lost
  · rw [State.fld, settled_rd_port _ _ (by simp only [rPortAudit]; omega)]
    exact (givenBack_fld s p lost).1

theorem audit_breaks (hl : (s.port p).link = .up) (hbad : s.breaksConservation p (auditTx payload) = true) :
    ∃ t, exec (.audit p payload) s = .next t ∧ (t.port p).link = .down ∧ (t.rd rEvtStatus).getLsbD 13 = true
      ∧ t.fld (rPortAudit p) 0 24 = min (2 ^ 24 - 1)
          (s.fld (rPortAudit p) 0 24 + (restoredOf (lostOf (s.port p) (auditTx payload))).sum)
      ∧ t.fld (rPortAudit p) 24 8 = min 255 (s.fld (rPortAudit p) 24 8 + 1) := by
  have hexec := exec_audit_of_up s p payload hp hs hcompl hl
  simp only [hbad, if_true] at hexec
  set back := restoredOf (lostOf (s.port p) (auditTx payload))
  set raised := (s.givenBack p back).raise causeConservation
  set broken := raised.sat (rPortAudit p) 24 8 1
  have hne : rPortAudit p ≠ rEvtStatus := by simp only [rPortAudit, rEvtStatus]; omega
  have hraised (lo w : Nat) : raised.fld (rPortAudit p) lo w = (s.givenBack p back).fld (rPortAudit p) lo w := by
    rw [State.fld, raise_rd_ne _ _ _ hne, State.fld]
  have hbroken (lo w : Nat) : (broken.portDown p false).settled.fld (rPortAudit p) lo w = broken.fld (rPortAudit p) lo w := by
    rw [State.fld, settled_rd_port _ _ (by simp only [rPortAudit]; omega),
      portDown_rd_of_lt _ _ _ _ (rPortAudit_not_packet p hp) (by simp only [rPortAudit, rFabEpoch]; omega)
        (by simp only [rPortAudit, rCfgCtl]; omega) hne, State.fld]
  obtain ⟨hlost, herrors⟩ := givenBack_fld s p back
  refine ⟨_, hexec, ?_, ?_, ?_, ?_⟩
  · rw [(portDown_settled_accounts broken p false).port, emptied_port_self _ _ _ hp]
  · have hcause : (broken.rd rEvtStatus).getLsbD 13 = true := by
      rw [rd_sat_ne _ _ _ _ _ _ hne.symm]
      exact raise_sets_cause _ 13 (by decide)
    exact settled_keeps_cause _ _ (portDown_keeps_cause _ _ _ _ hcause)
  · rw [hbroken, fld_sat_ne _ _ _ _ _ _ _ (by decide) (by decide), hraised, hlost]
  · rw [hbroken, fld_sat_self _ _ _ _ _ (by decide), hraised, herrors]
    rfl

end

/-- Settles O35: an AUDIT in START, one that the port agrees with, and one that it cannot agree with. -/
theorem audits : Obligations.Audits := by
  unfold Obligations.Audits
  intro p payload s hp hs hcompl x tx lost bad
  exact ⟨audit_starts s p payload hp hs hcompl, audit_restores s p payload hp hs hcompl, audit_breaks s p payload hp hs hcompl⟩

end Sys2Proof.Machine

/-! Packets that a port receives (spec/09_fabric.md R264, R272, R273, R280 to R285), and the controls of the fabric (R256, R284,
R285). -/

namespace Sys2Proof.Machine

/-! ### What arrives at a port -/

/-- The flits that a packet counts for: those of a valid header's length, else those that arrived (log 120). -/
def flitsOf (header payload : List Byte) : Nat :=
  if hdrOk header = true then charge (parseHdr header).len else cdiv (64 + payload.length) 256

/-- What arrives is counted (R264). -/
def State.arrived (s : State) (p : Nat) (header payload : List Byte) : State :=
  s.addF (rPortRxFlits p) 0 64 (flitsOf header payload)

/-- A packet is charged to its virtual channel (R272). -/
def State.charged (s : State) (p : Nat) (h : Hdr) : State :=
  s.setPort p { s.port p with rx := addAt (s.port p).rx h.vc (charge h.len) }

section

variable (s : State) (p : Nat) (header payload : List Byte) (hp : p < 16) (hs : s.awake 5 = true)

include hs

theorem exec_packetReceive_of_down (hl : (s.port p).link = .down) : exec (.packetReceive p header payload) s = .next s.settled := by
  refine (done_live_of_awake s (effPacketReceive p header payload) hs).trans ?_
  simp [effPacketReceive, hs, hl]

include hp

/-- Before a sync flit a port in RESYNC only counts. -/
theorem exec_packetReceive_of_resync (hl : (s.port p).link = .resync) (hsync : (s.port p).sawSync = false) :
    exec (.packetReceive p header payload) s = .next (s.arrived p header payload).settled := by
  refine (done_live_of_awake s (effPacketReceive p header payload) hs).trans ?_
  simp [effPacketReceive, State.arrived, flitsOf, hp, hs, hl, hsync]

variable (hl : (s.port p).link = .up)

include hl

theorem exec_packetReceive_of_invalid (hok : hdrOk header = false) : exec (.packetReceive p header payload) s
    = .next ((((s.arrived p header payload).sat (rPortErr p) 8 8 1).toResync p).settled) := by
  refine (done_live_of_awake s (effPacketReceive p header payload) hs).trans ?_
  simp [effPacketReceive, State.arrived, flitsOf, hp, hs, hl, hok]

variable (hok : hdrOk header = true)

include hok

theorem exec_packetReceive_of_audit (hkind : (parseHdr header).kind = 0x18) : exec (.packetReceive p header payload) s
    = .next ((((s.arrived p header payload).hearLink p header).takeAudit p (sliceB payload 0 (parseHdr header).len)).settled) := by
  refine (done_live_of_awake s (effPacketReceive p header payload) hs).trans ?_
  simp [effPacketReceive, State.arrived, flitsOf, hp, hs, hl, hok, hkind]

theorem exec_packetReceive_of_packet (hkind : (parseHdr header).kind ≠ 0x18) : exec (.packetReceive p header payload) s
    = .next (((((s.arrived p header payload).hearLink p header).charged p (parseHdr header)).route1 p
      { hdr := parseHdr header, payload := sliceB payload 0 (parseHdr header).len }).settled) := by
  refine (done_live_of_awake s (effPacketReceive p header payload) hs).trans ?_
  simp [effPacketReceive, State.arrived, State.charged, flitsOf, hp, hs, hl, hok, hkind]

end

/-! ### Where a packet goes from the input buffer -/

theorem selfPhys_congr {s t : State} (h : t.rd rFabSelf = s.rd rFabSelf) : t.selfPhys = s.selfPhys := by
  rw [State.selfPhys, State.fld, h, State.selfPhys, State.fld]

theorem xlat_of_rd {s t : State} (rank : Nat) (h : t.rd (rRank rank) = s.rd (rRank rank)) : t.xlat rank = s.xlat rank := by
  rw [State.xlat, h, State.xlat]

theorem countEj_xlat (s : State) (e n rank : Nat) : (s.countEj e n).xlat rank = s.xlat rank :=
  xlat_of_rd rank (countEj_rd_ne s e n _ (by simp only [rRank, rFabEpochEj]; omega))

theorem countEj_selfPhys (s : State) (e n : Nat) : (s.countEj e n).selfPhys = s.selfPhys :=
  selfPhys_congr (countEj_rd_ne s e n _ (by decide))

section

variable (s : State) (p : Nat) (k : Pkt)

/-- A packet of an epoch that is neither current nor draining (R284). -/
theorem route1_of_dead (hdead : s.epochLive k.hdr.epoch = false) :
    s.route1 p k = ((s.countEj k.hdr.epoch 1).sat rFabEvents 16 8 1).release p k.hdr.vc (charge k.hdr.len) := by
  simp [State.route1, hdead]

theorem deliver_multicast (hmc : k.hdr.mcast = true) : s.deliver p k = (s.countEj k.hdr.epoch 1).assemble p k := by
  simp [State.deliver, hmc]

variable (hmc : k.hdr.mcast = false)

include hmc

/-- A unicast packet enters the reorder buffer where its rank entry names this chip (R282). -/
theorem deliver_here (hx : s.xlat k.hdr.dst = .ok s.selfPhys) : s.deliver p k = (s.countEj k.hdr.epoch 1).assemble p k := by
  simp only [State.deliver, hmc, countEj_xlat, countEj_selfPhys, hx, Bool.false_eq_true, if_false, if_true]

/-- A bad entry is the rank-table error event. -/
theorem deliver_bad (hx : s.xlat k.hdr.dst = .bad) : s.deliver p k = (s.countEj k.hdr.epoch 1).raise causeRankTable := by
  simp only [State.deliver, hmc, countEj_xlat, hx, Bool.false_eq_true, if_false]

/-- An entry that names no chip, or another, discards the packet. -/
theorem deliver_elsewhere (hx : s.xlat k.hdr.dst = .invalid ∨ ∃ a, s.xlat k.hdr.dst = .ok a ∧ a ≠ s.selfPhys) :
    s.deliver p k = (s.countEj k.hdr.epoch 1).sat rFabEvents 8 8 1 := by
  rcases hx with hx | ⟨a, hx, hother⟩
  · simp only [State.deliver, hmc, countEj_xlat, hx, Bool.false_eq_true, if_false]
  · simp only [State.deliver, hmc, countEj_xlat, countEj_selfPhys, hx, hother, Bool.false_eq_true, if_false]

/-- A unicast packet is for this chip by its address, or by its table entry (R280, R281). -/
def State.ownsPacket (s : State) (h : Hdr) : Prop :=
  ((h.vc ≠ 0 ∨ h.route ≠ 1) ∧ h.phys = s.selfPhys) ∨ (h.vc = 0 ∧ h.route = 1 ∧ ∃ e, s.routeEntry h.epoch h.dst = some (e, true))

/-- It is for another chip. -/
def State.passesPacket (s : State) (h : Hdr) : Prop :=
  ((h.vc ≠ 0 ∨ h.route ≠ 1) ∧ h.phys ≠ s.selfPhys) ∨ (h.vc = 0 ∧ h.route = 1 ∧ ∃ e, s.routeEntry h.epoch h.dst = some (e, false))

variable (hlive : s.epochLive k.hdr.epoch = true)

include hlive

theorem route1_of_own (howns : s.ownsPacket k.hdr) :
    s.route1 p k = (s.deliver p k).release p k.hdr.vc (charge k.hdr.len) := by
  rcases howns with ⟨hmode | hmode, hphys⟩ | ⟨hvc, hroute, e, hentry⟩
  · simp [State.route1, hlive, hmc, hmode, hphys]
  · simp [State.route1, hlive, hmc, hmode, hphys]
  · simp [State.route1, hlive, hmc, hvc, hroute, hentry]

theorem route1_of_pass (hpasses : s.passesPacket k.hdr) : s.route1 p k
    = { s with txq := s.txq ++ [{ pkt := k, inPort := some p, heldVc := k.hdr.vc, pinned := none, since := s.now }] } := by
  rcases hpasses with ⟨hmode | hmode, hphys⟩ | ⟨hvc, hroute, e, hentry⟩
  · simp [State.route1, hlive, hmc, hmode, hphys]
  · simp [State.route1, hlive, hmc, hmode, hphys]
  · simp [State.route1, hlive, hmc, hvc, hroute, hentry]

theorem route1_of_no_entry (hvc : k.hdr.vc = 0) (hroute : k.hdr.route = 1) (hentry : s.routeEntry k.hdr.epoch k.hdr.dst = none) :
    s.route1 p k = ((s.countEj k.hdr.epoch 1).sat rFabEvents 24 4 1).release p k.hdr.vc (charge k.hdr.len) := by
  simp [State.route1, hlive, hmc, hvc, hroute, hentry]

end

/-! ### Multicast packets (R281) -/

theorem countInj_rd_ne (s : State) (e n o : Nat) (h : o ≠ rFabEpochInj) : (s.countInj e n).rd o = s.rd o := by
  unfold State.countInj
  split
  · rfl
  split
  · exact rd_addF_ne _ _ _ _ _ _ h
  · rfl

theorem replicate_rd_ne (s : State) (k : Pkt) (o : Nat) (h : o ≠ rFabEpochInj) : (s.replicate k).rd o = s.rd o := by
  unfold State.replicate
  generalize List.range 8 = l
  induction l generalizing s with
  | nil => rfl
  | cons x xs ih =>
    rw [List.foldl_cons, ih]
    split
    · exact countInj_rd_ne _ _ _ _ h
    · rfl

/-- The replicas at the entry chip, with the flits of the input buffer freed. -/
def State.replicated (s : State) (p : Nat) (k : Pkt) : State := (s.replicate k).release p k.hdr.vc (charge k.hdr.len)

theorem replicated_selfPos (s : State) (p : Nat) (k : Pkt) : (s.replicated p k).selfPos = s.selfPos :=
  congrArg (· % 8) (selfPhys_congr (t := s.replicated p k) (replicate_rd_ne s k rFabSelf (by decide)))

section

variable (s : State) (p : Nat) (k : Pkt) (hmc : k.hdr.mcast = true) (hlive : s.epochLive k.hdr.epoch = true)

include hmc hlive

theorem route1_of_entry (hphys : k.hdr.phys = s.selfPhys) : s.route1 p k =
    if bitAt k.hdr.mask s.selfPos then ((s.replicated p k).countEj k.hdr.epoch 1).assemble p k
    else (s.replicated p k).countEj k.hdr.epoch 1 := by
  have hpos := replicated_selfPos s p k
  unfold State.replicated at hpos ⊢
  simp only [State.route1, hlive, hmc, hphys, hpos, deliver_multicast _ _ _ hmc, Bool.not_true, Bool.false_eq_true, if_false, if_true]

variable (hphys : k.hdr.phys ≠ s.selfPhys)

include hphys

theorem route1_of_position (hhedge : k.hdr.phys / 8 = s.selfHedge) (hmask : k.hdr.mask = 2 ^ s.selfPos) :
    s.route1 p k = ((s.countEj k.hdr.epoch 1).assemble p k).release p k.hdr.vc (charge k.hdr.len) := by
  simp [State.route1, hlive, hmc, hphys, hhedge, hmask, deliver_multicast _ _ _ hmc]

theorem route1_of_replica (hother : ¬ (k.hdr.phys / 8 = s.selfHedge ∧ k.hdr.mask = 2 ^ s.selfPos)) : s.route1 p k
    = { s with txq := s.txq ++ [{ pkt := k, inPort := some p, heldVc := k.hdr.vc, pinned := none, since := s.now }] } := by
  have hthere : (decide (k.hdr.phys / 8 = s.selfHedge) && k.hdr.mask == 2 ^ s.selfPos) = false := by
    rw [← Bool.not_eq_true, Bool.and_eq_true, decide_eq_true_iff, beq_iff_eq]
    exact hother
  simp [State.route1, hlive, hmc, hphys, hthere]

end

/-- Settles O37: what a port does with what arrives, and where a packet goes from its input buffer. -/
theorem receives : Obligations.Receives := by
  unfold Obligations.Receives
  refine ⟨fun p header payload s hp hs => ⟨?_, ?_, fun hl => ⟨?_, ?_, ?_⟩⟩, fun p k s => ?_⟩
  · exact exec_packetReceive_of_down s p header payload hs
  · exact exec_packetReceive_of_resync s p header payload hp hs
  · exact exec_packetReceive_of_invalid s p header payload hp hs hl
  · exact exec_packetReceive_of_audit s p header payload hp hs hl
  · exact exec_packetReceive_of_packet s p header payload hp hs hl
  · intro h f counted here on
    refine ⟨route1_of_dead s p k, fun hlive => ⟨?_, ?_, ?_, ?_, ?_, ?_, ?_⟩⟩
    · rintro (⟨hmc, hpasses⟩ | ⟨hmc, hphys, hother⟩)
      · exact route1_of_pass s p k hmc hlive hpasses
      · exact route1_of_replica s p k hmc hlive hphys hother
    · rintro ⟨hmc, howns⟩ hx
      rw [route1_of_own s p k hmc hlive howns, deliver_here s p k hmc hx]
    · rintro ⟨hmc, howns⟩ hx
      rw [route1_of_own s p k hmc hlive howns, deliver_bad s p k hmc hx]
    · rintro ⟨hmc, howns⟩ hx
      rw [route1_of_own s p k hmc hlive howns, deliver_elsewhere s p k hmc hx]
    · exact fun hmc => route1_of_no_entry s p k hmc hlive
    · exact fun hmc => route1_of_position s p k hmc hlive
    · intro hmc hphys
      have hentry := route1_of_entry s p k hmc hlive hphys
      exact ⟨fun hbit => hentry.trans (if_pos hbit), fun hbit => hentry.trans (if_neg (Bool.eq_false_iff.mp hbit))⟩

end Sys2Proof.Machine

/-! The controls of the fabric (spec/09_fabric.md R256, R284, R285, R287): a retrained port, the chip's own address, a new route
epoch and the end of an old one. -/

namespace Sys2Proof.Machine

/-! ### PORT_RETRAIN -/

theorem settled_of_access (s : State) (o : Nat) (f : State → State) (h5 : wakeOf o = 5) (hs : s.awake 5 = true) :
    done (s.live (fun s => s.access o f)) = .next (f s).settled := by
  rw [done_live_of_awake s _ hs, access_awake s o f (by rw [h5]; exact hs)]

theorem wakeOf_rPortCtl : ∀ p < 16, wakeOf (rPortCtl p) = 5 := by decide

theorem exec_portRetrain (s : State) (p : Nat) (hp : p < 16) (hs : s.awake 5 = true) :
    exec (.portRetrain p) s = .next (((s.portDown p false).respond 0).settled) := by
  refine (done_live_of_awake s _ hs).trans ?_
  simp only [Nat.not_le.mpr hp, if_false]
  rw [access_awake s (rPortCtl p) _ (by rw [wakeOf_rPortCtl p hp]; exact hs)]
  simp [effPortRetrain, hp, hs]

theorem portRetrain_empties (s : State) (p : Nat) (hp : p < 16) (hs : s.awake 5 = true) :
    ∃ t, exec (.portRetrain p) s = .next t ∧ (t.port p).link = .down ∧ (t.port p).phyUp = false
      ∧ t.txq = s.txq.filter (fun x => !(x.inPort == some p)) ∧ (∀ k, k ≠ p → t.port k = s.port k) ∧ t.mem = s.mem ∧ t.cmds = s.cmds := by
  have hdown := portDown_accounts s p false
  have hsettled := settled_accounts ((s.portDown p false).respond 0)
  have hport (k : Nat) : ((s.portDown p false).respond 0).settled.port k = (s.emptied p false).port k :=
    (hsettled.port k).trans (hdown.port k)
  refine ⟨_, exec_portRetrain s p hp hs, ?_, ?_, hsettled.txq.trans hdown.txq, ?_, hsettled.mem.trans hdown.mem, ?_⟩
  · rw [hport, emptied_port_self _ _ _ hp]
  · rw [hport, emptied_port_self _ _ _ hp, Bool.and_false]
  · exact fun k hk => (hport k).trans (emptied_port_ne s p k false hk)
  · exact (settled_cmds _).trans (congrArg State.cmds hdown :)

/-! ### The chip's own address (R256) -/

/-- A port that leaves DOWN changes the ports, the hold of the windows and registers. -/
theorem tryStart_eq (s : State) (p : Nat) : s.tryStart p = { s with
    ports := (s.tryStart p).ports, regs := (s.tryStart p).regs, holdUntil := (s.tryStart p).holdUntil, rep := (s.tryStart p).rep } := by
  unfold State.tryStart
  simp only
  split
  · rw [raise_eq]
    rfl
  · rfl

theorem tryStart_rd_ne (s : State) (p o : Nat) (hflits : o ≠ rPortTxFlits p) (hevt : o ≠ rEvtStatus) :
    (s.tryStart p).rd o = s.rd o := by
  unfold State.tryStart
  simp only
  split
  · rw [raise_rd_ne _ _ _ hevt]
    exact rd_addF_ne _ _ _ _ _ _ hflits
  · rfl

/-- Every port that may leaves DOWN. -/
def State.startPorts (s : State) (l : List Nat) : State := l.foldl State.tryStart s

theorem startPorts_eq (l : List Nat) (s : State) : s.startPorts l = { s with
    ports := (s.startPorts l).ports, regs := (s.startPorts l).regs, holdUntil := (s.startPorts l).holdUntil
    rep := (s.startPorts l).rep } := by
  induction l generalizing s with
  | nil => rfl
  | cons p l ih =>
    have hcons : s.startPorts (p :: l) = (s.tryStart p).startPorts l := rfl
    rw [hcons, ih, tryStart_eq]

theorem startPorts_rd_ne (l : List Nat) (s : State) (o : Nat) (hflits : ∀ p ∈ l, o ≠ rPortTxFlits p) (hevt : o ≠ rEvtStatus) :
    (s.startPorts l).rd o = s.rd o := by
  induction l generalizing s with
  | nil => rfl
  | cons p l ih =>
    exact (ih _ (fun q hq => hflits q (List.mem_cons_of_mem _ hq))).trans
      (tryStart_rd_ne s p o (hflits p List.mem_cons_self) hevt)

/-- The chip's address is written, for good. -/
def State.named (s : State) (phys : BitVec 20) : State :=
  { (s.setFld rFabSelf 0 20 phys.toNat).setFld rCfgCtl 3 1 1 with ctl := { s.ctl with selfWritten := true } }

theorem exec_fabSelfWrite_first (s : State) (phys : BitVec 20) (hs : s.awake 5 = true) (hfirst : s.ctl.selfWritten = false) :
    exec (.fabSelfWrite phys) s = .next ((((s.named phys).startPorts (List.range 16)).respond 0).settled) := by
  refine (settled_of_access s rFabSelf _ (by decide) hs).trans ?_
  simp only [effFabSelfWrite, hs, hfirst, Bool.not_true, Bool.false_eq_true, if_false]
  rfl

theorem exec_fabSelfWrite_again (s : State) (phys : BitVec 20) (hs : s.awake 5 = true) (hagain : s.ctl.selfWritten = true) :
    exec (.fabSelfWrite phys) s = .next (((s.sat rLock 8 8 1).respond 0).settled) := by
  refine (settled_of_access s rFabSelf _ (by decide) hs).trans ?_
  simp only [effFabSelfWrite, hs, hagain, Bool.not_true, Bool.false_eq_true, if_false, if_true]

theorem fabSelfWrite_names (s : State) (phys : BitVec 20) (hs : s.awake 5 = true) (hfirst : s.ctl.selfWritten = false) :
    ∃ t, exec (.fabSelfWrite phys) s = .next t ∧ t.ctl.selfWritten = true
      ∧ t.fld rFabSelf 0 20 = phys.toNat ∧ t.mem = s.mem ∧ t.queues = s.queues := by
  have hexec := exec_fabSelfWrite_first s phys hs hfirst
  have hstarted := startPorts_eq (List.range 16) (s.named phys)
  have hself : ((s.named phys).startPorts (List.range 16)).rd rFabSelf = (s.named phys).rd rFabSelf :=
    startPorts_rd_ne _ _ _ (fun p hp => by simp only [List.mem_range, rFabSelf, rPortTxFlits] at *; omega) (by decide)
  have hnamed : (s.named phys).fld rFabSelf 0 20 = phys.toNat :=
    calc (s.named phys).fld rFabSelf 0 20 = (s.setFld rFabSelf 0 20 phys.toNat).fld rFabSelf 0 20 :=
          fld_setFld_other _ _ _ _ _ _ _ _ (by decide)
      _ = phys.toNat % 2 ^ 20 := fld_setFld_self _ _ _ _ _ (by decide)
      _ = phys.toNat := Nat.mod_eq_of_lt phys.isLt
  generalize (s.named phys).startPorts (List.range 16) = started at hexec hstarted hself
  refine ⟨_, hexec, ?_, ?_, ?_, ?_⟩
  · have hctl : (started.respond 0).ctl.selfWritten = true := (congrArg (fun t : State => t.ctl.selfWritten) hstarted :)
    rw [settled_shape]
    exact hctl
  · rw [State.fld, settled_rd_port _ _ (by decide)]
    exact (congrArg (fun w : Word => bitsAt w.toNat 0 20) hself).trans hnamed
  · exact (settled_mem _).trans (congrArg State.mem hstarted :)
  · exact (settled_queues _).trans (congrArg State.queues hstarted :)

/-! ### A new route epoch (R284) -/

/-- The counts of the epoch that is left are those that the registers show while it drains. -/
def State.storeCounts (s : State) : State := (s.wr rFabEpochInj (BitVec.ofNat 64 s.epochInj)).wr rFabEpochEj (BitVec.ofNat 64 s.epochEj)

/-- LGX_FAB_EPOCH in a new epoch: the one before drains, and no ADVANCE is pending. -/
def State.enterEpoch (s : State) (e : Nat) : State :=
  ((s.setFld rFabEpoch 0 2 e).setFld rFabEpoch 2 1 1).setFld rFabEpoch 3 1 0

theorem storeCounts_epoch (s : State) : s.storeCounts.epoch = s.epoch := by
  have hrd : s.storeCounts.rd rFabEpoch = s.rd rFabEpoch :=
    (rd_wr_ne _ _ _ _ (by decide)).trans (rd_wr_ne _ _ _ _ (by decide))
  rw [State.epoch, State.fld, hrd, State.epoch, State.fld]

theorem advanceEpoch_eq (s : State) : s.advanceEpoch = { s.storeCounts.enterEpoch ((s.epoch + 1) % 4) with
    epochInj := 0, epochEj := 0, epochAt := (s.storeCounts.enterEpoch ((s.epoch + 1) % 4)).now } := by
  rw [← storeCounts_epoch]
  rfl

theorem advanceEpoch_rd (s : State) (o : Nat) :
    s.advanceEpoch.rd o = (s.storeCounts.enterEpoch ((s.epoch + 1) % 4)).rd o := by
  rw [advanceEpoch_eq]
  rfl

theorem enterEpoch_fields (s : State) (e : Nat) : (s.enterEpoch e).epoch = e % 4 ∧ (s.enterEpoch e).draining = true
    ∧ (s.enterEpoch e).fld rFabEpoch 3 1 = 0 := by
  unfold State.enterEpoch
  refine ⟨?_, ?_, ?_⟩
  · rw [State.epoch, fld_setFld_ne _ _ _ _ _ _ _ (by decide) (by decide), fld_setFld_ne _ _ _ _ _ _ _ (by decide) (by decide),
      fld_setFld_self _ _ _ _ _ (by decide)]
    rfl
  · rw [State.draining, fld_setFld_ne _ _ _ _ _ _ _ (by decide) (by decide), fld_setFld_self _ _ _ _ _ (by decide)]
    rfl
  · rw [fld_setFld_self _ _ _ _ _ (by decide)]
    rfl

theorem fld_of_rd {s t : State} {o : Nat} (h : t.rd o = s.rd o) (lo w : Nat) : t.fld o lo w = s.fld o lo w := by
  rw [State.fld, h, State.fld]

/-- The epoch moves on: its number, the epoch it left draining, no ADVANCE pending. -/
theorem advanceEpoch_fields (s : State) : s.advanceEpoch.epoch = (s.epoch + 1) % 4 ∧ s.advanceEpoch.draining = true
    ∧ s.advanceEpoch.fld rFabEpoch 3 1 = 0 := by
  have hfld := fld_of_rd (advanceEpoch_rd s rFabEpoch)
  obtain ⟨hepoch, hdrains, hpend⟩ := enterEpoch_fields s.storeCounts ((s.epoch + 1) % 4)
  refine ⟨?_, ?_, (hfld 3 1).trans hpend⟩
  · rw [State.epoch, hfld, ← State.epoch, hepoch, Nat.mod_mod]
  · rw [State.draining, hfld, ← State.draining, hdrains]

theorem advanceEpoch_rd_ne (s : State) (o : Nat) (h : o ≠ rFabEpoch) (hinj : o ≠ rFabEpochInj) (hej : o ≠ rFabEpochEj) :
    s.advanceEpoch.rd o = s.rd o := by
  rw [advanceEpoch_rd, State.enterEpoch, rd_setFld_ne _ _ _ _ _ _ h, rd_setFld_ne _ _ _ _ _ _ h, rd_setFld_ne _ _ _ _ _ _ h,
    State.storeCounts, rd_wr_ne _ _ _ _ hej, rd_wr_ne _ _ _ _ hinj]

theorem settled_fld_fabric (s : State) (o lo w : Nat) (h : 0x080000 ≤ o) : s.settled.fld o lo w = s.fld o lo w := by
  rw [State.fld, settled_rd_port _ _ h, State.fld]

theorem exec_epochAdvance_draining (s : State) (hs : s.awake 5 = true) (hdrain : s.draining = true) :
    exec .epochAdvance s = .next (((s.setFld rFabEpoch 3 1 1).respond 0).settled) := by
  refine (settled_of_access s rFabEpoch _ (by decide) hs).trans ?_
  simp only [effEpochAdvance, hs, hdrain, Bool.not_true, Bool.false_eq_true, if_false, if_true]

theorem exec_epochAdvance_drained (s : State) (hs : s.awake 5 = true) (hdrain : s.draining = false) :
    exec .epochAdvance s = .next ((s.advanceEpoch.respond 0).settled) := by
  refine (settled_of_access s rFabEpoch _ (by decide) hs).trans ?_
  simp only [effEpochAdvance, hs, hdrain, Bool.not_true, Bool.false_eq_true, if_false]

theorem epochAdvance_advances (s : State) (hs : s.awake 5 = true) (hdrain : s.draining = false) :
    ∃ t, exec .epochAdvance s = .next t ∧ t.epoch = (s.epoch + 1) % 4 ∧ t.draining = true
      ∧ t.fld rFabEpoch 3 1 = 0 ∧ t.epochInj = 0 ∧ t.epochEj = 0 ∧ t.mem = s.mem ∧ t.queues = s.queues := by
  obtain ⟨hepoch, hdrains, hpend⟩ := advanceEpoch_fields s
  have hfld (lo w : Nat) : ((s.advanceEpoch.respond 0).settled).fld rFabEpoch lo w = s.advanceEpoch.fld rFabEpoch lo w :=
    settled_fld_fabric _ _ _ _ (by decide)
  refine ⟨_, exec_epochAdvance_drained s hs hdrain, ?_, ?_, ?_, ?_, ?_, settled_mem _, settled_queues _⟩
  · rw [State.epoch, hfld, ← State.epoch, hepoch]
  · rw [State.draining, hfld, ← State.draining, hdrains]
  · rw [hfld, hpend]
  · rw [settled_shape]
    rfl
  · rw [settled_shape]
    rfl

/-- Settles O22: a retrained port, the first and a later write of the address, an ADVANCE with and without a draining epoch. -/
theorem fabricControl : Obligations.FabricControl := by
  unfold Obligations.FabricControl
  refine fun s hs => ⟨fun p hp => ?_, fun phys => ⟨?_, ?_⟩, ?_, ?_⟩
  · exact portRetrain_empties s p hp hs
  · exact fabSelfWrite_names s phys hs
  · exact exec_fabSelfWrite_again s phys hs
  · exact exec_epochAdvance_draining s hs
  · exact epochAdvance_advances s hs

/-! ### The end of a draining epoch (R284, R276) -/

/-- No route change waits for an epoch that a state without a begun command of a pair retires. -/
theorem endEpoch_of_none_begun (s : State) (h : ∀ m < 4, s.begun m = false) : s.endEpoch = s.retireEpoch := by
  unfold State.endEpoch
  have hnone (l : List Nat) (hl : ∀ m ∈ l, m < 4) : l.foldl (fun s m =>
      if s.begun m && rqOpcode (s.request m) == 0x0016 && (s.mbx.getD m Mbx.reset).wait == s.epoch
      then s.post m stOk (toLE s.epoch 1) else s) s = s := by
    induction l with
    | nil => rfl
    | cons m l ih =>
      rw [List.foldl_cons, h m (hl m List.mem_cons_self)]
      exact ih (fun k hk => hl k (List.mem_cons_of_mem _ hk))
  rw [hnone _ (fun m hm => List.mem_range.mp hm)]

theorem retireEpoch_accounts (s : State) : s.AccountsOnly s.retireEpoch := by
  have hretired := setFld_accounts s rFabEpoch 2 1 0
  unfold State.retireEpoch
  extract_lets pend retired
  split
  · exact hretired.trans (advanceEpoch_accounts _)
  split
  · exact hretired.trans (setDateline_accounts _ _)
  · exact hretired

/-- An epoch that is retired: it drains no longer. -/
theorem retired_fields (s : State) : (s.setFld rFabEpoch 2 1 0).epoch = s.epoch ∧ (s.setFld rFabEpoch 2 1 0).draining = false := by
  constructor
  · exact fld_setFld_ne _ _ _ _ _ _ _ (by decide) (by decide)
  · rw [State.draining, fld_setFld_self _ _ _ _ _ (by decide)]
    rfl

section

variable (s : State)

/-- An ADVANCE that waited is applied. -/
theorem retireEpoch_of_pending (h : s.fld rFabEpoch 3 1 = 1) : s.retireEpoch = (s.setFld rFabEpoch 2 1 0).advanceEpoch := by
  simp [State.retireEpoch, h]

variable (h : s.fld rFabEpoch 3 1 = 0)

include h

theorem retireEpoch_of_none (hdate : s.dateWait = none) : s.retireEpoch = s.setFld rFabEpoch 2 1 0 := by
  simp [State.retireEpoch, h, hdate]

theorem retireEpoch_of_dateline {d : Nat} (hdate : s.dateWait = some d) :
    s.retireEpoch = (s.setFld rFabEpoch 2 1 0).setDateline d := by
  simp [State.retireEpoch, h, hdate]

end

/-- A dateline is set by an advance of the epoch, once the bank that the new epoch takes has its row with the dateline. -/
theorem setDateline_eq_advance (s : State) (d : Nat) : ∃ t : State, s.setDateline d = { t.advanceEpoch with dateWait := none }
    ∧ t.epoch = s.epoch ∧ t.fld (rFabRow (1 - s.epoch % 2)) 15 15 = d % 2 ^ 15 := by
  unfold State.setDateline
  extract_lets b o rows cleared copied moved
  have hbank : rFabEpoch ≠ rFabRow o := by simp only [rFabRow, rFabEpoch]; omega
  have hcleared : cleared.rd rFabEpoch = s.rd rFabEpoch := rd_foldl_wr_of_ne _ _ _ s _ (fun e he => by
    have := routeRows_ge _ _ e he
    simp only [rFabEpoch, rFabRoute] at *
    omega)
  have hcopied : copied.rd rFabEpoch = cleared.rd rFabEpoch := rd_foldl_wr_of_ne rows _ _ cleared _ (fun e _ => by
    simp only [rFabEpoch, rFabRoute] at *
    omega)
  have hmoved : moved.rd rFabEpoch = copied.rd rFabEpoch := (rd_setFld_ne _ _ _ _ _ _ hbank).trans (rd_wr_ne _ _ _ _ hbank)
  have hrow : moved.fld (rFabRow o) 15 15 = d % 2 ^ 15 := fld_setFld_self _ _ 15 15 d (by decide)
  exact ⟨moved, rfl, fld_of_rd (hmoved.trans (hcopied.trans hcleared)) 0 2, hrow⟩

/-- A new dateline stands in the row of the bank that the new epoch takes (R276, R283). -/
theorem setDateline_fields (s : State) (d : Nat) : (s.setDateline d).epoch = (s.epoch + 1) % 4 ∧ (s.setDateline d).draining = true
    ∧ (s.setDateline d).dateWait = none ∧ (s.setDateline d).fld (rFabRow (1 - s.epoch % 2)) 15 15 = d % 2 ^ 15 := by
  obtain ⟨t, hset, hepoch, hrow⟩ := setDateline_eq_advance s d
  obtain ⟨hnext, hdrains, -⟩ := advanceEpoch_fields t
  have hkept : t.advanceEpoch.rd (rFabRow (1 - s.epoch % 2)) = t.rd (rFabRow (1 - s.epoch % 2)) :=
    advanceEpoch_rd_ne _ _ (by simp only [rFabRow, rFabEpoch]; omega) (by simp only [rFabRow, rFabEpochInj]; omega)
      (by simp only [rFabRow, rFabEpochEj]; omega)
  rw [hset]
  exact ⟨hnext.trans (by rw [hepoch]), hdrains, rfl, (fld_of_rd hkept 15 15).trans hrow⟩

/-! ### The commands that retire an epoch -/

/-- The packets of an epoch are discarded wherever they are (R284): the ports' buffers are freed, and each is counted. -/
def State.dropPkt (s : State) (t : TxPkt) : State :=
  (match t.inPort with
    | none => s
    | some p => s.release p t.heldVc (charge t.pkt.hdr.len)).sat rFabEvents 16 8 1

theorem dropPkt_eq (s : State) (t : TxPkt) : s.dropPkt t = { s with ports := (s.dropPkt t).ports, regs := (s.dropPkt t).regs } := by
  unfold State.dropPkt
  split <;> rfl

theorem dropPkt_rd_ne (s : State) (t : TxPkt) (o : Nat) (h : o ≠ rFabEvents) : (s.dropPkt t).rd o = s.rd o := by
  unfold State.dropPkt
  rw [rd_sat_ne _ _ _ _ _ _ h]
  split <;> rfl

theorem foldl_dropPkt_eq (l : List TxPkt) (s : State) :
    l.foldl State.dropPkt s = { s with ports := (l.foldl State.dropPkt s).ports, regs := (l.foldl State.dropPkt s).regs } := by
  induction l generalizing s with
  | nil => rfl
  | cons t l ih => rw [List.foldl_cons, ih, dropPkt_eq]

theorem foldl_dropPkt_rd_ne (l : List TxPkt) (s : State) (o : Nat) (h : o ≠ rFabEvents) :
    (l.foldl State.dropPkt s).rd o = s.rd o := by
  induction l generalizing s with
  | nil => rfl
  | cons t l ih => rw [List.foldl_cons, ih, dropPkt_rd_ne _ _ _ h]

/-- What an epoch's packets leave behind them. -/
theorem dropEpoch_eq (s : State) (e : Nat) : s.dropEpoch e = { s with
    txq := s.txq.filter (fun t => t.pkt.hdr.epoch != e), ports := (s.dropEpoch e).ports, regs := (s.dropEpoch e).regs } :=
  foldl_dropPkt_eq _ _

theorem dropEpoch_rd_ne (s : State) (e o : Nat) (h : o ≠ rFabEvents) : (s.dropEpoch e).rd o = s.rd o :=
  foldl_dropPkt_rd_ne _ _ _ h

/-- An epoch is retired, and everything has settled. -/
structure State.Retires (s t : State) : Prop where
  quiet : s.fld rFabEpoch 3 1 = 0 → s.dateWait = none → t.draining = false ∧ t.epoch = s.epoch
  dateline : ∀ d, s.fld rFabEpoch 3 1 = 0 → s.dateWait = some d → t.draining = true ∧ t.epoch = (s.epoch + 1) % 4
    ∧ t.dateWait = none ∧ t.fld (rFabRow (1 - s.epoch % 2)) 15 15 = d % 2 ^ 15
  advance : s.fld rFabEpoch 3 1 = 1 → t.draining = true ∧ t.epoch = (s.epoch + 1) % 4 ∧ t.fld rFabEpoch 3 1 = 0

theorem retireEpoch_retires (s : State) : s.Retires s.retireEpoch where
  quiet hpend hdate := by
    rw [retireEpoch_of_none s hpend hdate]
    exact (retired_fields s).symm
  dateline d hpend hdate := by
    obtain ⟨hepoch, -⟩ := retired_fields s
    obtain ⟨hnext, hdrains, hnone, hrow⟩ := setDateline_fields (s.setFld rFabEpoch 2 1 0) d
    rw [hepoch] at hnext hrow
    rw [retireEpoch_of_dateline s hpend hdate]
    exact ⟨hdrains, hnext, hnone, hrow⟩
  advance hpend := by
    obtain ⟨hepoch, -⟩ := retired_fields s
    obtain ⟨hnext, hdrains, hnone⟩ := advanceEpoch_fields (s.setFld rFabEpoch 2 1 0)
    rw [hepoch] at hnext
    rw [retireEpoch_of_pending s hpend]
    exact ⟨hdrains, hnext, hnone⟩

theorem State.Retires.settled {s t : State} (h : s.Retires t) : s.Retires t.settled := by
  have hfld (lo w : Nat) : t.settled.fld rFabEpoch lo w = t.fld rFabEpoch lo w := settled_fld_fabric _ _ _ _ (by decide)
  have hepoch : t.settled.epoch = t.epoch := hfld 0 2
  have hdrain : t.settled.draining = t.draining := congrArg (· == 1) (hfld 2 1)
  have hdate : t.settled.dateWait = t.dateWait := by rw [settled_shape]
  obtain ⟨hquiet, hdateline, hadvance⟩ := h
  refine ⟨?_, fun d => ?_, ?_⟩
  · rwa [hdrain, hepoch]
  · rw [hdrain, hepoch, hdate, settled_fld_fabric _ _ _ _ (by simp only [rFabRow]; omega)]
    exact hdateline d
  · rwa [hdrain, hepoch, hfld]

/-- Settles O43: the poll retires the epoch, the expiry once its packets are gone. -/
theorem epochsRetire : Obligations.EpochsRetire := by
  unfold Obligations.EpochsRetire
  refine fun sum s hs hdrain hnone => ⟨fun hfw => ?_, fun hv ht => ?_⟩
  · have hexec : exec (.epochDrainPoll sum sum) s = .next s.retireEpoch.settled := by
      refine (done_live_of_awake s _ hs).trans ?_
      simp only [effEpochDrainPoll, hfw, hs, hdrain, beq_self_eq_true, Bool.and_self, if_true, endEpoch_of_none_begun s hnone]
    obtain ⟨hquiet, hdateline, hadvance⟩ := (retireEpoch_retires s).settled
    refine ⟨_, hexec, fun hpend hdate => ?_, hdateline, hadvance⟩
    obtain ⟨hd, he⟩ := hquiet hpend hdate
    exact ⟨hd, he, ((retireEpoch_accounts s).trans (settled_accounts _)).txq⟩
  · have hdropped := dropEpoch_eq s ((s.epoch + 3) % 4)
    have hepoch := fld_of_rd (dropEpoch_rd_ne s ((s.epoch + 3) % 4) rFabEpoch (by decide))
    have hexec : exec .epochMaxExpiry s = .next (s.dropEpoch ((s.epoch + 3) % 4)).retireEpoch.settled := by
      refine (done_live_of_awake s _ hs).trans ?_
      rw [effEpochMaxExpiry, if_pos (by simp [hv, hdrain, ht]), endEpoch_of_none_begun]
      intro m hm
      rw [hdropped]
      exact hnone m hm
    generalize s.dropEpoch ((s.epoch + 3) % 4) = dropped at hexec hdropped hepoch
    have hacc := (retireEpoch_accounts dropped).trans (settled_accounts _)
    have htxq : dropped.txq = s.txq.filter (fun x => x.pkt.hdr.epoch != (s.epoch + 3) % 4) := (congrArg State.txq hdropped :)
    have hmem : dropped.mem = s.mem := (congrArg State.mem hdropped :)
    have hcmds : dropped.cmds = s.cmds := (congrArg State.cmds hdropped :)
    have hwait : dropped.dateWait = s.dateWait := (congrArg State.dateWait hdropped :)
    refine ⟨_, hexec, hacc.txq.trans htxq, fun hpend hdate => ?_, hacc.mem.trans hmem, (congrArg State.cmds hacc :).trans hcmds⟩
    obtain ⟨hd, he⟩ := (retireEpoch_retires dropped).settled.quiet ((hepoch 3 1).trans hpend) (hwait.trans hdate)
    exact ⟨hd, he.trans (hepoch 0 2)⟩

end Sys2Proof.Machine

/-! Chunks that leave for the fabric (spec/09_fabric.md R263, R267, R268, R275): the packets of a chunk in the Router, the chunks
that the end of the window hold lets go, and acknowledgements. -/

namespace Sys2Proof.Machine

/-! ### The packets of a chunk in the Router -/

/-- A packet of the Router carries a packet of a chunk to an address. -/
structure TxPkt.Brings (x : TxPkt) (phys : Nat) (p : Pkt) : Prop where
  payload : x.pkt.payload = p.payload
  seq : x.pkt.hdr.seq = p.hdr.seq
  kind : x.pkt.hdr.kind = p.hdr.kind
  dst : x.pkt.hdr.dst = p.hdr.dst
  phys : x.pkt.hdr.phys = phys
  inPort : x.inPort = none

/-- What a chunk sets in the header of a packet, and the address. -/
def Hdr.names (h : Hdr) : Nat × Nat × Nat × Nat := (h.kind, h.dst, h.seq, h.phys)

/-- The choice of the ROUTE leaves them. -/
theorem sprayFields_names (s : State) (h : Hdr) : (s.sprayFields h).1.names = h.names := by
  unfold State.sprayFields
  simp only
  split
  · split <;> rfl
  · rfl

theorem routeFor_names (s : State) (h : Hdr) (pinned : Option Nat) : (s.routeFor h pinned).1.names = h.names := by
  unfold State.routeFor
  split
  · rfl
  split
  · split
    · rfl
    · exact sprayFields_names _ _
  · split
    · rfl
    · exact sprayFields_names _ _

/-- The choice of the ROUTE puts nothing in the Router. -/
theorem sprayFields_txq (s : State) (h : Hdr) : (s.sprayFields h).2.txq = s.txq := by
  unfold State.sprayFields
  simp only
  split
  · split <;> rfl
  · rfl

theorem routeFor_txq (s : State) (h : Hdr) (pinned : Option Nat) : (s.routeFor h pinned).2.2.txq = s.txq := by
  unfold State.routeFor
  split
  · rfl
  split
  · split
    · rfl
    · exact sprayFields_txq _ _
  · split
    · rfl
    · exact sprayFields_txq _ _

theorem countInj_txq (s : State) (n : Nat) : (s.countInj s.epoch n).txq = s.txq := by
  rw [State.countInj, if_pos rfl]

/-- One packet of a chunk is one packet more in the Router. -/
theorem putPkt_txq (s : State) (phys : Nat) (pinned : Option Nat) (resend : Bool) (p : Pkt) :
    ∃ x, (s.putPkt phys pinned resend p).txq = s.txq ++ [x] ∧ x.Brings phys p := by
  have hnames := routeFor_names s { p.hdr with phys := phys, epoch := s.epoch, resend := resend } pinned
  simp only [Hdr.names, Prod.mk.injEq] at hnames
  obtain ⟨hkind, hdst, hseq, hphys⟩ := hnames
  exact ⟨_, congrArg (· ++ _) ((countInj_txq _ 1).trans (routeFor_txq s _ pinned)), rfl, hseq, hkind, hdst, hphys, rfl⟩

theorem foldl_putPkt_txq (phys : Nat) (pinned : Option Nat) (resend : Bool) (l : List Pkt) (s : State) :
    ∃ xs, (l.foldl (fun s p => s.putPkt phys pinned resend p) s).txq = s.txq ++ xs
      ∧ List.Forall₂ (fun p x => TxPkt.Brings x phys p) l xs := by
  induction l generalizing s with
  | nil => exact ⟨[], (List.append_nil _).symm, .nil⟩
  | cons p ps ih =>
    obtain ⟨x, hx, hbrings⟩ := putPkt_txq s phys pinned resend p
    obtain ⟨xs, hxs, hall⟩ := ih (s.putPkt phys pinned resend p)
    exact ⟨x :: xs, by rw [List.foldl_cons, hxs, hx, List.append_assoc, List.singleton_append], .cons hbrings hall⟩

/-! ### A chunk launched -/

/-- A launch changes the Router, and where the rank entry is bad EVT_STATUS and the command. -/
def State.LaunchesOnly (s t : State) : Prop :=
  t = { s with regs := t.regs, rep := t.rep, cmds := t.cmds, txq := t.txq, viaNext := t.viaNext, rowAlt := t.rowAlt
               epochInj := t.epochInj }

theorem State.RouterOnly.launches {s t : State} (h : s.RouterOnly t) : s.LaunchesOnly t := by
  unfold State.RouterOnly at h
  unfold State.LaunchesOnly
  rw [h]

theorem launch_of_invalid {s : State} {c : OutChunk} (pinned : Option Nat) (resend : Bool) (hmc : c.mc = false)
    (hx : s.xlat c.dst = .invalid) : s.launch c pinned resend = s := by
  rw [State.launch, hmc, if_neg Bool.false_ne_true, hx]

theorem launch_of_ok {s : State} {c : OutChunk} {phys : Nat} (pinned : Option Nat) (resend : Bool) (hmc : c.mc = false)
    (hx : s.xlat c.dst = .ok phys) :
    s.launch c pinned resend = c.pkts.foldl (fun s p => s.putPkt phys pinned resend p) s := by
  rw [State.launch, hmc, if_neg Bool.false_ne_true, hx]

theorem launch_mc_router {s : State} {c : OutChunk} (pinned : Option Nat) (resend : Bool) (hmc : c.mc = true) :
    s.RouterOnly (s.launch c pinned resend) := by
  rw [State.launch, if_pos hmc]
  exact foldl_router _ (fun s p => putMc_router s _ p) _ s

/-- A bad rank entry raises the rank-table error event and fails the command. -/
theorem launch_bad_only {s : State} {c : OutChunk} (pinned : Option Nat) (resend : Bool) (hmc : c.mc = false)
    (hx : s.xlat c.dst = .bad) : s.LaunchesOnly (s.launch c pinned resend)
      ∧ ∀ o, o ≠ rEvtStatus → (s.launch c pinned resend).rd o = s.rd o := by
  rw [State.launch, hmc, if_neg Bool.false_ne_true, hx]
  simp only
  have hrd (o : Nat) (ho : o ≠ rEvtStatus) := raise_rd_ne s causeRankTable o ho
  split
  · refine ⟨?_, hrd⟩
    rw [raise_eq]
    rfl
  · refine ⟨?_, fun o ho => ?_⟩
    · rw [failCmd_eq, raise_eq]
      rfl
    · rw [failCmd_eq]
      exact hrd o ho

theorem launch_only (s : State) (c : OutChunk) (pinned : Option Nat) (resend : Bool) :
    s.LaunchesOnly (s.launch c pinned resend) := by
  cases hmc : c.mc with
  | true => exact (launch_mc_router pinned resend hmc).launches
  | false =>
    cases hx : s.xlat c.dst with
    | ok phys => exact (launch_router pinned resend hmc hx).launches
    | invalid =>
      rw [launch_of_invalid pinned resend hmc hx]
      rfl
    | bad => exact (launch_bad_only pinned resend hmc hx).1

theorem launch_rd_ne (s : State) (c : OutChunk) (pinned : Option Nat) (resend : Bool) (o : Nat) (ho : o ≠ rEvtStatus) :
    (s.launch c pinned resend).rd o = s.rd o := by
  cases hmc : c.mc with
  | true => exact (congrArg (State.rd · o) (launch_mc_router pinned resend hmc) :)
  | false =>
    cases hx : s.xlat c.dst with
    | ok phys => exact (congrArg (State.rd · o) (launch_router pinned resend hmc hx) :)
    | invalid => rw [launch_of_invalid pinned resend hmc hx]
    | bad => exact (launch_bad_only pinned resend hmc hx).2 o ho

/-! ### A chunk that takes its sequence number (R267) -/

/-- Beside its entry in the outbox and the next number, nothing changes. -/
theorem sequence_eq (s : State) (c : OutChunk) : s.sequence c = { s with
    outbox := s.outbox.set (s.outbox.idxOf c) (s.numbered c), mem := (s.sequence c).mem, badUnits := (s.sequence c).badUnits
    mcastSeq := (s.sequence c).mcastSeq } := by
  unfold State.sequence
  simp only
  split <;> rfl

theorem sequence_of_mc {s : State} {c : OutChunk} (hmc : c.mc = true) : s.sequence c = { s with
    outbox := s.outbox.set (s.outbox.idxOf c) (s.numbered c), mcastSeq := (s.mcastSeq + 1) % 2 ^ 32 } := by
  simp only [State.sequence, State.seqFor, hmc, if_true]

theorem sequence_of_unicast {s : State} {c : OutChunk} (hmc : c.mc = false) :
    (s.sequence c).mem = (s.writeNat (s.winAt c.dst + 36) 4 ((s.txNext c.dst + 1) % 2 ^ 32)).mem := by
  simp only [State.sequence, State.seqFor, hmc, Bool.false_eq_true, if_false]
  rfl

/-- A number reads back as it was written. -/
theorem readNat_writeNat (s : State) (a n v : Nat) (hn : n ≤ 2 ^ 64) : (s.writeNat a n v).readNat a n = v % 256 ^ n := by
  have hlen := length_toLE v n
  have hread := read_of_bytes (t := s.writeNat a n v) (a := a) (b := toLE v n)
    (fun k hk => byte_write_in s a k _ hk (by omega)) 0 n (by omega)
  rw [Nat.add_zero, List.drop_zero, List.take_of_length_le hlen.le] at hread
  rw [State.readNat, hread, leNat_toLE]

/-! ### The window hold ends (R275) -/

theorem pump_single {s : State} {c : OutChunk} (hout : s.outbox = [c]) (hseq : c.seq = none) (hmay : s.maySend c = true) :
    s.pump = (s.sequence c).launch (s.numbered c) (if c.port < 16 then some c.port else none) false := by
  rw [State.pump, hout, pumpList_cons]
  simp only [hseq, hmay, Option.isSome_none, Bool.false_eq_true, List.contains_nil, Bool.false_and, if_false, Bool.not_true]
  rfl

theorem pump_single_outbox {s : State} {c : OutChunk} (hout : s.outbox = [c]) (hseq : c.seq = none) (hmay : s.maySend c = true) :
    s.pump.outbox = [s.numbered c] := by
  rw [pump_single hout hseq hmay, launch_outbox, sequence_outbox, hout]
  simp

/-- Chunks that are under way, or whose rank has an earlier one waiting, wait. -/
theorem pumpList_of_waiting {s : State} {blocked : List Nat} {l : List OutChunk}
    (h : ∀ d ∈ l, d.seq.isSome = true ∨ (d.mc = false ∧ d.dst ∈ blocked)) : s.pumpList blocked l = s := by
  induction l with
  | nil => rfl
  | cons d ds ih =>
    rw [List.forall_mem_cons] at h
    obtain ⟨hd, hds⟩ := h
    rw [pumpList_cons, ih hds]
    rcases hd with hseq | ⟨hmc, hblocked⟩
    · rw [if_pos hseq]
    · rw [if_pos (by simp [hmc, hblocked] : (blocked.contains d.dst && !d.mc) = true), ite_self]

theorem effWindowHoldExpiry_of_held {s : State} (h : s.now < s.holdUntil) : effWindowHoldExpiry s = s :=
  if_neg (by simp only [Bool.and_eq_true, decide_eq_true_eq]; omega)

theorem effWindowHoldExpiry_of_ended {s : State} (hv : s.timeValid = true) (h : s.holdUntil ≤ s.now) :
    effWindowHoldExpiry s = s.pump := if_pos (by simp [hv, h])

/-- The chunk that may go leaves for the address of its rank. -/
theorem pump_unicast {s : State} {c : OutChunk} (hout : s.outbox = [c]) (hseq : c.seq = none) (hmc : c.mc = false)
    (hmay : s.maySend c = true) :
    s.pump.txNext c.dst = (s.txNext c.dst + 1) % 2 ^ 32
      ∧ (∀ a, (∀ k < 4, (s.winAt c.dst + 36 + k) % 2 ^ 64 ≠ a % 2 ^ 64) → s.pump.byte a = s.byte a)
      ∧ (∀ phys, s.xlat c.dst = .ok phys → ∃ xs, s.pump.txq = s.txq ++ xs
          ∧ List.Forall₂ (fun p x => TxPkt.Brings x phys p) (s.numbered c).pkts xs)
      ∧ (s.xlat c.dst = .invalid → s.pump.txq = s.txq) := by
  have hlaunch := launch_only (s.sequence c) (s.numbered c) (if c.port < 16 then some c.port else none) false
  have hmem : s.pump.mem = (s.writeNat (s.winAt c.dst + 36) 4 ((s.txNext c.dst + 1) % 2 ^ 32)).mem := by
    rw [pump_single hout hseq hmay, ← sequence_of_unicast hmc]
    exact (congrArg State.mem hlaunch :)
  have hwin : s.pump.winAt c.dst = s.winAt c.dst := by
    have hbase : s.pump.rd rFabWinBase = s.rd rFabWinBase := by
      rw [pump_single hout hseq hmay, launch_rd_ne _ _ _ _ _ (by decide)]
      exact congrArg (fun m => smGet regReset m rFabWinBase) (sequence_regs s c)
    rw [State.winAt, hbase, State.winAt]
  have hq : (s.sequence c).txq = s.txq := (congrArg State.txq (sequence_eq s c) :)
  have hx : (s.sequence c).xlat (s.numbered c).dst = s.xlat c.dst := by
    rw [numbered_dst]
    exact xlat_congr (sequence_regs s c) _
  have hmc' : (s.numbered c).mc = false := (numbered_mc s c).trans hmc
  refine ⟨?_, fun a ha => ?_, fun phys hphys => ?_, fun hinvalid => ?_⟩
  · rw [State.txNext, hwin, readNat_congr hmem, readNat_writeNat _ _ _ _ (by norm_num)]
    omega
  · rw [byte_congr hmem]
    exact byte_write_out _ _ _ _ (by rwa [length_toLE])
  · rw [pump_single hout hseq hmay, launch_of_ok _ _ hmc' (hx.trans hphys), ← hq]
    exact foldl_putPkt_txq _ _ _ _ _
  · rw [pump_single hout hseq hmay, launch_of_invalid _ _ hmc' (hx.trans hinvalid), hq]

theorem numbered_of_unicast {s : State} {c : OutChunk} (hmc : c.mc = false) : s.numbered c = { c with
    seq := some (s.txNext c.dst), sentAt := s.now
    pkts := c.pkts.map (fun p => { p with hdr := { p.hdr with seq := s.txNext c.dst } }) } := by
  simp only [State.numbered, State.seqFor, hmc, Bool.false_eq_true, if_false]

theorem numbered_of_mc {s : State} {c : OutChunk} (hmc : c.mc = true) : s.numbered c = { c with
    seq := some s.mcastSeq, sentAt := s.now
    pkts := c.pkts.map (fun p => { p with hdr := { p.hdr with seq := s.mcastSeq } }) } := by
  simp only [State.numbered, State.seqFor, hmc, if_true]

/-- What goes leaves the reorder buffer, the queues and the ports. -/
theorem pump_single_fields {s : State} {c : OutChunk} (hout : s.outbox = [c]) (hseq : c.seq = none) (hmay : s.maySend c = true) :
    s.pump.held = s.held ∧ s.pump.queues = s.queues ∧ s.pump.ports = s.ports
      ∧ s.pump.mem = (s.sequence c).mem ∧ s.pump.mcastSeq = (s.sequence c).mcastSeq := by
  rw [pump_single hout hseq hmay, launch_only (s.sequence c), sequence_eq]
  exact ⟨rfl, rfl, rfl, rfl, rfl⟩

theorem maySend_of_mc (s : State) {c : OutChunk} (hmc : c.mc = true) : s.maySend c = true := by
  simp [State.maySend, hmc]

/-- A chunk that may not go keeps the later ones of its rank. -/
theorem pump_of_blocked {s : State} {c : OutChunk} {rest : List OutChunk} (hout : s.outbox = c :: rest) (hmay : s.maySend c = false)
    (hseq : c.seq = none) (hrest : ∀ d ∈ rest, d.mc = false ∧ d.dst = c.dst) : s.pump = s := by
  rw [State.pump, hout, pumpList_cons]
  simp only [hseq, hmay, Option.isSome_none, Bool.false_eq_true, List.contains_nil, Bool.false_and, if_false, Bool.not_false, if_true]
  refine pumpList_of_waiting fun d hd => .inr ?_
  obtain ⟨hmc, hdst⟩ := hrest d hd
  exact ⟨hmc, by rw [hdst]; exact List.mem_singleton_self _⟩

theorem settled_txNext (s : State) (rank : Nat) : s.settled.txNext rank = s.txNext rank := by
  have hwin : s.settled.winAt rank = s.winAt rank := by
    rw [State.winAt, settled_rd_of_watches_lt s _ (by decide), State.winAt]
  rw [State.txNext, hwin, readNat_congr (settled_mem s), State.txNext]

theorem settled_txq (s : State) : s.settled.txq = s.txq := (congrArg State.txq (settled_accounts s) :)

theorem settled_mcastSeq (s : State) : s.settled.mcastSeq = s.mcastSeq := (congrArg State.mcastSeq (settled_accounts s) :)

/-- Settles O41: the one pump of the end of the hold, for a chunk that may go, a multicast one and one that may not. -/
theorem holdEnds : Obligations.HoldEnds := by
  unfold Obligations.HoldEnds
  intro s hr hv
  have hexec : exec .windowHoldExpiry s = .next (effWindowHoldExpiry s).settled := done_live _ s hr
  refine ⟨fun hnow => by rw [hexec, effWindowHoldExpiry_of_held hnow], fun hnow => ?_⟩
  rw [effWindowHoldExpiry_of_ended hv hnow] at hexec
  refine ⟨fun c hout hseq hmc hmay => ?_, fun c hout hseq hmc => ?_, fun c rest hout hmay hseq hrest => ?_, fun hall => ?_⟩
  · obtain ⟨hnext, hbytes, hgo, hstay⟩ := pump_unicast hout hseq hmc hmay
    obtain ⟨hheld, hqueues, hports, -, -⟩ := pump_single_fields hout hseq hmay
    refine ⟨_, hexec, ?_, (settled_txNext _ _).trans hnext, fun a ha => (byte_congr (settled_mem _) a).trans (hbytes a ha),
      fun phys hphys => ?_, fun hinvalid => (settled_txq _).trans (hstay hinvalid), (settled_held _).trans hheld,
      (settled_queues _).trans hqueues, (settled_ports _).trans hports⟩
    · rw [settled_outbox, pump_single_outbox hout hseq hmay, numbered_of_unicast hmc]
    · obtain ⟨xs, htxq, hall⟩ := hgo phys hphys
      rw [numbered_of_unicast hmc, List.forall₂_map_left_iff] at hall
      rw [settled_txq, htxq, List.length_append, ← hall.length_eq]
      refine ⟨rfl, fun n p hp => ?_⟩
      obtain ⟨hn, rfl⟩ := List.getElem?_eq_some_iff.mp hp
      have hbrings := hall.get hn (hall.length_eq ▸ hn)
      refine ⟨xs[n]'(hall.length_eq ▸ hn), ?_, hbrings.payload, hbrings.seq, hbrings.phys, hbrings.kind, hbrings.inPort⟩
      rw [List.getElem?_append_right (Nat.le_add_right _ _), Nat.add_sub_cancel_left, List.getElem?_eq_getElem]
  · have hmay := maySend_of_mc s hmc
    obtain ⟨hheld, hqueues, hports, hmem, hmcast⟩ := pump_single_fields hout hseq hmay
    rw [sequence_of_mc hmc] at hmem hmcast
    refine ⟨_, hexec, ?_, (settled_mcastSeq _).trans hmcast, (settled_mem _).trans hmem, (settled_held _).trans hheld,
      (settled_queues _).trans hqueues, (settled_ports _).trans hports⟩
    rw [settled_outbox, pump_single_outbox hout hseq hmay, numbered_of_mc hmc]
  · rw [hexec, pump_of_blocked hout hmay hseq hrest]
  · rw [hexec, State.pump, pumpList_of_waiting fun d hd => .inl (hall d hd)]

end Sys2Proof.Machine

/-! Acknowledgements (spec/09_fabric.md R263, R267, R268): a test packet taken, an ACK heard, and the bytes of one that leaves. -/

namespace Sys2Proof.Machine

/-! ### The bytes of a payload -/

theorem sliceB_getD (b : List Byte) (off n k : Nat) (hk : k < n) : (sliceB b off n).getD k 0 = b.getD (off + k) 0 := by
  induction n generalizing off k with
  | zero => exact absurd hk (Nat.not_lt_zero k)
  | succ n ih =>
    rw [sliceB_succ]
    cases k with
    | zero => rfl
    | succ k =>
      rw [List.getD_cons_succ, ih (off + 1) k (by omega)]
      congr 1
      omega

/-- The padding of a payload leaves the fields before it. -/
theorem leAt_padded (b : List Byte) (m off n : Nat) (h : off + n ≤ m) : leAt (sliceB b 0 m) off n = leAt b off n := by
  induction n generalizing off with
  | zero => rfl
  | succ n ih => rw [leAt_succ, leAt_succ, ih (off + 1) (by omega), byteAt, sliceB_getD _ _ _ _ (by omega), Nat.zero_add, byteAt]

theorem byteAt_eq_leAt (b : List Byte) (off : Nat) : byteAt b off = leAt b off 1 := by
  rw [leAt_succ]
  simp [leAt, sliceB, leNat]

/-- A field of a string of parts is one part. -/
theorem leAt_of_parts {b x y z : List Byte} (hb : b = x ++ y ++ z) (off n : Nat) (hoff : x.length = off) (hn : y.length = n) :
    leAt b off n = leNat y := by
  subst hoff hn
  rw [leAt, sliceB, hb, List.append_assoc, List.drop_left, List.take_left, Nat.sub_self, List.replicate_zero, List.append_nil]

/-- The part of a flattened list that one element gives. -/
theorem flatMap_at {α β : Type} (f : α → List β) (l : List α) (i : Nat) (hi : i < l.length) :
    l.flatMap f = (l.take i).flatMap f ++ f l[i] ++ (l.drop (i + 1)).flatMap f := by
  conv_lhs => rw [← List.take_append_drop i l, List.drop_eq_getElem_cons hi]
  simp only [List.flatMap_append, List.flatMap_cons, List.append_assoc]

theorem leNat_lt (b : List Byte) : leNat b < 256 ^ b.length := by
  induction b with
  | nil => exact Nat.one_pos
  | cons x xs ih =>
    have hx := x.isLt
    rw [leNat, List.length_cons, Nat.pow_succ]
    omega

theorem length_read (s : State) (a n : Nat) : (s.read a n).length = n := by
  induction n generalizing a with
  | zero => rfl
  | succ n ih => rw [State.read, List.length_cons, ih]

theorem winBase_lt (s : State) (rank : Nat) : s.winBase rank < 2 ^ 32 := by
  have h := leNat_lt (s.read (s.winAt rank) 4)
  rwa [length_read] at h

/-! ### TEST_PACKET and ACK -/

theorem effTestPacket_of_passable {src seq : Nat} {s : State} {h : Held} (hheld : s.heldChunk 0x21 src seq false = some h)
    (hpass : s.passable h = true) : effTestPacket src seq s = s.accept h := by
  rw [effTestPacket, hheld]
  exact if_pos hpass

/-- The fields of an ACK are as they may be. -/
structure AckGood (b : List Byte) : Prop where
  length : b.length = 64
  count : byteAt b 4 ≤ 14
  flags : byteAt b 5 < 2
  zero : leAt b 6 2 = 0

theorem AckGood.not_refused {b : List Byte} (h : AckGood b) : (decide (b.length ≠ 64) || decide (14 < byteAt b 4)
    || decide (byteAt b 5 / 2 ≠ 0) || decide (leAt b 6 2 ≠ 0)) = false := by
  obtain ⟨hlen, hcount, hflags, hzero⟩ := h
  have hhalf : byteAt b 5 / 2 = 0 := by omega
  simp [hlen, hcount, hhalf, hzero]

/-- The sequence numbers that an ACK lists. -/
def ackListed (b : List Byte) : List Nat := (List.range (byteAt b 4)).map (fun i => leAt b (8 + 4 * i) 4)

/-- An ACK acknowledges a sequence number: it comes before CUM, or is listed. -/
def State.acks (s : State) (src : Nat) (b : List Byte) (q : Nat) : Bool :=
  decide ((q + 2 ^ 32 - s.txOldest src) % 2 ^ 32 < (leAt b 0 4 + 2 ^ 32 - s.txOldest src) % 2 ^ 32)
    && decide ((leAt b 0 4 + 2 ^ 32 - s.txOldest src) % 2 ^ 32 ≤ 256) || (ackListed b).contains q

theorem effAck_of_mc {src seq : Nat} {s : State} {h : Held} (hheld : s.heldChunk 0x10 src seq false = some h)
    (hgood : AckGood h.payload) (hmc : byteAt h.payload 5 = 1) :
    effAck src seq s = (ackListed h.payload).foldl (fun s q => s.ackMc src q) (s.accept h) := by
  unfold effAck
  simp only [hheld]
  rw [if_neg (Bool.eq_false_iff.mp hgood.not_refused), if_pos (by rw [hmc]; rfl)]
  rfl

theorem effAck_of_unicast {src seq : Nat} {s : State} {h : Held} (hheld : s.heldChunk 0x10 src seq false = some h)
    (hgood : AckGood h.payload) (hmc : byteAt h.payload 5 = 0) :
    effAck src seq s = (((s.accept h).ackChunk src ((s.accept h).acks src h.payload)).advanceOldest src).pump := by
  unfold effAck
  simp only [hheld]
  rw [if_neg (Bool.eq_false_iff.mp hgood.not_refused), if_neg (by rw [hmc]; decide)]
  rfl

/-! ### ACK_SEND -/

/-- The acknowledgements of one source that one ACK takes. -/
def State.ackBatch (s : State) (src : Nat) (mc : Bool) : List AckDue := (s.ackDue.filter (fun a => a.src == src && a.mc == mc)).take 14

theorem length_ackBatch (s : State) (src : Nat) (mc : Bool) : (s.ackBatch src mc).length ≤ 14 := List.length_take_le _ _

/-- The payload of an ACK before its padding. -/
def ackBytes (base : Nat) (mc : Bool) (due : List AckDue) : List Byte :=
  toLE base 4 ++ toLE due.length 1 ++ toLE (b2n mc) 1 ++ toLE 0 2 ++ due.flatMap (fun a => toLE a.seq 4)

/-- The state that has sent the acknowledgements of a batch. -/
def State.acked (s : State) (due : List AckDue) : State := { s with ackDue := s.ackDue.filter (fun a => !due.contains a) }

/-- One draft is one packet. -/
theorem mkPkts_single (kind dst src job ring rep mask : Nat) (mcast fence : Bool) (d : Draft) : ∃ p,
    mkPkts kind dst src job ring rep mask mcast fence [d] = [p] ∧ p.payload = d.payload ∧ p.hdr.kind = kind ∧ p.hdr.dst = dst := by
  simp only [mkPkts, List.zipIdx_cons, List.zipIdx_nil, List.map_cons, List.map_nil]
  exact ⟨_, rfl, rfl, rfl, rfl⟩

theorem effAckSend_of_ok {src phys : Nat} {mc : Bool} {s : State} (hdue : s.ackBatch src mc ≠ []) (hx : s.xlat src = .ok phys) :
    ∃ p : Pkt, effAckSend src mc s = (s.acked (s.ackBatch src mc)).putPkt phys none false p
      ∧ p.payload = sliceB (ackBytes (if mc then 0 else s.winBase src) mc (s.ackBatch src mc)) 0 64
      ∧ p.hdr.kind = 0x10 ∧ p.hdr.dst = src := by
  have hempty : ¬ (s.ackBatch src mc).isEmpty = true := by simpa using hdue
  unfold effAckSend
  simp only
  split
  · rename_i hnone
    exact absurd hnone hempty
  split
  · rename_i hbad
    cases hbad.symm.trans hx
  · rename_i hinvalid
    cases hinvalid.symm.trans hx
  · rename_i phys' hok
    cases hok.symm.trans hx
    obtain ⟨p, hp, hpay, hkind, hdst⟩ := mkPkts_single 0x10 src s.job.rank 0 0 0 0 false false
      ⟨0, 0, 0, sliceB (ackBytes (if mc then 0 else s.winBase src) mc (s.ackBatch src mc)) 0 64, []⟩
    refine ⟨p, ?_, hpay, hkind, hdst⟩
    exact congrArg (List.foldl (fun s p => s.putPkt phys none false p) (s.acked (s.ackBatch src mc))) hp

section

variable (base : Nat) (mc : Bool) (due : List AckDue)

theorem ackBytes_base : leAt (ackBytes base mc due) 0 4 = base % 2 ^ 32 := by
  rw [leAt_of_parts (x := []) (y := toLE base 4) (by simp only [ackBytes, List.append_assoc, List.nil_append]; rfl) 0 4 rfl
    (length_toLE _ _), leNat_toLE]
  rfl

theorem ackBytes_count : byteAt (ackBytes base mc due) 4 = due.length % 256 := by
  rw [byteAt_eq_leAt, leAt_of_parts (x := toLE base 4) (y := toLE due.length 1) (by simp only [ackBytes, List.append_assoc]; rfl) 4 1
    (length_toLE _ _) (length_toLE _ _), leNat_toLE]
  rfl

theorem ackBytes_mc : byteAt (ackBytes base mc due) 5 = b2n mc := by
  rw [byteAt_eq_leAt, leAt_of_parts (x := toLE base 4 ++ toLE due.length 1) (y := toLE (b2n mc) 1)
    (by simp only [ackBytes, List.append_assoc]; rfl) 5 1 (by simp only [List.length_append, length_toLE]) (length_toLE _ _), leNat_toLE]
  cases mc <;> rfl

theorem ackBytes_listed (i : Nat) (hi : i < due.length) : leAt (ackBytes base mc due) (8 + 4 * i) 4 = due[i].seq % 2 ^ 32 := by
  have hitems (l : List AckDue) := length_flatMap_of_const (fun a : AckDue => toLE a.seq 4) 4 (fun a => length_toLE _ _) l
  rw [leAt_of_parts (x := toLE base 4 ++ toLE due.length 1 ++ toLE (b2n mc) 1 ++ toLE 0 2 ++ (due.take i).flatMap (fun a => toLE a.seq 4))
    (y := toLE due[i].seq 4) (by rw [ackBytes, flatMap_at _ due i hi]; simp only [List.append_assoc]; rfl) (8 + 4 * i) 4
    (by simp only [List.length_append, length_toLE, hitems, List.length_take]; omega) (length_toLE _ _), leNat_toLE]
  rfl

end

/-- Settles O42: a test packet and an ACK by their fields, and the bytes of the one ACK that leaves. -/
theorem acknowledges : Obligations.Acknowledges := by
  unfold Obligations.Acknowledges
  refine fun src seq s hr => ⟨fun h hheld hpass => ?_, fun h hheld hlen hcount hflags hzero => ?_, fun phys mc => ?_⟩
  · exact (done_live _ s hr).trans (by rw [effTestPacket_of_passable hheld hpass])
  · have hgood : AckGood h.payload := ⟨hlen, hcount, hflags, hzero⟩
    have hexec : exec (.ack src seq) s = .next (effAck src seq s).settled := done_live _ s hr
    refine ⟨fun hmc => ?_, fun hmc => ?_⟩
    · rw [hexec, effAck_of_mc hheld hgood hmc]
      rfl
    · rw [hexec, effAck_of_unicast hheld hgood hmc]
      rfl
  · intro due hdue hx
    obtain ⟨p, heff, hpay, hkind, hdst⟩ := effAckSend_of_ok (mc := mc) hdue hx
    have hrouter := putPkt_router (s.acked due) phys none false p
    obtain ⟨x, htxq, hbrings⟩ := putPkt_txq (s.acked due) phys none false p
    have hexec : exec (.ackSend src mc) s = .next ((s.acked due).putPkt phys none false p).settled :=
      (done_live _ s hr).trans (by rw [heff]; rfl)
    have hbytes := hbrings.payload.trans hpay
    have hlen : due.length ≤ 14 := length_ackBatch s src mc
    have hbase : (if mc then 0 else s.winBase src) < 2 ^ 32 := by
      have := winBase_lt s src
      split <;> omega
    refine ⟨_, x, hexec, ?_, (settled_txq _).trans htxq, hbrings.kind.trans hkind, hbrings.dst.trans hdst, hbrings.phys,
      hbrings.inPort, ?_, ?_, ?_, fun i hi => ?_, ?_, ?_⟩
    · exact (congrArg State.ackDue (settled_accounts _) :).trans (congrArg State.ackDue hrouter :)
    · rw [hbytes, leAt_padded _ _ _ _ (by omega), ackBytes_base, Nat.mod_eq_of_lt hbase]
    · rw [hbytes, byteAt_eq_leAt, leAt_padded _ _ _ _ (by omega), ← byteAt_eq_leAt, ackBytes_mc]
    · rw [hbytes, byteAt_eq_leAt, leAt_padded _ _ _ _ (by omega), ← byteAt_eq_leAt, ackBytes_count]
      exact Nat.mod_eq_of_lt (by change due.length < 256; omega)
    · rw [hbytes, leAt_padded _ _ _ _ (by omega), ackBytes_listed _ _ (s.ackBatch src mc) i hi]
      exact congrArg (fun a : AckDue => a.seq % 2 ^ 32) (List.getD_eq_getElem _ _ hi).symm
    · exact (settled_held _).trans (congrArg State.held hrouter :)
    · exact (settled_mem _).trans (congrArg State.mem hrouter :)

end Sys2Proof.Machine

/-! Commands of the mailbox that move the fabric or the checkpoint engine (spec/13_control.md R371 to R376, spec/09_fabric.md R284,
spec/12_resilience.md R341, R347, R350): a command taken, its response, values that wait for a step boundary, and messages sent. -/

namespace Sys2Proof.Machine

/-! ### A command taken and its response (R371 to R375) -/

/-- What Spindle takes acts. -/
theorem takeCmd_of_takes {s : State} {m op : Nat} (h : s.takes m op) (act : List Byte → State → State) :
    s.takeCmd m op act = act (s.request m) s := by
  obtain ⟨hm, hawake, hbusy, hbegun, hclosed, hhalted, hop, hloaded, hserial, hmoves⟩ := h
  have hacts : ¬ (4 ≤ m ∨ s.awake 2 = false ∨ s.mbxBusy m = false ∨ s.begun m = true ∨ s.spindle.closed = true
      ∨ s.spindle.halted = true ∨ rqOpcode (s.request m) ≠ op) := by
    simp [hm, hawake, hbusy, hbegun, hclosed, hhalted, hop]
  have hrom : ¬ (s.spindle.loaded = false ∧ op ≠ 0x0001 ∧ op ≠ 0x0040) := by
    rintro ⟨hl, h1, h40⟩
    rcases hloaded with hl' | h | h
    · exact Bool.false_ne_true (hl.symm.trans hl')
    · exact h1 h
    · exact h40 h
  unfold State.takeCmd
  simp only
  rw [if_neg hacts, if_neg hrom, if_neg hserial, if_neg hmoves]

theorem State.takes.resetOn {s : State} {m op : Nat} (h : s.takes m op) : s.ctl.resetOn = false := resetOn_of_awake s 2 h.2.1

/-- A register written once of many. -/
theorem rd_foldl_wr_of_mem {α : Type} {l : List α} (f : α → Nat) (g : α → Word) (hinj : ∀ a b, f a = f b → a = b) (hl : l.Nodup)
    {x : α} (hx : x ∈ l) (s : State) : (l.foldl (fun s e => s.wr (f e) (g e)) s).rd (f x) = g x := by
  induction l generalizing s with
  | nil => exact absurd hx List.not_mem_nil
  | cons y ys ih =>
    obtain ⟨hy, hys⟩ := List.nodup_cons.mp hl
    rw [List.foldl_cons]
    rcases List.mem_cons.mp hx with rfl | hin
    · rw [rd_foldl_wr_of_ne _ _ _ _ _ fun e he h => hy (by rwa [hinj _ _ h]), rd_wr_self]
    · exact ih hys hin _

section

variable (s : State) (m : Nat)

theorem putResponse_eq (b : List Byte) : s.putResponse m b = { s with regs := (s.putResponse m b).regs } := by
  unfold State.putResponse
  generalize List.range 64 = l
  induction l generalizing s with
  | nil => rfl
  | cons k ks ih =>
    rw [List.foldl_cons, ih]
    rfl

theorem putResponse_rd_ne (b : List Byte) (o : Nat) (h : ∀ k < 64, o ≠ rMbxRsp m k) : (s.putResponse m b).rd o = s.rd o :=
  rd_foldl_wr_of_ne _ _ _ _ _ fun k hk => h k (List.mem_range.mp hk)

/-- Each word of the response area holds its bytes. -/
theorem putResponse_rd (b : List Byte) (k : Nat) (hk : k < 64) :
    (s.putResponse m b).rd (rMbxRsp m k) = BitVec.ofNat 64 (leAt b (4 * k) 4) :=
  rd_foldl_wr_of_mem (rMbxRsp m) _ (fun i j h => by simp only [rMbxRsp] at h; omega) List.nodup_range (List.mem_range.mpr hk) s

/-- The pair is no longer BUSY: it is DONE. -/
def State.endBusy : State := ((s.setFld (rMbxState m) 0 1 0).setFld (rMbxState m) 1 1 1).setBegun m false

theorem endBusy_eq : s.endBusy m = { s with regs := (s.endBusy m).regs, mbx := (s.endBusy m).mbx } := rfl

theorem endBusy_rd_ne (o : Nat) (hstate : o ≠ rMbxState m) : (s.endBusy m).rd o = s.rd o :=
  (rd_setFld_ne _ _ _ _ _ _ hstate).trans (rd_setFld_ne _ _ _ _ _ _ hstate)

theorem endBusy_busy : (s.endBusy m).fld (rMbxState m) 0 1 = 0 :=
  (fld_setFld_ne _ _ _ _ _ _ _ (.inl (by decide)) (by decide)).trans (fld_setFld_self _ _ _ _ _ (by decide))

/-- The bytes of a response: its head and its body. -/
def State.responseBytes (st : Nat) (body : List Byte) : List Byte :=
  toLE (rqOpcode (s.request m)) 2 ++ toLE (rqSeq (s.request m)) 2 ++ toLE body.length 1 ++ toLE st 1
    ++ toLE (complB 2 (rqOpcode (s.request m))) 2 ++ body

theorem post_eq_raise (st : Nat) (body : List Byte) :
    s.post m st body = ((s.putResponse m (s.responseBytes m st body)).endBusy m).raise causeMbxDone := rfl

/-- A response changes its pair and registers. -/
theorem post_eq (st : Nat) (body : List Byte) : s.post m st body = { s with
    regs := (s.post m st body).regs, rep := (s.post m st body).rep, mbx := (s.post m st body).mbx } := by
  rw [post_eq_raise, raise_eq, endBusy_eq, putResponse_eq]

theorem post_rd_ne (st : Nat) (body : List Byte) (o : Nat) (hrsp : ∀ k < 64, o ≠ rMbxRsp m k) (hstate : o ≠ rMbxState m)
    (hevt : o ≠ rEvtStatus) : (s.post m st body).rd o = s.rd o := by
  rw [post_eq_raise, raise_rd_ne _ _ _ hevt, endBusy_rd_ne _ _ _ hstate, putResponse_rd_ne s m _ o hrsp]

/-- The pair is no longer BUSY. -/
theorem post_mbxBusy (st : Nat) (body : List Byte) : (s.post m st body).mbxBusy m = false := by
  have hfld : (s.post m st body).fld (rMbxState m) 0 1 = 0 := by
    rw [post_eq_raise, fld_of_rd (raise_rd_ne _ _ _ (by simp only [rMbxState, rEvtStatus]; omega))]
    exact endBusy_busy _ m
  rw [State.mbxBusy, hfld]
  rfl

/-- The response carries its status. -/
theorem post_status (st : Nat) (body : List Byte) (hst : st < 256) : (s.post m st body).fld (rMbxRsp m 1) 8 8 = st := by
  have hbyte : byteAt (s.responseBytes m st body) 5 = st := by
    rw [byteAt_eq_leAt, leAt_of_parts (y := toLE st 1) (x := toLE (rqOpcode (s.request m)) 2 ++ toLE (rqSeq (s.request m)) 2
      ++ toLE body.length 1) (by simp only [State.responseBytes, List.append_assoc]; rfl) 5 1
      (by simp only [List.length_append, length_toLE]) (length_toLE _ _), leNat_toLE]
    exact Nat.mod_eq_of_lt hst
  have hword : (s.post m st body).rd (rMbxRsp m 1) = BitVec.ofNat 64 (leAt (s.responseBytes m st body) 4 4) := by
    rw [post_eq_raise, raise_rd_ne _ _ _ (by simp only [rMbxRsp, rEvtStatus]; omega),
      endBusy_rd_ne _ _ _ (by simp only [rMbxRsp, rMbxState]; omega), putResponse_rd _ _ _ _ (by decide)]
  have hlt : ∀ k, byteAt (s.responseBytes m st body) k < 256 := fun k => BitVec.isLt _
  have h4 := hlt 4
  have h6 := hlt 6
  have h7 := hlt 7
  rw [State.fld, hword, bitsAt, BitVec.toNat_ofNat, leAt_succ, leAt_succ, leAt_succ, leAt_succ, hbyte]
  have hzero : leAt (s.responseBytes m st body) (4 + 1 + 1 + 1 + 1) 0 = 0 := rfl
  rw [hzero]
  omega

end

/-! ### Values that wait for a step boundary (R404, R405, R407) -/

/-- `t` is `s` but for registers and staged copies. -/
def State.StagesOnly (s t : State) : Prop := t = { s with regs := t.regs, staged := t.staged }

theorem State.StagesOnly.trans {s t u : State} (hst : s.StagesOnly t) (htu : t.StagesOnly u) : s.StagesOnly u :=
  Eq.trans htu (congrArg (fun x : State => { x with regs := u.regs, staged := u.staged }) hst)

section

variable {s t : State} (k v o : Nat)

theorem putStep_stages (s : State) : s.StagesOnly (s.putStep k v) := by
  unfold State.putStep
  split <;> rfl

theorem putStep_job (s : State) : (s.putStep k v).job = s.job := (congrArg State.job (putStep_stages k v s) :)

/-- With no job open the value is in force at once. -/
theorem putStep_rd_of_closed (h : s.job.isOpen = false) : (s.putStep k v).rd o = if o = k then BitVec.ofNat 64 v else s.rd o := by
  rw [State.putStep, h, if_neg Bool.false_ne_true]
  exact rd_wr s k o _

/-- With a job open the value waits: it is the staged one. -/
theorem putStep_rd_of_open (h : s.job.isOpen = true) : (s.putStep k v).rd o = s.rd o := by
  rw [State.putStep, if_pos h]
  rfl

theorem stagedValue_congr (hrd : t.rd o = s.rd o) (hstaged : t.staged = s.staged) : t.stagedValue o = s.stagedValue o := by
  rw [State.stagedValue, hrd, hstaged, State.stagedValue]

/-- A write of all bits leaves none of the old ones. -/
theorem merge_allOnes (x y m v : Word) : (x &&& ~~~(m ||| BitVec.allOnes 64))
    ||| (((y &&& ~~~BitVec.allOnes 64) ||| (v &&& BitVec.allOnes 64)) &&& (m ||| BitVec.allOnes 64)) = v := by
  ext i hi
  simp only [BitVec.getElem_or, BitVec.getElem_and, BitVec.getElem_not, BitVec.getElem_allOnes, Bool.or_true, Bool.not_true,
    Bool.and_false, Bool.and_true, Bool.false_or]

theorem putStep_stagedValue_of_open (h : s.job.isOpen = true) :
    (s.putStep k v).stagedValue o = if o = k then BitVec.ofNat 64 v else s.stagedValue o := by
  rw [State.putStep, if_pos h]
  unfold State.stagedValue State.stage
  simp only [smGet_smSet]
  split
  · exact merge_allOnes _ _ _ _
  · rfl

end

/-- The four registers of a CKP_POLICY request. -/
def State.policied (s : State) (r : List Byte) : State :=
  (((s.putStep rCkpPolicy (rqAt r 0 8)).putStep rCkpScope (rqAt r 8 8)).putStep rCkpBase (rqAt r 16 8)).putStep rCkpSize (rqAt r 24 8)

section

variable {s : State} (r : List Byte)

theorem policied_stages (s : State) : s.StagesOnly (s.policied r) :=
  ((putStep_stages _ _ s).trans (putStep_stages _ _ _)).trans ((putStep_stages _ _ _).trans (putStep_stages _ _ _))

theorem policied_rd_of_closed (h : s.job.isOpen = false) :
    (s.policied r).rd rCkpPolicy = BitVec.ofNat 64 (rqAt r 0 8) ∧ (s.policied r).rd rCkpScope = BitVec.ofNat 64 (rqAt r 8 8)
      ∧ (s.policied r).rd rCkpBase = BitVec.ofNat 64 (rqAt r 16 8) ∧ (s.policied r).rd rCkpSize = BitVec.ofNat 64 (rqAt r 24 8) := by
  simp [State.policied, putStep_rd_of_closed, putStep_job, h, rCkpPolicy, rCkpScope, rCkpBase, rCkpSize]

theorem policied_rd_of_open (h : s.job.isOpen = true) (o : Nat) : (s.policied r).rd o = s.rd o := by
  simp [State.policied, putStep_rd_of_open, putStep_job, h]

theorem policied_staged_of_open (h : s.job.isOpen = true) :
    (s.policied r).stagedValue rCkpPolicy = BitVec.ofNat 64 (rqAt r 0 8)
      ∧ (s.policied r).stagedValue rCkpSize = BitVec.ofNat 64 (rqAt r 24 8) := by
  simp [State.policied, putStep_stagedValue_of_open, putStep_job, h, rCkpPolicy, rCkpScope, rCkpBase, rCkpSize]

end

theorem effCkpPolicy_of_good {s : State} {m : Nat} (h : s.takes m 0x0020)
    (hgood : ckpRefused (rqAt (s.request m) 0 8) (rqAt (s.request m) 8 8) (rqAt (s.request m) 16 8) (rqAt (s.request m) 24 8) = false) :
    effCkpPolicy m s = ((s.policied (s.request m)).setFld rCfgCtl 3 1 1).postStatus m stOk := by
  rw [effCkpPolicy, takeCmd_of_takes h]
  simp only
  rw [if_neg (Bool.eq_false_iff.mp hgood)]
  rfl

/-- The checkpoint registers are no part of a mailbox window, and not the control register. -/
theorem answered_rd (s : State) (m o : Nat) (ho : 0x048000 ≤ o) (hm : m < 4) :
    (((s.setFld rCfgCtl 3 1 1).postStatus m stOk).settled).rd o = s.rd o := by
  rw [settled_rd_of_watches_lt _ _ (by simp only [rEvwCfg]; omega), State.postStatus,
    post_rd_ne _ _ _ _ _ (fun k hk => by simp only [rMbxRsp]; omega) (by simp only [rMbxState]; omega) (by simp only [rEvtStatus]; omega),
    rd_setFld_ne _ _ _ _ _ _ (by simp only [rCfgCtl]; omega)]

theorem answered_fields (s : State) (m : Nat) :
    let t := ((s.setFld rCfgCtl 3 1 1).postStatus m stOk).settled
    t.mem = s.mem ∧ t.cmds = s.cmds ∧ t.staged = s.staged := by
  intro t
  have hpost := post_eq (s.setFld rCfgCtl 3 1 1) m stOk []
  exact ⟨(settled_mem _).trans (congrArg State.mem hpost :), (settled_cmds _).trans (congrArg State.cmds hpost :),
    (settled_staged _).trans (congrArg State.staged hpost :)⟩

/-- The settling leaves the mailbox. -/
theorem settled_fld_mailbox (s : State) (o lo w : Nat) (h0 : 0x010000 ≤ o) (h1 : o < 0x011000) : s.settled.fld o lo w = s.fld o lo w :=
  fld_of_rd (settled_rd s o (by simp only [rEvtStatus]; omega) (fun k hk => by simp only [rEvwCfg]; omega)) lo w

theorem ckpPolicy_takes {s : State} {m : Nat} (h : s.takes m 0x0020)
    (hgood : ckpRefused (rqAt (s.request m) 0 8) (rqAt (s.request m) 8 8) (rqAt (s.request m) 16 8) (rqAt (s.request m) 24 8) = false) :
    ∃ t, exec (.ckpPolicy m) s = .next t ∧ t.mbxBusy m = false ∧ t.fld (rMbxRsp m 1) 8 8 = stOk ∧ t.mem = s.mem ∧ t.cmds = s.cmds
      ∧ t.staged = (s.policied (s.request m)).staged ∧ ∀ o, 0x048000 ≤ o → t.rd o = (s.policied (s.request m)).rd o := by
  have hm : m < 4 := h.1
  obtain ⟨hmem, hcmds, hstaged⟩ := answered_fields (s.policied (s.request m)) m
  have hpol := policied_stages (s.request m) s
  refine ⟨_, (done_live _ s h.resetOn).trans (by rw [effCkpPolicy_of_good h hgood]), ?_, ?_, hmem.trans (congrArg State.mem hpol :),
    hcmds.trans (congrArg State.cmds hpol :), hstaged, fun o ho => answered_rd _ m o ho hm⟩
  · rw [State.mbxBusy, settled_fld_mailbox _ _ _ _ (by simp only [rMbxState]; omega) (by simp only [rMbxState]; omega)]
    exact post_mbxBusy _ m stOk []
  · rw [settled_fld_mailbox _ _ _ _ (by simp only [rMbxRsp]; omega) (by simp only [rMbxRsp]; omega)]
    exact post_status _ m stOk [] (by decide)

/-! ### ROUTE_CHANGE and CHECKPOINT -/

theorem exec_routeChange {s : State} {m : Nat} (h : s.takes m 0x0016) : exec (.routeChange m) s =
    .next (((effEpochAdvance s).begin m (if s.draining then (s.epoch + 2) % 4 else (s.epoch + 1) % 4) []).settled) :=
  (done_live _ s h.resetOn).trans (by rw [effRouteChange, takeCmd_of_takes h])

/-- The pair waits for the image of a step. -/
def State.awaitImage (s : State) (m t : Nat) : State :=
  { (s.begin m 0 []) with ckp := { s.ckp with pairs := s.ckp.pairs ++ [(m, t)] } }

theorem effCheckpoint_of_image {s : State} {m : Nat} (h : s.takes m 0x0021) (hopen : s.job.isOpen = true) {i : CkpImage}
    (hi : s.ckp.image = some i) (hgood : i.badTwice = false) : effCheckpoint m s = s.awaitImage m i.step := by
  rw [effCheckpoint, takeCmd_of_takes h]
  simp only [hopen, Bool.not_true, Bool.false_eq_true, if_false]
  split
  · rename_i j hj
    cases hi.symm.trans hj
    rw [hgood, if_neg Bool.false_ne_true]
    rfl
  · rename_i hj
    cases hi.symm.trans hj

theorem effCheckpoint_of_none {s : State} {m t : Nat} (h : s.takes m 0x0021) (hopen : s.job.isOpen = true)
    (hi : s.ckp.image = none) (ht : s.job.lastStep = some t) : effCheckpoint m s =
      if s.fld rCkpStatus 48 1 = 1 ∧ s.fld rCkpStatus 0 48 = t then s.post m stOk (toLE t 8) else s.awaitImage m t := by
  rw [effCheckpoint, takeCmd_of_takes h]
  simp only [hopen, Bool.not_true, Bool.false_eq_true, if_false]
  split
  · rename_i j hj
    cases hi.symm.trans hj
  split
  · rename_i hlast
    cases ht.symm.trans hlast
  · rename_i last hlast
    cases ht.symm.trans hlast
    rfl

end Sys2Proof.Machine

/-! RESTORE with nothing running (spec/12_resilience.md R347, R350): the messages of Spindle firmware leave all but the Router and
the outbox alone, nothing is there to stop, and this chip's inventory goes to the group. -/

namespace Sys2Proof.Machine

/-! ### What a message changes -/

/-- `t` is `s` but for what goes to the fabric, its windows and the commands that fail. -/
structure State.SendsOnly (s t : State) : Prop where
  frame : t = { s with regs := t.regs, rep := t.rep, cmds := t.cmds, txq := t.txq, viaNext := t.viaNext, rowAlt := t.rowAlt
                       epochInj := t.epochInj, outbox := t.outbox, mem := t.mem, badUnits := t.badUnits
                       mcastSeq := t.mcastSeq, sent := t.sent, free := t.free }
  rd : ∀ o, o ≠ rEvtStatus → t.rd o = s.rd o
  cmds : s.cmds = [] → t.cmds = []

namespace State.SendsOnly

variable {s t u : State}

theorem refl (s : State) : s.SendsOnly s := ⟨rfl, fun _ _ => rfl, id⟩

theorem trans (hst : s.SendsOnly t) (htu : t.SendsOnly u) : s.SendsOnly u where
  frame := Eq.trans htu.frame (congrArg (fun x : State =>
    { x with regs := u.regs, rep := u.rep, cmds := u.cmds, txq := u.txq, viaNext := u.viaNext, rowAlt := u.rowAlt
             epochInj := u.epochInj, outbox := u.outbox, mem := u.mem, badUnits := u.badUnits
             mcastSeq := u.mcastSeq, sent := u.sent, free := u.free }) hst.frame)
  rd o ho := (htu.rd o ho).trans (hst.rd o ho)
  cmds h := htu.cmds (hst.cmds h)

theorem restore (h : s.SendsOnly t) : t.restore = s.restore := (congrArg State.restore h.frame :)
theorem queues (h : s.SendsOnly t) : t.queues = s.queues := (congrArg State.queues h.frame :)
theorem mbx (h : s.SendsOnly t) : t.mbx = s.mbx := (congrArg State.mbx h.frame :)
theorem ckp (h : s.SendsOnly t) : t.ckp = s.ckp := (congrArg State.ckp h.frame :)
theorem job (h : s.SendsOnly t) : t.job = s.job := (congrArg State.job h.frame :)

end State.SendsOnly

/-- Where nothing runs, nothing fails. -/
theorem State.Carries.cmds_nil {s t : State} (h : s.Carries t) (hs : s.cmds = []) : t.cmds = [] := by
  refine List.eq_nil_iff_forall_not_mem.mpr fun c hc => ?_
  have hnone : t.cmd? c.q c.i = none := by
    have hview := h.cmds c.q c.i
    rw [show s.cmd? c.q c.i = none by rw [State.cmd?, hs]; rfl] at hview
    exact Option.map_eq_none_iff.mp hview
  have hno := List.find?_eq_none.mp hnone c hc
  simp at hno

theorem launch_sends (s : State) (c : OutChunk) (pinned : Option Nat) (resend : Bool) : s.SendsOnly (s.launch c pinned resend) where
  frame := by
    have h := launch_only s c pinned resend
    unfold State.LaunchesOnly at h
    rw [h]
  rd := launch_rd_ne s c pinned resend
  cmds := (launch_carries s c pinned resend).cmds_nil

theorem sequence_sends (s : State) (c : OutChunk) : s.SendsOnly (s.sequence c) where
  frame := by rw [sequence_eq]
  rd o _ := congrArg (fun m => smGet regReset m o) (sequence_regs s c)
  cmds := (sequence_cmds s c).trans

theorem pumpList_sends (s : State) (blocked : List Nat) (l : List OutChunk) : s.SendsOnly (s.pumpList blocked l)
    ∧ (s.pumpList blocked l).sent = s.sent := by
  induction l generalizing s blocked with
  | nil => exact ⟨.refl s, rfl⟩
  | cons c l ih =>
    rw [pumpList_cons]
    split
    · exact ih s blocked
    split
    · exact ih s blocked
    split
    · exact ih s _
    · obtain ⟨hsends, hsent⟩ := ih ((s.sequence c).launch (s.numbered c) (if c.port < 16 then some c.port else none) false) blocked
      refine ⟨((sequence_sends s c).trans (launch_sends _ _ _ _)).trans hsends, hsent.trans ?_⟩
      exact (congrArg State.sent (launch_only (s.sequence c) _ _ _) :).trans (congrArg State.sent (sequence_eq s c) :)

theorem emit_sends (s : State) (owner : Option (Nat × Nat)) (copy : Bool) (port : Nat) (pkts : List Pkt)
    (mem : List (List (Nat × Nat))) (near : List (Nat × Nat)) : s.SendsOnly (s.emit owner copy port pkts mem near)
      ∧ (s.emit owner copy port pkts mem near).sent = s.sent := by
  unfold State.emit
  split
  · exact ⟨.refl s, rfl⟩
  · refine And.imp_left (State.SendsOnly.trans ⟨?_, ?_, ?_⟩) (pumpList_sends _ _ _)
    · rfl
    · exact fun _ _ => rfl
    · exact id

/-- A message of Spindle firmware is sent once. -/
theorem sendMgmt_sends (s : State) (dst : Nat) (m : Msg) : s.SendsOnly (s.sendMgmt dst m)
    ∧ (s.sendMgmt dst m).sent = s.sent ++ [m] := by
  refine And.imp_left (State.SendsOnly.trans ⟨?_, ?_, ?_⟩) (emit_sends { s with sent := s.sent ++ [m], free := s.free + 1 } _ _ _ _ _ _)
  · rfl
  · exact fun _ _ => rfl
  · exact id

/-- An inventory, and the sources that have failed, to each of a list of ranks. -/
theorem foldl_sendMgmt_sends (own : List InvEntry) (l : List Nat) (s : State) :
    let t := l.foldl (fun s q => s.sendMgmt q (.inventory q own s.ckp.failed)) s
    s.SendsOnly t ∧ t.sent = s.sent ++ l.map (fun q => .inventory q own s.ckp.failed) := by
  induction l generalizing s with
  | nil => exact ⟨.refl s, (List.append_nil _).symm⟩
  | cons q l ih =>
    obtain ⟨hsends, hsent⟩ := sendMgmt_sends s q (.inventory q own s.ckp.failed)
    obtain ⟨hrest, hrestSent⟩ := ih (s.sendMgmt q (.inventory q own s.ckp.failed))
    refine ⟨hsends.trans hrest, hrestSent.trans ?_⟩
    rw [hsent, hsends.ckp, List.map_cons, List.append_assoc, List.singleton_append]

/-! ### Nothing to stop -/

/-- A queue whose record is put back is as it was. -/
theorem setQueue_same {s : State} {q : Nat} {v : QState} (hq : q < 64) (h : v = s.queue q) : s.setQueue q v = s := by
  have hqueues : s.queues.setIfInBounds q v = s.queues := by
    rw [h, State.queue]
    ext i hi
    by_cases hqi : q = i
    · subst hqi
      simp [Vector.getD, hq]
    · rw [Vector.getElem_setIfInBounds_ne _ hqi]
  rw [State.setQueue, hqueues]

/-- A queue with nothing that has not started keeps what it has. -/
theorem stopQueued_of_idle {s : State} {q : Nat} (x : StopOf) (hq : q < 64) (h : s.queueIdle q) : s.stopQueued x q = s := by
  unfold State.stopQueued
  split
  · rename_i hon
    obtain hoff | ⟨hfetched, htail⟩ := h
    · exact absurd hoff hon
    have hzero : sub32 (s.fld (rQTail q) 0 32) (s.queue q).nextFetch = 0 := by
      rw [htail, sub32, Nat.add_sub_cancel_left, Nat.mod_self]
    simp only [hzero, State.fetchUpTo, ite_self, hfetched, List.map_nil, Bool.not_false, Bool.and_true]
    exact setQueue_same hq (by rw [← hfetched])
  · rfl

theorem stopAll_of_idle {s : State} (x : StopOf) (hcmds : s.cmds = []) (hdrains : s.drains = [])
    (hidle : ∀ q < 64, s.queueIdle q) : (s.stopAll x).1 = s := by
  have hqueues : ∀ l : List Nat, (∀ q ∈ l, q < 64) → l.foldl (fun s q => s.stopQueued x q) s = s := by
    intro l
    induction l with
    | nil => exact fun _ => rfl
    | cons q l ih =>
      intro hl
      rw [List.foldl_cons, stopQueued_of_idle x (hl q (by simp)) (hidle q (hl q (by simp))), ih fun k hk => hl k (by simp [hk])]
  unfold State.stopAll
  simp only [hcmds, List.filter_nil, List.foldl_nil, hqueues _ fun q hq => List.mem_range.mp hq]
  rw [State.notePending, hdrains, List.foldl_nil]

theorem begun_begin_self (s : State) (m wait : Nat) (ranks : List Nat) (hm : m < 4) : (s.begin m wait ranks).begun m = true := by
  simp [State.begin, State.begun, Vector.getD, hm]

theorem begun_begin_ne (s : State) (m k wait : Nat) (ranks : List Nat) (hk : k ≠ m) : (s.begin m wait ranks).begun k = s.begun k := by
  simp [State.begin, State.begun, Vector.getD, Ne.symm hk]

theorem request_begin (s : State) (m wait : Nat) (ranks : List Nat) (hm : m < 4) :
    (s.begin m wait ranks).request m = s.request m := by
  simp [State.begin, State.request, Vector.getD, hm]

/-- A pair that waits for no end of work stays as it is. -/
theorem settlePair_of_other {s : State} {m : Nat} (h : s.begun m = false ∨ rqOpcode (s.request m) = 0x0022) : s.settlePair m = s := by
  unfold State.settlePair
  rcases h with h | h
  · rw [h]
    rfl
  · simp only [h]
    split <;> rfl

theorem settlePairs_of_other {s : State} (h : ∀ k < 4, s.begun k = false ∨ rqOpcode (s.request k) = 0x0022) :
    (List.range 4).foldl State.settlePair s = s := by
  have hall : ∀ l : List Nat, (∀ k ∈ l, k < 4) → l.foldl State.settlePair s = s := by
    intro l
    induction l with
    | nil => exact fun _ => rfl
    | cons k l ih =>
      intro hl
      rw [List.foldl_cons, settlePair_of_other (h k (hl k (by simp))), ih fun j hj => hl j (by simp [hj])]
  exact hall _ fun k hk => List.mem_range.mp hk

theorem applySkein_of_no_pend {s : State} (h : s.pends = []) : s.applySkein = s := by
  unfold State.applySkein
  rw [h]
  split <;> rfl

theorem settleDrains_of_none {s : State} (h : s.drains = []) : s.settleDrains = s := by
  rw [State.settleDrains, h]
  rfl

/-! ### The inventory goes out -/

/-- The members of the checkpoint group beside this chip. -/
def State.ckpOthers (s : State) : List Nat := (s.ckpRanks (s.rd rCkpPolicy).toNat).filter (fun q => q != s.job.rank)

/-- With no member lost, each other member is told. -/
theorem tell_of_no_lost {s : State} {x : Restore} (hx : s.restore = some x) (hlost : x.lost = 0xFFFF) {own : List InvEntry}
    (hown : x.own = some own) :
    s.tell = s.ckpOthers.foldl (fun s q => s.sendMgmt q (.inventory q own s.ckp.failed)) s := by
  have hleaves : x.leaves s.job.rank = false := by simp [Restore.leaves, Restore.names, hlost]
  unfold State.tell
  rw [hx]
  simp only [hleaves, hown, Bool.or_false, Option.getD_some]
  rfl

theorem takeStock_of_no_lost {s : State} {x : Restore} (hx : s.restore = some x) (hlost : x.lost = 0xFFFF) (hown : x.own = none) :
    s.takeStock = ({ s with restore := some { x with own := some s.ownInventory } } : State).tell := by
  unfold State.takeStock
  rw [hx]
  simp only [hown, Option.isSome_none, Bool.false_eq_true, if_false]
  exact if_pos (by simp [Restore.names, hlost])

/-- The inventories that are awaited follow from the job and the policy. -/
theorem survivors_of_sends {s t : State} (h : s.SendsOnly t) (x : Restore) : t.survivors x = s.survivors x := by
  have hrd : t.rd rCkpPolicy = s.rd rCkpPolicy := h.rd _ (by decide)
  have habsent : t.absent = s.absent := by
    funext w o
    rw [State.absent, h.job, State.absent]
  unfold State.survivors State.ckpRanks
  rw [h.job, hrd, habsent]

/-- What taking stock changes, and what it sends. -/
theorem takeStock_sends {s : State} {x : Restore} (hx : s.restore = some x) (hlost : x.lost = 0xFFFF) (hown : x.own = none) :
    ({ s with restore := some { x with own := some s.ownInventory } } : State).SendsOnly s.takeStock
      ∧ s.takeStock.sent = s.sent ++ s.ckpOthers.map (fun q => .inventory q s.ownInventory s.ckp.failed) := by
  rw [takeStock_of_no_lost hx hlost hown, tell_of_no_lost (x := { x with own := some s.ownInventory }) rfl hlost rfl]
  exact foldl_sendMgmt_sends _ _ _

/-- An inventory follows from memory and the registers. -/
theorem ownInventory_congr {s t : State} (hmem : t.mem = s.mem) (hregs : t.regs = s.regs) : t.ownInventory = s.ownInventory := by
  have hread : t.read = s.read := funext fun a => funext fun n => read_congr hmem a n
  have hrd : t.rd = s.rd := funext fun o => by rw [State.rd, hregs, State.rd]
  unfold State.ownInventory State.ckpBase State.ckpSize State.imageHead
  rw [hread, hrd]

/-- While an inventory is awaited the restore takes stock, and waits. -/
theorem restoreOn_of_awaited {s : State} {x : Restore} (hx : s.restore = some x) (hlost : x.lost = 0xFFFF) (hown : x.own = none)
    (hchosen : x.chosen = none) (hended : s.workEnded = true) (himage : s.ckp.image = none)
    (hawaits : ∃ q ∈ s.survivors { x with own := some s.ownInventory }, s.ckp.inv.any (fun y => y.1 == q) = false) :
    s.restoreOn = s.takeStock := by
  obtain ⟨hsends, -⟩ := takeStock_sends hx hlost hown
  have hmissing : ¬ (s.takeStock.survivors { x with own := some s.ownInventory }).all
      (fun q => s.takeStock.ckp.inv.any (fun y => y.1 == q)) = true := by
    obtain ⟨q, hq, hnone⟩ := hawaits
    rw [survivors_of_sends hsends, hsends.ckp, List.all_eq_true]
    exact fun hall => Bool.false_ne_true (hnone.symm.trans (hall q hq))
  unfold State.restoreOn
  rw [hx]
  simp only [hchosen, hended, himage, Option.isSome_none, Option.any_none, Bool.not_true, Bool.or_false, Bool.and_false,
    Bool.false_eq_true, if_false, hsends.restore]
  exact if_neg hmissing

/-- The record that a RESTORE with no member lost keeps. -/
def State.restoreBegun (s : State) (m : Nat) (own : Option (List InvEntry)) : Restore :=
  { pair := m, startedAt := s.now, engineCause := bitAt (rqAt (s.request m) 0 1) 0, migrate := bitAt (rqAt (s.request m) 0 1) 1
    lost := 0xFFFF, own := own, chosen := none, source := 0, rows := [], loaded := false, served := [] }

/-- The state in which a RESTORE has begun. -/
def State.restoring (s : State) (m : Nat) (own : Option (List InvEntry)) : State :=
  { (s.begin m 0 []) with restore := some (s.restoreBegun m own) }

theorem restoring_inventory (s : State) (m : Nat) (own : Option (List InvEntry)) :
    (s.restoring m own).ownInventory = s.ownInventory := ownInventory_congr rfl rfl

/-- A RESTORE that has begun tells its inventory. -/
theorem restoring_takeStock (s : State) (m : Nat) : (s.restoring m (some s.ownInventory)).SendsOnly (s.restoring m none).takeStock
    ∧ (s.restoring m none).takeStock.sent = s.sent ++ s.ckpOthers.map (fun q => .inventory q s.ownInventory s.ckp.failed) := by
  have h := takeStock_sends (s := s.restoring m none) (x := s.restoreBegun m none) rfl rfl rfl
  rw [restoring_inventory] at h
  exact h

theorem effRestore_of_good {s : State} {m : Nat} (h : s.takes m 0x0022) (hopen : s.job.isOpen = true) (hcmds : s.cmds = [])
    (hdrains : s.drains = []) (hidle : ∀ q < 64, s.queueIdle q) (hopt : rqAt (s.request m) 0 1 < 4)
    (hzero : rqAt (s.request m) 1 1 = 0) (hlost : rqAt (s.request m) 2 2 = 0xFFFF) :
    effRestore m s = (s.restoring m none).settleDrains.settleWork := by
  have hok : ¬ (4 ≤ rqAt (s.request m) 0 1 ∨ rqAt (s.request m) 1 1 ≠ 0) := by omega
  rw [effRestore, takeCmd_of_takes h]
  simp only [if_neg hok, hopen, Bool.not_true, Bool.false_eq_true, if_false, stopAll_of_idle .job hcmds hdrains hidle, hlost, if_true]
  rfl

theorem restoring_settles {s : State} {m : Nat} (h : s.takes m 0x0022) (hothers : ∀ k < 4, k ≠ m → s.begun k = false)
    (hcmds : s.cmds = []) (hdrains : s.drains = []) (hpends : s.pends = []) (himage : s.ckp.image = none)
    (hawaits : ∃ q ∈ s.survivors (s.restoreBegun m (some s.ownInventory)), s.ckp.inv.any (fun y => y.1 == q) = false) :
    (s.restoring m none).settleDrains.settleWork = (s.restoring m none).takeStock.settleQuiesce := by
  obtain ⟨hm, -, -, -, -, -, hop, -, -, -⟩ := h
  have hpairs : ∀ k < 4, (s.restoring m none).begun k = false ∨ rqOpcode ((s.restoring m none).request k) = 0x0022 := by
    intro k hk
    by_cases hkm : k = m
    · exact .inr (by rw [hkm]; exact (congrArg rqOpcode (request_begin s m 0 [] hm)).trans hop)
    · exact .inl ((begun_begin_ne s m k 0 [] hkm).trans (hothers k hk hkm))
  have hended : (s.restoring m none).workEnded = true := by
    unfold State.workEnded
    rw [show (s.restoring m none).cmds = [] from hcmds, show (s.restoring m none).drains = [] from hdrains]
    rfl
  rw [settleDrains_of_none (s := s.restoring m none) hdrains, State.settleWork,
    applySkein_of_no_pend (s := s.restoring m none) hpends, settlePairs_of_other hpairs,
    restoreOn_of_awaited (x := s.restoreBegun m none) rfl rfl rfl rfl hended himage (by rw [restoring_inventory]; exact hawaits)]

/-- What the two settlings of a step leave. -/
theorem settleQuiesce_settled_keeps (s : State) : s.settleQuiesce.settled.restore = s.restore
    ∧ s.settleQuiesce.settled.mbx = s.mbx ∧ s.settleQuiesce.settled.sent = s.sent ∧ s.settleQuiesce.settled.queues = s.queues
    ∧ s.settleQuiesce.settled.cmds = s.cmds := by
  have h : s.settleQuiesce.settled = { s with regs := s.settleQuiesce.settled.regs, ctl := s.settleQuiesce.settled.ctl } := by
    rw [settled_shape, settleQuiesce_eq]
  rw [h]
  exact ⟨rfl, rfl, rfl, rfl, rfl⟩

theorem mbxBusy_of_rd {s t : State} {m : Nat} (h : t.rd (rMbxState m) = s.rd (rMbxState m)) : t.mbxBusy m = s.mbxBusy m := by
  rw [State.mbxBusy, fld_of_rd h, State.mbxBusy]

/-- Settles O30: each command taken and its response; for RESTORE, nothing to stop and the inventories awaited. -/
theorem checkpointCommands : Obligations.CheckpointCommands := by
  unfold Obligations.CheckpointCommands
  refine ⟨fun m s => ⟨exec_routeChange, fun h hopen => ⟨fun i hi hgood => ?_, fun t hi ht => ?_⟩⟩, fun m s h hgood => ?_, ?_⟩
  · exact (done_live _ s h.resetOn).trans (by rw [effCheckpoint_of_image h hopen hi hgood]; rfl)
  · exact (done_live _ s h.resetOn).trans (by rw [effCheckpoint_of_none h hopen hi ht]; rfl)
  · obtain ⟨t, hexec, hbusy, hstatus, hmem, hcmds, hstaged, hrd⟩ := ckpPolicy_takes h hgood
    have hpolicy := hrd rCkpPolicy (by decide)
    have hscope := hrd rCkpScope (by decide)
    have hbase := hrd rCkpBase (by decide)
    have hsize := hrd rCkpSize (by decide)
    refine ⟨t, hexec, hbusy, hstatus, hmem, hcmds, fun hclosed => ?_, fun hopen => ?_⟩
    · rw [hpolicy, hscope, hbase, hsize]
      exact policied_rd_of_closed _ hclosed
    · obtain ⟨hpolicyStaged, hsizeStaged⟩ := policied_staged_of_open (s.request m) hopen
      exact ⟨hpolicy.trans (policied_rd_of_open _ hopen _), (stagedValue_congr _ hpolicy hstaged).trans hpolicyStaged,
        hsize.trans (policied_rd_of_open _ hopen _), (stagedValue_congr _ hsize hstaged).trans hsizeStaged⟩
  · intro m s h hothers hopen hcmds hdrains hpends himage hidle hopt hzero hlost x hawaits
    obtain ⟨hsends, hsent⟩ := restoring_takeStock s m
    have hexec : exec (.restore m) s = .next (s.restoring m none).takeStock.settleQuiesce.settled := by
      refine (done_live _ s h.resetOn).trans ?_
      rw [effRestore_of_good h hopen hcmds hdrains hidle hopt hzero hlost,
        restoring_settles h hothers hcmds hdrains hpends himage hawaits]
    obtain ⟨hrestore, hmbx, hsentKept, hqueues, hcmdsKept⟩ := settleQuiesce_settled_keeps (s.restoring m none).takeStock
    have hm : m < 4 := h.1
    have hbusy : s.mbxBusy m = true := h.2.2.1
    refine ⟨_, hexec, hrestore.trans hsends.restore, ?_, ?_, hsentKept.trans hsent,
      hqueues.trans hsends.queues, hcmdsKept.trans ((hsends.cmds hcmds).trans hcmds.symm)⟩
    · rw [State.begun, hmbx, hsends.mbx]
      exact begun_begin_self s m 0 [] hm
    · have hstate : rMbxState m ≠ rEvtStatus := by simp only [rMbxState, rEvtStatus]; omega
      refine (mbxBusy_of_rd ?_).trans hbusy
      rw [settled_rd _ _ hstate (fun k hk => by simp only [rMbxState, rEvwCfg]; omega), settleQuiesce_rd _ _ hstate]
      exact hsends.rd _ hstate

end Sys2Proof.Machine

/-! Digest records (spec/11_reproducibility.md R326, R328), the pieces that the tiles draw (spec/01_engine_and_step.md R33,
spec/10_compression.md R303) and the segments that the Feed expander takes (R304 to R306). -/

namespace Sys2Proof.Machine

/-! ### The end of a command leaves the expander's results as they are -/

section

variable (s : State)

theorem formed_feedOut : s.formDigests.settled.feedOut = s.feedOut :=
  (congrArg State.feedOut (settled_accounts _) :).trans (congrArg State.feedOut (formDigests_forms s).frame :)

theorem formed_pieces : s.formDigests.settled.pieces = s.pieces :=
  (congrArg State.pieces (settled_accounts _) :).trans (congrArg State.pieces (formDigests_forms s).frame :)

theorem formed_damaged : s.formDigests.settled.damaged = s.damaged :=
  (congrArg State.damaged (settled_accounts _) :).trans (congrArg State.damaged (formDigests_forms s).frame :)

theorem formed_rd_of_watches_lt {o : Nat} (h : rEvwCfg 7 < o) : s.formDigests.settled.rd o = s.rd o :=
  (settled_rd_of_watches_lt _ o h).trans (formDigests_rd s o)

theorem formed_fld_of_watches_lt {o : Nat} (h : rEvwCfg 7 < o) (lo w : Nat) : s.formDigests.settled.fld o lo w = s.fld o lo w := by
  rw [State.fld, formed_rd_of_watches_lt s h, State.fld]

theorem settled_fld_of_watches_lt {o : Nat} (h : rEvwCfg 7 < o) (lo w : Nat) : s.settled.fld o lo w = s.fld o lo w := by
  rw [State.fld, settled_rd_of_watches_lt s o h, State.fld]

theorem settled_digests : s.settled.digests = s.digests := (congrArg State.digests (settled_accounts s) :)

end

/-! ### Digest records (spec/11_reproducibility.md R326, R328) -/

section

variable {s : State} {d : DigestRec} {rest : List DigestRec}

/-- A record as it is written: with NDET, TIME and its CRC. -/
def State.sealRecord (s : State) (d : DigestRec) : List Byte :=
  let b := d.bytes ++ toLE (s.rd rNdetTotal).toNat 8 ++ toLE s.now 8 ++ toLE 0 4
  b ++ toLE (crc32c b).toNat 4

/-- The place in its ring that HEAD gives a record. -/
def State.recordAddr (s : State) (d : DigestRec) : Nat := d.base + 64 * (s.fld rDigRingHead 0 32 % 2 ^ (d.cfg % 32))

/-- The oldest record written, and HEAD moved on. -/
def State.recorded (s : State) (d : DigestRec) (rest : List DigestRec) : State :=
  (({ s with digests := rest } : State).write (s.recordAddr d) (s.sealRecord d)).setFld rDigRingHead 0 32
    ((s.fld rDigRingHead 0 32 + 1) % 2 ^ 32)

theorem length_sealRecord (hlen : d.bytes.length = 40) : (s.sealRecord d).length = 64 := by
  simp only [State.sealRecord, List.length_append, length_toLE, hlen]

theorem effDigestRecord_of_none (hd : s.digests = []) : effDigestRecord s = s := by
  simp only [effDigestRecord, hd]

section

variable (hd : s.digests = d :: rest)

include hd

theorem effDigestRecord_of_room (hroom : s.ringFull d = false) : effDigestRecord s = s.recorded d rest := by
  simp only [effDigestRecord, hd, hroom, Bool.false_eq_true, if_false]
  rfl

theorem effDigestRecord_of_dropping (hfull : s.ringFull d = true) (hstall : bitAt d.cfg 6 = false) :
    effDigestRecord s = ({ s with digests := rest } : State).sat rDigRingDrop 0 32 1 := by
  simp only [effDigestRecord, hd, hfull, hstall, Bool.false_eq_true, if_true, if_false]

theorem effDigestRecord_of_stalling (hfull : s.ringFull d = true) (hstall : bitAt d.cfg 6 = true) : effDigestRecord s = s := by
  simp only [effDigestRecord, hd, hfull, hstall, if_true]

end

theorem exec_digestRecord (hr : s.ctl.resetOn = false) : exec .digestRecord s = .next (effDigestRecord s).settled :=
  done_live _ s hr

theorem recorded_byte_in (hlen : d.bytes.length = 40) {k : Nat} (hk : k < 64) :
    (s.recorded d rest).byte (s.recordAddr d + k) = (s.sealRecord d).getD k 0 :=
  byte_write_in _ _ _ _ (by rwa [length_sealRecord hlen]) (by rw [length_sealRecord hlen]; decide)

theorem recorded_byte_out (hlen : d.bytes.length = 40) {x : Nat}
    (h : ∀ k < 64, (s.recordAddr d + k) % 2 ^ 64 ≠ x % 2 ^ 64) : (s.recorded d rest).byte x = s.byte x :=
  byte_write_out _ _ _ _ (by rwa [length_sealRecord hlen])

theorem recorded_head : (s.recorded d rest).fld rDigRingHead 0 32 = (s.fld rDigRingHead 0 32 + 1) % 2 ^ 32 :=
  (fld_setFld_self _ _ _ _ _ (by decide)).trans (Nat.mod_mod _ _)

theorem recorded_rd_ne {o : Nat} (ho : o ≠ rDigRingHead) : (s.recorded d rest).rd o = s.rd o := rd_setFld_ne _ _ _ _ _ _ ho

/-- A record with room in its ring is written there, and nothing else in memory changes. -/
theorem digestRecord_written (hr : s.ctl.resetOn = false) (hd : s.digests = d :: rest) (hlen : d.bytes.length = 40)
    (hroom : s.ringFull d = false) :
    ∃ t, exec .digestRecord s = .next t ∧ t.digests = rest
      ∧ t.fld rDigRingHead 0 32 = (s.fld rDigRingHead 0 32 + 1) % 2 ^ 32
      ∧ (∀ k < 64, t.byte (s.recordAddr d + k) = (s.sealRecord d).getD k 0)
      ∧ (∀ x, (∀ k < 64, (s.recordAddr d + k) % 2 ^ 64 ≠ x % 2 ^ 64) → t.byte x = s.byte x)
      ∧ t.rd rDigRingDrop = s.rd rDigRingDrop ∧ t.cmds = s.cmds := by
  have hmem := settled_mem (s.recorded d rest)
  refine ⟨_, exec_digestRecord hr, ?_⟩
  rw [effDigestRecord_of_room hd hroom]
  refine ⟨settled_digests _, ?_, fun k hk => ?_, fun x hx => ?_, ?_, settled_cmds _⟩
  · rw [settled_fld_of_watches_lt _ (by decide), recorded_head]
  · rw [byte_congr hmem, recorded_byte_in hlen hk]
  · rw [byte_congr hmem, recorded_byte_out hlen hx]
  · rw [settled_rd_of_watches_lt _ _ (by decide), recorded_rd_ne (by decide)]

/-- A record that finds its ring full is dropped and counted. -/
theorem digestRecord_dropped (hr : s.ctl.resetOn = false) (hd : s.digests = d :: rest) (hfull : s.ringFull d = true)
    (hstall : bitAt d.cfg 6 = false) :
    ∃ t, exec .digestRecord s = .next t ∧ t.digests = rest ∧ t.mem = s.mem
      ∧ t.fld rDigRingDrop 0 32 = min (2 ^ 32 - 1) (s.fld rDigRingDrop 0 32 + 1) ∧ t.rd rDigRingHead = s.rd rDigRingHead := by
  refine ⟨_, exec_digestRecord hr, ?_⟩
  rw [effDigestRecord_of_dropping hd hfull hstall]
  refine ⟨settled_digests _, settled_mem _, ?_, ?_⟩
  · rw [settled_fld_of_watches_lt _ (by decide), fld_sat_self _ _ _ _ _ (by decide)]
    rfl
  · rw [settled_rd_of_watches_lt _ _ (by decide), rd_sat_ne _ _ _ _ _ _ (by decide)]
    rfl

end

/-! ### The expander runs, or waits behind its record (spec/11_reproducibility.md R328) -/

section

variable {s : State} (hr : s.ctl.resetOn = false)

theorem working_of_free {unit : Nat} (f : State → State) (h : s.digestHolds unit = false) : s.working [unit] f = f s := by
  simp [State.working, h]

include hr

theorem exec_pieceDraw (q i n : Nat) (h : s.digestHolds 1 = false) :
    exec (.pieceDraw q i n) s = .next (effPieceDraw q i n s).formDigests.settled :=
  (done_live _ s hr).trans (by rw [working_of_free _ h])

theorem exec_expandBackground (q i : Nat) (h : s.digestHolds 1 = false) :
    exec (.expandBackground q i) s = .next (effExpandBackground q i s).formDigests.settled :=
  (done_live _ s hr).trans (by rw [working_of_free _ h])

theorem exec_pieceDraw_of_holds (q i n : Nat) (h : s.digestHolds 1 = true) : exec (.pieceDraw q i n) s = .next s.settled :=
  (done_live _ s hr).trans (by rw [working_of_holds _ _ _ h])

theorem exec_expandBackground_of_holds (q i : Nat) (h : s.digestHolds 1 = true) :
    exec (.expandBackground q i) s = .next s.settled :=
  (done_live _ s hr).trans (by rw [working_of_holds _ _ _ h])

end

/-! ### Beats of 512 bytes (spec/01_engine_and_step.md R33) -/

theorem read_drop (s : State) (a n k : Nat) : (s.read a n).drop k = s.read (a + k) (n - k) := by
  induction k generalizing a n with
  | zero => rfl
  | succ k ih =>
    cases n with
    | zero => rw [Nat.zero_sub, State.read, State.read, List.drop_nil]
    | succ n => rw [State.read, List.drop_succ_cons, ih, Nat.add_assoc, Nat.add_comm 1, Nat.add_sub_add_right]

theorem read_take (s : State) (a n k : Nat) : (s.read a n).take k = s.read a (min k n) := by
  induction k generalizing a n with
  | zero => rw [Nat.zero_min, List.take_zero, State.read]
  | succ k ih =>
    cases n with
    | zero => rw [Nat.min_zero, State.read, List.take_nil]
    | succ n => rw [State.read, List.take_succ_cons, ih, Nat.add_min_add_right, State.read]

/-- Beat `j` of a run of bytes: its tag and its 512 bytes, the last ones padded. -/
def Piece.beat (p : Piece) (scale : Bool) (off j : Nat) (b : List Byte) : BitVec 128 × List Byte :=
  let x := (b.drop (512 * j)).take 512
  (beatTag 0 p.q p.job scale false false p.num (off + 512 * j) (x.length - 1), sliceB x 0 512)

/-- A run of bytes goes out in as many beats as it takes, in order. -/
theorem dataBeats_eq (p : Piece) (scale : Bool) (off n : Nat) (b : List Byte) (hn : b.length ≤ 512 * n) :
    dataBeats p scale off n b = (List.range (cdiv b.length 512)).map (fun j => p.beat scale off j b) := by
  induction n generalizing off b with
  | zero =>
    obtain rfl : b = [] := List.length_eq_zero_iff.mp (by omega)
    rfl
  | succ n ih =>
    cases b with
    | nil => rfl
    | cons x xs =>
      have hcount : cdiv (x :: xs).length 512 = cdiv ((x :: xs).drop 512).length 512 + 1 := by
        simp only [cdiv, List.length_drop, List.length_cons]
        omega
      have hrest := ih (off + 512) ((x :: xs).drop 512) (by rw [List.length_drop]; omega)
      rw [dataBeats, List.isEmpty_cons, if_neg Bool.false_ne_true, hrest, hcount, List.range_succ_eq_map, List.map_cons,
        List.map_map]
      refine congrArg₂ List.cons rfl (List.map_congr_left fun j _ => ?_)
      simp only [Piece.beat, Function.comp_apply, List.drop_drop, Nat.mul_succ, Nat.add_comm 512, Nat.add_assoc]

theorem beats_eq (p : Piece) (scale : Bool) (b : List Byte) :
    p.beats scale b = (List.range (cdiv b.length 512)).map (fun j => p.beat scale 0 j b) :=
  dataBeats_eq p scale 0 _ b (by omega)

theorem length_beats_read (p : Piece) (scale : Bool) (s : State) (a n : Nat) : (p.beats scale (s.read a n)).length = cdiv n 512 := by
  rw [beats_eq, List.length_map, List.length_range, length_read]

theorem beats_read_getElem? (p : Piece) (scale : Bool) (s : State) (a n j : Nat) (hj : j < cdiv n 512) :
    (p.beats scale (s.read a n))[j]? = some (beatTag 0 p.q p.job scale false false p.num (512 * j) (min 512 (n - 512 * j) - 1),
      sliceB (s.read (a + 512 * j) (min 512 (n - 512 * j))) 0 512) := by
  rw [beats_eq, length_read, List.getElem?_map, List.getElem?_range hj, Option.map_some, Piece.beat]
  simp only [read_drop, read_take, length_read, Nat.zero_add]

/-! ### What the expander looks at depends on memory and on the damage alone -/

/-- Bytes of the committed plain slot of an output. -/
def State.plainAt (s : State) (c : Cmd) (off len : Nat) : List Byte := s.read (c.dst + s.tabCur c * c.plainSize + off) len

section

variable {s t : State} (c : Cmd)

theorem entry_congr (hmem : t.mem = s.mem) (j : Nat) : t.entry c j = s.entry c j := readNat_congr hmem _ _

theorem owed_congr (hmem : t.mem = s.mem) (j : Nat) : t.owed c j = s.owed c j := by
  rw [State.owed, entry_congr c hmem, State.owed]

theorem segBad_congr (hmem : t.mem = s.mem) (hdamaged : t.damaged = s.damaged) (g : Seg) : t.segBad c g = s.segBad c g := by
  rw [State.segBad, entry_congr c hmem, hdamaged, State.segBad]

theorem plainAt_congr (hmem : t.mem = s.mem) (off len : Nat) : t.plainAt c off len = s.plainAt c off len := by
  have hcur : t.tabCur c = s.tabCur c := by rw [State.tabCur, State.tabKey, readNat_congr hmem, State.tabCur, State.tabKey]
  rw [State.plainAt, hcur, read_congr hmem, State.plainAt]

end

theorem enOk_of_segBad {s : State} {c : Cmd} {g : Seg} (h : s.segBad c g = false) : enOk (s.entry c g.num) = true := by
  simp only [State.segBad, Bool.or_eq_false_iff, Bool.not_eq_false'] at h
  exact h.2

theorem segBad_of_marked {s : State} {c : Cmd} {g : Seg} (h : s.damaged.contains (c.dst, g.num) = true) : s.segBad c g = true := by
  rw [State.segBad, h, Bool.true_or, Bool.true_or]

theorem owed_iff {s : State} {c : Cmd} {j : Nat} : s.owed c j = true ↔
    enOk (s.entry c j) = true ∧ enState (s.entry c j) = 2 ∧ enDamaged (s.entry c j) = false := by
  simp only [State.owed, Bool.and_eq_true, beq_iff_eq, Bool.not_eq_true', and_assoc]

/-! ### A segment is marked DAMAGED (spec/10_compression.md R305) -/

/-- In `t` segment `j` is marked DAMAGED, counted in the field of LGX_EXP_ERR at `lo`, located and reported, and nothing has
been delivered since `s`. -/
structure State.Spoils (s : State) (c : Cmd) (j lo : Nat) (t : State) : Prop where
  marked : t.damaged.contains (c.dst, j) = true
  reported : (t.rd rEvtStatus).getLsbD causeSegment = true
  located : t.rd rExpErrAt = BitVec.ofNat 64 (j + c.job * 2 ^ 32 + c.q * 2 ^ 44)
  counted : t.fld rExpErr lo 16 = min 65535 (s.fld rExpErr lo 16 + 1)
  mem : t.mem = memWrite s.mem (c.tableAddr + 64 + 4 * j)
    (toLE (mkEntry (enState (s.entry c j)) true (enUnits (s.entry c j))) 4)
  feedOut : t.feedOut = s.feedOut

/-- The entry of a segment marked DAMAGED, and the failure counted in its field. -/
def State.countDamage (s : State) (c : Cmd) (j lo : Nat) : State :=
  (s.setEntry c j (enState (s.entry c j)) true (enUnits (s.entry c j))).sat rExpErr lo 16 1

/-- The segment kept as damaged. -/
def State.markDamage (s : State) (c : Cmd) (j : Nat) : State :=
  { s with damaged := if s.damaged.contains (c.dst, j) then s.damaged else (c.dst, j) :: s.damaged }

/-- The segment's number, job identifier and queue as LGX_EXP_ERR_AT holds them. -/
def Cmd.segmentWord (c : Cmd) (j : Nat) : Word := BitVec.ofNat 64 (j + c.job * 2 ^ 32 + c.q * 2 ^ 44)

theorem damage_parts (s : State) (c : Cmd) (j : Nat) (baseOnly : Bool) : s.damage c j baseOnly =
    (((s.countDamage c j (if baseOnly then 16 else 0)).wr rExpErrAt (c.segmentWord j)).markDamage c j).raise causeSegment := by
  cases baseOnly <;> simp only [State.damage, State.countDamage, State.markDamage, Cmd.segmentWord, Bool.false_eq_true, if_true, if_false]

section

variable (s : State) (c : Cmd) (j : Nat)

theorem markDamage_marks : (s.markDamage c j).damaged.contains (c.dst, j) = true := by
  simp only [State.markDamage]
  split
  · assumption
  · rw [List.contains_cons, beq_self_eq_true, Bool.true_or]

theorem markDamage_rd (o : Nat) : (s.markDamage c j).rd o = s.rd o := withDamaged_rd _ _ _

theorem markDamage_mem : (s.markDamage c j).mem = s.mem := rfl

theorem markDamage_feedOut : (s.markDamage c j).feedOut = s.feedOut := rfl

theorem countDamage_counts {lo : Nat} (hlo : lo + 16 ≤ 64) :
    (s.countDamage c j lo).fld rExpErr lo 16 = min 65535 (s.fld rExpErr lo 16 + 1) := by
  rw [State.countDamage, fld_sat_self _ _ _ _ _ hlo, State.fld, setEntry_rd, State.fld]
  rfl

theorem countDamage_mem (lo : Nat) : (s.countDamage c j lo).mem = memWrite s.mem (c.tableAddr + 64 + 4 * j)
    (toLE (mkEntry (enState (s.entry c j)) true (enUnits (s.entry c j))) 4) := by
  rw [State.countDamage, State.sat_mem, State.setEntry, State.writeNat, State.write]

theorem countDamage_feedOut (lo : Nat) : (s.countDamage c j lo).feedOut = s.feedOut := by
  rw [State.countDamage, State.sat_feedOut, State.setEntry, State.writeNat, State.write_feedOut]

end

theorem damage_spoils (s : State) (c : Cmd) (j : Nat) (baseOnly : Bool) :
    s.Spoils c j (if baseOnly then 16 else 0) (s.damage c j baseOnly) := by
  rw [damage_parts]
  generalize hlo : (if baseOnly then 16 else 0) = lo
  have hfits : lo + 16 ≤ 64 := by split at hlo <;> omega
  refine ⟨?_, raise_sets_cause _ _ (by decide), ?_, ?_, ?_, ?_⟩
  · rw [raise_damaged, markDamage_marks]
  · rw [raise_rd_ne _ _ _ (by decide), markDamage_rd, rd_wr_self, Cmd.segmentWord]
  · rw [State.fld, raise_rd_ne _ _ _ (by decide), markDamage_rd, rd_wr_ne _ _ _ _ (by decide)]
    exact countDamage_counts s c j hfits
  · rw [(raise_accounts _ _).mem, markDamage_mem, State.wr_mem, countDamage_mem]
  · rw [show State.feedOut (State.raise _ _) = _ from congrArg State.feedOut (raise_accounts _ _), markDamage_feedOut,
      State.wr_feedOut, countDamage_feedOut]

theorem State.Spoils.formed {s t : State} {c : Cmd} {j lo : Nat} (h : s.Spoils c j lo t) : s.Spoils c j lo t.formDigests.settled where
  marked := by rw [formed_damaged, h.marked]
  reported := formed_keeps_cause _ h.reported
  located := (formed_rd_of_watches_lt t (by decide)).trans h.located
  counted := (formed_fld_of_watches_lt t (by decide) _ _).trans h.counted
  mem := (formed_mem t).trans h.mem
  feedOut := (formed_feedOut t).trans h.feedOut

/-- What the damage is seen by, and its count. -/
theorem State.Spoils.outcome {s t : State} {c : Cmd} {j lo : Nat} (h : s.Spoils c j lo t) :
    (t.damaged.contains (c.dst, j) = true ∧ (t.rd rEvtStatus).getLsbD causeSegment = true
      ∧ t.rd rExpErrAt = BitVec.ofNat 64 (j + c.job * 2 ^ 32 + c.q * 2 ^ 44)
      ∧ t.mem = memWrite s.mem (c.tableAddr + 64 + 4 * j)
        (toLE (mkEntry (enState (s.entry c j)) true (enUnits (s.entry c j))) 4))
    ∧ t.fld rExpErr lo 16 = min 65535 (s.fld rExpErr lo 16 + 1) :=
  ⟨⟨h.marked, h.reported, h.located, h.mem⟩, h.counted⟩

/-- An event before the damage leaves what is marked, counted and located as it would be without it. -/
theorem State.Spoils.of_raise {s t : State} {c : Cmd} {j lo cause : Nat} (h : (s.raise cause).Spoils c j lo t) :
    s.Spoils c j lo t where
  marked := h.marked
  reported := h.reported
  located := h.located
  counted := by rw [h.counted, State.fld, raise_rd_ne _ _ _ (by decide), State.fld]
  mem := by rw [h.mem, entry_congr c (raise_accounts s cause).mem, (raise_accounts s cause).mem]
  feedOut := h.feedOut.trans (congrArg State.feedOut (raise_accounts s cause) :)

/-! ### The expansion of one segment (spec/10_compression.md R303 to R305) -/

/-- The plain bytes of a segment in the committed slot, its entry DONE, the segment no longer damaged, and counted. -/
def State.expanded (s : State) (c : Cmd) (g : Seg) (plain : List Byte) : State :=
  let t := (s.write (c.dst + s.tabCur c * c.plainSize + g.off) plain).setEntry c g.num 3 false (enUnits (s.entry c g.num))
  ({ t with damaged := t.damaged.filter (fun d => d != (c.dst, g.num)) } : State).sat rExpSegs 0 32 1

section

variable {s : State} {x : Out} {g : Seg}

theorem expandSeg_of_mismatched (h : enOk (s.entry x.cmd g.num) = false) : s.expandSeg x g = s.damage x.cmd g.num false := by
  simp only [State.expandSeg, h, Bool.not_false, if_true]

section

variable (howed : s.owed x.cmd g.num = true)

include howed

theorem expandSeg_of_flagged (hflag : s.expandFlagged x g = true) :
    s.expandSeg x g = (s.raise causeMemory).damage x.cmd g.num false := by
  obtain ⟨hok, hstate, hwhole⟩ := owed_iff.mp howed
  simp [State.expandSeg, hok, hstate, hwhole, hflag]

variable (hflag : s.expandFlagged x g = false)

include hflag

theorem expandSeg_of_failed {agree : Bool} (h : s.expand x g = (none, agree)) : s.expandSeg x g = s.damage x.cmd g.num false := by
  obtain ⟨hok, hstate, hwhole⟩ := owed_iff.mp howed
  simp [State.expandSeg, hok, hstate, hwhole, hflag, h]

theorem expandSeg_of_otherBase {plain : List Byte} (h : s.expand x g = (some plain, false)) :
    s.expandSeg x g = s.damage x.cmd g.num true := by
  obtain ⟨hok, hstate, hwhole⟩ := owed_iff.mp howed
  simp [State.expandSeg, hok, hstate, hwhole, hflag, h]

theorem expandSeg_of_good {plain : List Byte} (h : s.expand x g = (some plain, true)) :
    s.expandSeg x g = s.expanded x.cmd g plain := by
  obtain ⟨hok, hstate, hwhole⟩ := owed_iff.mp howed
  simp [State.expandSeg, State.expanded, hok, hstate, hwhole, hflag, h]

end

/-- An expansion that is owed spoils its segment, or delivers its bytes; nothing goes to the tiles. -/
theorem expandSeg_feedOut (howed : s.owed x.cmd g.num = true) : (s.expandSeg x g).feedOut = s.feedOut := by
  by_cases hflag : s.expandFlagged x g = true
  · rw [expandSeg_of_flagged howed hflag]
    exact (damage_spoils _ _ _ _).of_raise.feedOut
  · rw [Bool.not_eq_true] at hflag
    match h : s.expand x g with
    | (none, _) =>
      rw [expandSeg_of_failed howed hflag h]
      exact (damage_spoils _ _ _ _).feedOut
    | (some _, false) =>
      rw [expandSeg_of_otherBase howed hflag h]
      exact (damage_spoils _ _ _ _).feedOut
    | (some _, true) =>
      rw [expandSeg_of_good howed hflag h]
      rfl

/-- Memory after an expansion: the plain bytes, and the entry DONE. -/
def State.expandedMem (s : State) (c : Cmd) (g : Seg) (plain : List Byte) : SMap Byte :=
  memWrite (memWrite s.mem (c.dst + s.tabCur c * c.plainSize + g.off) plain) (c.tableAddr + 64 + 4 * g.num)
    (toLE (mkEntry 3 false (enUnits (s.entry c g.num))) 4)

theorem expanded_mem (s : State) (c : Cmd) (g : Seg) (plain : List Byte) :
    (s.expanded c g plain).mem = s.expandedMem c g plain := by
  rw [State.expanded, State.sat_mem, State.setEntry, State.writeNat, State.write, State.write, State.expandedMem]

theorem expanded_rd_ne (s : State) (c : Cmd) (g : Seg) (plain : List Byte) {o : Nat} (ho : o ≠ rExpSegs) :
    (s.expanded c g plain).rd o = s.rd o := by
  rw [State.expanded, rd_sat_ne _ _ _ _ _ _ ho, withDamaged_rd, setEntry_rd, State.rd, State.write_regs, State.rd]

theorem expanded_counts (s : State) (c : Cmd) (g : Seg) (plain : List Byte) :
    (s.expanded c g plain).fld rExpSegs 0 32 = min (2 ^ 32 - 1) (s.fld rExpSegs 0 32 + 1) := by
  rw [State.expanded, fld_sat_self _ _ _ _ _ (by decide), State.fld, withDamaged_rd, setEntry_rd, State.rd, State.write_regs,
    State.fld, State.rd]

theorem expanded_unmarks (s : State) (c : Cmd) (g : Seg) (plain : List Byte) :
    (s.expanded c g plain).damaged.contains (c.dst, g.num) = false := by
  simp [State.expanded]

end

end Sys2Proof.Machine

/-! How a piece of an expanded output is drawn (spec/10_compression.md R303, R305): its segments are brought into the plain slot,
part by part, and their bytes go to the tiles. -/

namespace Sys2Proof.Machine

/-! ### The segments of a part -/

/-- The segments that cover a byte of a piece. -/
def Cmd.covers (c : Cmd) (p : Piece) : List Seg :=
  c.segsOver p.offset p.len ++ (if p.sideLen = 0 then [] else c.segsOver p.sideOffset p.sideLen)

/-- Beats go to the tiles. -/
def State.toTiles (s : State) (beats : List (BitVec 128 × List Byte)) : State := { s with feedOut := s.feedOut ++ beats }

/-- `t` is `s` after `n` segments were read back, which is counted, and `beats` went to the tiles. -/
structure State.Draws (s : State) (n : Nat) (beats : List (BitVec 128 × List Byte)) (t : State) : Prop where
  frame : t = { s with regs := t.regs, feedOut := s.feedOut ++ beats }
  counted : t.fld rExpSegs 32 32 = min (2 ^ 32 - 1) (s.fld rExpSegs 32 32 + n)

namespace State.Draws

variable {s t u : State} {m n : Nat} {beats more : List (BitVec 128 × List Byte)}

theorem mem (h : s.Draws n beats t) : t.mem = s.mem := (congrArg State.mem h.frame :)
theorem damaged (h : s.Draws n beats t) : t.damaged = s.damaged := (congrArg State.damaged h.frame :)
theorem feedOut (h : s.Draws n beats t) : t.feedOut = s.feedOut ++ beats := (congrArg State.feedOut h.frame :)

theorem ofTiles (s : State) (beats : List (BitVec 128 × List Byte)) : s.Draws 0 beats (s.toTiles beats) where
  frame := rfl
  counted := by
    have hle := fld_lt s rExpSegs 32 32
    change s.fld rExpSegs 32 32 = _
    omega

theorem refl (s : State) : s.Draws 0 [] s := by
  have h := ofTiles s []
  rwa [State.toTiles, List.append_nil] at h

theorem one (s : State) : s.Draws 1 [] (s.sat rExpSegs 32 32 1) where
  frame := by rw [List.append_nil]; rfl
  counted := fld_sat_self _ _ _ _ _ (by decide)

theorem trans (hst : s.Draws m beats t) (htu : t.Draws n more u) : s.Draws (m + n) (beats ++ more) u where
  frame := calc
    u = { t with regs := u.regs, feedOut := t.feedOut ++ more } := htu.frame
    _ = { s with regs := u.regs, feedOut := t.feedOut ++ more } :=
      congrArg (fun x : State => { x with regs := u.regs, feedOut := t.feedOut ++ more }) hst.frame
    _ = _ := by rw [hst.feedOut, List.append_assoc]
  counted := by rw [htu.counted, hst.counted]; omega

end State.Draws

/-- The expander has nothing to do for a segment: it can be delivered, and is not owed. -/
def State.hasPlain (s : State) (c : Cmd) (g : Seg) : Prop := s.segBad c g = false ∧ s.owed c g.num = false

theorem hasPlain_congr {s t : State} (hmem : t.mem = s.mem) (hdamaged : t.damaged = s.damaged) {c : Cmd} {g : Seg}
    (h : s.hasPlain c g) : t.hasPlain c g :=
  ⟨(segBad_congr c hmem hdamaged g).trans h.1, (owed_congr c hmem g.num).trans h.2⟩

section

variable {s : State} {x : Out} (p : Piece) (scale : Bool) {off len : Nat}

theorem bringSegs_of_plain (s : State) (l : List Seg) (h : ∀ g ∈ l, s.hasPlain x.cmd g) :
    ∃ t, s.bringSegs x l = (l, t) ∧ s.Draws l.length [] t := by
  induction l generalizing s with
  | nil => exact ⟨s, rfl, .refl s⟩
  | cons g gs ih =>
    have hone := State.Draws.one s
    obtain ⟨hbad, -⟩ := hasPlain_congr hone.mem hone.damaged (h g List.mem_cons_self)
    obtain ⟨t, hbring, hback⟩ := ih (s.sat rExpSegs 32 32 1)
      (fun y hy => hasPlain_congr hone.mem hone.damaged (h y (List.mem_cons_of_mem g hy)))
    refine ⟨t, ?_, by rw [List.length_cons, Nat.add_comm]; exact hone.trans hback⟩
    rw [State.bringSegs, (h g List.mem_cons_self).2, if_neg Bool.false_ne_true]
    simp only [hbad, Bool.false_eq_true, if_false, hbring]

theorem bringSegs_owed {g : Seg} (howed : s.owed x.cmd g.num = true) :
    s.bringSegs x [g] = (if (s.expandSeg x g).segBad x.cmd g then [] else [g], s.expandSeg x g) := by
  simp only [State.bringSegs, howed, if_true]
  split <;> rfl

/-- With all its segments in the plain slot a part is drawn whole. -/
theorem drawPart_of_brought {t : State} (h : s.bringSegs x (x.cmd.segsOver off len) = (x.cmd.segsOver off len, t)) :
    s.drawPart x p scale off len = (true, t.toTiles (p.beats scale (t.plainAt x.cmd off len))) := by
  simp only [State.drawPart, h, List.drop_length, decide_true]
  rfl

theorem drawPart_of_plain (h : ∀ g ∈ x.cmd.segsOver off len, s.hasPlain x.cmd g) : ∃ t,
    s.drawPart x p scale off len = (true, t)
      ∧ s.Draws (x.cmd.segsOver off len).length (p.beats scale (s.plainAt x.cmd off len)) t := by
  obtain ⟨t, hbring, hback⟩ := bringSegs_of_plain s _ h
  refine ⟨_, drawPart_of_brought p scale hbring, ?_⟩
  have hdraws := hback.trans (.ofTiles t (p.beats scale (s.plainAt x.cmd off len)))
  rw [Nat.add_zero, List.nil_append] at hdraws
  rwa [plainAt_congr x.cmd hback.mem]

theorem beats_nil : p.beats scale [] = [] := rfl

/-- A part whose first segment is found damaged delivers nothing. -/
theorem drawPart_of_spoilt {g : Seg} (hsegs : x.cmd.segsOver off len = [g]) (howed : s.owed x.cmd g.num = true)
    (hbad : (s.expandSeg x g).segBad x.cmd g = true) (hoff : g.off ≤ off) :
    (s.drawPart x p scale off len).2 = (s.expandSeg x g).toTiles [] := by
  simp only [State.drawPart, hsegs, bringSegs_owed howed, hbad, if_true, List.length_nil, List.drop_zero,
    Nat.sub_eq_zero_of_le hoff, Nat.zero_div, Nat.zero_mul, State.read, beats_nil]
  rfl

end

/-! ### A whole piece -/

/-- Both parts of a piece, the second one when the first was drawn whole. -/
def State.drawParts (s : State) (x : Out) (p : Piece) : State :=
  let (ok, t) := s.drawPart x p false p.offset p.len
  if ok && p.sideLen != 0 then (t.drawPart x p true p.sideOffset p.sideLen).2 else t

/-- A piece whose segments all have their plain bytes is drawn whole. -/
theorem drawParts_of_plain {s : State} {x : Out} {p : Piece} (h : ∀ g ∈ x.cmd.covers p, s.hasPlain x.cmd g) :
    s.Draws (x.cmd.covers p).length (p.beats false (s.plainAt x.cmd p.offset p.len)
      ++ if p.sideLen = 0 then [] else p.beats true (s.plainAt x.cmd p.sideOffset p.sideLen)) (s.drawParts x p) := by
  obtain ⟨t, hdraw, hdraws⟩ := drawPart_of_plain p false (fun g hg => h g (List.mem_append_left _ hg))
  by_cases hside : p.sideLen = 0
  · simpa only [State.drawParts, Cmd.covers, hdraw, hside, if_true, List.append_nil, bne_self_eq_false, Bool.and_false,
      Bool.false_eq_true, if_false] using hdraws
  · have hrest : ∀ g ∈ x.cmd.segsOver p.sideOffset p.sideLen, t.hasPlain x.cmd g := fun g hg =>
      hasPlain_congr hdraws.mem hdraws.damaged (h g (List.mem_append_right _ (by rwa [if_neg hside])))
    obtain ⟨u, hdraw', hdraws'⟩ := drawPart_of_plain p true hrest
    rw [plainAt_congr x.cmd hdraws.mem] at hdraws'
    simpa [State.drawParts, Cmd.covers, hdraw, hdraw', hside] using hdraws.trans hdraws'

/-- Entries whose complements match are not marked. -/
theorem foldl_entries_of_ok {s : State} {c : Cmd} {l : List Seg} (hok : ∀ g ∈ l, enOk (s.entry c g.num) = true) :
    l.foldl (fun s g => if enOk (s.entry c g.num) then s else s.damage c g.num false) s = s := by
  induction l with
  | nil => rfl
  | cons g gs ih =>
    rw [List.foldl_cons, if_pos (hok g List.mem_cons_self)]
    exact ih (fun y hy => hok y (List.mem_cons_of_mem g hy))

section

variable {s : State} {q i n : Nat} {p : Piece} (hp : s.pieces.find? (fun p => p.q == q && p.i == i && p.num == n) = some p)

include hp

theorem effPieceDraw_of_plain (hx : s.outs.find? (fun x => x.cmd.q == q && x.cmd.i == i) = none) : effPieceDraw q i n s =
    s.toTiles (p.beats false (s.read p.addr p.len) ++ p.beats true (s.read p.sideAddr p.sideLen)) := by
  simp only [effPieceDraw, hp, hx, State.toTiles, List.append_assoc]

variable {x : Out} (hx : s.outs.find? (fun x => x.cmd.q == q && x.cmd.i == i) = some x)

include hx

theorem effPieceDraw_of_out (hok : ∀ g ∈ x.cmd.covers p, enOk (s.entry x.cmd g.num) = true) : effPieceDraw q i n s =
    if (x.cmd.covers p).any (s.segBad x.cmd) then s else s.drawParts x p := by
  have hfold := foldl_entries_of_ok hok
  rw [Cmd.covers] at hfold ⊢
  simp only [effPieceDraw, hp, hx, hfold, State.drawParts]

theorem effPieceDraw_of_bad (hok : ∀ g ∈ x.cmd.covers p, enOk (s.entry x.cmd g.num) = true)
    (hbad : ∃ g ∈ x.cmd.covers p, s.segBad x.cmd g = true) : effPieceDraw q i n s = s := by
  rw [effPieceDraw_of_out hp hx hok, if_pos (List.any_eq_true.mpr hbad)]

theorem effPieceDraw_of_good (hgood : ∀ g ∈ x.cmd.covers p, s.segBad x.cmd g = false) :
    effPieceDraw q i n s = s.drawParts x p := by
  rw [effPieceDraw_of_out hp hx (fun g hg => enOk_of_segBad (hgood g hg)), if_neg]
  simpa using hgood

theorem effPieceDraw_of_mismatched {g : Seg} (hcover : x.cmd.covers p = [g]) (h : enOk (s.entry x.cmd g.num) = false) :
    effPieceDraw q i n s = s.damage x.cmd g.num false := by
  have hbad : (s.damage x.cmd g.num false).segBad x.cmd g = true := segBad_of_marked (damage_spoils s x.cmd g.num false).marked
  rw [Cmd.covers] at hcover
  simp only [effPieceDraw, hp, hx, hcover, List.foldl_cons, List.foldl_nil, h, Bool.false_eq_true, if_false, List.any_cons, hbad,
    Bool.true_or, if_true]

end

end Sys2Proof.Machine

/-! What PIECE_DRAW and EXPAND_BACKGROUND answer (spec/10_compression.md R303 to R306), and the obligation. -/

namespace Sys2Proof.Machine

/-! ### PIECE_DRAW -/

section

variable {s : State} {q i n : Nat} {p : Piece} (hr : s.ctl.resetOn = false) (hfree : s.digestHolds 1 = false)
  (hp : s.pieces.find? (fun p => p.q == q && p.i == i && p.num == n) = some p)

include hr hfree hp

/-- The beats of a piece of a plain output follow those that wait: its element bytes, then its scale or side bytes. -/
theorem pieceDraw_of_plain (hx : s.outs.find? (fun x => x.cmd.q == q && x.cmd.i == i) = none) :
    ∃ t, exec (.pieceDraw q i n) s = .next t
      ∧ t.feedOut = s.feedOut ++ (p.beats false (s.read p.addr p.len) ++ p.beats true (s.read p.sideAddr p.sideLen))
      ∧ t.mem = s.mem ∧ t.pieces = s.pieces := by
  refine ⟨_, exec_pieceDraw hr q i n hfree, ?_⟩
  rw [effPieceDraw_of_plain hp hx]
  exact ⟨formed_feedOut _, formed_mem _, formed_pieces _⟩

/-- So each of its beats has its place behind them. -/
theorem pieceDraw_runs (hx : s.outs.find? (fun x => x.cmd.q == q && x.cmd.i == i) = none) :
    let run := fun (t : State) (scale : Bool) (first addr len : Nat) => ∀ j < cdiv len 512,
      t.feedOut[s.feedOut.length + first + j]? = some (beatTag 0 p.q p.job scale false false p.num (512 * j)
        (min 512 (len - 512 * j) - 1), sliceB (s.read (addr + 512 * j) (min 512 (len - 512 * j))) 0 512)
    ∃ t, exec (.pieceDraw q i n) s = .next t
      ∧ t.feedOut.length = s.feedOut.length + cdiv p.len 512 + cdiv p.sideLen 512
      ∧ run t false 0 p.addr p.len ∧ run t true (cdiv p.len 512) p.sideAddr p.sideLen
      ∧ (∀ j < s.feedOut.length, t.feedOut[j]? = s.feedOut[j]?) ∧ t.mem = s.mem ∧ t.pieces = s.pieces := by
  obtain ⟨t, hexec, hfeed, hmem, hpieces⟩ := pieceDraw_of_plain hr hfree hp hx
  have hels := length_beats_read p false s p.addr p.len
  have hside := length_beats_read p true s p.sideAddr p.sideLen
  refine ⟨t, hexec, ?_, fun j hj => ?_, fun j hj => ?_, fun j hj => ?_, hmem, hpieces⟩
  · rw [hfeed, List.length_append, List.length_append, hels, hside, Nat.add_assoc]
  · rw [hfeed, Nat.add_zero, List.getElem?_append_right (Nat.le_add_right _ _), Nat.add_sub_cancel_left,
      List.getElem?_append_left (by rwa [hels]), beats_read_getElem? p false s _ _ _ hj]
  · rw [hfeed, Nat.add_assoc, List.getElem?_append_right (Nat.le_add_right _ _), Nat.add_sub_cancel_left,
      List.getElem?_append_right (by rw [hels]; exact Nat.le_add_right _ _), hels, Nat.add_sub_cancel_left,
      beats_read_getElem? p true s _ _ _ hj]
  · rw [hfeed, List.getElem?_append_left hj]

variable {x : Out} (hx : s.outs.find? (fun x => x.cmd.q == q && x.cmd.i == i) = some x)

include hx

/-- Nothing is drawn of a piece that a damaged segment covers. -/
theorem pieceDraw_of_bad (hbad : ∃ g ∈ x.cmd.covers p, s.segBad x.cmd g = true)
    (hok : ∀ g ∈ x.cmd.covers p, enOk (s.entry x.cmd g.num) = true) :
    ∃ t, exec (.pieceDraw q i n) s = .next t ∧ t.feedOut = s.feedOut ∧ t.mem = s.mem := by
  refine ⟨_, exec_pieceDraw hr q i n hfree, ?_⟩
  rw [effPieceDraw_of_bad hp hx hok hbad]
  exact ⟨formed_feedOut s, formed_mem s⟩

/-- A segment whose entry does not match its complement is marked as its piece is drawn. -/
theorem pieceDraw_of_mismatched {g : Seg} (hcover : x.cmd.covers p = [g]) (h : enOk (s.entry x.cmd g.num) = false) :
    ∃ t, exec (.pieceDraw q i n) s = .next t ∧ s.Spoils x.cmd g.num 0 t := by
  refine ⟨_, exec_pieceDraw hr q i n hfree, ?_⟩
  rw [effPieceDraw_of_mismatched hp hx hcover h]
  exact (damage_spoils s x.cmd g.num false).formed

/-- A piece whose segments all have their plain bytes is read back. -/
theorem pieceDraw_of_hasPlain (h : ∀ g ∈ x.cmd.covers p, s.hasPlain x.cmd g) :
    ∃ t, exec (.pieceDraw q i n) s = .next t
      ∧ t.feedOut = s.feedOut ++ (p.beats false (s.plainAt x.cmd p.offset p.len)
          ++ if p.sideLen = 0 then [] else p.beats true (s.plainAt x.cmd p.sideOffset p.sideLen))
      ∧ t.fld rExpSegs 32 32 = min (2 ^ 32 - 1) (s.fld rExpSegs 32 32 + (x.cmd.covers p).length) ∧ t.mem = s.mem := by
  have hdraws := drawParts_of_plain h
  refine ⟨_, exec_pieceDraw hr q i n hfree, ?_⟩
  rw [effPieceDraw_of_good hp hx (fun g hg => (h g hg).1)]
  exact ⟨(formed_feedOut _).trans hdraws.feedOut, (formed_fld_of_watches_lt _ (by decide) _ _).trans hdraws.counted,
    (formed_mem _).trans hdraws.mem⟩

section

variable {g : Seg} (hsegs : x.cmd.segsOver p.offset p.len = [g]) (hside : p.sideLen = 0) (hgood : s.segBad x.cmd g = false)

include hsegs hside hgood

/-- A piece of element bytes under one segment is its one part. -/
theorem pieceDraw_of_one :
    exec (.pieceDraw q i n) s = .next (s.drawPart x p false p.offset p.len).2.formDigests.settled := by
  have hcover : x.cmd.covers p = [g] := by rw [Cmd.covers, hsegs, if_pos hside, List.append_nil]
  rw [exec_pieceDraw hr q i n hfree, effPieceDraw_of_good hp hx (by simpa [hcover] using hgood)]
  simp [State.drawParts, hside]

variable (howed : s.owed x.cmd g.num = true)

include howed

/-- An owed segment is expanded before the piece under it is drawn. -/
theorem pieceDraw_of_expanded (h : (s.expandSeg x g).segBad x.cmd g = false) :
    ∃ t, exec (.pieceDraw q i n) s = .next t
      ∧ t.feedOut = s.feedOut ++ p.beats false ((s.expandSeg x g).plainAt x.cmd p.offset p.len)
      ∧ t.mem = (s.expandSeg x g).mem := by
  refine ⟨_, pieceDraw_of_one hr hfree hp hx hsegs hside hgood, ?_⟩
  rw [drawPart_of_brought (t := s.expandSeg x g) p false (by rw [hsegs, bringSegs_owed howed, h, if_neg Bool.false_ne_true]),
    formed_feedOut, formed_mem]
  exact ⟨congrArg (· ++ _) (expandSeg_feedOut howed), rfl⟩

/-- Nothing is delivered of a piece whose segment the expansion finds damaged. -/
theorem pieceDraw_of_spoilt (h : (s.expandSeg x g).segBad x.cmd g = true) (hoff : g.off ≤ p.offset) :
    ∃ t, exec (.pieceDraw q i n) s = .next t ∧ t.feedOut = s.feedOut ∧ t.mem = (s.expandSeg x g).mem := by
  refine ⟨_, pieceDraw_of_one hr hfree hp hx hsegs hside hgood, ?_⟩
  rw [drawPart_of_spoilt p false hsegs howed h hoff, formed_feedOut, formed_mem]
  exact ⟨(List.append_nil _).trans (expandSeg_feedOut howed), rfl⟩

end

end

/-! ### EXPAND_BACKGROUND -/

section

variable {s : State} {q i : Nat} {x : Out} (hr : s.ctl.resetOn = false) (hfree : s.digestHolds 1 = false)
  (hx : s.outs.find? (fun x => x.cmd.q == q && x.cmd.i == i) = some x)

include hr hfree hx

theorem expandBackground_of_none (hnext : s.nextOwed x = none) :
    exec (.expandBackground q i) s = .next s.formDigests.settled := by
  rw [exec_expandBackground hr q i hfree]
  simp only [effExpandBackground, hx, hnext]

variable {g : Seg} (hnext : s.nextOwed x = some g)

include hnext

theorem expandBackground_of_next : exec (.expandBackground q i) s = .next (s.expandSeg x g).formDigests.settled := by
  rw [exec_expandBackground hr q i hfree]
  simp only [effExpandBackground, hx, hnext]

theorem expandBackground_of_mismatched (h : enOk (s.entry x.cmd g.num) = false) :
    ∃ t, exec (.expandBackground q i) s = .next t ∧ s.Spoils x.cmd g.num 0 t := by
  refine ⟨_, expandBackground_of_next hr hfree hx hnext, ?_⟩
  rw [expandSeg_of_mismatched h]
  exact (damage_spoils s x.cmd g.num false).formed

section

variable (howed : s.owed x.cmd g.num = true)

include howed

/-- A flagged read of the record or of its base is a memory error too (R305). -/
theorem expandBackground_of_flagged (hflag : s.expandFlagged x g = true) :
    ∃ t, exec (.expandBackground q i) s = .next t ∧ s.Spoils x.cmd g.num 0 t
      ∧ (t.rd rEvtStatus).getLsbD causeMemory = true := by
  refine ⟨_, expandBackground_of_next hr hfree hx hnext, ?_⟩
  rw [expandSeg_of_flagged howed hflag]
  exact ⟨(damage_spoils (s.raise causeMemory) x.cmd g.num false).of_raise.formed,
    formed_keeps_cause _ ((damage_damages (s.raise causeMemory) x.cmd g.num).cause _ (raise_sets_cause s _ (by decide)))⟩

variable (hflag : s.expandFlagged x g = false)

include hflag

theorem expandBackground_of_failed {agree : Bool} (h : s.expand x g = (none, agree)) :
    ∃ t, exec (.expandBackground q i) s = .next t ∧ s.Spoils x.cmd g.num 0 t := by
  refine ⟨_, expandBackground_of_next hr hfree hx hnext, ?_⟩
  rw [expandSeg_of_failed howed hflag h]
  exact (damage_spoils s x.cmd g.num false).formed

theorem expandBackground_of_otherBase {plain : List Byte} (h : s.expand x g = (some plain, false)) :
    ∃ t, exec (.expandBackground q i) s = .next t ∧ s.Spoils x.cmd g.num 16 t := by
  refine ⟨_, expandBackground_of_next hr hfree hx hnext, ?_⟩
  rw [expandSeg_of_otherBase howed hflag h]
  exact (damage_spoils s x.cmd g.num true).formed

theorem expandBackground_of_good {plain : List Byte} (h : s.expand x g = (some plain, true)) :
    ∃ t, exec (.expandBackground q i) s = .next t ∧ t.mem = s.expandedMem x.cmd g plain
      ∧ t.damaged.contains (x.cmd.dst, g.num) = false ∧ t.rd rExpErr = s.rd rExpErr
      ∧ t.fld rExpSegs 0 32 = min (2 ^ 32 - 1) (s.fld rExpSegs 0 32 + 1) := by
  refine ⟨_, expandBackground_of_next hr hfree hx hnext, ?_⟩
  rw [expandSeg_of_good howed hflag h]
  refine ⟨(formed_mem _).trans (expanded_mem s x.cmd g plain), ?_, ?_, ?_⟩
  · rw [formed_damaged, expanded_unmarks]
  · rw [formed_rd_of_watches_lt _ (by decide), expanded_rd_ne _ _ _ _ (by decide)]
  · rw [formed_fld_of_watches_lt _ (by decide), expanded_counts]

end

end

/-! ### The obligation -/

/-- Settles O57: the record at HEAD of its ring, the beats of a piece, and the segment that the expander takes next. -/
theorem digestsAndPieces : Obligations.DigestsAndPieces := by
  unfold Obligations.DigestsAndPieces
  intro s hr
  refine ⟨fun d rest hd hlen => ⟨digestRecord_written hr hd hlen, digestRecord_dropped hr hd, fun hfull hstall => ?_⟩, fun hd => ?_,
    fun q i n hholds => ⟨exec_pieceDraw_of_holds hr q i n hholds, exec_expandBackground_of_holds hr q i hholds⟩,
    fun hfree => ⟨fun q i n p hp hx => pieceDraw_runs hr hfree hp hx, fun q i n p x hp hx => ⟨?_, ?_, ?_, ?_⟩,
      fun q i x hx => expandBackground_of_none hr hfree hx, fun q i x g hx hnext => ⟨?_, ?_, fun ⟨_, howed⟩ hflag => ⟨?_, ?_, ?_⟩⟩⟩⟩
  · rw [exec_digestRecord hr, effDigestRecord_of_stalling hd hfull hstall]
  · rw [exec_digestRecord hr, effDigestRecord_of_none hd]
  · exact pieceDraw_of_bad hr hfree hp hx
  · intro g hcover hok
    obtain ⟨t, hexec, hspoils⟩ := pieceDraw_of_mismatched hr hfree hp hx hcover hok
    exact ⟨t, hexec, hspoils.feedOut, hspoils.marked, hspoils.reported, hspoils.counted⟩
  · intro h
    obtain ⟨t, hexec, hfeed, hcounted, hmem⟩ := pieceDraw_of_hasPlain hr hfree hp hx h
    exact ⟨t, hexec, hfeed.trans (List.append_assoc _ _ _).symm, hcounted, hmem⟩
  · exact fun g hsegs hside hgood howed => ⟨pieceDraw_of_expanded hr hfree hp hx hsegs hside hgood howed,
      pieceDraw_of_spoilt hr hfree hp hx hsegs hside hgood howed⟩
  · intro hok
    obtain ⟨t, hexec, hspoils⟩ := expandBackground_of_mismatched hr hfree hx hnext hok
    exact ⟨t, hexec, hspoils.outcome⟩
  · intro ⟨_, howed⟩ hflag
    obtain ⟨t, hexec, hspoils, hmemory⟩ := expandBackground_of_flagged hr hfree hx hnext howed hflag
    exact ⟨t, hexec, hspoils.outcome.1, hspoils.counted, hmemory⟩
  · intro agree h
    obtain ⟨t, hexec, hspoils⟩ := expandBackground_of_failed hr hfree hx hnext howed hflag h
    exact ⟨t, hexec, hspoils.outcome⟩
  · intro plain h
    obtain ⟨t, hexec, hspoils⟩ := expandBackground_of_otherBase hr hfree hx hnext howed hflag h
    exact ⟨t, hexec, hspoils.outcome⟩
  · exact fun plain h => expandBackground_of_good hr hfree hx hnext howed hflag h

end Sys2Proof.Machine

/-! Repairs and firmware images that the mailbox brings (spec/12_resilience.md R360 to R363, spec/13_control.md R376, R379). -/

namespace Sys2Proof.Machine

/-! ### What a command reads, and what its response leaves -/

/-- A read that meets no flag is used. -/
theorem reading_of_good {s : State} {m a n : Nat} (h : s.flagged a n = false) (act : State → State) :
    s.reading m [(a, n)] act = act s := by
  simp [State.reading, State.anyFlagged, h]

/-- A response changes no record of repairs. -/
theorem post_rep (s : State) (m st : Nat) (body : List Byte) : (s.post m st body).rep = s.rep := by
  rw [post_eq_raise, raise_rep _ _ (by decide), endBusy_eq, putResponse_eq]

theorem settled_mbxBusy (s : State) {m : Nat} (hm : m < 4) : s.settled.mbxBusy m = s.mbxBusy m := by
  rw [State.mbxBusy, settled_fld_mailbox _ _ _ _ (by simp only [rMbxState]; omega) (by simp only [rMbxState]; omega), State.mbxBusy]

theorem settled_status (s : State) {m : Nat} (hm : m < 4) : s.settled.fld (rMbxRsp m 1) 8 8 = s.fld (rMbxRsp m 1) 8 8 :=
  settled_fld_mailbox s _ _ _ (by simp only [rMbxRsp]; omega) (by simp only [rMbxRsp]; omega)

/-! ### Which spare repairs a resource (R360) -/

/-- Without recorded events the resource itself is repaired, an SRAM bank by a bank. -/
theorem repairTarget_nil (w : BitVec 32) : repairTarget w [] = (resType w, resUnit w, resIndex w) := by
  unfold repairTarget
  simp only
  split
  · rename_i h
    rw [h]
  · rfl

theorem repairFrom_of_spare {s : State} {w : BitVec 32} {evs : List (Nat × Nat × Nat)} {t u i sp : Nat}
    (htarget : repairTarget w evs = (t, u, i)) (hfree : s.freeSpare t u = some sp) :
    s.repairFrom w evs = (true, s.takeSpare t u i sp) := by
  simp only [State.repairFrom, htarget, hfree]

/-- Only a row or a column falls back to a bank. -/
theorem repairFrom_of_none {s : State} {w : BitVec 32} {evs : List (Nat × Nat × Nat)} {t u i : Nat}
    (htarget : repairTarget w evs = (t, u, i)) (hfree : s.freeSpare t u = none) (hrow : t ≠ 5) (hcol : t ≠ 6) :
    s.repairFrom w evs = (false, s) := by
  simp only [State.repairFrom, htarget, hfree, hrow, hcol, or_self, if_false]

/-! ### The commands -/

section

variable {s : State} {m : Nat}

theorem exec_repairReport (h : s.takes m 0x0030) : exec (.repairReport m) s = .next (((s.write (rqAt (s.request m) 0 8)
    (s.rep.inUse.flatMap (fun w => toLE (mapEntry w) 8))).post m stOk (toLE s.rep.inUse.length 4)).settled) :=
  (done_live _ s h.resetOn).trans (by rw [effRepairReport, takeCmd_of_takes h])

section

variable {w : BitVec 32} (h : s.takes m 0x0031) (hw : BitVec.ofNat 32 (rqAt (s.request m) 0 4) = w) (hword : wordOkRes w = true)
  (hpresent : s.unitAbsent w = false)

include h hw hword hpresent

/-- REPAIR of a good word that finds a spare. -/
theorem exec_repair_of_spare {sp : Nat} (hfree : s.freeSpare (resType w) (resUnit w) = some sp) : exec (.repair m) s =
    .next (((s.takeSpare (resType w) (resUnit w) (resIndex w) sp).post m stOk
      (toLE (((s.takeSpare (resType w) (resUnit w) (resIndex w) sp).rep.inUse.getLast?).getD 0).toNat 4)).settled) := by
  refine (done_live (effRepair m) s h.resetOn).trans ?_
  rw [effRepair, takeCmd_of_takes h]
  simp only [hw, hword, hpresent, repairFrom_of_spare (repairTarget_nil w) hfree, Bool.not_true, Bool.false_eq_true, if_false]

/-- REPAIR of a good word that finds none. -/
theorem exec_repair_of_none (hrow : resType w ≠ 5) (hcol : resType w ≠ 6) (hfree : s.freeSpare (resType w) (resUnit w) = none) :
    exec (.repair m) s = .next ((s.postStatus m stExhausted).settled) := by
  refine (done_live (effRepair m) s h.resetOn).trans ?_
  rw [effRepair, takeCmd_of_takes h]
  simp only [hw, hword, hpresent, repairFrom_of_none (repairTarget_nil w) hfree hrow hcol, Bool.not_true, Bool.false_eq_true,
    if_false]

end

/-- LGX_REP_STATUS alone follows the spares. -/
theorem repStatus_eq_wr (s : State) : ∃ v, s.repStatus = s.wr rRepStatus v := ⟨_, rfl⟩

theorem repStatus_rep (s : State) : s.repStatus.rep = s.rep := by
  obtain ⟨v, h⟩ := repStatus_eq_wr s
  rw [h, State.wr_rep]

theorem repStatus_mem (s : State) : s.repStatus.mem = s.mem := by
  obtain ⟨v, h⟩ := repStatus_eq_wr s
  rw [h, State.wr_mem]

/-- The ports whose lanes the entries of a map replace (spec/09_fabric.md R258). -/
def State.retireReplaced (s : State) (ws : List (BitVec 32)) : State :=
  ws.foldl (fun s w => if resType w = 1 then s.setPort (resUnit w) ((s.port (resUnit w)).retire (resIndex w) true) else s) s

theorem retireReplaced_eq (ws : List (BitVec 32)) (s : State) :
    s.retireReplaced ws = { s with ports := (s.retireReplaced ws).ports } := by
  induction ws generalizing s with
  | nil => rfl
  | cons w ws ih =>
    rw [State.retireReplaced, List.foldl_cons]
    refine (ih _).trans ?_
    split <;> rfl

theorem retireReplaced_rep (ws : List (BitVec 32)) (s : State) : (s.retireReplaced ws).rep = s.rep := by
  rw [retireReplaced_eq]

theorem retireReplaced_mem (ws : List (BitVec 32)) (s : State) : (s.retireReplaced ws).mem = s.mem := by
  rw [retireReplaced_eq]

/-- The map in memory is the one in use. -/
def State.mapLoaded (s : State) (ws : List (BitVec 32)) : State :=
  (({ s with rep := { s.rep with inUse := ws } } : State).repStatus).retireReplaced ws

theorem mapLoaded_rep (s : State) (ws : List (BitVec 32)) : (s.mapLoaded ws).rep = { s.rep with inUse := ws } := by
  rw [State.mapLoaded, retireReplaced_rep, repStatus_rep]

theorem mapLoaded_mem (s : State) (ws : List (BitVec 32)) : (s.mapLoaded ws).mem = s.mem := by
  rw [State.mapLoaded, retireReplaced_mem, repStatus_mem]

section

variable {a : Nat} {x : List (BitVec 32) × Bool} (h : s.takes m 0x0032) (hclosed : s.job.isOpen = false)
  (ha : s.fld rRepMapBase 16 48 * 65536 = a) (hx : s.readMap a 8192 = x)
  (hgood : s.flagged a (8 * min 8192 (x.1.length + 1)) = false)

include h hclosed ha hx hgood

/-- LOAD_REPAIR_MAP of a map that is read without a flag. -/
theorem effLoadRepairMap_of_good : effLoadRepairMap m s = if x.2 then (s.raise causeRepairMap).postStatus m stData
    else (s.mapLoaded x.1).post m stOk (toLE x.1.length 4) := by
  rw [effLoadRepairMap, takeCmd_of_takes h]
  obtain ⟨ws, bad⟩ := x
  simp only [hclosed, ha, hx, Bool.false_eq_true, if_false]
  rw [reading_of_good hgood]
  rfl

theorem loadRepairMap_takes (hmap : x.2 = false) : ∃ t, exec (.loadRepairMap m) s = .next t ∧ t.rep.inUse = x.1
    ∧ t.mbxBusy m = false ∧ t.mem = s.mem ∧ t.fld (rMbxRsp m 1) 8 8 = stOk := by
  refine ⟨_, (done_live _ s h.resetOn).trans (by
    rw [effLoadRepairMap_of_good h hclosed ha hx hgood, hmap, if_neg Bool.false_ne_true]), ?_, ?_, ?_, ?_⟩
  · rw [settled_rep, post_rep, mapLoaded_rep]
  · rw [settled_mbxBusy _ h.1, post_mbxBusy]
  · rw [settled_mem, post_eq]
    exact mapLoaded_mem s _
  · rw [settled_status _ h.1]
    exact post_status _ m stOk _ (by decide)

end

/-- The firmware of an image whose header `h` is good runs (R379). -/
def State.updated (s : State) (h : List Byte) : State :=
  { s with spindle := { s.spindle with
      loaded := true, minor := byteAt h 4, major := byteAt h 5, svn := leAt h 6 2, best := leAt h 6 2, lastBeat := s.now } }

/-- FW_UPDATE of an image whose header is good: the signature decides. -/
theorem effFwUpdate_of_header (h : s.takes m 0x0040) (hclosed : s.job.isOpen = false) {src len : Nat} {b : List Byte}
    (hsrc : rqAt (s.request m) 0 8 = src) (hlen : rqAt (s.request m) 8 4 = len) (hb : s.read src 256 = b)
    (hsize : len = 256 + leAt b 8 4) (hkey : byteAt b 12 = s.fld rKeySlot 0 2) (hcompl : byteAt b 13 = complB 1 (byteAt b 12))
    (hmajor : byteAt b 5 = 3) (hsvn : s.spindle.best ≤ leAt b 6 2) (hgood : s.flagged src (max 256 len) = false) :
    effFwUpdate m s = if Config.signatureGood (byteAt b 12) (sliceB b 64 96) (sliceB b 0 64 ++ s.read (src + 256) (len - 256)) = true
      then (s.updated b).post m stOk (toLE (byteAt b 4) 1 ++ toLE (byteAt b 5) 1 ++ toLE (leAt b 6 2) 2)
      else s.postStatus m stSignature := by
  rw [effFwUpdate, takeCmd_of_takes h]
  simp only [hclosed, Bool.false_eq_true, if_false, hsrc, hlen, hb]
  rw [reading_of_good hgood]
  have hheader : ¬ (len ≠ 256 + leAt b 8 4 ∨ byteAt b 12 ≠ s.fld rKeySlot 0 2 ∨ byteAt b 13 ≠ complB 1 (byteAt b 12)
      ∨ byteAt b 5 ≠ 3 ∨ leAt b 6 2 < s.spindle.best) := by
    simp only [not_or, not_not, not_lt]
    exact ⟨hsize, hkey, hcompl, hmajor, hsvn⟩
  simp only [← or_assoc] at hheader ⊢
  simp only [hheader, false_or, Bool.eq_false_iff, ite_not]
  rfl

end

/-! ### The obligation -/

/-- Settles O31: each command taken, with what it reads and the spares that it finds. -/
theorem repairAndFirmware : Obligations.RepairAndFirmware := by
  unfold Obligations.RepairAndFirmware
  refine ⟨fun m s => ⟨exec_repairReport, ?_⟩, fun m s hclosed => ⟨?_, ?_⟩⟩
  · intro h w hword hpresent
    refine ⟨?_, exec_repair_of_none h rfl hword hpresent⟩
    intro sp hfree t
    exact exec_repair_of_spare h rfl hword hpresent hfree
  · intro h x hgood
    refine ⟨fun hbad => ?_, loadRepairMap_takes h hclosed rfl rfl hgood⟩
    refine (done_live _ s h.resetOn).trans ?_
    rw [effLoadRepairMap_of_good h hclosed rfl rfl hgood, if_pos hbad]
  · intro h src len b hsize hkey hcompl hmajor hsvn hgood
    refine (done_live _ s h.resetOn).trans ?_
    rw [effFwUpdate_of_header h hclosed rfl rfl rfl hsize hkey hcompl hmajor hsvn hgood]
    rfl

end Sys2Proof.Machine

/-! Faults, the spares that repair them and the ageing that foretells them (spec/12_resilience.md R358 to R366). -/

namespace Sys2Proof.Machine

/-! ### A port that goes DOWN changes neither the engine's state nor the record of repairs -/

/-- Small steps that leave a part of the state leave it together. -/
theorem foldl_keeps {α β : Type} (part : State → β) (f : State → α → State) (h : ∀ s x, part (f s x) = part s) (l : List α)
    (s : State) : part (l.foldl f s) = part s := by
  induction l generalizing s with
  | nil => rfl
  | cons x xs ih => exact (ih _).trans (h s x)

/-- The engine's state and the record of repairs. -/
def State.condition (s : State) : Ctl × Rep := (s.ctl, s.rep)

theorem discard_condition (s : State) (x : TxPkt) : (s.discard x).condition = s.condition := by
  unfold State.discard State.countEj
  split
  · rfl
  split <;> rfl

theorem applyAll_condition (l : List (Nat × Word × Word)) (s : State) : (s.applyAll l).condition = s.condition := by
  induction l generalizing s with
  | nil => rfl
  | cons x xs ih => exact ih _

theorem applyStaged_condition (s : State) (f : Nat → Bool) : (s.applyStaged f).condition = s.condition := by
  unfold State.applyStaged
  simp only
  split
  · rfl
  · exact applyAll_condition _ s

theorem raise_condition (s : State) {c : Nat} (h : c ≠ 7 ∧ c ≠ 8 ∧ c ≠ 22) : (s.raise c).condition = s.condition := by
  rw [State.condition, raise_rep s c h, raise_eq, State.condition]

theorem setDateline_condition (s : State) (d : Nat) : (s.setDateline d).condition = s.condition := by
  unfold State.setDateline
  extract_lets b o rows cleared copied moved
  have hcleared : cleared.condition = s.condition :=
    foldl_keeps State.condition (fun (s : State) (e : Nat × Word) => s.wr e.1 (regReset e.1)) (fun _ _ => rfl) _ s
  have hcopied : copied.condition = cleared.condition :=
    foldl_keeps State.condition (fun (s : State) (e : Nat × Word) => s.wr (e.1 - rFabRoute b 0 + rFabRoute o 0) e.2)
      (fun _ _ => rfl) rows _
  exact hcopied.trans hcleared

theorem moveDateline_condition (s : State) (p : Nat) : (s.moveDateline p).condition = s.condition := by
  obtain h | ⟨d, h | h⟩ := moveDateline_cases s p <;> rw [h]
  · rfl
  · exact setDateline_condition s d

theorem portDown_condition (s : State) (p : Nat) (keep : Bool) : (s.portDown p keep).condition = s.condition := by
  unfold State.portDown
  extract_lets x mine counted emptied down held applied raised
  have hcounted : counted.condition = s.condition := foldl_keeps State.condition State.discard discard_condition mine s
  have hheld : held.condition = s.condition := by
    unfold held
    split
    · exact hcounted
    · exact hcounted
  have hraised : raised.condition = s.condition :=
    ((raise_condition applied (by decide)).trans (applyStaged_condition _ _)).trans hheld
  split
  · exact hheld
  split
  · exact (moveDateline_condition _ _).trans hraised
  · exact hraised

/-! ### What a repair holds up (R360, R367) -/

/-- The registers that report repairs, and the one that names the slowest canary. -/
def repairRegs : List Nat := [rRepStatus, rRepEvents, rAgeSlowest]

/-- No staged copy waits for a packet boundary to be applied to them. -/
theorem repairRegs_not_packet : ∀ o ∈ repairRegs, classOf o ≠ .packet := by decide +kernel

theorem repairRegs_between : ∀ o ∈ repairRegs, rRepStatus ≤ o ∧ o < rAvail := by decide

/-- `t` is `s` but for ports, packets and the account of unavailability: memory, work, the record of repairs and ageing and the
registers that report it stay, and no cause is lost. -/
structure State.HoldsUp (s t : State) : Prop where
  mem : t.mem = s.mem
  queues : t.queues = s.queues
  cmds : t.cmds = s.cmds
  ctl : t.ctl = s.ctl
  rep : t.rep = s.rep
  age : t.age = s.age
  rd : ∀ o ∈ repairRegs, t.rd o = s.rd o
  cause : ∀ i, (s.rd rEvtStatus).getLsbD i = true → (t.rd rEvtStatus).getLsbD i = true

theorem State.HoldsUp.refl (s : State) : s.HoldsUp s := ⟨rfl, rfl, rfl, rfl, rfl, rfl, fun _ _ => rfl, fun _ h => h⟩

theorem portDown_holdsUp (s : State) (p : Nat) (keep : Bool) : s.HoldsUp (s.portDown p keep) := by
  have hacc := portDown_accounts s p keep
  have hcondition := portDown_condition s p keep
  exact {
    mem := hacc.mem
    queues := (congrArg State.queues hacc :)
    cmds := (congrArg State.cmds hacc :)
    ctl := congrArg Prod.fst hcondition
    rep := congrArg Prod.snd hcondition
    age := (congrArg State.age hacc :)
    rd := fun o ho => by
      have hbetween := repairRegs_between o ho
      simp only [rRepStatus, rAvail] at hbetween
      exact portDown_rd_of_lt s p keep o (repairRegs_not_packet o ho) (by simp only [rFabEpoch]; omega)
        (by simp only [rCfgCtl]; omega) (by simp only [rEvtStatus]; omega)
    cause := portDown_keeps_cause s p keep }

/-- A port that is set and goes DOWN. -/
theorem setPort_portDown_holdsUp (s : State) (p : Nat) (x : Port) (keep : Bool) : s.HoldsUp ((s.setPort p x).portDown p keep) := by
  obtain ⟨hmem, hqueues, hcmds, hctl, hrep, hage, hrd, hcause⟩ := portDown_holdsUp (s.setPort p x) p keep
  exact ⟨hmem, hqueues, hcmds, hctl, hrep, hage, hrd, hcause⟩

theorem pause_rd_ne (s : State) (bound : Nat) {o : Nat} (h : o ≠ rAvail) : (s.pause bound).rd o = s.rd o :=
  (rd_sat_ne _ _ _ _ _ _ h).trans (rd_addF_ne _ _ _ _ _ _ h)

theorem pause_holdsUp (s : State) (bound : Nat) : s.HoldsUp (s.pause bound) where
  mem := rfl
  queues := rfl
  cmds := rfl
  ctl := rfl
  rep := rfl
  age := rfl
  rd o ho := pause_rd_ne s bound (Nat.ne_of_lt (repairRegs_between o ho).2)
  cause i h := by rwa [pause_rd_ne s bound (by decide)]

theorem pause_ports (s : State) (bound : Nat) : (s.pause bound).ports = s.ports := rfl

/-! ### A spare comes into use (R360, R363) -/

section

variable (s : State) (w : BitVec 32)

/-- Where the entry after the map in use stands. -/
def State.mapEnd : Nat := s.fld rRepMapBase 16 48 * 65536 + 8 * s.rep.inUse.length

/-- The entry of `w` behind the others in memory, and the one that ends the map (R363). -/
def State.mapWritten : State := (s.writeNat s.mapEnd 8 (mapEntry w)).writeNat (s.mapEnd + 8) 8 0xFFFFFFFF00000000

/-- The spare of `w` is in use. -/
def State.withSpare : State := { s with rep := { s.rep with inUse := s.rep.inUse ++ [w] } }

/-- A repair is counted and reported. -/
def State.repairReported : State := ((s.repStatus).sat rRepEvents 16 8 1).raise causeRepair

/-- A spare is entered in the map, in memory and in use, counted and reported. -/
def State.spareEntered : State := ((s.mapWritten w).withSpare w).repairReported

theorem takeSpare_eq (t u i sp : Nat) : s.takeSpare t u i sp =
    if t = 1 then ((s.spareEntered (mkRes t u i sp true)).setPort u
      (((s.spareEntered (mkRes t u i sp true)).port u).retire i true)).portDown u false
    else if t = 2 ∨ t = 3 then (s.spareEntered (mkRes t u i sp true)).pause 2
    else if t = 4 then (s.spareEntered (mkRes t u i sp true)).pause 20 else s.spareEntered (mkRes t u i sp true) := rfl

/-- What the spare of a type holds up: a port, a pause, or nothing. -/
theorem takeSpare_holdsUp (t u i sp : Nat) : (s.spareEntered (mkRes t u i sp true)).HoldsUp (s.takeSpare t u i sp) := by
  rw [takeSpare_eq]
  generalize s.spareEntered (mkRes t u i sp true) = entered
  split
  · exact setPort_portDown_holdsUp entered u _ false
  split
  · exact pause_holdsUp entered 2
  split
  · exact pause_holdsUp entered 20
  · exact .refl entered

/-- Only the spare of a lane changes the ports. -/
theorem takeSpare_ports_of_ne {t : Nat} (u i sp : Nat) (ht : t ≠ 1) :
    (s.takeSpare t u i sp).ports = (s.spareEntered (mkRes t u i sp true)).ports := by
  rw [takeSpare_eq, if_neg ht]
  split
  · exact pause_ports _ 2
  split
  · exact pause_ports _ 20
  · rfl

theorem repairReported_eq : ∃ regs, s.repairReported = { s with regs := regs } := by
  obtain ⟨v, hv⟩ := repStatus_eq_wr s
  rw [State.repairReported, raise_eq, raise_rep _ _ (by decide), hv]
  exact ⟨_, rfl⟩

theorem repairReported_counts : s.repairReported.fld rRepEvents 16 8 = min 255 (s.fld rRepEvents 16 8 + 1) := by
  obtain ⟨v, hv⟩ := repStatus_eq_wr s
  rw [State.repairReported, fld_of_rd (raise_rd_ne _ _ _ (by decide)), fld_sat_self _ _ _ _ _ (by decide), hv,
    fld_of_rd (rd_wr_ne s _ _ v (by decide))]
  rfl

theorem repairReported_slowest : s.repairReported.rd rAgeSlowest = s.rd rAgeSlowest := by
  obtain ⟨v, hv⟩ := repStatus_eq_wr s
  rw [State.repairReported, raise_rd_ne _ _ _ (by decide), rd_sat_ne _ _ _ _ _ _ (by decide), hv, rd_wr_ne _ _ _ _ (by decide)]

theorem repairReported_cause : (s.repairReported.rd rEvtStatus).getLsbD causeRepair = true := raise_sets_cause _ _ (by decide)

/-- Memory alone holds the map. -/
theorem mapWritten_contents : s.ContentsOnly (s.mapWritten w) := (write_contents _ _ _).trans (write_contents _ _ _)

/-- A spare in use that is reported changes the record of repairs and registers. -/
theorem withSpare_reported_keeps : (s.withSpare w).repairReported.mem = s.mem ∧ (s.withSpare w).repairReported.queues = s.queues
    ∧ (s.withSpare w).repairReported.cmds = s.cmds ∧ (s.withSpare w).repairReported.ctl = s.ctl
    ∧ (s.withSpare w).repairReported.age = s.age ∧ (s.withSpare w).repairReported.ports = s.ports
    ∧ (s.withSpare w).repairReported.rep = { s.rep with inUse := s.rep.inUse ++ [w] } := by
  obtain ⟨regs, h⟩ := repairReported_eq (s.withSpare w)
  rw [h]
  exact ⟨rfl, rfl, rfl, rfl, rfl, rfl, rfl⟩

theorem withSpare_rd (o : Nat) : (s.withSpare w).rd o = s.rd o := rfl

/-- Memory holds the map, the spare is in use, and work goes on. -/
theorem spareEntered_keeps : (s.spareEntered w).mem = (s.mapWritten w).mem ∧ (s.spareEntered w).queues = s.queues
    ∧ (s.spareEntered w).cmds = s.cmds ∧ (s.spareEntered w).ctl = s.ctl ∧ (s.spareEntered w).age = s.age
    ∧ (s.spareEntered w).ports = s.ports ∧ (s.spareEntered w).rep = { s.rep with inUse := s.rep.inUse ++ [w] } := by
  have hmap := mapWritten_contents s w
  obtain ⟨hmem, hqueues, hcmds, hctl, hage, hports, hrep⟩ := withSpare_reported_keeps (s.mapWritten w) w
  exact ⟨hmem, hqueues.trans hmap.queues, hcmds.trans (congrArg State.cmds hmap :), hctl.trans (congrArg State.ctl hmap :),
    hage.trans (congrArg State.age hmap :), hports.trans (congrArg State.ports hmap :), hrep.trans (by rw [hmap.rep])⟩

theorem spareEntered_slowest : (s.spareEntered w).rd rAgeSlowest = s.rd rAgeSlowest := by
  rw [State.spareEntered, repairReported_slowest, withSpare_rd, (mapWritten_contents s w).rd]

theorem spareEntered_counts : (s.spareEntered w).fld rRepEvents 16 8 = min 255 (s.fld rRepEvents 16 8 + 1) := by
  rw [State.spareEntered, repairReported_counts, fld_of_rd (withSpare_rd _ w _), fld_of_rd ((mapWritten_contents s w).rd _)]

/-! ### The map in memory -/

/-- A write leaves what is read beside it. -/
theorem read_write_out {a x n : Nat} {b : List Byte} (h : ∀ k < b.length, ∀ i < n, (a + k) % 2 ^ 64 ≠ (x + i) % 2 ^ 64) :
    (s.write a b).read x n = s.read x n := by
  induction n generalizing x with
  | zero => rfl
  | succ n ih =>
    rw [State.read, State.read, byte_write_out s a x b (fun k hk => h k hk 0 (Nat.succ_pos n)), ih]
    intro k hk i hi
    rw [Nat.add_assoc, Nat.add_comm 1 i]
    exact h k hk (i + 1) (Nat.succ_lt_succ hi)

theorem mapEntry_lt : mapEntry w < 256 ^ 8 := by
  have := w.isLt
  simp only [mapEntry, complB]
  omega

/-- Both entries read as written. -/
theorem mapWritten_reads : (s.mapWritten w).readNat s.mapEnd 8 = mapEntry w
    ∧ (s.mapWritten w).readNat (s.mapEnd + 8) 8 = 0xFFFFFFFF00000000 := by
  have hlast := readNat_writeNat (s.writeNat s.mapEnd 8 (mapEntry w)) (s.mapEnd + 8) 8 0xFFFFFFFF00000000 (by decide)
  have hfirst := readNat_writeNat s s.mapEnd 8 (mapEntry w) (by decide)
  refine ⟨?_, hlast⟩
  rw [Nat.mod_eq_of_lt (mapEntry_lt w)] at hfirst
  rw [← hfirst, State.readNat, State.readNat, State.mapWritten, State.writeNat, read_write_out]
  intro k hk i hi
  rw [length_toLE] at hk
  omega

theorem mapWritten_byte_out {x : Nat} (h : ∀ k < 16, (s.mapEnd + k) % 2 ^ 64 ≠ x % 2 ^ 64) : (s.mapWritten w).byte x = s.byte x := by
  simp only [State.mapWritten, State.writeNat]
  rw [byte_write_out, byte_write_out]
  · intro k hk
    rw [length_toLE] at hk
    exact h k (by omega)
  · intro k hk
    rw [length_toLE] at hk
    rw [Nat.add_assoc]
    exact h (8 + k) (by omega)

end

/-! ### A failure is noticed (R367) -/

/-- `t` is `s` but for registers and when a failure was first detected. -/
def State.NoticesOnly (s t : State) : Prop := t = { s with regs := t.regs, rep := { s.rep with detected := t.rep.detected } }

namespace State.NoticesOnly

variable {s t u : State}

theorem trans (hst : s.NoticesOnly t) (htu : t.NoticesOnly u) : s.NoticesOnly u :=
  Eq.trans htu (congrArg (fun x : State => { x with regs := u.regs, rep := { x.rep with detected := u.rep.detected } }) hst)

theorem rep (h : s.NoticesOnly t) : t.rep = { s.rep with detected := t.rep.detected } := (congrArg State.rep h :)
theorem events (h : s.NoticesOnly t) : t.rep.events = s.rep.events := (congrArg Rep.events h.rep :)
theorem inUse (h : s.NoticesOnly t) : t.rep.inUse = s.rep.inUse := (congrArg Rep.inUse h.rep :)
theorem ctl (h : s.NoticesOnly t) : t.ctl = s.ctl := (congrArg State.ctl h :)
theorem age (h : s.NoticesOnly t) : t.age = s.age := (congrArg State.age h :)
theorem mem (h : s.NoticesOnly t) : t.mem = s.mem := (congrArg State.mem h :)
theorem ports (h : s.NoticesOnly t) : t.ports = s.ports := (congrArg State.ports h :)
theorem queues (h : s.NoticesOnly t) : t.queues = s.queues := (congrArg State.queues h :)
theorem cmds (h : s.NoticesOnly t) : t.cmds = s.cmds := (congrArg State.cmds h :)

end State.NoticesOnly

theorem detect_notices (s : State) : s.NoticesOnly s.detect := by
  unfold State.detect
  split <;> rfl

theorem setFld_notices (s : State) (o lo w x : Nat) : s.NoticesOnly (s.setFld o lo w x) := rfl

theorem raise_notices (s : State) (c : Nat) : s.NoticesOnly (s.raise c) := by
  unfold State.raise
  simp only
  split
  · exact (detect_notices s).trans (setFld_notices _ _ _ _ _)
  · exact setFld_notices _ _ _ _ _

theorem detect_rd (s : State) (o : Nat) : s.detect.rd o = s.rd o := by
  unfold State.detect
  split <;> rfl

/-! ### The fault events that a resource has had (R359) -/

theorem eventsOf_congr {s t : State} (h : t.rep.events = s.rep.events) (w : BitVec 32) : t.eventsOf w = s.eventsOf w := by
  rw [State.eventsOf, h, State.eventsOf]

section

variable (s : State)

/-- The record of a resource is the one that was set. -/
theorem eventsOf_setEvents_self (w : BitVec 32) (l : List (Nat × Nat × Nat)) : (s.setEvents w l).eventsOf w = l := by
  have hothers : (s.rep.events.filter (fun e => !(e.1 == w))).find? (fun e => e.1 == w) = none := by
    simp
  unfold State.eventsOf State.setEvents
  simp only [List.find?_append, hothers, Option.none_or]
  cases l <;> simp

theorem eventsOf_setEvents_ne {w v : BitVec 32} (l : List (Nat × Nat × Nat)) (h : v ≠ w) :
    (s.setEvents w l).eventsOf v = s.eventsOf v := by
  have hothers : (s.rep.events.filter (fun e => !(e.1 == w))).find? (fun e => e.1 == v) = s.rep.events.find? (fun e => e.1 == v) := by
    rw [List.find?_filter]
    congr 1
    funext e
    by_cases he : e.1 = v
    · simp [he, h]
    · simp [he]
  have hnew : (if l.isEmpty then [] else [(w, l)]).find? (fun e => e.1 == v) = none := by
    split <;> simp [Ne.symm h]
  unfold State.eventsOf State.setEvents
  simp only [List.find?_append, hothers, hnew, Option.or_none]

variable (f : FaultRec)

/-- The events of a fault's resource that the window still holds, with this one (R359; DEDUCED, log 30). -/
def State.faultTimes : List (Nat × Nat × Nat) :=
  ((s.eventsOf f.word).filter (fun e => decide (s.now - e.1 ≤ 1000000 * s.fld rRepCfg 0 16))) ++ [(s.now, f.row, f.col)]

/-- The fault is not lasting, and its events are too few to make it so. -/
def State.fewFaults : Prop := f.atOnce = false ∧ (s.faultTimes f).length < s.fld rRepCfg 16 4

/-- A lasting fault is repaired: HOLD is 0, firmware runs and every unit is awake (R362; DEDUCED, log 39). -/
def State.mayRepair : Prop := s.fld rRepOverride 0 1 = 0 ∧ s.firmware = true ∧ s.allAwake = true

/-- What a fault raises whatever comes of it. -/
def State.noticed : State :=
  let s := if spareCount (resType f.word) = 0 then s.raise causeHealth else s
  if 4 ≤ resType f.word ∧ resType f.word ≤ 6 then s.detect else s

theorem noticed_notices : s.NoticesOnly (s.noticed f) := by
  have hraised : s.NoticesOnly (if spareCount (resType f.word) = 0 then s.raise causeHealth else s) := by
    split
    · exact raise_notices s _
    · rfl
  unfold State.noticed
  simp only
  split
  · exact hraised.trans (detect_notices _)
  · exact hraised

theorem noticed_rd_ne {o : Nat} (h : o ≠ rEvtStatus) : (s.noticed f).rd o = s.rd o := by
  have hraised : (if spareCount (resType f.word) = 0 then s.raise causeHealth else s).rd o = s.rd o := by
    split
    · exact raise_rd_ne _ _ _ h
    · rfl
  unfold State.noticed
  simp only
  split
  · rw [detect_rd, hraised]
  · exact hraised

/-- A resource without spares raises the health event. -/
theorem noticed_health (h : spareCount (resType f.word) = 0) : ((s.noticed f).rd rEvtStatus).getLsbD causeHealth = true := by
  have hraised := raise_sets_cause s causeHealth (by decide)
  unfold State.noticed
  simp only
  rw [if_pos h]
  split
  · rwa [detect_rd]
  · exact hraised

theorem noticed_faultTimes : (s.noticed f).faultTimes f = s.faultTimes f := by
  have hevents : (s.noticed f).eventsOf f.word = s.eventsOf f.word := eventsOf_congr (noticed_notices s f).events _
  unfold State.faultTimes State.now
  rw [hevents, noticed_rd_ne s f (by decide), fld_of_rd (noticed_rd_ne s f (by decide))]

/-- A fault is noticed, and the events of its resource are `l`. -/
def State.faultNoted (l : List (Nat × Nat × Nat)) : State := (s.noticed f).setEvents f.word l

theorem fault_eq : s.fault f =
    if f.atOnce || decide ((s.noticed f).fld rRepCfg 16 4 ≤ ((s.noticed f).faultTimes f).length)
    then (s.faultNoted f []).lasting f.word (if f.atOnce then [] else (s.noticed f).faultTimes f)
    else (s.faultNoted f ((s.noticed f).faultTimes f)).sat rRepEvents 0 16 1 := rfl

variable {s f}

theorem fault_of_few (h : s.fewFaults f) : s.fault f = (s.faultNoted f (s.faultTimes f)).sat rRepEvents 0 16 1 := by
  rw [fault_eq, noticed_faultTimes, fld_of_rd (noticed_rd_ne s f (by decide)), h.1, if_neg]
  simpa using h.2

theorem fault_of_not_few (h : ¬ s.fewFaults f) :
    s.fault f = (s.faultNoted f []).lasting f.word (if f.atOnce then [] else s.faultTimes f) := by
  rw [fault_eq, noticed_faultTimes, fld_of_rd (noticed_rd_ne s f (by decide)), if_pos]
  rw [State.fewFaults, not_and_or, not_lt] at h
  simpa using h

variable (s f) (l : List (Nat × Nat × Nat))

theorem faultNoted_fld {o : Nat} (h : o ≠ rEvtStatus) (lo w : Nat) : (s.faultNoted f l).fld o lo w = s.fld o lo w :=
  fld_of_rd (noticed_rd_ne s f h) lo w

theorem faultNoted_events : (s.faultNoted f l).eventsOf f.word = l := eventsOf_setEvents_self _ _ _

theorem faultNoted_events_ne {w : BitVec 32} (h : w ≠ f.word) : (s.faultNoted f l).eventsOf w = s.eventsOf w :=
  (eventsOf_setEvents_ne _ l h).trans (eventsOf_congr (noticed_notices s f).events w)

theorem freeSpare_congr {s t : State} (hin : t.rep.inUse = s.rep.inUse) (hspent : t.rep.spent = s.rep.spent) (ty u : Nat) :
    t.freeSpare ty u = s.freeSpare ty u := by
  simp only [State.freeSpare, State.sparesUsed, State.sparesIn, hin, hspent]

theorem faultNoted_freeSpare (t u : Nat) : (s.faultNoted f l).freeSpare t u = s.freeSpare t u :=
  freeSpare_congr (noticed_notices s f).inUse (congrArg Rep.spent (noticed_notices s f).rep :) t u

theorem faultNoted_mayRepair : (s.faultNoted f l).mayRepair ↔ s.mayRepair := by
  have hspindle : (s.faultNoted f l).spindle = s.spindle := (congrArg State.spindle (noticed_notices s f) :)
  have hctl : (s.faultNoted f l).ctl = s.ctl := (noticed_notices s f).ctl
  simp only [State.mayRepair, faultNoted_fld s f l (o := rRepOverride) (by decide), State.firmware, State.allAwake, State.awake,
    hspindle, hctl]

end

/-! ### A lasting fault (R359 to R362) -/

section

variable {s : State} {w : BitVec 32} {evs : List (Nat × Nat × Nat)}

theorem lasting_of_not_mayRepair (h : ¬ s.mayRepair) : s.lasting w evs = s.raise causeHealth := by
  have hbit := fld_lt s rRepOverride 0 1
  unfold State.lasting
  rw [if_pos]
  rw [State.mayRepair, not_and_or, not_and_or] at h
  simp only [Bool.or_eq_true, decide_eq_true_eq, Bool.not_eq_true']
  rcases h with h | h | h
  · exact .inl (.inl (by omega))
  · exact .inl (.inr (by simpa using h))
  · exact .inr (by simpa using h)

/-- A fault of a resource that is no spare is what the spares give. -/
theorem lasting_of_mayRepair (h : s.mayRepair) (hspare : spareOf w = none) {found : Bool} {t : State}
    (hfrom : s.repairFrom w evs = (found, t)) :
    s.lasting w evs = if found then t else t.noSpare (resType w) (resUnit w) (resIndex w) := by
  obtain ⟨hhold, hfirmware, hawake⟩ := h
  unfold State.lasting State.idleSpare
  rw [if_neg (by simp [hhold, hfirmware, hawake]), hspare, hfrom]
  cases found <;> rfl

/-- Only an SRAM bank with recorded events may be repaired by something other than its like. -/
theorem repairTarget_self (h : resType w ≠ 4 ∨ evs = []) : repairTarget w evs = (resType w, resUnit w, resIndex w) := by
  rcases h with h | rfl
  · simp only [repairTarget, h, if_false]
  · exact repairTarget_nil w

variable (s)

/-- No spare is left: the chip asks for its replacement (R361). -/
def State.alarmed : State := (((s.setFld rRepStatus 24 1 1).raise causeReplace).sat rRepEvents 24 8 1).raise causeHealth

/-- A port is held DOWN for want of a Ply lane. -/
def State.portHeld (u : Nat) : State := { s with rep := { s.rep with heldPorts := u :: s.rep.heldPorts } }

/-- What a fault without a spare records before a port goes DOWN for it. -/
def State.unrepaired (t u : Nat) : State := if t = 2 then s.alarmed.portHeld u else s.alarmed

theorem noSpare_eq (t u i : Nat) : s.noSpare t u i =
    if t = 1 then (s.alarmed.setPort u ((s.alarmed.port u).retire i false)).portDown u false
    else if t = 2 then (s.alarmed.portHeld u).portDown u true else s.alarmed := rfl

theorem noSpare_holdsUp (t u i : Nat) : (s.unrepaired t u).HoldsUp (s.noSpare t u i) := by
  rw [noSpare_eq, State.unrepaired]
  generalize s.alarmed = a
  by_cases h1 : t = 1
  · rw [if_pos h1, if_neg (by omega)]
    exact setPort_portDown_holdsUp a u _ false
  rw [if_neg h1]
  split
  · exact portDown_holdsUp (a.portHeld u) u true
  · exact .refl a

theorem alarmed_notices : s.NoticesOnly s.alarmed :=
  (((setFld_notices s _ _ _ _).trans (raise_notices _ _)).trans (setFld_notices _ _ _ _ _)).trans (raise_notices _ _)

theorem alarmed_rd {o : Nat} (hstatus : o ≠ rRepStatus) (hevents : o ≠ rRepEvents) (hevt : o ≠ rEvtStatus) :
    s.alarmed.rd o = s.rd o := by
  rw [State.alarmed, raise_rd_ne _ _ _ hevt, rd_sat_ne _ _ _ _ _ _ hevents, raise_rd_ne _ _ _ hevt, rd_setFld_ne _ _ _ _ _ _ hstatus]

/-- A port held DOWN is in the record of repairs alone. -/
theorem unrepaired_keeps (t u : Nat) : (∀ o, (s.unrepaired t u).rd o = s.alarmed.rd o)
    ∧ (s.unrepaired t u).rep.events = s.alarmed.rep.events ∧ (s.unrepaired t u).rep.inUse = s.alarmed.rep.inUse
    ∧ (s.unrepaired t u).mem = s.alarmed.mem ∧ (s.unrepaired t u).queues = s.alarmed.queues
    ∧ (s.unrepaired t u).cmds = s.alarmed.cmds := by
  unfold State.unrepaired
  generalize s.alarmed = a
  split <;> exact ⟨fun _ => rfl, rfl, rfl, rfl, rfl, rfl⟩

/-- Only lanes of a port take it DOWN. -/
theorem noSpare_ports_of_not_mem {t : Nat} (u i : Nat) (h : t ∉ [1, 2]) : (s.noSpare t u i).ports = s.alarmed.ports := by
  rw [noSpare_eq, if_neg (fun h1 => h (by simp [h1])), if_neg (fun h2 => h (by simp [h2]))]

/-- LGX_REP_STATUS asks for the replacement, LGX_REP_EVENTS counts the fault, and both causes are raised. -/
theorem alarmed_fields : s.alarmed.fld rRepStatus 24 1 = 1
    ∧ s.alarmed.fld rRepEvents 24 8 = min 255 (s.fld rRepEvents 24 8 + 1)
    ∧ (s.alarmed.rd rEvtStatus).getLsbD causeReplace = true ∧ (s.alarmed.rd rEvtStatus).getLsbD causeHealth = true := by
  unfold State.alarmed
  refine ⟨?_, ?_, ?_, raise_sets_cause _ _ (by decide)⟩
  · rw [fld_of_rd (raise_rd_ne _ _ _ (by decide)), fld_of_rd (rd_sat_ne _ _ _ _ _ _ (by decide)),
      fld_of_rd (raise_rd_ne _ _ _ (by decide)), fld_setFld_self _ _ _ _ _ (by decide)]
    rfl
  · rw [fld_of_rd (raise_rd_ne _ _ _ (by decide)), fld_sat_self _ _ _ _ _ (by decide), fld_of_rd (raise_rd_ne _ _ _ (by decide)),
      fld_setFld_other _ _ _ _ _ _ _ _ (by decide)]
    rfl
  · refine raise_keeps_cause _ _ _ ?_
    rw [rd_sat_ne _ _ _ _ _ _ (by decide)]
    exact raise_sets_cause _ _ (by decide)

end

/-! ### What handling a fault leaves -/

/-- From `s` to `t` faults of the resources `mine` have been handled: the engine's state, its work, the record of the sweeps and
the slowest canary, the time of the self-test, and the events of the other resources stay. -/
structure State.Handles (mine : BitVec 32 → Prop) (s t : State) : Prop where
  ctl : t.ctl = s.ctl
  queues : t.queues = s.queues
  cmds : t.cmds = s.cmds
  age : t.age = s.age
  slowest : t.rd rAgeSlowest = s.rd rAgeSlowest
  lastSelftest : t.rep.lastSelftest = s.rep.lastSelftest
  events : ∀ w, ¬ mine w → t.eventsOf w = s.eventsOf w

namespace State.Handles

variable {mine : BitVec 32 → Prop} {s t u : State}

theorem refl (s : State) : State.Handles mine s s := ⟨rfl, rfl, rfl, rfl, rfl, rfl, fun _ _ => rfl⟩

theorem trans (hst : State.Handles mine s t) (htu : State.Handles mine t u) : State.Handles mine s u where
  ctl := htu.ctl.trans hst.ctl
  queues := htu.queues.trans hst.queues
  cmds := htu.cmds.trans hst.cmds
  age := htu.age.trans hst.age
  slowest := htu.slowest.trans hst.slowest
  lastSelftest := htu.lastSelftest.trans hst.lastSelftest
  events w hw := (htu.events w hw).trans (hst.events w hw)

/-- Fewer events may have changed than are allowed to. -/
theorem mono {all : BitVec 32 → Prop} (h : State.Handles mine s t) (hall : ∀ w, mine w → all w) : State.Handles all s t :=
  { h with events := fun w hw => h.events w fun hm => hw (hall w hm) }

theorem of_notices (h : s.NoticesOnly t) (hslowest : t.rd rAgeSlowest = s.rd rAgeSlowest) : State.Handles mine s t where
  ctl := h.ctl
  queues := h.queues
  cmds := h.cmds
  age := h.age
  slowest := hslowest
  lastSelftest := (congrArg Rep.lastSelftest h.rep :)
  events := fun w _ => eventsOf_congr h.events w

theorem of_holdsUp (h : s.HoldsUp t) : State.Handles mine s t where
  ctl := h.ctl
  queues := h.queues
  cmds := h.cmds
  age := h.age
  slowest := h.rd _ (by decide)
  lastSelftest := congrArg Rep.lastSelftest h.rep
  events := fun w _ => eventsOf_congr (congrArg Rep.events h.rep) w

end State.Handles

section

variable {mine : BitVec 32 → Prop} (s : State)

theorem foldl_handles {α : Type} (f : State → α → State) (h : ∀ s x, State.Handles mine s (f s x)) (l : List α) (s : State) :
    State.Handles mine s (l.foldl f s) := by
  induction l generalizing s with
  | nil => exact .refl s
  | cons x xs ih => exact (h s x).trans (ih _)

theorem raise_handles (c : Nat) : State.Handles mine s (s.raise c) := .of_notices (raise_notices s c) (raise_rd_ne _ _ _ (by decide))

theorem setFld_handles {o : Nat} (lo w x : Nat) (h : rAgeSlowest ≠ o) : State.Handles mine s (s.setFld o lo w x) :=
  .of_notices (setFld_notices s o lo w x) (rd_setFld_ne _ _ _ _ _ _ h)

theorem takeSpare_handles (t u i sp : Nat) : State.Handles mine s (s.takeSpare t u i sp) := by
  have hslowest := spareEntered_slowest s (mkRes t u i sp true)
  obtain ⟨-, hqueues, hcmds, hctl, hage, -, hrep⟩ := spareEntered_keeps s (mkRes t u i sp true)
  have hentered : State.Handles mine s (s.spareEntered (mkRes t u i sp true)) :=
    ⟨hctl, hqueues, hcmds, hage, hslowest, (congrArg Rep.lastSelftest hrep :), fun w _ => eventsOf_congr (congrArg Rep.events hrep :) w⟩
  exact hentered.trans (.of_holdsUp (takeSpare_holdsUp s t u i sp))

theorem portHeld_handles (u : Nat) : State.Handles mine s (s.portHeld u) := ⟨rfl, rfl, rfl, rfl, rfl, rfl, fun _ _ => rfl⟩

theorem noSpare_handles (t u i : Nat) : State.Handles mine s (s.noSpare t u i) := by
  have halarmed : State.Handles mine s s.alarmed :=
    .of_notices (alarmed_notices s) (alarmed_rd s (by decide) (by decide) (by decide))
  have hunrepaired : State.Handles mine s (s.unrepaired t u) := by
    unfold State.unrepaired
    split
    · exact halarmed.trans (portHeld_handles _ u)
    · exact halarmed
  exact hunrepaired.trans (.of_holdsUp (noSpare_holdsUp s t u i))

theorem repStatus_handles : State.Handles mine s s.repStatus := by
  obtain ⟨v, h⟩ := repStatus_eq_wr s
  rw [h]
  exact ⟨rfl, rfl, rfl, rfl, rd_wr_ne _ _ _ _ (by decide), rfl, fun _ _ => rfl⟩

/-- A spare cannot be taken any more. -/
def State.withSpent (x : Nat × Nat × Nat) : State := { s with rep := { s.rep with spent := s.rep.spent ++ [x] } }

theorem withSpent_handles (x : Nat × Nat × Nat) : State.Handles mine s (s.withSpent x) :=
  ⟨rfl, rfl, rfl, rfl, rfl, rfl, fun _ _ => rfl⟩

theorem spendSpare_eq (w : BitVec 32) (k : Nat) : s.spendSpare w k =
    if resType w = 1 then ((s.withSpent (resType w, spareUnit (resType w) (resUnit w), k)).repStatus).noSpare (resType w) (resUnit w)
      (resIndex w)
    else ((s.withSpent (resType w, spareUnit (resType w) (resUnit w), k)).repStatus).raise causeHealth := rfl

theorem spendSpare_handles (w : BitVec 32) (k : Nat) : State.Handles mine s (s.spendSpare w k) := by
  have hspent := (withSpent_handles (mine := mine) s (resType w, spareUnit (resType w) (resUnit w), k)).trans (repStatus_handles _)
  rw [spendSpare_eq]
  split
  · exact hspent.trans (noSpare_handles _ _ _ _)
  · exact hspent.trans (raise_handles _ _)

/-- A repair takes one spare or leaves everything. -/
theorem repairFrom_cases (w : BitVec 32) (evs : List (Nat × Nat × Nat)) :
    (∃ t u i sp, s.repairFrom w evs = (true, s.takeSpare t u i sp)) ∨ s.repairFrom w evs = (false, s) := by
  rcases htarget : repairTarget w evs with ⟨t, u, i⟩
  cases hfree : s.freeSpare t u with
  | some sp => exact .inl ⟨t, u, i, sp, repairFrom_of_spare htarget hfree⟩
  | none =>
    by_cases hbank : t = 5 ∨ t = 6
    · cases hfall : s.freeSpare 4 (u / 66) with
      | some sp => exact .inl ⟨4, u / 66, u % 66, sp, by simp only [State.repairFrom, htarget, hfree, hbank, hfall, if_true]⟩
      | none => exact .inr (by simp only [State.repairFrom, htarget, hfree, hbank, hfall, if_true])
    · exact .inr (repairFrom_of_none htarget hfree (fun h => hbank (.inl h)) (fun h => hbank (.inr h)))

theorem lasting_handles (w : BitVec 32) (evs : List (Nat × Nat × Nat)) : State.Handles mine s (s.lasting w evs) := by
  unfold State.lasting
  split
  · exact raise_handles s _
  split
  · exact spendSpare_handles s w _
  obtain ⟨t, u, i, sp, h⟩ | h := repairFrom_cases s w evs <;> rw [h]
  · exact takeSpare_handles s t u i sp
  · exact noSpare_handles s _ _ _

theorem faultNoted_handles (f : FaultRec) (l : List (Nat × Nat × Nat)) : State.Handles (· = f.word) s (s.faultNoted f l) where
  ctl := (noticed_notices s f).ctl
  queues := (noticed_notices s f).queues
  cmds := (noticed_notices s f).cmds
  age := (noticed_notices s f).age
  slowest := noticed_rd_ne s f (by decide)
  lastSelftest := (congrArg Rep.lastSelftest (noticed_notices s f).rep :)
  events := fun _ hw => faultNoted_events_ne s f l hw

theorem fault_handles (f : FaultRec) : State.Handles (· = f.word) s (s.fault f) := by
  by_cases h : s.fewFaults f
  · rw [fault_of_few h]
    exact (faultNoted_handles s f _).trans (setFld_handles _ _ _ _ (by decide))
  · rw [fault_of_not_few h]
    exact (faultNoted_handles s f _).trans (lasting_handles _ _ _)

theorem faults_handles (fs : List FaultRec) : State.Handles (fun w => ∃ f ∈ fs, f.word = w) s (s.faults fs) := by
  induction fs generalizing s with
  | nil => exact .refl s
  | cons f fs ih =>
    rw [State.faults, List.foldl_cons]
    exact ((fault_handles s f).mono fun w hw => ⟨f, List.mem_cons_self, hw.symm⟩).trans
      ((ih _).mono fun w ⟨g, hg, hw⟩ => ⟨g, List.mem_cons_of_mem _ hg, hw⟩)

end

/-! ### FAULT_EVENT -/

section

variable {s : State} {f : FaultRec}

section

variable (hmany : ¬ s.fewFaults f) (hmay : s.mayRepair) (hspare : spareOf f.word = none)

include hmany hmay hspare

/-- A resource that its like repairs takes the first free spare of its unit. -/
theorem fault_of_spare (hself : resType f.word ≠ 4 ∨ f.atOnce = true) {sp : Nat}
    (hfree : s.freeSpare (resType f.word) (resUnit f.word) = some sp) :
    s.fault f = (s.faultNoted f []).takeSpare (resType f.word) (resUnit f.word) (resIndex f.word) sp := by
  have htarget := repairTarget_self (w := f.word) (evs := if f.atOnce then [] else s.faultTimes f)
    (hself.imp_right fun h => by rw [h, if_pos rfl])
  have hfrom := repairFrom_of_spare htarget ((faultNoted_freeSpare s f [] _ _).trans hfree)
  rw [fault_of_not_few hmany, lasting_of_mayRepair ((faultNoted_mayRepair s f []).mpr hmay) hspare hfrom, if_pos rfl]

/-- With none the chip asks for its replacement. -/
theorem fault_of_noSpare (hself : resType f.word ≠ 4 ∨ f.atOnce = true) (hrow : resType f.word ≠ 5) (hcol : resType f.word ≠ 6)
    (hfree : s.freeSpare (resType f.word) (resUnit f.word) = none) :
    s.fault f = (s.faultNoted f []).noSpare (resType f.word) (resUnit f.word) (resIndex f.word) := by
  have htarget := repairTarget_self (w := f.word) (evs := if f.atOnce then [] else s.faultTimes f)
    (hself.imp_right fun h => by rw [h, if_pos rfl])
  have hfrom := repairFrom_of_none htarget ((faultNoted_freeSpare s f [] _ _).trans hfree) hrow hcol
  rw [fault_of_not_few hmany, lasting_of_mayRepair ((faultNoted_mayRepair s f []).mpr hmay) hspare hfrom,
    if_neg Bool.false_ne_true]

end

variable (hr : s.ctl.resetOn = false)

include hr

theorem exec_faultEvent : exec (.faultEvent f) s = .next (s.fault f).settled := done_live _ s hr

/-- A fault that is not lasting is kept with its time and counted. -/
theorem faultEvent_kept (hfew : s.fewFaults f) : ∃ t, exec (.faultEvent f) s = .next t ∧ t.eventsOf f.word = s.faultTimes f
    ∧ t.fld rRepEvents 0 16 = min 65535 (s.fld rRepEvents 0 16 + 1) ∧ t.rep.inUse = s.rep.inUse
    ∧ (∀ w, w ≠ f.word → t.eventsOf w = s.eventsOf w) ∧ (spareCount (resType f.word) = 0 → (t.rd rEvtStatus).getLsbD 25 = true)
    ∧ t.mem = s.mem ∧ t.ports = s.ports ∧ t.queues = s.queues ∧ t.cmds = s.cmds := by
  have hnoticed := noticed_notices s f
  have hevents := eventsOf_congr (congrArg Rep.events (settled_rep ((s.faultNoted f (s.faultTimes f)).sat rRepEvents 0 16 1)))
  refine ⟨_, (exec_faultEvent hr).trans (by rw [fault_of_few hfew]), ?_, ?_, ?_, fun w hw => ?_, fun hzero => ?_, ?_, ?_, ?_, ?_⟩
  · exact (hevents f.word).trans (faultNoted_events s f _)
  · rw [settled_fld_of_watches_lt _ (by decide), fld_sat_self _ _ _ _ _ (by decide), faultNoted_fld s f _ (by decide)]
    rfl
  · rw [settled_rep]
    exact hnoticed.inUse
  · exact (hevents w).trans (faultNoted_events_ne s f _ hw)
  · refine settled_keeps_cause _ _ ?_
    rw [rd_sat_ne _ _ _ _ _ _ (by decide)]
    exact noticed_health s f hzero
  · rw [settled_mem]
    exact hnoticed.mem
  · rw [settled_ports]
    exact hnoticed.ports
  · rw [settled_queues]
    exact hnoticed.queues
  · rw [settled_cmds]
    exact hnoticed.cmds

variable (hmany : ¬ s.fewFaults f)

include hmany

/-- A lasting fault that may not be repaired is a health event (R362; DEDUCED, log 39). -/
theorem faultEvent_unhandled (hmay : ¬ s.mayRepair) : ∃ t, exec (.faultEvent f) s = .next t ∧ t.eventsOf f.word = []
    ∧ t.rep.inUse = s.rep.inUse ∧ (t.rd rEvtStatus).getLsbD 25 = true ∧ t.rd rRepEvents = s.rd rRepEvents ∧ t.mem = s.mem
    ∧ t.ports = s.ports ∧ t.queues = s.queues ∧ t.cmds = s.cmds := by
  have hnoticed := noticed_notices s f
  have hraised := raise_notices (s.faultNoted f []) causeHealth
  have heff : s.fault f = (s.faultNoted f []).raise causeHealth := by
    rw [fault_of_not_few hmany, lasting_of_not_mayRepair (mt (faultNoted_mayRepair s f []).mp hmay)]
  refine ⟨_, (exec_faultEvent hr).trans (by rw [heff]), ?_, ?_, ?_, ?_, ?_, ?_, ?_, ?_⟩
  · rw [eventsOf_congr (congrArg Rep.events (settled_rep _)), eventsOf_congr hraised.events, faultNoted_events]
  · rw [settled_rep, hraised.inUse]
    exact hnoticed.inUse
  · exact settled_keeps_cause _ _ (raise_sets_cause _ _ (by decide))
  · rw [settled_rd_of_watches_lt _ _ (by decide), raise_rd_ne _ _ _ (by decide)]
    exact noticed_rd_ne s f (by decide)
  · rw [settled_mem, hraised.mem]
    exact hnoticed.mem
  · rw [settled_ports, hraised.ports]
    exact hnoticed.ports
  · rw [settled_queues, hraised.queues]
    exact hnoticed.queues
  · rw [settled_cmds, hraised.cmds]
    exact hnoticed.cmds

variable (hmay : s.mayRepair) (hspare : spareOf f.word = none)

include hmay hspare

/-- The spare is entered in the map, in use and in memory, counted and reported (R360, R363). -/
theorem faultEvent_repaired (hself : resType f.word ≠ 4 ∨ f.atOnce = true) {sp : Nat}
    (hfree : s.freeSpare (resType f.word) (resUnit f.word) = some sp) {w : BitVec 32}
    (hw : w = mkRes (resType f.word) (resUnit f.word) (resIndex f.word) sp true) :
    ∃ t, exec (.faultEvent f) s = .next t ∧ t.eventsOf f.word = [] ∧ t.rep.inUse = s.rep.inUse ++ [w]
      ∧ t.readNat s.mapEnd 8 = mapEntry w ∧ t.readNat (s.mapEnd + 8) 8 = 0xFFFFFFFF00000000
      ∧ (∀ x, (∀ k < 16, (s.mapEnd + k) % 2 ^ 64 ≠ x % 2 ^ 64) → t.byte x = s.byte x)
      ∧ t.fld rRepEvents 16 8 = min 255 (s.fld rRepEvents 16 8 + 1) ∧ (t.rd rEvtStatus).getLsbD 21 = true
      ∧ (resType f.word ≠ 1 → t.ports = s.ports) ∧ t.queues = s.queues ∧ t.cmds = s.cmds := by
  have hnoticed := noticed_notices s f
  have hheld := takeSpare_holdsUp (s.faultNoted f []) (resType f.word) (resUnit f.word) (resIndex f.word) sp
  have hports := takeSpare_ports_of_ne (s.faultNoted f []) (t := resType f.word) (resUnit f.word) (resIndex f.word) sp
  rw [← hw] at hheld hports
  obtain ⟨hmem, hqueues, hcmds, -, -, hentered, hrep⟩ := spareEntered_keeps (s.faultNoted f []) w
  have hend : (s.faultNoted f []).mapEnd = s.mapEnd := by
    rw [State.mapEnd, faultNoted_fld s f [] (by decide), State.mapEnd]
    exact congrArg (fun l : List (BitVec 32) => s.fld rRepMapBase 16 48 * 65536 + 8 * l.length) hnoticed.inUse
  obtain ⟨hentry, hlast⟩ := mapWritten_reads (s.faultNoted f []) w
  have hmap := (settled_mem _).trans (hheld.mem.trans hmem)
  rw [hend] at hentry hlast
  refine ⟨_, (exec_faultEvent hr).trans (by rw [fault_of_spare hmany hmay hspare hself hfree]), ?_, ?_, ?_, ?_, fun x hx => ?_,
    ?_, ?_, fun ht => ?_, ?_, ?_⟩
  · have hevents := (congrArg Rep.events hheld.rep).trans (congrArg Rep.events hrep)
    rw [eventsOf_congr ((congrArg Rep.events (settled_rep _)).trans hevents)]
    exact faultNoted_events s f []
  · rw [settled_rep, hheld.rep, hrep]
    exact congrArg (· ++ [w]) hnoticed.inUse
  · rw [readNat_congr hmap, hentry]
  · rw [readNat_congr hmap, hlast]
  · rw [byte_congr hmap, mapWritten_byte_out _ _ (by rwa [hend])]
    exact byte_congr hnoticed.mem x
  · rw [settled_fld_of_watches_lt _ (by decide), fld_of_rd (hheld.rd _ (by decide)), spareEntered_counts,
      faultNoted_fld s f [] (by decide)]
  · exact settled_keeps_cause _ _ (hheld.cause _ (repairReported_cause _))
  · rw [settled_ports, hports ht, hentered]
    exact hnoticed.ports
  · rw [settled_queues, hheld.queues, hqueues]
    exact hnoticed.queues
  · rw [settled_cmds, hheld.cmds, hcmds]
    exact hnoticed.cmds

/-- The chip asks for its replacement, and a port that lacks a Ply lane is held DOWN (R361). -/
theorem faultEvent_unrepaired (hself : resType f.word ≠ 4 ∨ f.atOnce = true) (hrow : resType f.word ≠ 5) (hcol : resType f.word ≠ 6)
    (hfree : s.freeSpare (resType f.word) (resUnit f.word) = none) :
    ∃ t, exec (.faultEvent f) s = .next t ∧ t.eventsOf f.word = [] ∧ t.rep.inUse = s.rep.inUse
      ∧ t.fld rRepStatus 24 1 = 1 ∧ (t.rd rEvtStatus).getLsbD 22 = true ∧ (t.rd rEvtStatus).getLsbD 25 = true
      ∧ t.fld rRepEvents 24 8 = min 255 (s.fld rRepEvents 24 8 + 1)
      ∧ (resType f.word = 2 → t.rep.heldPorts = resUnit f.word :: s.rep.heldPorts) ∧ (resType f.word ∉ [1, 2] → t.ports = s.ports)
      ∧ t.mem = s.mem ∧ t.queues = s.queues ∧ t.cmds = s.cmds := by
  have hnoticed := noticed_notices s f
  have halarmed := alarmed_notices (s.faultNoted f [])
  have hheld := noSpare_holdsUp (s.faultNoted f []) (resType f.word) (resUnit f.word) (resIndex f.word)
  obtain ⟨hstatus, hcounts, hreplace, hhealth⟩ := alarmed_fields (s.faultNoted f [])
  obtain ⟨hrd, hevents, hinUse, hmem, hqueues, hcmds⟩ := unrepaired_keeps (s.faultNoted f []) (resType f.word) (resUnit f.word)
  have hcause (c : Nat) (h : ((s.faultNoted f []).alarmed.rd rEvtStatus).getLsbD c = true) := settled_keeps_cause
    ((s.faultNoted f []).noSpare (resType f.word) (resUnit f.word) (resIndex f.word)) c (hheld.cause c (by rwa [hrd]))
  refine ⟨_, (exec_faultEvent hr).trans (by rw [fault_of_noSpare hmany hmay hspare hself hrow hcol hfree]), ?_, ?_, ?_,
    hcause _ hreplace, hcause _ hhealth, ?_, fun ht => ?_, fun ht => ?_, ?_, ?_, ?_⟩
  · rw [eventsOf_congr (congrArg Rep.events ((settled_rep _).trans hheld.rep)), eventsOf_congr (hevents.trans halarmed.events)]
    exact faultNoted_events s f []
  · rw [settled_rep, hheld.rep, hinUse, halarmed.inUse]
    exact hnoticed.inUse
  · rw [settled_fld_of_watches_lt _ (by decide), fld_of_rd (hheld.rd _ (by decide)), fld_of_rd (hrd _), hstatus]
  · rw [settled_fld_of_watches_lt _ (by decide), fld_of_rd (hheld.rd _ (by decide)), fld_of_rd (hrd _), hcounts,
      faultNoted_fld s f [] (by decide)]
  · rw [settled_rep, hheld.rep, State.unrepaired, if_pos ht]
    exact congrArg (resUnit f.word :: ·) ((congrArg Rep.heldPorts halarmed.rep :).trans (congrArg Rep.heldPorts hnoticed.rep :))
  · rw [settled_ports, noSpare_ports_of_not_mem _ _ _ ht, halarmed.ports]
    exact hnoticed.ports
  · rw [settled_mem, hheld.mem, hmem, halarmed.mem]
    exact hnoticed.mem
  · rw [settled_queues, hheld.queues, hqueues, halarmed.queues]
    exact hnoticed.queues
  · rw [settled_cmds, hheld.cmds, hcmds, halarmed.cmds]
    exact hnoticed.cmds

end

/-! ### SELFTEST_TIMER -/

section

variable (s : State)

/-- The self-test is due (R358). -/
def State.selftestDue : Prop :=
  s.firmware = true ∧ s.timeValid = true ∧ s.rep.lastSelftest + 1000000000 * s.fld rRepCfg 20 12 ≤ s.now

/-- The self-test runs now. -/
def State.selftested : State := { s with rep := { s.rep with lastSelftest := s.now } }

theorem effSelftestTimer_of_not_due (fs : List FaultRec) (h : ¬ s.selftestDue) : effSelftestTimer fs s = s := by
  rw [State.selftestDue, ← and_assoc] at h
  simp only [effSelftestTimer, Bool.and_eq_true, decide_eq_true_eq, h, if_false]

theorem effSelftestTimer_of_due (fs : List FaultRec) (h : s.selftestDue) : effSelftestTimer fs s = s.selftested.faults fs := by
  rw [State.selftestDue, ← and_assoc] at h
  simp only [effSelftestTimer, Bool.and_eq_true, decide_eq_true_eq, h, and_self, if_true]
  rfl

variable {s}

/-- One mismatch of few is recorded and counted. -/
theorem selftested_fault_of_few {f : FaultRec} (honce : f.atOnce = false) (hfew : (s.eventsOf f.word).length + 1 < s.fld rRepCfg 16 4) :
    (s.now, f.row, f.col) ∈ (s.selftested.faults [f]).settled.eventsOf f.word
      ∧ (s.selftested.faults [f]).settled.fld rRepEvents 0 16 = min 65535 (s.fld rRepEvents 0 16 + 1) := by
  have hlength : (s.selftested.faultTimes f).length ≤ (s.eventsOf f.word).length + 1 := by
    rw [State.faultTimes, List.length_append]
    exact Nat.add_le_add_right (List.length_filter_le _ _) 1
  have hfault : s.selftested.faults [f] = (s.selftested.faultNoted f (s.selftested.faultTimes f)).sat rRepEvents 0 16 1 :=
    fault_of_few ⟨honce, Nat.lt_of_le_of_lt hlength hfew⟩
  rw [hfault]
  refine ⟨?_, ?_⟩
  · rw [eventsOf_congr (congrArg Rep.events (settled_rep _))]
    refine (faultNoted_events s.selftested f _).symm ▸ ?_
    exact List.mem_append_right _ (List.mem_singleton.mpr rfl)
  · rw [settled_fld_of_watches_lt _ (by decide), fld_sat_self _ _ _ _ _ (by decide), faultNoted_fld _ f _ (by decide)]
    rfl

theorem selftestTimer_runs (hr : s.ctl.resetOn = false) (fs : List FaultRec) (hdue : s.selftestDue) :
    ∃ t, exec (.selftestTimer fs) s = .next t ∧ t.rep.lastSelftest = s.now
      ∧ (∀ w, (∀ f ∈ fs, f.word ≠ w) → t.eventsOf w = s.eventsOf w) ∧ t.queues = s.queues ∧ t.cmds = s.cmds
      ∧ (fs = [] → t.mem = s.mem ∧ t.ports = s.ports ∧ ∀ o, o ≠ rEvtStatus → (∀ k < 8, o ≠ rEvwCfg k) → t.rd o = s.rd o)
      ∧ ∀ f, fs = [f] → f.atOnce = false → (s.eventsOf f.word).length + 1 < s.fld rRepCfg 16 4 →
          (s.now, f.row, f.col) ∈ t.eventsOf f.word ∧ t.fld rRepEvents 0 16 = min 65535 (s.fld rRepEvents 0 16 + 1) := by
  have hhandled := faults_handles s.selftested fs
  refine ⟨(s.selftested.faults fs).settled, (done_live _ s hr).trans (by rw [effSelftestTimer_of_due s fs hdue]), ?_,
    fun w hw => ?_, ?_, ?_, ?_, ?_⟩
  · rw [settled_rep]
    exact hhandled.lastSelftest
  · rw [eventsOf_congr (congrArg Rep.events (settled_rep _)), hhandled.events w fun ⟨f, hf, h⟩ => hw f hf h]
    rfl
  · rw [settled_queues, hhandled.queues]
    rfl
  · rw [settled_cmds, hhandled.cmds]
    rfl
  · rintro rfl
    exact ⟨settled_mem _, settled_ports _, fun o h1 h2 => settled_rd s.selftested o h1 h2⟩
  · rintro f rfl
    exact selftested_fault_of_few

end

/-! ### AGEING_SWEEP (R364, R365) -/

section

variable (s : State) (c : Canary)

/-- The supply follows the slowest canary in one of three ways. -/
theorem replanOffset_cases :
    s.replanOffset c = s ∨ (∃ d, s.replanOffset c = s.requestOffset d) ∨ s.replanOffset c = s.marginLost := by
  unfold State.replanOffset
  simp only
  split
  · split
    · split
      · exact .inl rfl
      · exact .inr (.inl ⟨1, rfl⟩)
    · exact .inr (.inr rfl)
  · split
    · exact .inr (.inl ⟨-1, rfl⟩)
    · exact .inl rfl

/-- A request is all that the engine's state keeps of it. -/
theorem requestOffset_eq (d : Int) : s.requestOffset d = { s with ctl := (s.requestOffset d).ctl } := by
  unfold State.requestOffset
  split <;> rfl

theorem requestOffset_of_none (d : Int) (h : s.ctl.offsetReq = none) :
    s.requestOffset d = { s with ctl := { s.ctl with offsetReq := some d, offsetAt := s.now } } := by
  rw [State.requestOffset, h]
  rfl

/-- Re-planning the supply keeps the sweep, the work and the slowest canary. -/
theorem replanOffset_keeps : (s.replanOffset c).age = s.age ∧ (s.replanOffset c).queues = s.queues
    ∧ (s.replanOffset c).cmds = s.cmds ∧ (s.replanOffset c).rd rAgeSlowest = s.rd rAgeSlowest := by
  obtain h | ⟨d, h⟩ | h := replanOffset_cases s c <;> rw [h]
  · exact ⟨rfl, rfl, rfl, rfl⟩
  · rw [requestOffset_eq]
    exact ⟨rfl, rfl, rfl, rfl⟩
  · have hlost : s.NoticesOnly s.marginLost := (setFld_notices s rAgeStatus 16 1 1).trans (raise_notices _ causeMarginLost)
    refine ⟨hlost.age, hlost.queues, hlost.cmds, ?_⟩
    rw [State.marginLost, raise_rd_ne _ _ _ (by decide), rd_setFld_ne _ _ _ _ _ _ (by decide)]

/-- The margin register and the slowest canary of a sweep; a margin that has changed ends a loss (R365). -/
def State.slowestNamed : State :=
  let m := unsigned 8 (max (-128) (min 127 (marginNum c / (targetOf c.word : Int))))
  let s := if m = s.fld rAgeStatus 8 8 then s else s.setFld rAgeStatus 16 1 0
  (s.setFld rAgeStatus 8 8 m).wr rAgeSlowest (BitVec.setWidth 64 c.word)

/-- What the slowest canary of a sweep asks of the supply. -/
def State.replanSupply (laps : List Canary) : State :=
  match slowest laps with
  | none => s
  | some c => (s.slowestNamed c).replanOffset c

/-- The canaries of a sweep one by one. -/
def State.replanResources (laps : List Canary) (reference : Nat) : State :=
  laps.foldl (fun s c => s.replanResource laps reference c) s

theorem sweep_eq (reference : Nat) (laps : List Canary) : s.sweep reference laps =
    (((s.recordSweep reference laps).replanSupply laps).replanResources laps reference).setFld rAgeStatus 32 16
      (((s.recordSweep reference laps).replanSupply laps).replanResources laps reference).life := by
  unfold State.sweep State.replanSupply State.replanResources
  cases slowest laps <;> rfl

theorem slowestNamed_notices : s.NoticesOnly (s.slowestNamed c) := by
  unfold State.slowestNamed
  simp only
  split <;> rfl

theorem slowestNamed_rd_self : (s.slowestNamed c).rd rAgeSlowest = BitVec.setWidth 64 c.word := rd_wr_self _ _ _

theorem slowestNamed_fld {o : Nat} (hstatus : o ≠ rAgeStatus) (hslowest : o ≠ rAgeSlowest) (lo w : Nat) :
    (s.slowestNamed c).fld o lo w = s.fld o lo w := by
  unfold State.slowestNamed
  simp only
  rw [fld_of_rd (rd_wr_ne _ _ _ _ hslowest), fld_setFld_other _ _ _ _ _ _ _ _ hstatus]
  split
  · rfl
  · exact fld_setFld_other _ _ _ _ _ _ _ _ hstatus

/-- The offset in force stays, and what was not lost is not. -/
theorem slowestNamed_status : (s.slowestNamed c).offset = s.offset
    ∧ (s.fld rAgeStatus 16 1 = 0 → (s.slowestNamed c).fld rAgeStatus 16 1 = 0) := by
  unfold State.slowestNamed State.offset
  simp only
  rw [fld_of_rd (rd_wr_ne _ _ _ _ (by decide)), fld_of_rd (rd_wr_ne _ _ _ _ (by decide)),
    fld_setFld_ne _ _ _ _ _ _ _ (by decide) (by decide), fld_setFld_ne _ _ _ _ _ _ _ (by decide) (by decide)]
  split
  · exact ⟨rfl, id⟩
  · exact ⟨by rw [fld_setFld_ne _ _ _ _ _ _ _ (by decide) (by decide)], fun _ => fld_setFld_self _ _ _ _ _ (by decide)⟩

theorem slowestNamed_now : (s.slowestNamed c).now = s.now := by
  have hword : ∀ v : Word, bitsAt v.toNat 0 64 = v.toNat := fun v => by simp [bitsAt, Nat.mod_eq_of_lt v.isLt]
  rw [State.now, ← hword, State.now, ← hword (s.rd rGcnt)]
  exact slowestNamed_fld s c (by decide) (by decide) 0 64

/-- What the margin of the slowest canary has asked of the supply in `t`: more below the low limit, less above the high one,
nothing between them (R365). -/
def State.AsksFor (t : State) : Prop :=
  let low : Int := s.fld rAgeCfg 12 8 * (targetOf c.word : Int)
  let high : Int := s.fld rAgeCfg 20 8 * (targetOf c.word : Int)
  (marginNum c < low → s.offset < s.fld rAgeVlimit 0 6 → t.ctl.offsetReq = some 1 ∧ t.ctl.offsetAt = s.now)
    ∧ (low ≤ marginNum c → high < marginNum c → -(s.fld rAgeVlimit 6 6 : Int) < s.offset →
        t.ctl.offsetReq = some (-1) ∧ t.ctl.offsetAt = s.now)
    ∧ (low ≤ marginNum c → marginNum c ≤ high → t.ctl.offsetReq = none)

theorem State.AsksFor.congr {s t u : State} {c : Canary} (h : s.AsksFor c t) (hreq : u.ctl.offsetReq = t.ctl.offsetReq)
    (hat : u.ctl.offsetAt = t.ctl.offsetAt) : s.AsksFor c u := by
  unfold State.AsksFor
  rw [hreq, hat]
  exact h

/-- Without a request pending or a loss to the cap, the margin decides what is asked. -/
theorem slowestNamed_asks (hreq : s.ctl.offsetReq = none) (hkept : s.fld rAgeStatus 16 1 = 0) :
    s.AsksFor c ((s.slowestNamed c).replanOffset c) := by
  obtain ⟨hoffset, hlost⟩ := slowestNamed_status s c
  have hnone : (s.slowestNamed c).ctl.offsetReq = none := by rw [(slowestNamed_notices s c).ctl, hreq]
  have hcfg := slowestNamed_fld s c (o := rAgeCfg) (by decide) (by decide)
  have hlimit := slowestNamed_fld s c (o := rAgeVlimit) (by decide) (by decide)
  have hplan : (s.slowestNamed c).replanOffset c = if marginNum c < s.fld rAgeCfg 12 8 * (targetOf c.word : Int) then
      (if s.offset < s.fld rAgeVlimit 0 6 then (s.slowestNamed c).requestOffset 1 else (s.slowestNamed c).marginLost)
      else if s.fld rAgeCfg 20 8 * (targetOf c.word : Int) < marginNum c ∧ -(s.fld rAgeVlimit 6 6 : Int) < s.offset then
        (s.slowestNamed c).requestOffset (-1)
      else s.slowestNamed c := by
    simp only [State.replanOffset, hcfg, hlimit, hoffset, hlost hkept, zero_ne_one, if_false]
  have hasked (d : Int) : ((s.slowestNamed c).requestOffset d).ctl.offsetReq = some d
      ∧ ((s.slowestNamed c).requestOffset d).ctl.offsetAt = s.now := by
    rw [requestOffset_of_none _ _ hnone, slowestNamed_now]
    exact ⟨rfl, rfl⟩
  refine ⟨fun hlow hup => ?_, fun hlow hhigh hdown => ?_, fun hlow hhigh => ?_⟩
  · rw [hplan, if_pos hlow, if_pos hup]
    exact hasked 1
  · rw [hplan, if_neg (not_lt.mpr hlow), if_pos ⟨hhigh, hdown⟩]
    exact hasked (-1)
  · rw [hplan, if_neg (not_lt.mpr hlow), if_neg fun h => not_lt.mpr hhigh h.1]
    exact hnone

/-- The lap of one canary may repair its resource (R365). -/
theorem replanResource_handles (laps : List Canary) (reference : Nat) :
    State.Handles (fun _ => True) s (s.replanResource laps reference c) := by
  unfold State.replanResource
  extract_lets r lim t retire out
  split
  · exact .refl s
  split
  · have hout : State.Handles (fun _ => True) s out := by
      unfold out
      split
      · exact setFld_handles s _ _ _ (by decide)
      · exact .refl s
    exact hout.trans ((fault_handles out _).mono fun _ _ => trivial)
  split
  · split
    · exact .refl s
    split
    · exact takeSpare_handles s _ _ _ _
    · exact .refl s
  · exact .refl s

theorem replanResources_handles (laps : List Canary) (reference : Nat) :
    State.Handles (fun _ => True) s (s.replanResources laps reference) := by
  unfold State.replanResources
  exact foldl_handles _ (fun s c => replanResource_handles s c laps reference) laps s

theorem settled_offset : s.settled.ctl.offsetReq = s.ctl.offsetReq ∧ s.settled.ctl.offsetAt = s.ctl.offsetAt := by
  rw [settled_shape]
  exact ⟨rfl, rfl⟩

theorem settled_age : s.settled.age = s.age := (congrArg State.age (settled_accounts s) :)

/-- The sweep is due (R364). -/
def State.sweepDue : Prop :=
  s.firmware = true ∧ s.timeValid = true ∧ s.age.lastSweep + 1000000000 * s.fld rAgeCfg 0 12 ≤ s.now

theorem effAgeingSweep_of_not_due (reference : Nat) (laps : List Canary) (h : ¬ s.sweepDue) :
    effAgeingSweep reference laps s = s := by
  rw [State.sweepDue, ← and_assoc] at h
  simp only [effAgeingSweep, Bool.and_eq_true, decide_eq_true_eq, h, if_false]

theorem effAgeingSweep_of_due (reference : Nat) (laps : List Canary) (h : s.sweepDue) :
    effAgeingSweep reference laps s = s.sweep reference laps := by
  rw [State.sweepDue, ← and_assoc] at h
  simp only [effAgeingSweep, Bool.and_eq_true, decide_eq_true_eq, h, and_self, if_true]

/-- The supply that a sweep has been planned for, before its canaries are looked at one by one. -/
def State.supplyPlanned (reference : Nat) (laps : List Canary) : State := (s.recordSweep reference laps).replanSupply laps

/-- Looking at the canaries of a sweep leaves its record, the work, the supply and the slowest canary. -/
theorem sweep_handles (reference : Nat) (laps : List Canary) :
    State.Handles (fun _ => True) (s.supplyPlanned reference laps) (s.sweep reference laps) := by
  rw [sweep_eq]
  exact (replanResources_handles _ laps reference).trans (setFld_handles _ _ _ _ (by decide))

/-- Planning the supply leaves the record of the sweep and the work. -/
theorem supplyPlanned_keeps (reference : Nat) (laps : List Canary) :
    (s.supplyPlanned reference laps).age = (s.recordSweep reference laps).age ∧ (s.supplyPlanned reference laps).queues = s.queues
      ∧ (s.supplyPlanned reference laps).cmds = s.cmds := by
  unfold State.supplyPlanned State.replanSupply
  split
  · exact ⟨rfl, rfl, rfl⟩
  · rename_i c _
    obtain ⟨hage, hqueues, hcmds, -⟩ := replanOffset_keeps ((s.recordSweep reference laps).slowestNamed c) c
    have hnamed := slowestNamed_notices (s.recordSweep reference laps) c
    exact ⟨hage.trans hnamed.age, hqueues.trans hnamed.queues, hcmds.trans hnamed.cmds⟩

theorem supplyPlanned_of_slowest (reference : Nat) {laps : List Canary} (h : slowest laps = some c) :
    s.supplyPlanned reference laps = ((s.recordSweep reference laps).slowestNamed c).replanOffset c := by
  rw [State.supplyPlanned, State.replanSupply, h]

variable {s}

theorem ageingSweep_runs (hr : s.ctl.resetOn = false) (reference : Nat) (laps : List Canary) (hdue : s.sweepDue) :
    ∃ t, exec (.ageingSweep reference laps) s = .next t ∧ t.age.laps = laps ∧ t.age.reference = reference
      ∧ t.age.lastSweep = s.now ∧ t.age.firstSweep = some (s.age.firstSweep.getD s.now)
      ∧ t.queues = s.queues ∧ t.cmds = s.cmds
      ∧ (laps = [] → t.ctl.offsetReq = s.ctl.offsetReq ∧ t.rd rAgeSlowest = s.rd rAgeSlowest)
      ∧ ∀ c, slowest laps = some c → t.rd rAgeSlowest = BitVec.setWidth 64 c.word
        ∧ (s.ctl.offsetReq = none → s.fld rAgeStatus 16 1 = 0 → s.AsksFor c t) := by
  have hhandled := sweep_handles s reference laps
  obtain ⟨hplanned, hqueues, hcmds⟩ := supplyPlanned_keeps s reference laps
  obtain ⟨hreq, hat⟩ := settled_offset (s.sweep reference laps)
  have hage := (settled_age _).trans (hhandled.age.trans hplanned)
  have hslowest := (settled_rd_of_watches_lt (s.sweep reference laps) rAgeSlowest (by decide)).trans hhandled.slowest
  rw [hhandled.ctl] at hreq hat
  refine ⟨(s.sweep reference laps).settled, (done_live _ s hr).trans (by rw [effAgeingSweep_of_due s reference laps hdue]), ?_, ?_, ?_,
    ?_, ?_, ?_, ?_, fun c hc => ⟨?_, fun hnone hkept => ?_⟩⟩
  · rw [hage]
    rfl
  · rw [hage]
    rfl
  · rw [hage]
    rfl
  · rw [hage]
    rfl
  · rw [settled_queues, hhandled.queues, hqueues]
  · rw [settled_cmds, hhandled.cmds, hcmds]
  · rintro rfl
    exact ⟨hreq, hslowest⟩
  · rw [hslowest, supplyPlanned_of_slowest s c reference hc, (replanOffset_keeps _ c).2.2.2, slowestNamed_rd_self]
  · rw [supplyPlanned_of_slowest s c reference hc] at hreq hat
    exact .congr (slowestNamed_asks (s.recordSweep reference laps) c hnone hkept) hreq hat

end

/-! ### The obligation -/

/-- Apart from an SRAM bank with recorded events, a resource with spares of its own is repaired by them alone. -/
theorem repairs_itself {ty : Nat} {once : Bool} (h : spareCount ty = 0 ∨ ty ∈ [1, 2, 3] ∨ (ty = 4 ∧ once = true)) :
    (ty ≠ 4 ∨ once = true) ∧ ty ≠ 5 ∧ ty ≠ 6 := by
  rcases h with h | h | ⟨rfl, h⟩
  · refine ⟨.inl ?_, ?_, ?_⟩ <;> rintro rfl <;> exact absurd h (by decide)
  · simp only [List.mem_cons, List.not_mem_nil, or_false] at h
    omega
  · exact ⟨.inr h, by decide, by decide⟩

/-- Settles O60: a fault event by the events before it, by HOLD and by the spares of its unit; the self-test and the sweep by
whether they are due. -/
theorem faultsAndAgeing : Obligations.FaultsAndAgeing := by
  unfold Obligations.FaultsAndAgeing
  refine fun s hr => ⟨?_, fun faults => ⟨fun hdue => ?_, selftestTimer_runs hr faults⟩,
    fun reference laps => ⟨fun hdue => ?_, ageingSweep_runs hr reference laps⟩⟩
  · intro f ty u evs few may
    refine ⟨faultEvent_kept hr, faultEvent_unhandled hr, fun hmany hmay htype hspare sp hfree => ?_,
      fun hmany hmay htype hspare hfree => ?_⟩
    · intro w a
      exact faultEvent_repaired hr hmany hmay hspare (repairs_itself (.inr htype)).1 hfree rfl
    · obtain ⟨hself, hrow, hcol⟩ := repairs_itself htype
      exact faultEvent_unrepaired hr hmany hmay hspare hself hrow hcol hfree
  · exact (done_live _ s hr).trans (by rw [effSelftestTimer_of_not_due s faults hdue])
  · exact (done_live _ s hr).trans (by rw [effAgeingSweep_of_not_due s reference laps hdue])

end Sys2Proof.Machine

/-! The invariant of every step (spec/13_control.md R392, R398), and the quiesce and wake requests (R398, R399). -/

namespace Sys2Proof.Machine

/-! ### What settling changes (R392, R398) -/

/-- Settling raises no cause but COUNTER_WATCH and CONTROL_INPUT. -/
theorem raise_cause_ne (s : State) {c n : Nat} (h : c ≠ n) (hn : n < 64) :
    ((s.raise c).rd rEvtStatus).getLsbD n = (s.rd rEvtStatus).getLsbD n := by
  rw [raise_rd_self, getLsbD_setBits _ _ _ _ _ hn, if_neg (by omega)]

theorem watchStep_cause_ne (s : State) (k : Nat) {n : Nat} (h : 28 ≠ n) (hn : n < 64) :
    ((s.watchStep k).rd rEvtStatus).getLsbD n = (s.rd rEvtStatus).getLsbD n := by
  unfold State.watchStep
  simp only
  split
  · rw [raise_cause_ne _ h hn, rd_setFld_ne _ _ _ _ _ _ (by simp only [rEvtStatus, rEvwCfg]; omega)]
  · rfl

theorem checkWatches_cause_ne (s : State) {n : Nat} (h : 28 ≠ n) (hn : n < 64) :
    (s.checkWatches.rd rEvtStatus).getLsbD n = (s.rd rEvtStatus).getLsbD n :=
  foldl_keeps (fun s => (s.rd rEvtStatus).getLsbD n) State.watchStep (fun s k => watchStep_cause_ne s k h hn) _ s

theorem settleQuiesce_cause_ne (s : State) {n : Nat} (h : 29 ≠ n) (hn : n < 64) :
    (s.settleQuiesce.rd rEvtStatus).getLsbD n = (s.rd rEvtStatus).getLsbD n := by
  unfold State.settleQuiesce State.enter State.answer
  split
  · split
    · rfl
    · exact raise_cause_ne _ h hn
  · rfl

/-- Settles O4: the shape of `settled`, and the invariant that it gives. -/
theorem settledShape : Obligations.SettledShape := by
  unfold Obligations.SettledShape
  exact fun s => ⟨settled_shape s, settled_rd s,
    fun n h28 h29 hn => (checkWatches_cause_ne _ h28 hn).trans (settleQuiesce_cause_ne s h29 hn), settled_inv s⟩

/-! ### The invariant right after reset, and along every step -/

/-- No watch is enabled where the registers hold their reset values. -/
theorem watchSettled_of_reset {s : State} (h : s.regs = []) : ∀ k < 8, s.watchSettled k := by
  have hoff : ∀ k < 8, bitAt (regReset (rEvwCfg k)).toNat 8 = false := by decide +kernel
  intro k hk henabled
  have hrd : s.rd (rEvwCfg k) = regReset (rEvwCfg k) := by rw [State.rd, h, smGet]
  exact absurd (((hrd ▸ hoff k hk).symm.trans henabled) : false = true) Bool.false_ne_true

/-- Settles O2. -/
theorem resetInv : Obligations.ResetInv :=
  ⟨watchSettled_of_reset rfl, fun h => absurd h (by decide)⟩

/-- Every command but those of reset and of the control inputs has an effect that is settled. -/
theorem exec_live_or_power (i : Instr) : (∃ f, ∀ s, exec i s = done (s.live f)) ∨ i = .resetAssert
    ∨ (∃ ns quiesce wake, i = .resetDeassert ns quiesce wake) ∨ ∃ quiesce wake, i = .controlInputChange quiesce wake := by
  cases i
  case resetAssert => exact .inr (.inl rfl)
  case resetDeassert ns quiesce wake => exact .inr (.inr (.inl ⟨ns, quiesce, wake, rfl⟩))
  case controlInputChange quiesce wake => exact .inr (.inr (.inr ⟨quiesce, wake, rfl⟩))
  all_goals exact .inl ⟨_, fun _ => rfl⟩

theorem live_inv {s : State} (h : s.Inv) (f : State → State) : (s.live f).Inv := by
  unfold State.live
  split
  · exact h
  · exact settled_inv _

/-- Reset asserted: the engine runs no more, and no watch is enabled (R49). -/
theorem effResetAssert_inv (s : State) : (effResetAssert s).Inv :=
  ⟨watchSettled_of_reset rfl, fun h => EngState.noConfusion (h : EngState.running = .quiescing)⟩

/-- Reset released: the engine wakes, and no register changes (R419). -/
theorem effResetDeassert_inv {s : State} (h : s.Inv) (quiesce wake : Bool) : (effResetDeassert quiesce wake s).Inv := by
  unfold effResetDeassert
  split
  · exact h
  · exact ⟨h.watch, fun hst => EngState.noConfusion (hst : EngState.waking = .quiescing)⟩

/-- The requests are kept while reset is asserted, and nothing else changes. -/
theorem effControlInputChange_of_reset {s : State} (hr : s.ctl.resetOn = true) (quiesce wake : Bool) :
    effControlInputChange quiesce wake s = { s with ctl := { s.ctl with quiesceReq := quiesce, wakeReq := wake } } := by
  simp [effControlInputChange, hr]

theorem exec_inv {i : Instr} {s t : State} (h : s.Inv) (hexec : exec i s = .next t) : t.Inv := by
  rcases exec_live_or_power i with ⟨f, hf⟩ | rfl | ⟨ns, quiesce, wake, rfl⟩ | ⟨quiesce, wake, rfl⟩
  · obtain rfl : s.live f = t := Host.Outcome.next.inj ((hf s).symm.trans hexec)
    exact live_inv h f
  · obtain rfl : effResetAssert s = t := Host.Outcome.next.inj hexec
    exact effResetAssert_inv s
  · have hcases : exec (.resetDeassert ns quiesce wake) s = if s.ctl.resetOn = true ∧ ns < 100 then .fault .resetHeldTooShort
        else .next (effResetDeassert quiesce wake s) := rfl
    rw [hcases] at hexec
    split at hexec
    · cases hexec
    · obtain rfl := Host.Outcome.next.inj hexec
      exact effResetDeassert_inv h quiesce wake
  · obtain rfl : (if s.ctl.resetOn then effControlInputChange quiesce wake s
        else (effControlInputChange quiesce wake s).settled) = t := Host.Outcome.next.inj hexec
    split
    · rename_i hr
      rw [effControlInputChange_of_reset hr]
      exact ⟨h.watch, h.quiesce⟩
    · exact settled_inv _

/-- Settles O3: an empty queue leaves the state, and every command keeps the invariant. -/
theorem stepKeepsInv : Obligations.StepKeepsInv := by
  unfold Obligations.StepKeepsInv
  intro s t h hstep
  unfold step at hstep
  split at hstep
  · obtain rfl := Host.Outcome.next.inj hstep
    exact h
  · rename_i i rest hpending
    exact exec_inv (s := { s with pending := rest }) ⟨h.watch, h.quiesce⟩ hstep

/-! ### The quiesce and wake requests (R398, R399) -/

/-- The target that the requests ask for: quiesce wins over wake. -/
def Ctl.targetOf (c : Ctl) (quiesce wake : Bool) : Bool := if quiesce then true else if wake then false else c.toQuiesce

/-- The requests as they are kept. -/
def State.requested (s : State) (quiesce wake : Bool) : State :=
  { s with ctl := { s.ctl with quiesceReq := quiesce, wakeReq := wake } }

theorem effControlInputChange_eq {s : State} (hr : s.ctl.resetOn = false) (quiesce wake : Bool) :
    effControlInputChange quiesce wake s = if s.ctl.targetOf quiesce wake = s.ctl.toQuiesce then s.requested quiesce wake
      else (s.requested quiesce wake).newTarget (s.ctl.targetOf quiesce wake) := by
  have hcond : (s.ctl.resetOn = true ∨ s.ctl.targetOf quiesce wake = s.ctl.toQuiesce)
      ↔ s.ctl.targetOf quiesce wake = s.ctl.toQuiesce := by simp [hr]
  exact if_congr hcond rfl rfl

/-- The state with a target. -/
def State.aimed (s : State) (quiesce : Bool) : State := { s with ctl := { s.ctl with toQuiesce := quiesce } }

/-- The state with its target recorded, and not begun. -/
def State.recording (s : State) : State := { s with ctl := { s.ctl with recorded := true } }

/-- `t` is `s` but for LGX_CTL_INPUTS, the causes of events and the state of the engine: its requests and its target stay. -/
structure State.Retargets (s t : State) : Prop where
  frame : t = { s with regs := t.regs, ctl := t.ctl }
  rd : ∀ o, o ≠ rCtlInputs → o ≠ rEvtStatus → t.rd o = s.rd o
  quiesceReq : t.ctl.quiesceReq = s.ctl.quiesceReq
  wakeReq : t.ctl.wakeReq = s.ctl.wakeReq
  toQuiesce : t.ctl.toQuiesce = s.ctl.toQuiesce

theorem State.Retargets.refl (s : State) : s.Retargets s := ⟨rfl, fun _ _ _ => rfl, rfl, rfl, rfl⟩

theorem State.Retargets.trans {s t u : State} (hst : s.Retargets t) (htu : t.Retargets u) : s.Retargets u where
  frame := htu.frame.trans (congrArg (fun x : State => { x with regs := u.regs, ctl := u.ctl }) hst.frame)
  rd o h1 h2 := (htu.rd o h1 h2).trans (hst.rd o h1 h2)
  quiesceReq := htu.quiesceReq.trans hst.quiesceReq
  wakeReq := htu.wakeReq.trans hst.wakeReq
  toQuiesce := htu.toQuiesce.trans hst.toQuiesce

/-- A state entered: its cause is raised where it is a new one. -/
theorem enter_retargets (s : State) (e : EngState) : s.Retargets (s.enter e) := by
  unfold State.enter
  split
  · exact .refl s
  · exact ⟨rfl, fun o _ h => rd_setFld_ne _ _ _ _ _ _ h, rfl, rfl, rfl⟩

theorem enter_st (s : State) (e : EngState) : (s.enter e).ctl.st = e := by
  unfold State.enter
  split
  · assumption
  · rfl

theorem answer_retargets (s : State) : s.Retargets s.answer := ⟨rfl, fun _ _ _ => rfl, rfl, rfl, rfl⟩

theorem settleQuiesce_retargets (s : State) : s.Retargets s.settleQuiesce := by
  unfold State.settleQuiesce
  split
  · exact (enter_retargets s _).trans (answer_retargets _)
  · exact .refl s

theorem loseTarget_retargets (s : State) : s.Retargets s.loseTarget :=
  ⟨rfl, fun _ h1 h2 => (rd_setFld_ne _ _ _ _ _ _ h2).trans (rd_setFld_ne _ _ _ _ _ _ h1), rfl, rfl, rfl⟩

/-- QUIESCING ends when nothing runs (R398; that no CHECKPOINT waits is the model's choice: DEDUCED, log 67). -/
theorem settleQuiesce_st (s : State) : s.settleQuiesce.ctl.st =
    if s.ctl.st = .quiescing ∧ s.cmds = [] ∧ s.ckp.image = none ∧ s.ckp.pairs = [] then .quiesced else s.ctl.st := by
  unfold State.settleQuiesce
  simp only [List.isEmpty_iff, Option.isNone_iff_eq_none]
  split
  · exact enter_st s _
  · rfl

theorem settled_ctl (s : State) : s.settled.ctl = s.settleQuiesce.ctl := by rw [State.settled, checkWatches_eq]

/-- Outside QUIESCING nothing of the engine's state is left to settle. -/
theorem settled_ctl_of_ne {s : State} (h : s.ctl.st ≠ .quiescing) : s.settled.ctl = s.ctl := by
  rw [settled_eq _ h, checkWatches_eq]

/-! ### A new target by the state of the engine (R399; DEDUCED, log 15) -/

section

variable {s : State} (quiesce : Bool)

theorem newTarget_eq (s : State) : s.newTarget quiesce = match s.ctl.st with
    | .waking => if s.ctl.recorded then (s.aimed quiesce).loseTarget
        else (s.aimed quiesce).recording
    | .running => if quiesce then ((s.aimed quiesce).enter .quiescing).settleQuiesce else s.aimed quiesce
    | .quiescing => if quiesce then s.aimed quiesce else ((s.aimed quiesce).enter .running).answer
    | .quiesced => if quiesce then s.aimed quiesce else (s.aimed quiesce).enter .waking := rfl

theorem newTarget_of_waking (h : s.ctl.st = .waking) : s.newTarget quiesce =
    if s.ctl.recorded then (s.aimed quiesce).loseTarget
    else (s.aimed quiesce).recording := by
  rw [newTarget_eq, h]

theorem newTarget_of_running (h : s.ctl.st = .running) : s.newTarget quiesce =
    if quiesce then ((s.aimed quiesce).enter .quiescing).settleQuiesce else s.aimed quiesce := by
  rw [newTarget_eq, h]

theorem newTarget_of_quiescing (h : s.ctl.st = .quiescing) : s.newTarget quiesce =
    if quiesce then s.aimed quiesce else ((s.aimed quiesce).enter .running).answer := by
  rw [newTarget_eq, h]

theorem newTarget_of_quiesced (h : s.ctl.st = .quiesced) : s.newTarget quiesce =
    if quiesce then s.aimed quiesce else (s.aimed quiesce).enter .waking := by
  rw [newTarget_eq, h]

theorem newTarget_retargets (s : State) : (s.aimed quiesce).Retargets (s.newTarget quiesce) := by
  cases hst : s.ctl.st with
  | waking =>
    rw [newTarget_of_waking quiesce hst]
    split
    · exact loseTarget_retargets _
    · exact ⟨rfl, fun _ _ _ => rfl, rfl, rfl, rfl⟩
  | running =>
    rw [newTarget_of_running quiesce hst]
    split
    · exact (enter_retargets _ _).trans (settleQuiesce_retargets _)
    · exact .refl _
  | quiescing =>
    rw [newTarget_of_quiescing quiesce hst]
    split
    · exact .refl _
    · exact (enter_retargets _ _).trans (answer_retargets _)
  | quiesced =>
    rw [newTarget_of_quiesced quiesce hst]
    split
    · exact .refl _
    · exact enter_retargets _ _

end

section

variable {s : State} (hr : s.ctl.resetOn = false) (quiesce wake : Bool)

include hr

theorem exec_controlInputChange : exec (.controlInputChange quiesce wake) s = .next (effControlInputChange quiesce wake s).settled := by
  refine congrArg Host.Outcome.next (if_neg ?_)
  rw [hr]
  exact Bool.false_ne_true

/-- Whether the target changes or stays. -/
theorem effControlInputChange_retargets :
    ((s.requested quiesce wake).aimed (s.ctl.targetOf quiesce wake)).Retargets (effControlInputChange quiesce wake s) := by
  rw [effControlInputChange_eq hr]
  split
  · rename_i hsame
    rw [hsame]
    exact .refl _
  · exact newTarget_retargets _ _

theorem effControlInputChange_of_same (h : s.ctl.targetOf quiesce wake = s.ctl.toQuiesce) :
    effControlInputChange quiesce wake s = s.requested quiesce wake := by
  rw [effControlInputChange_eq hr, if_pos h]

theorem effControlInputChange_of_new (h : s.ctl.targetOf quiesce wake ≠ s.ctl.toQuiesce) :
    effControlInputChange quiesce wake s = (s.requested quiesce wake).newTarget (s.ctl.targetOf quiesce wake) := by
  rw [effControlInputChange_eq hr, if_neg h]

/-- RUNNING that is to quiesce: QUIESCED at once when nothing runs (DEDUCED, log 67). -/
theorem controlInputChange_quiesces (hst : s.ctl.st = .running) (ht : s.ctl.targetOf quiesce wake = true)
    (hold : s.ctl.toQuiesce = false) : (effControlInputChange quiesce wake s).settled.ctl.st =
      if s.cmds = [] ∧ s.ckp.image = none ∧ s.ckp.pairs = [] then .quiesced else .quiescing := by
  have hkeeps := enter_retargets ((s.requested quiesce wake).aimed true) .quiescing
  have hcmds : (((s.requested quiesce wake).aimed true).enter .quiescing).cmds = s.cmds := (congrArg State.cmds hkeeps.frame :)
  have hckp : (((s.requested quiesce wake).aimed true).enter .quiescing).ckp = s.ckp := (congrArg State.ckp hkeeps.frame :)
  have hsettles := settleQuiesce_retargets (((s.requested quiesce wake).aimed true).enter .quiescing)
  have hcmds' := (congrArg State.cmds hsettles.frame :).trans hcmds
  have hckp' := (congrArg State.ckp hsettles.frame :).trans hckp
  rw [effControlInputChange_of_new hr _ _ (by rw [ht, hold]; decide), newTarget_of_running _ (s := s.requested quiesce wake) hst,
    ht, if_pos rfl, settled_ctl, settleQuiesce_st, hcmds', hckp', settleQuiesce_st, hcmds, hckp, enter_st]
  by_cases hidle : s.cmds = [] ∧ s.ckp.image = none ∧ s.ckp.pairs = [] <;> simp [hidle]

theorem controlInputChange_resumes (hst : s.ctl.st = .quiescing) (ht : s.ctl.targetOf quiesce wake = false)
    (hold : s.ctl.toQuiesce = true) : (effControlInputChange quiesce wake s).settled.ctl.st = .running
      ∧ (effControlInputChange quiesce wake s).settled.ctl.answered = some .running := by
  have heff : effControlInputChange quiesce wake s = (((s.requested quiesce wake).aimed false).enter .running).answer := by
    rw [effControlInputChange_of_new hr _ _ (by rw [ht, hold]; decide), newTarget_of_quiescing _ (s := s.requested quiesce wake) hst,
      ht, if_neg Bool.false_ne_true]
  have hrunning := enter_st ((s.requested quiesce wake).aimed false) .running
  rw [heff, settled_ctl_of_ne (by rw [State.answer]; simp only [hrunning]; decide)]
  exact ⟨hrunning, congrArg some hrunning⟩

theorem controlInputChange_wakes (hst : s.ctl.st = .quiesced) (ht : s.ctl.targetOf quiesce wake = false)
    (hold : s.ctl.toQuiesce = true) : (effControlInputChange quiesce wake s).settled.ctl.st = .waking := by
  have heff : effControlInputChange quiesce wake s = ((s.requested quiesce wake).aimed false).enter .waking := by
    rw [effControlInputChange_of_new hr _ _ (by rw [ht, hold]; decide), newTarget_of_quiesced _ (s := s.requested quiesce wake) hst,
      ht, if_neg Bool.false_ne_true]
  have hwaking := enter_st ((s.requested quiesce wake).aimed false) .waking
  rw [heff, settled_ctl_of_ne (by rw [hwaking]; decide), hwaking]

/-- WAKING records the new target; one recorded before and not begun is lost. -/
theorem controlInputChange_records (hst : s.ctl.st = .waking) (ht : s.ctl.targetOf quiesce wake ≠ s.ctl.toQuiesce) :
    let t := (effControlInputChange quiesce wake s).settled
    t.ctl.st = .waking ∧ t.ctl.recorded = true
      ∧ (s.ctl.recorded = true → t.fld rCtlInputs 8 8 = min 255 (s.fld rCtlInputs 8 8 + 1)) := by
  intro t
  let u := (s.requested quiesce wake).aimed (s.ctl.targetOf quiesce wake)
  have heff : effControlInputChange quiesce wake s = if s.ctl.recorded then u.loseTarget
      else u.recording := by
    rw [effControlInputChange_of_new hr _ _ ht, newTarget_of_waking _ (s := s.requested quiesce wake) hst]
    rfl
  have hwaking : ∀ x : State, x.ctl.st = s.ctl.st → x.ctl.st ≠ .quiescing := fun _ h => by rw [h, hst]; decide
  cases hrec : s.ctl.recorded with
  | false =>
    have ht' : t = u.recording.settled := by
      rw [hrec, if_neg Bool.false_ne_true] at heff
      exact congrArg State.settled heff
    rw [ht', settled_ctl_of_ne (hwaking u.recording rfl)]
    exact ⟨hst, rfl, fun h => absurd h Bool.false_ne_true⟩
  | true =>
    have ht' : t = u.loseTarget.settled := by
      rw [hrec, if_pos rfl] at heff
      exact congrArg State.settled heff
    rw [ht', settled_ctl_of_ne (hwaking u.loseTarget rfl)]
    refine ⟨hst, hrec, fun _ => ?_⟩
    rw [fld_of_rd (settled_rd _ _ (by decide) (by decide)), State.loseTarget, fld_of_rd (raise_rd_ne _ _ _ (by decide))]
    exact fld_sat_self _ _ _ _ _ (by decide)

end

/-- Settles O7: the new target by the state of the engine; only LGX_CTL_INPUTS, the causes and the engine's state change. -/
theorem controlInputs : Obligations.ControlInputs := by
  unfold Obligations.ControlInputs
  intro quiesce wake s hr target
  have hkeeps := effControlInputChange_retargets hr quiesce wake
  have hsettled := settled_shape (effControlInputChange quiesce wake s)
  refine ⟨_, exec_controlInputChange hr quiesce wake, ?_, ?_, ?_, ?_, fun ⟨hst, ht, hold⟩ => ?_, fun ⟨hst, ht, hold⟩ => ?_,
    fun ⟨hst, ht, hold⟩ => ?_, fun ⟨hst, ht⟩ => ?_, fun o hinputs hevt hcfg => ?_, ?_, ?_, ?_, ?_⟩
  · rw [hsettled]
    exact hkeeps.quiesceReq
  · rw [hsettled]
    exact hkeeps.wakeReq
  · rw [hsettled]
    exact hkeeps.toQuiesce
  · rintro ⟨hsame, hst⟩
    rw [effControlInputChange_of_same hr quiesce wake hsame, settled_ctl_of_ne (s := s.requested quiesce wake) hst]
    rfl
  · exact controlInputChange_quiesces hr quiesce wake hst ht hold
  · exact controlInputChange_resumes hr quiesce wake hst ht hold
  · exact controlInputChange_wakes hr quiesce wake hst ht hold
  · exact controlInputChange_records hr quiesce wake hst ht
  · exact (settled_rd _ o hevt hcfg).trans (hkeeps.rd o hinputs hevt)
  · exact (settled_mem _).trans (congrArg State.mem hkeeps.frame :)
  · exact (settled_queues _).trans (congrArg State.queues hkeeps.frame :)
  · exact (settled_cmds _).trans (congrArg State.cmds hkeeps.frame :)
  · exact (settled_ports _).trans (congrArg State.ports hkeeps.frame :)

end Sys2Proof.Machine

/-! The event counters and their watches (spec/13_control.md R390 to R392), along the registers' rules (spec/14_registers.md R404,
R413). -/

namespace Sys2Proof.Machine

/-! ### One look at the watches (R392). A watch is due where it has not settled. -/

theorem evwCfg_ne_evtStatus (k : Nat) : rEvwCfg k ≠ rEvtStatus := by simp only [rEvwCfg, rEvtStatus]; omega

theorem evwCfg_ne {j k : Nat} (h : j ≠ k) : rEvwCfg j ≠ rEvwCfg k := by simp only [rEvwCfg]; omega

theorem evwVal_ne_evwCfg (j k : Nat) : rEvwVal j ≠ rEvwCfg k := by simp only [rEvwVal, rEvwCfg]; omega

theorem evc_ne_evwCfg {c : Nat} (hc : c < 256) (k : Nat) : rEvc c ≠ rEvwCfg k := by simp only [rEvc, rEvwCfg]; omega

theorem evc_ne_evwVal {c : Nat} (hc : c < 256) (k : Nat) : rEvc c ≠ rEvwVal k := by simp only [rEvc, rEvwVal]; omega

theorem evc_ne_evtStatus (c : Nat) : rEvc c ≠ rEvtStatus := by simp only [rEvc, rEvtStatus]; omega

theorem evwVal_ne_evtStatus (k : Nat) : rEvwVal k ≠ rEvtStatus := by simp only [rEvwVal, rEvtStatus]; omega

section

variable {s : State} {k : Nat}

theorem watchStep_of_settled (h : s.watchSettled k) : s.watchStep k = s := by
  refine if_neg fun hfires => ?_
  simp only [Bool.and_eq_true, Bool.not_eq_true', decide_eq_true_eq] at hfires
  obtain ⟨⟨⟨h8, h9⟩, hread⟩, hreached⟩ := hfires
  exact absurd (h h8 h9 hread) (by omega)

theorem watchStep_of_due (h : ¬ s.watchSettled k) : s.watchStep k = (s.setFld (rEvwCfg k) 9 1 1).raise 28 := by
  refine if_pos ?_
  unfold State.watchSettled at h
  simp only [Classical.not_imp, Nat.not_lt] at h
  obtain ⟨h8, h9, hread, hreached⟩ := h
  simp [h8, h9, -decide_eq_true_eq, hread, decide_eq_true hreached]

theorem foldl_watchStep_cfg_of_settled (hk : k < 8) (l : List Nat) (hl : ∀ j ∈ l, j < 8) (h : s.watchSettled k) :
    (l.foldl State.watchStep s).rd (rEvwCfg k) = s.rd (rEvwCfg k) := by
  induction l generalizing s with
  | nil => rfl
  | cons j t ih =>
    have hj : j < 8 := hl j (by simp)
    have ht : ∀ i ∈ t, i < 8 := fun i hi => hl i (by simp [hi])
    rw [List.foldl_cons]
    by_cases hjk : j = k
    · rw [hjk, watchStep_of_settled h]
      exact ih ht h
    · rw [ih ht ((watchStep_other s j k hj hk (Ne.symm hjk)).mpr h),
        watchStep_rd _ _ _ (evwCfg_ne_evtStatus k) (evwCfg_ne (Ne.symm hjk))]

theorem foldl_watchStep_keeps_cause (l : List Nat) {i : Nat} (h : (s.rd rEvtStatus).getLsbD i = true) :
    ((l.foldl State.watchStep s).rd rEvtStatus).getLsbD i = true := by
  induction l generalizing s with
  | nil => exact h
  | cons j t ih => exact ih (watchStep_keeps_cause s j i h)

theorem foldl_watchStep_of_due (hk : k < 8) (l : List Nat) (hl : ∀ j ∈ l, j < 8) (hmem : k ∈ l) (h : ¬ s.watchSettled k) :
    (l.foldl State.watchStep s).rd (rEvwCfg k) = setBits (s.rd (rEvwCfg k)) 9 1 1
      ∧ ((l.foldl State.watchStep s).rd rEvtStatus).getLsbD 28 = true := by
  induction l generalizing s with
  | nil => exact absurd hmem List.not_mem_nil
  | cons j t ih =>
    have hj : j < 8 := hl j (by simp)
    have ht : ∀ i ∈ t, i < 8 := fun i hi => hl i (by simp [hi])
    rw [List.foldl_cons]
    by_cases hjk : j = k
    · subst hjk
      have hfired : ((s.watchStep j).rd rEvtStatus).getLsbD 28 = true := by
        rw [watchStep_of_due h]
        exact raise_sets_cause _ 28 (by decide)
      refine ⟨?_, ?_⟩
      · rw [foldl_watchStep_cfg_of_settled hk t ht (watchStep_settles s j hk), watchStep_of_due h,
          raise_rd_ne _ _ _ (evwCfg_ne_evtStatus j), rd_setFld_self]
      · exact foldl_watchStep_keeps_cause t hfired
    · have hstays : ¬ (s.watchStep j).watchSettled k := fun hs => h ((watchStep_other s j k hj hk (Ne.symm hjk)).mp hs)
      have hcfg := watchStep_rd s j (rEvwCfg k) (evwCfg_ne_evtStatus k) (evwCfg_ne (Ne.symm hjk))
      rw [← hcfg]
      exact ih ht (by simpa [Ne.symm hjk] using hmem) hstays

theorem checkWatches_cfg_of_settled (hk : k < 8) (h : s.watchSettled k) : s.checkWatches.rd (rEvwCfg k) = s.rd (rEvwCfg k) :=
  foldl_watchStep_cfg_of_settled hk _ (fun _ hj => List.mem_range.mp hj) h

/-- A watch that is due fires: FIRED is set and COUNTER_WATCH raised. -/
theorem checkWatches_of_due (hk : k < 8) (h : ¬ s.watchSettled k) :
    s.checkWatches.rd (rEvwCfg k) = setBits (s.rd (rEvwCfg k)) 9 1 1 ∧ (s.checkWatches.rd rEvtStatus).getLsbD 28 = true :=
  foldl_watchStep_of_due hk _ (fun _ hj => List.mem_range.mp hj) (List.mem_range.mpr hk) h

/-- Settling a state in which every watch has settled leaves the watches. -/
theorem settled_cfg_of_settled (hk : k < 8) (h : s.watchSettled k) : s.settled.rd (rEvwCfg k) = s.rd (rEvwCfg k) := by
  have hkeeps : ∀ o, o ≠ rEvtStatus → s.settleQuiesce.rd o = s.rd o := settleQuiesce_rd s
  have hsame : s.settleQuiesce.watchSettled k ↔ s.watchSettled k :=
    watchSettled_congr _ _ _ (by rw [settleQuiesce_eq]) (hkeeps _ (evwCfg_ne_evtStatus k)) (hkeeps _ (evwVal_ne_evtStatus k))
      (fun c _ => hkeeps _ (evc_ne_evtStatus c))
  rw [State.settled, checkWatches_cfg_of_settled hk (hsame.mpr h), hkeeps _ (evwCfg_ne_evtStatus k)]

theorem bitAt_setBits_fired (v : Word) : bitAt (setBits v 9 1 1).toNat 9 = true := by
  rw [bitAt_eq, BitVec.testBit_toNat, getLsbD_setBits _ _ _ _ _ (by decide)]
  rfl

/-- The watches of a state that has looked at them and answered an access. -/
theorem lookedAt_cfg (hk : k < 8) : (s.checkWatches.respond 0).settled.rd (rEvwCfg k) = s.checkWatches.rd (rEvwCfg k) :=
  settled_cfg_of_settled (s := s.checkWatches.respond 0) hk (checkWatches_settles s k hk)

end

/-! ### A write and an add of an event counter (R390, R391) -/

/-- A counter written: the watches have looked at it, and the access is answered. -/
def State.counted (s : State) (c : Nat) (v : Word) : State := ((s.setEvc c v).respond 0).settled

theorem wakeOf_evc : ∀ c < 256, wakeOf (rEvc c) = 3 ∧ wakeOf (rEvcAdd c) = 3 := by decide +kernel

theorem wakeOf_evw : ∀ k < 8, wakeOf (rEvwCfg k) = 3 ∧ wakeOf (rEvwVal k) = 3 := by decide +kernel

section

variable {s : State} {c : Nat} (hc : c < 256) (hawake : s.awake 3 = true) (v : Word)

include hc hawake in
theorem exec_eventCounterWrite : exec (.eventCounterWrite c v) s = .next (s.counted c v) := by
  refine (done_live (effEventCounterWrite c v) s (resetOn_of_awake s 3 hawake)).trans ?_
  rw [effEventCounterWrite, if_neg (by omega), access_awake _ _ _ ((wakeOf_evc c hc).1 ▸ hawake), State.counted]

include hc hawake in
theorem exec_eventCounterAdd : exec (.eventCounterAdd c v) s = .next (s.counted c (s.rd (rEvc c) + v)) := by
  refine (done_live (effEventCounterAdd c v) s (resetOn_of_awake s 3 hawake)).trans ?_
  rw [effEventCounterAdd, if_neg (by omega), access_awake _ _ _ ((wakeOf_evc c hc).2 ▸ hawake), State.addEvc, State.counted]

theorem counted_eq : s.counted c v = { s with
    regs := (s.counted c v).regs, bus := { data := 0, error := false }
    ctl := { s.ctl with st := (s.counted c v).ctl.st, answered := (s.counted c v).ctl.answered } } := by
  have hset : s.setEvc c v = { s with regs := (s.setEvc c v).regs } := by rw [State.setEvc, checkWatches_eq]; rfl
  have h := settled_shape ((s.setEvc c v).respond 0)
  rw [hset] at h
  rw [State.counted, hset]
  exact h

theorem counted_rd {o : Nat} (hne : o ≠ rEvc c) (hevt : o ≠ rEvtStatus) (hcfg : ∀ k < 8, o ≠ rEvwCfg k) :
    (s.counted c v).rd o = s.rd o :=
  (settled_rd _ o hevt hcfg).trans ((checkWatches_rd (s.wr (rEvc c) v) o hevt hcfg).trans (rd_wr_ne _ _ _ _ hne))

include hc in
theorem counted_rd_self : (s.counted c v).rd (rEvc c) = v :=
  (settled_rd _ _ (evc_ne_evtStatus c) (fun k _ => evc_ne_evwCfg hc k)).trans
    ((checkWatches_rd (s.wr (rEvc c) v) _ (evc_ne_evtStatus c) (fun k _ => evc_ne_evwCfg hc k)).trans (rd_wr_self _ _ _))

include hc in
/-- A watch of the counter settles by the new value. -/
theorem watchSettled_wr_evc {k : Nat} (hwatch : bitsAt (s.rd (rEvwCfg k)).toNat 0 8 = c) :
    (s.wr (rEvc c) v).watchSettled k ↔ (bitAt (s.rd (rEvwCfg k)).toNat 8 = true → bitAt (s.rd (rEvwCfg k)).toNat 9 = false →
      s.ctl.watchRead.getD k false = false → v.toNat < (s.rd (rEvwVal k)).toNat) := by
  unfold State.watchSettled
  rw [rd_wr_ne _ _ _ _ (Ne.symm (evc_ne_evwCfg hc k)), rd_wr_ne _ _ _ _ (Ne.symm (evc_ne_evwVal hc k)), hwatch, rd_wr_self]
  rfl

include hc in
theorem counted_cfg_of_settled {k : Nat} (hk : k < 8) (h : (s.wr (rEvc c) v).watchSettled k) :
    (s.counted c v).rd (rEvwCfg k) = s.rd (rEvwCfg k) :=
  (lookedAt_cfg hk).trans ((checkWatches_cfg_of_settled hk h).trans (rd_wr_ne _ _ _ _ (Ne.symm (evc_ne_evwCfg hc k))))

theorem counted_of_due {k : Nat} (hk : k < 8) (h : ¬ (s.wr (rEvc c) v).watchSettled k) :
    bitAt ((s.counted c v).rd (rEvwCfg k)).toNat 9 = true ∧ ((s.counted c v).rd rEvtStatus).getLsbD 28 = true := by
  obtain ⟨hcfg, hcause⟩ := checkWatches_of_due hk h
  refine ⟨?_, settled_keeps_cause _ 28 hcause⟩
  rw [show (s.counted c v).rd (rEvwCfg k) = _ from (lookedAt_cfg hk).trans hcfg]
  exact bitAt_setBits_fired _

end

/-- Settles O11: a write and an add both leave `counted` with the new value. -/
theorem eventCounters : Obligations.EventCounters := by
  unfold Obligations.EventCounters
  intro c v new i s hc hawake hi
  have hexec : exec i s = .next (s.counted c new) := by
    rcases hi with ⟨rfl, rfl⟩ | ⟨rfl, rfl⟩
    · exact exec_eventCounterWrite hc hawake _
    · exact exec_eventCounterAdd hc hawake v
  have hframe := counted_eq (s := s) (c := c) new
  refine ⟨_, hexec, counted_rd_self hc new, by rw [hframe], fun k hk hwatch h8 h9 hread => ⟨fun hreached => ?_, fun hbelow => ?_⟩,
    fun o hne hevt hcfg => counted_rd new hne hevt hcfg, by rw [hframe], by rw [hframe], by rw [hframe], by rw [hframe],
    by rw [hframe]⟩
  · refine counted_of_due new hk fun hsettled => ?_
    have := (watchSettled_wr_evc hc new hwatch).mp hsettled h8 h9 hread
    omega
  · exact counted_cfg_of_settled hc new hk ((watchSettled_wr_evc hc new hwatch).mpr fun _ _ _ => hbelow)

/-! ### The registers of a watch: FIRED is cleared by a read, the value is written at once (R392, R404, R413) -/

/-- The row of the watches' values. -/
def evwValRow : RegRow := ⟨"LGX_EVW_VAL_k", 0x031000, 0x10, 8, 64, false, [⟨63, 0, .rw, 0, .now, false⟩]⟩

theorem target_evw : ∀ k < 8, target (rEvwCfg k) false = .regs [{ key := rEvwCfg k, lo := 0, n := 32, pos := 0 }]
    ∧ target (rEvwVal k) true = .regs [{ key := rEvwVal k, lo := 0, n := 64, pos := 0 }] := by decide +kernel

theorem rowAt_evwVal : ∀ k < 8, rowAt (rEvwVal k) = some evwValRow := by decide +kernel

/-- The row of the watches' configurations. -/
def evwCfgRow : RegRow := ⟨"LGX_EVW_CFG_k", 0x031008, 0x10, 8, 32, false, [⟨7, 0, .rw, 0, .now, false⟩, ⟨8, 8, .rw, 0, .now, false⟩,
  ⟨9, 9, .rc, 0, .none, true⟩]⟩

theorem rowAt_evwCfg : ∀ k < 8, rowAt (rEvwCfg k) = some evwCfgRow := by decide +kernel

/-- No view of a register is formed for a watch's configuration. -/
theorem evwCfg_not_viewed : ∀ k < 8, (rEvwCfg k ≠ rStagedData ∧ rEvwCfg k ≠ rId ∧ rEvwCfg k ≠ rCap0 ∧ rEvwCfg k ≠ rCap1
    ∧ rEvwCfg k ≠ rCap2 ∧ rEvwCfg k ≠ rApply ∧ rEvwCfg k ≠ rApplyPorts ∧ rEvwCfg k ≠ rApplyQueues ∧ rEvwCfg k ≠ rStagedInfo
    ∧ rEvwCfg k ≠ rEvtStatus ∧ rEvwCfg k ≠ rReplayId ∧ rEvwCfg k ≠ rCtlInputs ∧ rEvwCfg k ≠ rEspProgValid
    ∧ ¬ rEvwCfg k < 0x021000 ∧ ¬ 0x046000 ≤ rEvwCfg k ∧ ¬ 0x080000 ≤ rEvwCfg k) := by
  intro k hk
  simp only [rEvwCfg, rStagedData, rId, rCap0, rCap1, rCap2, rApply, rApplyPorts, rApplyQueues, rStagedInfo, rEvtStatus, rReplayId,
    rCtlInputs, rEspProgValid]
  omega

theorem rcMask_evwCfg : ∀ k < 8, rcMask (rEvwCfg k) false = 0x200#64 := by decide +kernel

section

variable {s : State} {k : Nat} (hk : k < 8)

include hk

/-- LGX_EVW_VAL_k is written whole, at once and whatever the lock is. -/
theorem writeFields_evwVal (v : Word) : s.writeFields evwValRow (rEvwVal k) v (BitVec.allOnes 64) = s.wr (rEvwVal k) v := by
  have hnow : ∀ locked, BitVec.allOnes 64 &&& evwValRow.classMask .now locked = BitVec.allOnes 64 := by decide +kernel
  have hstep : ∀ locked, BitVec.allOnes 64 &&& evwValRow.classMask .step locked = 0 := by decide +kernel
  have hdescriptor : ∀ locked, BitVec.allOnes 64 &&& evwValRow.classMask .descriptor locked = 0 := by decide +kernel
  have hpacket : ∀ locked, BitVec.allOnes 64 &&& evwValRow.classMask .packet locked = 0 := by decide +kernel
  have hlock : (evwValRow.maskOf (fun f => decide (f.acc = .rwl)) &&& BitVec.allOnes 64 != 0) = false := by decide +kernel
  have hpresent : s.absentReg (rEvwVal k) = false := by
    have : ¬ 0x046000 ≤ rEvwVal k := by simp only [rEvwVal]; omega
    simp [State.absentReg, this]
  have hmerge : s.merge (rEvwVal k) v (BitVec.allOnes 64) = s.wr (rEvwVal k) v := by
    rw [State.merge, BitVec.not_allOnes, BitVec.and_zero, BitVec.zero_or, BitVec.and_allOnes]
  have hones : BitVec.allOnes 64 ≠ 0 := by decide
  simp only [State.writeFields, hlock, Bool.and_false, Bool.false_eq_true, if_false, hpresent, List.foldl_cons, List.foldl_nil,
    hnow, hstep, hdescriptor, hpacket, State.writeClass, hones, if_true, hmerge]
  rfl

/-- A new value of a watch: it is armed again, and looks at its counter (R392). -/
def State.rearmed (s : State) (k : Nat) (v : Word) : State :=
  { s.wr (rEvwVal k) v with ctl := { s.ctl with watchRead := s.ctl.watchRead.setIfInBounds k false } }

theorem writeReg_evwVal (v : Word) : s.writeReg (rEvwVal k) v (BitVec.allOnes 64) = (s.rearmed k v).checkWatches := by
  have hqueue : isQueueReg (rEvwVal k) = false := by
    have : ¬ rEvwVal k < 0x021000 := by simp only [rEvwVal]; omega
    simp [isQueueReg, this]
  have hindex : (rEvwVal k - 0x031000) / 0x10 = k := by simp only [rEvwVal]; omega
  unfold State.writeReg
  rw [if_neg (by simp only [rEvwVal]; omega), rowAt_evwVal k hk]
  simp only [hqueue, Bool.false_and, Bool.false_eq_true, if_false]
  rw [if_neg (by simp only [rEvwVal]; omega), if_neg (by simp only [rEvwVal]; omega), if_neg (by simp only [rEvwVal]; omega),
    if_pos (by simp only [rEvwVal]; omega), if_pos (by simp only [rEvwVal]; omega), writeFields_evwVal hk, hindex]
  rfl

theorem exec_write_evwVal (hawake : s.awake 3 = true) (v : Word) :
    exec (.registerWrite (rEvwVal k) true v) s = .next (((s.rearmed k v).checkWatches.respond 0).settled) := by
  have hpair : requestPair (rEvwVal k) = none := if_neg (by simp only [rEvwVal]; omega)
  have hplace : ({ key := rEvwVal k, lo := 0, n := 64, pos := 0 } : Part).place v.toNat = v := by
    simp [Part.place, bitsAt, Nat.mod_eq_of_lt v.isLt]
  have hmask : ({ key := rEvwVal k, lo := 0, n := 64, pos := 0 } : Part).mask = BitVec.allOnes 64 :=
    (by decide : BitVec.ofNat 64 ((2 ^ 64 - 1) * 2 ^ 0) = BitVec.allOnes 64)
  refine (done_live (effRegisterWrite (rEvwVal k) true v) s (resetOn_of_awake s 3 hawake)).trans ?_
  unfold effRegisterWrite
  simp only [(target_evw k hk).2, access_awake _ _ _ ((wakeOf_evw k hk).2 ▸ hawake), State.writeAt, hpair, List.foldl_cons,
    List.foldl_nil, if_true, hplace, hmask, writeReg_evwVal hk]

omit hk in
theorem view_evwCfg (s : State) (hk : k < 8) : s.view (rEvwCfg k) = s.rd (rEvwCfg k) := by
  have hreadable : evwCfgRow.maskOf (fun f => decide (f.acc = .wo)) = 0 := by decide +kernel
  have hrow := rowAt_evwCfg k hk
  simp only [State.view, State.applied, State.absentReg, evwCfg_not_viewed k hk, hrow, hreadable, decide_false, Bool.and_false,
    Bool.false_and, Bool.false_eq_true, false_and, and_false, if_false]
  exact BitVec.and_allOnes

/-- A read that finds FIRED set clears it, and the watch then waits for a new value (R392). -/
def State.firedRead (s : State) (k : Nat) : State :=
  { s.wr (rEvwCfg k) (s.rd (rEvwCfg k) &&& ~~~0x200#64) with
    ctl := { s.ctl with watchRead := s.ctl.watchRead.setIfInBounds k true } }

omit hk in
theorem and_single_bit {v : Word} (h : v.getLsbD 9 = true) : v &&& 0x200#64 = 0x200#64 := by
  rw [show (0x200#64 : Word) = BitVec.twoPow 64 9 by decide, BitVec.and_twoPow, if_pos h]

theorem clearRead_evwCfg (hfired : bitAt (s.rd (rEvwCfg k)).toNat 9 = true) :
    s.clearRead (rEvwCfg k) (s.rd (rEvwCfg k)) 0x200#64 = s.firedRead k := by
  have hbit : (s.rd (rEvwCfg k)).getLsbD 9 = true := by rwa [bitAt_eq, BitVec.testBit_toNat] at hfired
  have hclear : s.rd (rEvwCfg k) &&& s.rd (rEvwCfg k) &&& 0x200#64 = 0x200#64 := by
    rw [BitVec.and_self]
    exact and_single_bit hbit
  have hindex : (rEvwCfg k - 0x031000) / 0x10 = k := by simp only [rEvwCfg]; omega
  unfold State.clearRead
  simp only [hclear]
  have hwatch : 0x031000 ≤ rEvwCfg k ∧ rEvwCfg k < 0x031080 ∧ rEvwCfg k % 0x10 = 8 := by simp only [rEvwCfg]; omega
  have hset : ¬ (0x200#64 : Word) = 0 := by decide
  rw [if_neg hset, if_pos ⟨hwatch.1, hwatch.2.1, hwatch.2.2, by decide⟩, hindex]
  rfl

theorem exec_readClear_evwCfg (hawake : s.awake 3 = true) (hfired : bitAt (s.rd (rEvwCfg k)).toNat 9 = true) :
    ∃ data, exec (.registerReadClear (rEvwCfg k) false) s = .next (((s.firedRead k).respond data).settled) := by
  have hmask : ({ key := rEvwCfg k, lo := 0, n := 32, pos := 0 } : Part).mask &&& rcMask (rEvwCfg k) false = 0x200#64 := by
    rw [rcMask_evwCfg k hk]
    exact (by decide : BitVec.ofNat 64 ((2 ^ 32 - 1) * 2 ^ 0) &&& 0x200#64 = 0x200#64)
  have heff : ∃ data, effRegisterReadClear (rEvwCfg k) false s = (s.firedRead k).respond data := by
    unfold effRegisterReadClear
    simp only [(target_evw k hk).1, access_awake _ _ _ ((wakeOf_evw k hk).1 ▸ hawake), List.foldl_cons, List.foldl_nil,
      view_evwCfg s hk, hmask, clearRead_evwCfg hk hfired]
    exact ⟨_, rfl⟩
  obtain ⟨data, heff⟩ := heff
  exact ⟨data, (done_live _ s (resetOn_of_awake s 3 hawake)).trans (by rw [heff])⟩

end

theorem watchRead_set {k : Nat} (hk : k < 8) (b : Bool) (v : Vector Bool 8) : (v.setIfInBounds k b).getD k false = b := by
  simp [Vector.getD, hk]

section

variable {s : State} {k : Nat} (hk : k < 8)

include hk

/-- A watch whose FIRED has been read does not fire again at once. -/
theorem firedRead_not_fired (data : Word) : bitAt (((s.firedRead k).respond data).settled.rd (rEvwCfg k)).toNat 9 = false := by
  have hwaits : ((s.firedRead k).respond data).watchSettled k := fun _ _ hread =>
    absurd ((watchRead_set hk true s.ctl.watchRead).symm.trans hread) (by decide)
  have hcfg : (s.firedRead k).rd (rEvwCfg k) = s.rd (rEvwCfg k) &&& ~~~0x200#64 := rd_wr_self s _ _
  rw [settled_cfg_of_settled hk hwaits, show ((s.firedRead k).respond data).rd (rEvwCfg k) = _ from hcfg, bitAt_eq,
    BitVec.testBit_toNat, BitVec.getLsbD_and]
  exact Bool.and_false _

omit hk in
theorem rearmed_value (k : Nat) (v : Word) : ((s.rearmed k v).checkWatches.respond 0).settled.rd (rEvwVal k) = v := by
  have hkeeps : ∀ u : State, u.checkWatches.rd (rEvwVal k) = u.rd (rEvwVal k) := fun u =>
    checkWatches_rd u _ (evwVal_ne_evtStatus k) (fun j _ => evwVal_ne_evwCfg k j)
  exact (settled_rd _ _ (evwVal_ne_evtStatus k) (fun j _ => evwVal_ne_evwCfg k j)).trans ((hkeeps _).trans (rd_wr_self s _ v))

theorem rearmed_fires_iff (h8 : bitAt (s.rd (rEvwCfg k)).toNat 8 = true) (h9 : bitAt (s.rd (rEvwCfg k)).toNat 9 = false) (v : Word) :
    bitAt (((s.rearmed k v).checkWatches.respond 0).settled.rd (rEvwCfg k)).toNat 9 = true
      ↔ v.toNat ≤ (s.rd (rEvc (bitsAt (s.rd (rEvwCfg k)).toNat 0 8))).toNat := by
  have hc : bitsAt (s.rd (rEvwCfg k)).toNat 0 8 < 256 := Nat.mod_lt _ (by decide)
  have hval : (s.rearmed k v).rd (rEvwVal k) = v := rd_wr_self s _ v
  have hother : ∀ o, o ≠ rEvwVal k → (s.rearmed k v).rd o = s.rd o := fun o h => rd_wr_ne s _ o v h
  have hcfg := hother _ (Ne.symm (evwVal_ne_evwCfg k k))
  have hread : (s.rearmed k v).ctl.watchRead.getD k false = false := watchRead_set hk false _
  have hsettled : (s.rearmed k v).watchSettled k ↔ (s.rd (rEvc (bitsAt (s.rd (rEvwCfg k)).toNat 0 8))).toNat < v.toNat := by
    simp only [State.watchSettled, hcfg, hval, hother _ (evc_ne_evwVal hc k), h8, h9, hread, true_imp_iff]
  rw [lookedAt_cfg hk]
  by_cases hdue : (s.rearmed k v).watchSettled k
  · rw [checkWatches_cfg_of_settled hk hdue, hcfg, h9]
    have := hsettled.mp hdue
    simp only [Bool.false_eq_true, false_iff]
    omega
  · rw [(checkWatches_of_due hk hdue).1, bitAt_setBits_fired]
    have := mt hsettled.mpr hdue
    simp only [true_iff]
    omega

end

/-- Settles O12: the fires of a watch by what it looks at, the read that clears FIRED, and the new value. -/
theorem counterWatches : Obligations.CounterWatches := by
  unfold Obligations.CounterWatches
  intro k v s hk hawake cfg c
  have hc : c < 256 := Nat.mod_lt _ (by decide)
  have hwrite := exec_eventCounterWrite hc hawake v
  have hsettled := watchSettled_wr_evc (s := s) hc v (k := k) rfl
  refine ⟨fun h8 h9 hread hreached => ⟨_, hwrite, ?_⟩, fun h => ⟨_, hwrite, ?_⟩, fun h => ⟨_, hwrite, ?_, ?_⟩, fun h9 => ?_,
    fun h8 h9 hread => ⟨_, exec_write_evwVal hk hawake v, ?_, ?_, ?_⟩⟩
  · exact counted_of_due v hk fun hs => absurd (hsettled.mp hs h8 h9 hread) (by omega)
  · refine counted_cfg_of_settled hc v hk (hsettled.mpr fun h8 _ _ => ?_)
    exact h.resolve_left (by rw [show bitAt cfg 8 = true from h8]; decide)
  · refine counted_cfg_of_settled hc v hk (hsettled.mpr fun _ h9 hread => ?_)
    rcases h with h | h
    · exact absurd (h.symm.trans h9) (by decide)
    · exact absurd (h.symm.trans hread) (by decide)
  · rw [counted_eq]
  · obtain ⟨data, hexec⟩ := exec_readClear_evwCfg hk hawake h9
    refine ⟨_, hexec, ?_, ?_⟩
    · exact firedRead_not_fired hk _
    · rw [settled_shape]
      exact watchRead_set hk _ _
  · rw [settled_shape, checkWatches_eq]
    exact watchRead_set hk _ _
  · exact rearmed_value k v
  · exact rearmed_fires_iff hk h8 h9 v

end Sys2Proof.Machine

/-! The completion of a descriptor, the abort and the enable of a queue (spec/13_control.md R383 to R386). -/

namespace Sys2Proof.Machine

/-! ### HEAD passes completed descriptors (R383) -/

theorem byteAt_lt (d : List Byte) (n : Nat) : byteAt d n < 256 := (d.getD n 0).isLt

/-- `t` is `s` but for registers, memory and the queue q. -/
structure State.QueueOnly (s t : State) (q : Nat) : Prop where
  frame : t = { s with regs := t.regs, queues := t.queues, mem := t.mem, badUnits := t.badUnits }
  others : ∀ k, k ≠ q → t.queue k = s.queue k

theorem State.QueueOnly.refl (s : State) (q : Nat) : s.QueueOnly s q := ⟨rfl, fun _ _ => rfl⟩

theorem State.QueueOnly.trans {s t u : State} {q : Nat} (hst : s.QueueOnly t q) (htu : t.QueueOnly u q) : s.QueueOnly u q where
  frame := htu.frame.trans (congrArg
    (fun x : State => { x with regs := u.regs, queues := u.queues, mem := u.mem, badUnits := u.badUnits }) hst.frame)
  others k hk := (htu.others k hk).trans (hst.others k hk)

theorem State.QueueOnly.cmds {s t : State} {q : Nat} (h : s.QueueOnly t q) : t.cmds = s.cmds := by rw [h.frame]

theorem setQueue_queueOnly (s : State) (q : Nat) (k : QState) : s.QueueOnly (s.setQueue q k) q :=
  ⟨rfl, fun _ h => queue_setQueue_ne _ _ _ _ h⟩

theorem setQueue_rd (s : State) (q : Nat) (k : QState) (o : Nat) : (s.setQueue q k).rd o = s.rd o := rfl

theorem wr_queueOnly (s : State) (o : Nat) (v : Word) (q : Nat) : s.QueueOnly (s.wr o v) q := ⟨rfl, fun _ _ => rfl⟩

theorem setFld_queueOnly (s : State) (o lo w x q : Nat) : s.QueueOnly (s.setFld o lo w x) q := wr_queueOnly _ _ _ q

theorem checkWatches_queueOnly (s : State) (q : Nat) : s.QueueOnly s.checkWatches q := by
  refine ⟨?_, fun k _ => ?_⟩
  · rw [checkWatches_eq]
  · rw [checkWatches_eq]
    rfl

/-- A queue but for what it holds of completed descriptors. -/
def QState.doneOnly (a b : QState) : Prop := b = { a with done := b.done }

theorem QState.doneOnly_refl (a : QState) : a.doneOnly a := rfl

theorem QState.doneOnly_trans {a b c : QState} (hab : a.doneOnly b) (hbc : b.doneOnly c) : a.doneOnly c :=
  hbc.trans (congrArg (fun x : QState => { x with done := c.done }) hab)

section

variable {s : State} {q : Nat}

theorem advanceHead_of_not_done (h : (s.queue q).done.contains (s.fld (rQHead q) 0 32) = false) (n : Nat) : s.advanceHead q n = s := by
  cases n with
  | zero => rfl
  | succ n => exact if_neg (by rw [h]; exact Bool.false_ne_true)

/-- One descriptor passed. -/
def State.passHead (s : State) (q : Nat) : State :=
  (s.setQueue q { s.queue q with done := (s.queue q).done.filter (· != s.fld (rQHead q) 0 32) }).setFld (rQHead q) 0 32
    ((s.fld (rQHead q) 0 32 + 1) % 2 ^ 32)

theorem advanceHead_succ (n : Nat) : s.advanceHead q (n + 1) =
    if (s.queue q).done.contains (s.fld (rQHead q) 0 32) then (s.passHead q).advanceHead q n else s := rfl

theorem passHead_queueOnly (s : State) (q : Nat) : s.QueueOnly (s.passHead q) q :=
  (setQueue_queueOnly s q _).trans (setFld_queueOnly _ _ _ _ _ q)

theorem advanceHead_queueOnly (n : Nat) (s : State) (q : Nat) : s.QueueOnly (s.advanceHead q n) q := by
  induction n generalizing s with
  | zero => exact .refl s q
  | succ n ih =>
    rw [advanceHead_succ]
    split
    · exact (passHead_queueOnly s q).trans (ih _)
    · exact .refl s q

/-- HEAD's passing keeps memory, and every register but HEAD. -/
theorem advanceHead_mem (n : Nat) (s : State) (q : Nat) : (s.advanceHead q n).mem = s.mem := by
  induction n generalizing s with
  | zero => rfl
  | succ n ih =>
    rw [advanceHead_succ]
    split
    · exact ih _
    · rfl

theorem advanceHead_rd {o : Nat} (ho : o ≠ rQHead q) (n : Nat) (s : State) : (s.advanceHead q n).rd o = s.rd o := by
  induction n generalizing s with
  | zero => rfl
  | succ n ih =>
    rw [advanceHead_succ]
    split
    · exact (ih _).trans (rd_setFld_ne _ _ _ _ _ _ ho)
    · rfl

theorem advanceHead_doneOnly (hq : q < 64) (n : Nat) (s : State) : (s.queue q).doneOnly ((s.advanceHead q n).queue q) := by
  induction n generalizing s with
  | zero => exact QState.doneOnly_refl _
  | succ n ih =>
    rw [advanceHead_succ]
    split
    · have hpass : (s.passHead q).queue q = { s.queue q with done := (s.queue q).done.filter (· != s.fld (rQHead q) 0 32) } :=
        queue_setQueue_self _ _ _ hq
      refine QState.doneOnly_trans ?_ (ih _)
      rw [hpass]
      rfl
    · exact QState.doneOnly_refl _

/-- The descriptor at HEAD alone has completed: HEAD moves past it. -/
theorem advanceHead_of_head (hq : q < 64) (h : (s.queue q).done = [s.fld (rQHead q) 0 32]) (n : Nat) :
    s.advanceHead q (n + 1) = s.passHead q ∧ ((s.passHead q).queue q).done = [] := by
  have hpass : ((s.passHead q).queue q).done = [] := by
    rw [show (s.passHead q).queue q = _ from queue_setQueue_self _ _ _ hq, h]
    simp
  refine ⟨?_, hpass⟩
  rw [advanceHead_succ, if_pos (by rw [h]; simp), advanceHead_of_not_done (by rw [hpass]; rfl)]

theorem passHead_head : (s.passHead q).fld (rQHead q) 0 32 = (s.fld (rQHead q) 0 32 + 1) % 2 ^ 32 :=
  (fld_setFld_self _ _ _ _ _ (by decide)).trans (Nat.mod_mod _ _)

end

/-! ### The parts of a completion (R384, R385) -/

/-- The signal of a completion. -/
def State.signals (s : State) (d : List Byte) (go : Bool) : State :=
  if go then s.addEvc (dSignalCtr d) (BitVec.ofNat 64 (dSignalAdd d)) else s

/-- Its interrupt. -/
def State.interrupts (s : State) (q : Nat) (d : List Byte) : State := if dIrq d then s.setFld rEvtQdone q 1 1 else s

/-- What LGX_Q_ERR_q keeps of a stop, and the state that keeps it. -/
def stopWord (i st : Nat) : Word := BitVec.ofNat 64 (i % 2 ^ 32 + st * 2 ^ 32)
def State.stopRecorded (s : State) (q : Nat) (v : Word) : State := (s.wr (rQErr q) v).setFld rEvtQerr q 1 1

theorem stopRecorded_mem (s : State) (q : Nat) (v : Word) : (s.stopRecorded q v).mem = s.mem := rfl

theorem stopRecorded_queue (s : State) (q k : Nat) (v : Word) : (s.stopRecorded q v).queue k = s.queue k := rfl

theorem stopQueue_eq (s : State) (q i st : Nat) : s.stopQueue q i st =
    if ((s.stopRecorded q (stopWord i st)).queue q).st = .running then (s.stopRecorded q (stopWord i st)).setQueue q
      { (s.stopRecorded q (stopWord i st)).queue q with st := .error } else s.stopRecorded q (stopWord i st) := rfl

/-- Its stop of the queue. -/
def State.stops (s : State) (q i st : Nat) (go : Bool) : State := if go then s.stopQueue q i st else s

/-- The descriptor joins the completed ones of its queue, and HEAD passes what it can. -/
def State.retire (s : State) (q i : Nat) : State :=
  (s.setQueue q { s.queue q with done := (s.queue q).done ++ [i] }).advanceHead q ((s.queue q).done.length + 1)

/-- Whether a completion signals, and whether it stops its queue. -/
def signalsOf (d : List Byte) (st : Nat) (mute : Bool) : Bool := dSignalEn d && (isSuccess st || dSignalAlways d) && !mute
def stopsOf (d : List Byte) (st : Nat) (aborted : Bool) : Bool := !isSuccess st && !dContinue d && !aborted

/-- The bytes of the write-back. -/
def State.writeBack (s : State) (st detail : Nat) (late signal : Bool) : List Byte :=
  toLE st 1 ++ toLE (1 + 2 * b2n late + 4 * b2n signal) 1 ++ toLE 0 2 ++ toLE detail 4 ++ toLE s.now 8

theorem finish_eq (s : State) (q i : Nat) (d : List Byte) (st detail : Nat) (late mute aborted : Bool) :
    s.finish q i d st detail late mute aborted =
      (((((s.write (s.descAt q i + 48) (s.writeBack st detail late (signalsOf d st mute))).signals d (signalsOf d st mute)).interrupts q
        d).stops q i st (stopsOf d st aborted)).retire q i) := rfl

section

variable (s : State) (q i : Nat) (d : List Byte) (st : Nat) (go : Bool)

theorem addEvc_eq (c : Nat) (v : Word) : s.addEvc c v = (s.wr (rEvc c) (s.rd (rEvc c) + v)).checkWatches := rfl

theorem addEvc_queueOnly (c : Nat) (v : Word) : s.QueueOnly (s.addEvc c v) q := by
  rw [addEvc_eq]
  exact (wr_queueOnly s _ _ q).trans (checkWatches_queueOnly _ q)

theorem signals_queueOnly : s.QueueOnly (s.signals d go) q := by
  unfold State.signals
  split
  · exact addEvc_queueOnly s q _ _
  · exact .refl s q

theorem interrupts_queueOnly : s.QueueOnly (s.interrupts q d) q := by
  unfold State.interrupts
  split
  · exact setFld_queueOnly s _ _ _ _ q
  · exact .refl s q

theorem stops_queueOnly : s.QueueOnly (s.stops q i st go) q := by
  unfold State.stops
  split
  · rw [stopQueue_eq]
    have hrecorded : s.QueueOnly (s.stopRecorded q (stopWord i st)) q := (wr_queueOnly s _ _ q).trans (setFld_queueOnly _ _ _ _ _ q)
    split
    · exact hrecorded.trans (setQueue_queueOnly _ q _)
    · exact hrecorded
  · exact .refl s q

theorem retire_queueOnly : s.QueueOnly (s.retire q i) q := (setQueue_queueOnly s q _).trans (advanceHead_queueOnly _ _ q)

theorem write_queueOnly (a : Nat) (b : List Byte) : s.QueueOnly (s.write a b) q := ⟨rfl, fun _ _ => rfl⟩

theorem finish_queueOnly (detail : Nat) (late mute aborted : Bool) : s.QueueOnly (s.finish q i d st detail late mute aborted) q := by
  rw [finish_eq]
  exact ((((write_queueOnly s q _ _).trans (signals_queueOnly _ q d _)).trans (interrupts_queueOnly _ q d)).trans
    (stops_queueOnly _ q i st _)).trans (retire_queueOnly _ q i)

/-! What the parts leave of memory -/

theorem signals_mem : (s.signals d go).mem = s.mem := by
  unfold State.signals
  split
  · rw [addEvc_eq, checkWatches_eq]
    rfl
  · rfl

theorem interrupts_mem : (s.interrupts q d).mem = s.mem := by
  unfold State.interrupts
  split <;> rfl

theorem stops_mem : (s.stops q i st go).mem = s.mem := by
  unfold State.stops
  split
  · rw [stopQueue_eq]
    split
    · rw [State.setQueue, stopRecorded_mem]
    · exact stopRecorded_mem s q _
  · rfl

/-- The completion writes nothing but its write-back. -/
theorem finish_mem (detail : Nat) (late mute aborted : Bool) : (s.finish q i d st detail late mute aborted).mem
    = (s.write (s.descAt q i + 48) (s.writeBack st detail late (signalsOf d st mute))).mem := by
  rw [finish_eq, State.retire, advanceHead_mem]
  exact (stops_mem _ q i st _).trans ((interrupts_mem _ q d).trans (signals_mem _ d _))

/-! What they leave of the registers -/

theorem addEvc_rd_ne {o : Nat} (c : Nat) (v : Word) (ho : o ≠ rEvc c) (hevt : o ≠ rEvtStatus) (hcfg : ∀ k < 8, o ≠ rEvwCfg k) :
    (s.addEvc c v).rd o = s.rd o := by rw [addEvc_eq, checkWatches_rd _ o hevt hcfg, rd_wr_ne _ _ _ _ ho]

theorem addEvc_evc {c c' : Nat} (hc' : c' < 256) (v : Word) :
    (s.addEvc c v).rd (rEvc c') = if c' = c then s.rd (rEvc c') + v else s.rd (rEvc c') := by
  rw [addEvc_eq, checkWatches_rd _ _ (evc_ne_evtStatus c') (fun k _ => evc_ne_evwCfg hc' k), rd_wr]
  by_cases h : c' = c
  · rw [if_pos (congrArg rEvc h), if_pos h, h]
  · rw [if_neg (by simp only [rEvc]; omega), if_neg h]

theorem signals_rd_ne {o : Nat} (hevc : ∀ c < 256, o ≠ rEvc c) (hevt : o ≠ rEvtStatus) (hcfg : ∀ k < 8, o ≠ rEvwCfg k) :
    (s.signals d go).rd o = s.rd o := by
  unfold State.signals
  split
  · exact addEvc_rd_ne s _ _ (hevc _ (byteAt_lt d 5)) hevt hcfg
  · rfl

theorem signals_evc {c : Nat} (hc : c < 256) : (s.signals d go).rd (rEvc c) =
    if go = true ∧ c = dSignalCtr d then s.rd (rEvc c) + BitVec.ofNat 64 (dSignalAdd d) else s.rd (rEvc c) := by
  unfold State.signals
  split
  · rename_i hgo
    rw [addEvc_evc s hc]
    simp only [hgo, true_and]
  · rename_i hgo
    rw [if_neg fun h => hgo h.1]

theorem interrupts_rd_ne {o : Nat} (ho : o ≠ rEvtQdone) : (s.interrupts q d).rd o = s.rd o := by
  unfold State.interrupts
  split
  · exact rd_setFld_ne _ _ _ _ _ _ ho
  · rfl

theorem stopRecorded_rd_ne {o : Nat} (herr : o ≠ rQErr q) (hqerr : o ≠ rEvtQerr) (v : Word) : (s.stopRecorded q v).rd o = s.rd o := by
  rw [State.stopRecorded, rd_setFld_ne _ _ _ _ _ _ hqerr, rd_wr_ne _ _ _ _ herr]

theorem stops_rd_ne {o : Nat} (herr : o ≠ rQErr q) (hqerr : o ≠ rEvtQerr) : (s.stops q i st go).rd o = s.rd o := by
  unfold State.stops
  split
  · rw [stopQueue_eq]
    split
    · rw [setQueue_rd, stopRecorded_rd_ne s q herr hqerr]
    · exact stopRecorded_rd_ne s q herr hqerr _
  · rfl

theorem retire_rd {o : Nat} (ho : o ≠ rQHead q) : (s.retire q i).rd o = s.rd o := advanceHead_rd ho _ _

theorem finish_rd {o : Nat} (hhead : o ≠ rQHead q) (detail : Nat) (late mute aborted : Bool) :
    (s.finish q i d st detail late mute aborted).rd o
      = ((((s.write (s.descAt q i + 48) (s.writeBack st detail late (signalsOf d st mute))).signals d (signalsOf d st mute)).interrupts q
        d).stops q i st (stopsOf d st aborted)).rd o := by
  rw [finish_eq, retire_rd _ q i hhead]

/-! What they leave of the queue -/

theorem signals_queue (k : Nat) : (s.signals d go).queue k = s.queue k := (signals_queueOnly s (k + 1) d go).others k (by omega)

theorem interrupts_queue (k : Nat) : (s.interrupts q d).queue k = s.queue k := by
  unfold State.interrupts
  split <;> rfl

theorem stops_queue (hq : q < 64) : (s.stops q i st go).queue q =
    if go = true ∧ (s.queue q).st = .running then { s.queue q with st := .error } else s.queue q := by
  unfold State.stops
  cases go with
  | false => simp
  | true =>
    rw [if_pos rfl, stopQueue_eq, stopRecorded_queue]
    split
    · rename_i hrunning
      rw [queue_setQueue_self _ _ _ hq, if_pos ⟨rfl, hrunning⟩]
    · rename_i hrunning
      rw [if_neg fun h => hrunning h.2, stopRecorded_queue]

theorem retire_doneOnly (hq : q < 64) : (s.queue q).doneOnly ((s.retire q i).queue q) := by
  refine QState.doneOnly_trans ?_ (advanceHead_doneOnly hq _ _)
  rw [queue_setQueue_self _ _ _ hq]
  rfl

/-- The queue after a completion: it may have stopped, and what it holds of completed descriptors may have changed. -/
theorem finish_queue (hq : q < 64) (detail : Nat) (late mute aborted : Bool) :
    QState.doneOnly (if stopsOf d st aborted = true ∧ (s.queue q).st = .running then { s.queue q with st := .error } else s.queue q)
      ((s.finish q i d st detail late mute aborted).queue q) := by
  have h := retire_doneOnly (((s.write (s.descAt q i + 48) (s.writeBack st detail late (signalsOf d st mute))).signals d
    (signalsOf d st mute)).interrupts q d |>.stops q i st (stopsOf d st aborted)) q i hq
  rwa [stops_queue _ _ _ _ _ hq, interrupts_queue, signals_queue, ← finish_eq] at h

end

theorem length_writeBack (s : State) (st detail : Nat) (late signal : Bool) : (s.writeBack st detail late signal).length = 16 := by
  simp [State.writeBack, length_toLE]

theorem setFld_sets_bit (s : State) (o : Nat) {n : Nat} (hn : n < 64) : ((s.setFld o n 1 1).rd o).getLsbD n = true := by
  rw [rd_setFld_self, getLsbD_setBits _ _ _ _ _ hn, if_pos ⟨le_refl n, by omega⟩, Nat.sub_self]
  rfl

section

variable (s : State) {q : Nat} (hq : q < 64) (i : Nat) (d : List Byte) (st detail : Nat) (late mute aborted : Bool)

include hq

theorem finish_qdone (hirq : dIrq d = true) : ((s.finish q i d st detail late mute aborted).rd rEvtQdone).getLsbD q = true := by
  have hne : rEvtQdone ≠ rQHead q ∧ rEvtQdone ≠ rQErr q := by simp only [rEvtQdone, rQHead, rQErr]; omega
  rw [finish_rd _ _ _ _ _ hne.1, stops_rd_ne _ _ _ _ _ hne.2 (by decide), State.interrupts, if_pos hirq]
  exact setFld_sets_bit _ _ hq

theorem finish_qdone_of_not_irq (hirq : dIrq d = false) :
    (s.finish q i d st detail late mute aborted).rd rEvtQdone = s.rd rEvtQdone := by
  have hne : rEvtQdone ≠ rQHead q ∧ rEvtQdone ≠ rQErr q := by simp only [rEvtQdone, rQHead, rQErr]; omega
  rw [finish_rd _ _ _ _ _ hne.1, stops_rd_ne _ _ _ _ _ hne.2 (by decide), State.interrupts,
    if_neg (by rw [hirq]; exact Bool.false_ne_true), signals_rd_ne _ _ _ (fun c _ => by simp only [rEvtQdone, rEvc]; omega)
    (by decide) (fun k _ => by simp only [rEvtQdone, rEvwCfg]; omega)]
  rfl

theorem finish_qerr_of_not_stops (hstop : stopsOf d st aborted = false) :
    (s.finish q i d st detail late mute aborted).rd rEvtQerr = s.rd rEvtQerr := by
  have hne : rEvtQerr ≠ rQHead q := by simp only [rEvtQerr, rQHead]; omega
  rw [finish_rd _ _ _ _ _ hne, hstop, State.stops, if_neg Bool.false_ne_true, interrupts_rd_ne _ _ _ (by decide),
    signals_rd_ne _ _ _ (fun c _ => by simp only [rEvtQerr, rEvc]; omega) (by decide)
    (fun k _ => by simp only [rEvtQerr, rEvwCfg]; omega)]
  rfl

theorem finish_stops (hstop : stopsOf d st aborted = true) : ((s.finish q i d st detail late mute aborted).rd rEvtQerr).getLsbD q = true
    ∧ (s.finish q i d st detail late mute aborted).rd (rQErr q) = BitVec.ofNat 64 (i % 2 ^ 32 + st * 2 ^ 32) := by
  have hne : rEvtQerr ≠ rQHead q ∧ rQErr q ≠ rQHead q ∧ rQErr q ≠ rEvtQerr := by simp only [rEvtQerr, rQHead, rQErr]; omega
  have hrecorded : ∀ (u : State) (o : Nat), (u.stops q i st true).rd o = (u.stopRecorded q (stopWord i st)).rd o := fun u o => by
    rw [State.stops, if_pos rfl, stopQueue_eq]
    split
    · rw [setQueue_rd]
    · rfl
  rw [finish_rd _ _ _ _ _ hne.1, finish_rd _ _ _ _ _ hne.2.1, hstop, hrecorded, hrecorded, State.stopRecorded]
  refine ⟨setFld_sets_bit _ _ hq, ?_⟩
  rw [rd_setFld_ne _ _ _ _ _ _ hne.2.2, rd_wr_self]
  rfl

end

/-- Settles O48: what `finish` writes back, and how HEAD moves. -/
theorem writesBack : Obligations.WritesBack := by
  unfold Obligations.WritesBack
  refine ⟨fun q i st detail d late mute s hq => ?_, fun q n s hq => ⟨fun h => advanceHead_of_not_done h n, fun h hn => ?_⟩⟩
  · intro a signal stops t
    have hbyte : ∀ x, t.byte x = (s.write a (s.writeBack st detail late signal)).byte x := fun x =>
      congrArg (fun m => smGet memDefault m (x % 2 ^ 64)) (finish_mem s q i d st detail late mute false)
    have hlen := length_writeBack s st detail late signal
    have hstops : stopsOf d st false = stops := by simp [stopsOf, stops]
    have hqueue := finish_queue s q i d st hq detail late mute false
    rw [hstops] at hqueue
    refine ⟨fun k hk => (hbyte _).trans (byte_write_in _ _ _ _ (by rw [hlen]; exact hk) (by rw [hlen]; decide)),
      fun x hx => (hbyte x).trans (byte_write_out _ _ _ _ fun k hk => hx k (by rwa [hlen] at hk)), fun c hc => ?_,
      fun hirq => finish_qdone s hq i d st detail late mute false hirq, fun hirq => ?_, fun hstop => ?_, fun hstop => ?_,
      (finish_queueOnly s q i d st detail late mute false).cmds, (finish_queueOnly s q i d st detail late mute false).others⟩
    · have hne : rEvc c ≠ rQHead q ∧ rEvc c ≠ rQErr q ∧ rEvc c ≠ rEvtQerr ∧ rEvc c ≠ rEvtQdone := by
        simp only [rEvc, rQHead, rQErr, rEvtQerr, rEvtQdone]; omega
      rw [finish_rd s q i d st hne.1, stops_rd_ne _ _ _ _ _ hne.2.1 hne.2.2.1, interrupts_rd_ne _ _ _ hne.2.2.2, signals_evc _ _ _ hc]
      rfl
    · exact finish_qdone_of_not_irq s hq i d st detail late mute false hirq
    · obtain ⟨hqerr, herr⟩ := finish_stops s hq i d st detail late mute false (hstops.trans hstop)
      refine ⟨hqerr, herr, fun hrunning => ?_⟩
      rw [if_pos ⟨hstop, hrunning⟩] at hqueue
      exact (congrArg QState.st hqueue :)
    · rw [if_neg fun h => Bool.false_ne_true (hstop.symm.trans h.1)] at hqueue
      exact ⟨finish_qerr_of_not_stops s hq i d st detail late mute false (hstops.trans hstop), (congrArg QState.st hqueue :)⟩
  · obtain ⟨m, rfl⟩ : ∃ m, n = m + 1 := ⟨n - 1, by omega⟩
    rw [(advanceHead_of_head hq h m).1]
    exact ⟨passHead_head, (advanceHead_of_head hq h m).2⟩

/-! ### A descriptor that has its status completes (R384, R385, R250; DEDUCED, log 60) -/

/-- Settles O47: a running command that has its status, and a descriptor that failed a check or was stopped. -/
theorem completes : Obligations.Completes := by
  unfold Obligations.Completes
  intro q i st detail s hr
  have hexec : exec (.descriptorComplete q i) s = .next (((effDescriptorComplete q i s).formDigests.settleWork).settled) :=
    done_live _ s hr
  refine ⟨?_, ?_⟩
  · intro c d hfind hcmd hstatus hmay s1 hcmd1 hmay1
    have heff : effDescriptorComplete q i s = s1.completeCmd d st detail := by
      unfold effDescriptorComplete
      simp only [hfind, hcmd, hstatus, hmay, if_true]
      rw [show (s.commitAtEnd c st).cmd? q i = some d from hcmd1]
      exact if_pos hmay1
    rw [hexec, heff]
  · intro f hruns hfind hfail s1
    have hgoes : ¬ ((s.queue q).st ≠ .running ∧ f.reformed = false) := fun h =>
      hruns.elim h.1 fun hreformed => Bool.false_ne_true (h.2.symm.trans hreformed)
    have heff : effDescriptorComplete q i s = (s1.finish q i f.desc st detail false (st == stData && bitAt detail 16) false).settleQueue
        q := by
      unfold effDescriptorComplete
      simp only [hfind, hfail, Option.getD_some]
      exact if_neg hgoes
    rw [hexec, heff]

/-! ### Resume and abort of a queue in ERROR (R385) -/

theorem wakeOf_queue : ∀ q < 64, wakeOf (rQCtl q) = 3 ∧ wakeOf (rQCfg q) = 3 ∧ wakeOf (rQTail q) = 3 := by decide +kernel

/-- Descriptors of queue q complete without stopping it, and nothing but registers, memory and that queue changes. -/
structure State.CompletesIn (s t : State) (q : Nat) : Prop where
  only : s.QueueOnly t q
  queue : (s.queue q).doneOnly (t.queue q)

theorem State.CompletesIn.refl (s : State) (q : Nat) : s.CompletesIn s q := ⟨.refl s q, QState.doneOnly_refl _⟩

theorem State.CompletesIn.trans {s t u : State} {q : Nat} (hst : s.CompletesIn t q) (htu : t.CompletesIn u q) : s.CompletesIn u q :=
  ⟨hst.only.trans htu.only, QState.doneOnly_trans hst.queue htu.queue⟩

theorem completesIn_foldl {α : Type} {f : State → α → State} {q : Nat} (h : ∀ (u : State) x, u.CompletesIn (f u x) q) (l : List α) (s : State) :
    s.CompletesIn (l.foldl f s) q := by
  induction l generalizing s with
  | nil => exact .refl s q
  | cons x t ih => exact (h s x).trans (ih _)

section

variable {q : Nat} (hq : q < 64)

include hq

/-- A completion of an abort stops nothing. -/
theorem finish_completesIn (s : State) (i : Nat) (d : List Byte) (st detail : Nat) (late mute : Bool) :
    s.CompletesIn (s.finish q i d st detail late mute true) q := by
  have hqueue := finish_queue s q i d st hq detail late mute true
  rw [show stopsOf d st true = false from Bool.and_false _, if_neg fun h => Bool.false_ne_true h.1] at hqueue
  exact ⟨finish_queueOnly s q i d st detail late mute true, hqueue⟩

theorem abortFetched_completesIn (s : State) (f : Fetched) : s.CompletesIn (s.abortFetched q f) q := by
  unfold State.abortFetched State.abortDesc
  split
  · exact finish_completesIn hq s _ _ _ _ _ _
  · exact finish_completesIn hq s _ _ _ _ _ _

theorem abortRest_completesIn (done : List Nat) (s : State) (n : Nat) :
    s.CompletesIn (if done.contains n then s else s.abortDesc q n (s.read (s.descAt q n) 64)) q := by
  split
  · exact .refl s q
  · exact finish_completesIn hq s _ _ _ _ _ _

end

theorem setJobState_completesIn (s : State) (job v q : Nat) : s.CompletesIn (s.setJobState job v) q :=
  ⟨setFld_queueOnly _ _ _ _ _ _, QState.doneOnly_refl _⟩

theorem notePending_completesIn (s : State) (q : Nat) : s.CompletesIn s.notePending q := by
  refine completesIn_foldl (fun u x => ?_) _ _
  split
  · exact setJobState_completesIn u _ _ q
  · exact .refl u q

/-- What only looks at drains and marks identifiers keeps memory and the queues. -/
theorem notePending_keeps (s : State) : s.notePending.mem = s.mem ∧ s.notePending.queues = s.queues := by
  refine ⟨foldl_keeps State.mem _ (fun u x => ?_) _ _, foldl_keeps State.queues _ (fun u x => ?_) _ _⟩
  · split <;> rfl
  · split <;> rfl

section

variable {s : State} {q : Nat}

/-- A queue in ERROR as its abort leaves it before the write-backs. -/
def State.abandons (s : State) (q : Nat) : State :=
  s.setQueue q { s.queue q with st := .running, fetched := [], nextFetch := s.fld (rQTail q) 0 32, onJob := false }

/-- The write-backs of an abort. -/
def State.abortAll (s : State) (q : Nat) : State :=
  (idxFrom (s.queue q).nextFetch (s.fld (rQTail q) 0 32)).foldl
    (fun t n => if (s.queue q).done.contains n then t else t.abortDesc q n (t.read (t.descAt q n) 64))
    ((s.queue q).fetched.foldl (fun t f => t.abortFetched q f) (s.abandons q))

theorem abortQueue_of_error (h : (s.queue q).st = .error) : s.abortQueue q = (s.abortAll q).notePending :=
  if_neg (fun hne => hne h)

theorem abortAll_completesIn (hq : q < 64) : (s.abandons q).CompletesIn (s.abortAll q) q :=
  (completesIn_foldl (fun u f => abortFetched_completesIn hq u f) _ _).trans (completesIn_foldl (fun u n => abortRest_completesIn hq _ u n) _ _)

/-- The abort of a queue whose only unstarted descriptor is a fetched one. -/
theorem abortAll_of_single {f : Fetched} (hf : (s.queue q).fetched = [f]) (hn : (s.queue q).nextFetch = s.fld (rQTail q) 0 32) :
    s.abortAll q = (s.abandons q).abortFetched q f := by
  have hnone : ∀ n, idxFrom n n = [] := fun n => by simp [idxFrom, sub32]
  rw [State.abortAll, hf, hn, hnone]
  rfl

theorem abortFetched_eq (s : State) (q : Nat) (f : Fetched) : s.abortFetched q f =
    s.finish q f.index f.desc (if f.reformed then stReformed else stAborted) 0 false (!f.reformed) true := by
  unfold State.abortFetched State.abortDesc
  cases f.reformed <;> rfl

theorem abortFetched_status (s : State) (q : Nat) (f : Fetched) : (s.abortFetched q f).byte (s.descAt q f.index + 48)
    = BitVec.ofNat 8 (if f.reformed then stReformed else stAborted) := by
  generalize hst : (if f.reformed then stReformed else stAborted) = st
  have hbyte : (s.abortFetched q f).byte (s.descAt q f.index + 48) = (s.write (s.descAt q f.index + 48)
      (s.writeBack st 0 false (signalsOf f.desc st (!f.reformed)))).byte (s.descAt q f.index + 48 + 0) := by
    rw [abortFetched_eq, hst]
    exact congrArg (fun m => smGet memDefault m _) (finish_mem s q f.index f.desc st 0 false (!f.reformed) true)
  have hlen := length_writeBack s st 0 false (signalsOf f.desc st (!f.reformed))
  rw [hbyte, byte_write_in _ _ _ _ (by rw [hlen]; decide) (by rw [hlen]; decide)]
  rfl

/-- What an abort leaves (R385). -/
theorem abortQueue_leaves (hq : q < 64) (h : (s.queue q).st = .error) :
    (s.abandons q).CompletesIn (s.abortQueue q) q := by
  rw [abortQueue_of_error h]
  exact (abortAll_completesIn hq).trans (notePending_completesIn _ q)

end

/-- Settles O20: RESUME, and ABORT by what the completions of the descriptors leave. That one which a stop has named keeps the
re-formed status is the model's choice (DEDUCED, log 60). -/
theorem resumeAndAbort : Obligations.ResumeAndAbort := by
  unfold Obligations.ResumeAndAbort
  intro q s hq hawake herror
  have hr := resetOn_of_awake s 3 hawake
  have hwake : s.awake (wakeOf (rQCtl q)) = true := (wakeOf_queue q hq).1 ▸ hawake
  have hgood : ¬ 64 ≤ q := by omega
  have habort : exec (.queueAbort q) s = .next (((s.abortQueue q).respond 0).settled) := by
    refine (done_live (effQueueAbort q) s hr).trans ?_
    rw [effQueueAbort, if_neg hgood, access_awake _ _ _ hwake]
  have hleaves := abortQueue_leaves hq herror
  have habandons : (s.abandons q).queue q = _ := queue_setQueue_self _ _ _ hq
  have hqueue : (s.abortQueue q).queue q = { (s.abandons q).queue q with done := ((s.abortQueue q).queue q).done } := hleaves.queue
  rw [habandons] at hqueue
  have hqueues : ∀ k, State.queue ((s.abortQueue q).respond 0).settled k = (s.abortQueue q).queue k := fun k => by
    rw [State.queue, settled_queues]
    rfl
  refine ⟨?_, _, habort, ?_, ?_, ?_, ?_, fun k hk => ?_, ?_, ?_, fun f hf hn => ?_⟩
  · refine (done_live (effQueueResume q) s hr).trans ?_
    rw [effQueueResume, if_neg hgood, access_awake _ _ _ hwake, State.resumeQueue, if_pos herror]
  · rw [hqueues, hqueue]
  · rw [hqueues, hqueue]
  · rw [hqueues, hqueue]
  · rw [hqueues, hqueue]
  · rw [hqueues, hleaves.only.others k hk]
    exact queue_setQueue_ne _ _ _ _ hk
  · rw [settled_cmds]
    exact hleaves.only.cmds
  · rw [settled_bus]
    rfl
  · have hmem : (((s.abortQueue q).respond 0).settled).mem = ((s.abandons q).abortFetched q f).mem := by
      rw [settled_mem, ← abortAll_of_single hf hn]
      exact (congrArg State.mem (abortQueue_of_error herror)).trans (notePending_keeps _).1
    exact (congrArg (fun m => smGet memDefault m _) hmem).trans (abortFetched_status (s.abandons q) q f)

end Sys2Proof.Machine

/-! The enable of a queue (spec/13_control.md R386, spec/14_registers.md R404). -/

namespace Sys2Proof.Machine

/-! ### Staged copies applied (R404) -/

theorem applyAll_staged (l : List (Nat × Word × Word)) (s : State) : (s.applyAll l).staged = s.staged := by
  induction l generalizing s with
  | nil => rfl
  | cons x xs ih => exact ih _

theorem applyAll_queues (l : List (Nat × Word × Word)) (s : State) : (s.applyAll l).queues = s.queues := by
  induction l generalizing s with
  | nil => rfl
  | cons x xs ih => exact ih _

section

variable (s : State) (f : Nat → Bool)

/-- The copies that apply are taken off, and no others. -/
theorem applyStaged_staged : (s.applyStaged f).staged = s.staged.filter (fun e => !f e.1) := by
  unfold State.applyStaged
  simp only
  split
  · rename_i hnone
    rw [List.isEmpty_iff, List.filter_eq_nil_iff] at hnone
    exact (List.filter_eq_self.mpr fun e he => by simpa using hnone e he).symm
  · rw [State.setFld, State.wr]
    simp only [applyAll_staged]

theorem applyStaged_queues : (s.applyStaged f).queues = s.queues := by
  unfold State.applyStaged
  simp only
  split
  · rfl
  · exact applyAll_queues _ s

/-- A register that no copy is staged of keeps its value. -/
theorem applyStaged_rd_of_not_staged {o : Nat} (h : ∀ e ∈ s.staged, e.1 ≠ o) (ho : o ≠ rCfgCtl) : (s.applyStaged f).rd o = s.rd o := by
  unfold State.applyStaged
  simp only
  split
  · rfl
  · exact (rd_setFld_ne _ _ _ _ _ _ ho).trans (applyAll_rd_of_not_mem _ s o fun e he => h e (List.mem_of_mem_filter he))

end

/-! ### A queue that drains (R386) -/

/-- Nothing of a queue runs, and no descriptor of it that a stop has named waits for its completion. -/
def State.drained (s : State) (q : Nat) : Prop := s.inFlight q = 0 ∧ (s.queue q).fetched.any Fetched.reformed = false

/-- A drained queue: its pending enable runs it. -/
def State.leavesDrain (s : State) (q : Nat) : State :=
  s.setQueue q { s.queue q with
    st := if (s.queue q).enPend then .running else .disabled, enPend := false, onJob := false, fetched := []
    nextFetch := s.fld (rQHead q) 0 32 }

section

variable {s : State} {q : Nat}

theorem settleQueue_eq : s.settleQueue q =
    if (s.queue q).st = .draining ∧ s.inFlight q = 0 ∧ (s.queue q).fetched.any Fetched.reformed = false then
      (if (s.queue q).enPend then s.leavesDrain q else (s.leavesDrain q).applyQueue q)
    else s := rfl

theorem settleQueue_of_drained (hst : (s.queue q).st = .draining) (h : s.drained q) : s.settleQueue q =
    if (s.queue q).enPend then s.leavesDrain q else (s.leavesDrain q).applyQueue q := if_pos ⟨hst, h.1, h.2⟩

theorem settleQueue_of_not_drained (h : ¬ s.drained q) : s.settleQueue q = s := if_neg fun hd => h hd.2

/-- A drain changes no register but by what it applies. -/
theorem settleQueue_rd_of_not_staged {o : Nat} (h : ∀ e ∈ s.staged, e.1 ≠ o) (ho : o ≠ rCfgCtl) : (s.settleQueue q).rd o = s.rd o := by
  rw [settleQueue_eq]
  split
  · split
    · exact setQueue_rd s q _ o
    · exact (applyStaged_rd_of_not_staged (s.leavesDrain q) _ h ho).trans (setQueue_rd s q _ o)
  · rfl

theorem settleQueue_others {k : Nat} (hk : k ≠ q) : (s.settleQueue q).queue k = s.queue k := by
  have hleaves : (s.leavesDrain q).queue k = s.queue k := queue_setQueue_ne _ _ _ _ hk
  rw [settleQueue_eq]
  split
  · split
    · exact hleaves
    · rw [State.queue, State.applyQueue, applyStaged_queues]
      exact hleaves
  · rfl

theorem settleQueue_st_of_drained (hq : q < 64) (hst : (s.queue q).st = .draining) (h : s.drained q) :
    ((s.settleQueue q).queue q).st = if (s.queue q).enPend then .running else .disabled := by
  have hleaves : ((s.leavesDrain q).queue q).st = if (s.queue q).enPend then .running else .disabled := by
    rw [State.leavesDrain, queue_setQueue_self _ _ _ hq]
  rw [settleQueue_of_drained hst h]
  split
  · rename_i hpend
    rw [hleaves, if_pos hpend]
  · rename_i hpend
    rw [State.queue, State.applyQueue, applyStaged_queues]
    exact hleaves.trans (if_neg hpend)

theorem settleQueue_staged_of_disabled (hst : (s.queue q).st = .draining) (h : s.drained q) (hpend : (s.queue q).enPend = false) :
    (s.settleQueue q).staged = s.staged.filter (fun e => !(decide (classOf e.1 = .descriptor) && queueOf e.1 == q)) := by
  rw [settleQueue_of_drained hst h, if_neg (by rw [hpend]; exact Bool.false_ne_true), State.applyQueue, applyStaged_staged]
  rfl

end

/-! ### A write of ENABLE -/

/-- ENABLE as it is written, with the CRC that becomes due. -/
def State.enableSet (s : State) (q : Nat) (en : Bool) : State := (s.setFld (rQCfg q) 5 1 (b2n en)).setFld rCfgCtl 3 1 1

/-- The queue begins to drain. -/
def State.startsDrain (s : State) (q : Nat) : State :=
  (s.setQueue q { s.queue q with st := .draining, onJob := false }).notePending

section

variable {s : State} {q : Nat}

theorem exec_queueEnableWrite (hq : q < 64) (hawake : s.awake 3 = true) (en : Bool) : exec (.queueEnableWrite q en) s
    = .next (((((s.enableSet q en).enableQueue q en).settleQuiesce).respond 0).settled) := by
  refine (done_live (effQueueEnableWrite q en) s (resetOn_of_awake s 3 hawake)).trans ?_
  rw [effQueueEnableWrite, if_neg (by omega), access_awake _ _ _ ((wakeOf_queue q hq).2.1 ▸ hawake)]
  rfl

theorem enableSet_queue (en : Bool) (k : Nat) : (s.enableSet q en).queue k = s.queue k := rfl

theorem enableSet_enable (en : Bool) : (s.enableSet q en).fld (rQCfg q) 5 1 = b2n en := by
  have hne : rQCfg q ≠ rCfgCtl := by simp only [rQCfg, rCfgCtl]; omega
  rw [State.enableSet, fld_setFld_other _ _ _ _ _ _ _ _ hne, fld_setFld_self _ _ _ _ _ (by decide)]
  cases en <;> rfl

theorem enableSet_tail (en : Bool) : (s.enableSet q en).fld (rQTail q) 0 32 = s.fld (rQTail q) 0 32 := by
  rw [State.enableSet, fld_setFld_other _ _ _ _ _ _ _ _ (by simp only [rQTail, rCfgCtl]; omega),
    fld_setFld_other _ _ _ _ _ _ _ _ (by simp only [rQTail, rQCfg]; omega)]

theorem enableQueue_of_disabled (h : (s.queue q).st = .disabled) : s.enableQueue q true = s.runQueue q := by
  unfold State.enableQueue
  simp only [h]

theorem enableQueue_of_draining (h : (s.queue q).st = .draining) :
    s.enableQueue q true = s.setQueue q { s.queue q with enPend := true } := by
  unfold State.enableQueue
  simp only [h]

theorem enableQueue_of_active (h : (s.queue q).st = .running ∨ (s.queue q).st = .error) :
    s.enableQueue q false = (s.startsDrain q).settleQueue q := by
  unfold State.enableQueue
  rcases h with h | h <;> simp only [h] <;> rfl

/-- What a write of ENABLE leaves of a queue, of a register and of the staged copies once it is answered. -/
theorem enabled_queue (u : State) (k : Nat) : State.queue ((u.settleQuiesce).respond 0).settled k = u.queue k := by
  rw [State.queue, settled_queues, State.respond_queues, settleQuiesce_eq]
  rfl

theorem enabled_staged (u : State) : (((u.settleQuiesce).respond 0).settled).staged = u.staged := by
  rw [settled_staged, State.respond_staged, settleQuiesce_eq]

theorem queueReg_plain (hq : q < 64) (k : Nat) :
    rQCfg q ≠ rEvtStatus ∧ rQHead q ≠ rEvtStatus ∧ rQCfg q ≠ rEvwCfg k ∧ rQHead q ≠ rEvwCfg k := by
  simp only [rQCfg, rQHead, rEvtStatus, rEvwCfg]; omega

theorem enabled_rd (u : State) {o : Nat} (hevt : o ≠ rEvtStatus) (hcfg : ∀ k < 8, o ≠ rEvwCfg k) :
    (((u.settleQuiesce).respond 0).settled).rd o = u.rd o := (settled_rd _ o hevt hcfg).trans (settleQuiesce_rd u o hevt)

theorem startsDrain_queue (hq : q < 64) :
    (s.startsDrain q).queue q = { s.queue q with st := .draining, onJob := false } := by
  rw [State.queue, State.startsDrain, (notePending_keeps _).2]
  exact queue_setQueue_self _ _ _ hq

theorem startsDrain_others {k : Nat} (hk : k ≠ q) : (s.startsDrain q).queue k = s.queue k := by
  rw [State.queue, State.startsDrain, (notePending_keeps _).2]
  exact queue_setQueue_ne _ _ _ _ hk

theorem startsDrain_drained (hq : q < 64) : (s.startsDrain q).drained q ↔ s.drained q := by
  have hcmds : (s.startsDrain q).cmds = s.cmds := (notePending_completesIn _ q).only.cmds
  rw [State.drained, State.drained, startsDrain_queue hq, State.inFlight, State.inFlight, hcmds]

theorem startsDrain_staged : (s.startsDrain q).staged = s.staged := by
  have h := (notePending_completesIn (s.setQueue q { s.queue q with st := .draining, onJob := false }) q).only.frame
  exact (congrArg State.staged h :)

theorem startsDrain_rd {o : Nat} (ho : o < rPlyJobst 0) : (s.startsDrain q).rd o = s.rd o := by
  refine foldl_keeps (fun u : State => u.rd o) _ (fun u d => ?_) _ _
  split
  · exact rd_setFld_ne _ _ _ _ _ _ (by simp only [rPlyJobst] at ho ⊢; omega)
  · rfl

end

section

variable {s : State} {q : Nat} (hq : q < 64)

include hq

theorem enabled_cfg (u : State) : (((u.settleQuiesce).respond 0).settled).fld (rQCfg q) 5 1 = u.fld (rQCfg q) 5 1 :=
  fld_of_rd (enabled_rd u (queueReg_plain hq 0).1 fun k _ => (queueReg_plain hq k).2.2.1) 5 1

theorem enabled_head (u : State) : (((u.settleQuiesce).respond 0).settled).fld (rQHead q) 0 32 = u.fld (rQHead q) 0 32 :=
  fld_of_rd (enabled_rd u (queueReg_plain hq 0).2.1 fun k _ => (queueReg_plain hq k).2.2.2) 0 32

theorem runQueue_queue : (s.runQueue q).queue q = { s.queue q with
    st := .running, fetched := [], nextFetch := s.fld (rQTail q) 0 32, done := [], onJob := false } := queue_setQueue_self _ _ _ hq

omit hq in
theorem runQueue_head : (s.runQueue q).fld (rQHead q) 0 32 = s.fld (rQTail q) 0 32 :=
  (fld_setFld_self s _ _ _ _ (by decide)).trans (Nat.mod_eq_of_lt (fld_lt _ _ _ _))

omit hq in
theorem runQueue_cfg : (s.runQueue q).fld (rQCfg q) 5 1 = s.fld (rQCfg q) 5 1 :=
  fld_setFld_other s _ _ _ _ _ _ _ (by simp only [rQCfg, rQHead]; omega)

/-- The drain that a write of ENABLE begins leaves ENABLE clear, where no copy of the configuration is staged. -/
theorem drain_cfg (hstaged : ∀ e ∈ s.staged, e.1 ≠ rQCfg q) :
    (((s.enableSet q false).startsDrain q).settleQueue q).fld (rQCfg q) 5 1 = 0 := by
  have hkept : (((s.enableSet q false).startsDrain q).settleQueue q).rd (rQCfg q) = (s.enableSet q false).rd (rQCfg q) :=
    (settleQueue_rd_of_not_staged (by rw [startsDrain_staged]; exact hstaged) (by simp only [rQCfg, rCfgCtl]; omega)).trans
      (startsDrain_rd (by simp only [rQCfg, rPlyJobst]; omega))
  rw [fld_of_rd hkept, enableSet_enable]
  rfl

end

/-- Settles O21: a write of ENABLE by the state of the queue. -/
theorem queueEnable : Obligations.QueueEnable := by
  unfold Obligations.QueueEnable
  refine fun q s hq hawake => ⟨fun hst => ?_, fun hst => ?_, fun hst => ?_⟩
  · refine ⟨_, exec_queueEnableWrite hq hawake true, ?_⟩
    have hrun := runQueue_queue (s := s.enableSet q true) hq
    rw [enableQueue_of_disabled (s := s.enableSet q true) hst, enabled_queue, hrun, enabled_head hq, runQueue_head, enabled_cfg hq,
      runQueue_cfg, enableSet_enable, enableSet_tail]
    exact ⟨rfl, rfl, rfl, rfl, rfl⟩
  · intro drained
    have hstarts := startsDrain_queue (s := s.enableSet q false) hq
    have hst' : (((s.enableSet q false).startsDrain q).queue q).st = .draining := by rw [hstarts]
    have hdrained : ((s.enableSet q false).startsDrain q).drained q ↔ drained := startsDrain_drained (s := s.enableSet q false) hq
    have hpend : (((s.enableSet q false).startsDrain q).queue q).enPend = (s.queue q).enPend := by
      rw [hstarts]
      rfl
    refine ⟨_, exec_queueEnableWrite hq hawake false, ?_⟩
    rw [enableQueue_of_active (s := s.enableSet q false) hst, enabled_queue, enabled_cfg hq, enabled_staged]
    refine ⟨drain_cfg hq, fun h => ?_, fun h => ?_, fun h hnone => ?_, fun k hk => ?_⟩
    · rw [settleQueue_st_of_drained hq hst' (hdrained.mpr h), hpend]
    · rw [settleQueue_of_not_drained (mt hdrained.mp h), hst']
    · rw [settleQueue_staged_of_disabled hst' (hdrained.mpr h) (hpend.trans hnone), startsDrain_staged]
      rfl
    · rw [enabled_queue, settleQueue_others hk, startsDrain_others hk, enableSet_queue]
  · refine ⟨_, exec_queueEnableWrite hq hawake true, ?_⟩
    rw [enableQueue_of_draining (s := s.enableSet q true) hst, enabled_queue, queue_setQueue_self _ _ _ hq]
    exact ⟨hst, rfl⟩

end Sys2Proof.Machine

/-! The doorbell and the fetch of a descriptor (spec/13_control.md R380, R382, R383). -/

namespace Sys2Proof.Machine

/-! ### The doorbell (R380) -/

theorem exec_queueDoorbell {q : Nat} {s : State} (hq : q < 64) (hawake : s.awake 3 = true) (tail : BitVec 32) :
    exec (.queueDoorbell q tail) s = .next (((s.ringTail q tail.toNat).respond 0).settled) := by
  refine (done_live (effQueueDoorbell q tail) s (resetOn_of_awake s 3 hawake)).trans ?_
  rw [effQueueDoorbell, if_neg (by omega), access_awake _ _ _ ((wakeOf_queue q hq).2.2 ▸ hawake)]

/-! ### The checks at fetch do not look at the queues or at the counts -/

/-- The state with other queues and ordinals. -/
def State.withFetched (s : State) (qs : Vector QState 64) (os : List Ordinal) : State := { s with queues := qs, ordinals := os }

section

variable (s : State) (qs : Vector QState 64) (os : List Ordinal)

theorem applyAll_withFetched (l : List (Nat × Word × Word)) : (s.withFetched qs os).applyAll l = (s.applyAll l).withFetched qs os := by
  induction l generalizing s with
  | nil => rfl
  | cons x xs ih => exact ih (s.merge x.1 x.2.1 x.2.2)

theorem applyStaged_withFetched (f : Nat → Bool) : (s.withFetched qs os).applyStaged f = (s.applyStaged f).withFetched qs os := by
  unfold State.applyStaged
  simp only
  rw [show (s.withFetched qs os).staged = s.staged from rfl]
  split
  · rfl
  · rw [applyAll_withFetched]
    rfl

theorem bankAhead_withFetched (step : Nat) : (s.withFetched qs os).bankAhead step = s.bankAhead step := by
  have hboundary : ((s.withFetched qs os).stepBoundary step).curBank = (s.stepBoundary step).curBank := by
    unfold State.stepBoundary
    simp only [applyStaged_withFetched]
    rfl
  unfold State.bankAhead
  rw [hboundary]
  rfl

theorem fetchFail_withFetched (d p : List Byte) : (s.withFetched qs os).fetchFail d p = s.fetchFail d p := by
  have hmem : (s.withFetched qs os).mem = s.mem := rfl
  have hahead : (s.withFetched qs os).cmdAhead d p = s.cmdAhead d p := by
    unfold State.cmdAhead
    simp only [bankAhead_withFetched, read_congr hmem, readNat_congr hmem]
  unfold State.fetchFail
  rw [hahead]
  rfl

end

/-! ### One descriptor read (R383) -/

/-- The next index has been read. -/
def State.indexed (s : State) (q : Nat) : State :=
  s.setQueue q { s.queue q with nextFetch := ((s.queue q).nextFetch + 1) % 2 ^ 32 }

/-- A descriptor joins the fetched ones. -/
def State.joins (s : State) (q : Nat) (f : Fetched) : State := s.setQueue q { s.queue q with fetched := (s.queue q).fetched ++ [f] }

/-- A read of the descriptor, or of the parameter block that it names, meets the uncorrectable-error flag. -/
def State.fetchFlagged (s : State) (q : Nat) : Prop :=
  s.flagged (s.descAt q (s.queue q).nextFetch) 64 = true
    ∨ usesBlock (dType (s.read (s.descAt q (s.queue q).nextFetch) 64)) = true
      ∧ s.flagged (dParamAddr (s.read (s.descAt q (s.queue q).nextFetch) 64)) 128 = true

/-- The parameter block as it is fetched. -/
def State.blockOf (s : State) (d : List Byte) : List Byte := if usesBlock (dType d) then s.read (dParamAddr d) 128 else []

theorem number_shape (s : State) (q i : Nat) (d p : List Byte) : ∃ os, s.number q i d p = { s with ordinals := os } := by
  unfold State.number
  simp only
  split
  · exact ⟨s.ordinals, rfl⟩
  · split
    · exact ⟨s.ordinals, rfl⟩
    · exact ⟨_, rfl⟩

/-- A fetch of given bytes, whether a read met the flag or not. -/
def State.fetchOf (s : State) (q : Nat) (d p : List Byte) (bad : Bool) : State :=
  let n := (s.queue q).nextFetch
  let u := if bad then (s.indexed q).raise causeMemory else (s.indexed q).number q n d p
  u.joins q { index := n, desc := d, param := p, fail := if bad then some (stData, u.ownRank) else u.fetchFail d p }

theorem fetchOf_flagged (s : State) (q : Nat) (d p : List Byte) : s.fetchOf q d p true = ((s.indexed q).raise causeMemory).joins q
    { index := (s.queue q).nextFetch, desc := d, param := p, fail := some (stData, s.ownRank) } := by
  have hown : ((s.indexed q).raise causeMemory).ownRank = s.ownRank := by rw [raise_eq]; rfl
  simp only [State.fetchOf, if_true, hown]

theorem fetchOf_good (s : State) (q : Nat) (d p : List Byte) :
    s.fetchOf q d p false = ((s.indexed q).number q (s.queue q).nextFetch d p).joins q
      { index := (s.queue q).nextFetch, desc := d, param := p, fail := s.fetchFail d p } := by
  obtain ⟨os, hnumber⟩ := number_shape (s.indexed q) q (s.queue q).nextFetch d p
  have hfail : ((s.indexed q).number q (s.queue q).nextFetch d p).fetchFail d p = s.fetchFail d p := by
    rw [hnumber]
    exact fetchFail_withFetched s (s.indexed q).queues os d p
  simp only [State.fetchOf, Bool.false_eq_true, if_false, hfail]

/-- A fetch, as reads of the state before it. -/
theorem fetchNext_eq (s : State) (q : Nat) : s.fetchNext q =
    if (s.queue q).done.contains (s.queue q).nextFetch then s.indexed q else
    let n := (s.queue q).nextFetch
    let lost := s.flagged (s.descAt q n) 64
    let d := if lost then List.replicate 64 0#8 else s.read (s.descAt q n) 64
    let lostBlock := !lost && usesBlock (dType d) && s.flagged (dParamAddr d) 128
    let p := if usesBlock (dType d) && !lostBlock then s.read (dParamAddr d) 128 else []
    s.fetchOf q d p (lost || lostBlock) := by
  have hread : ∀ a n, (s.indexed q).read a n = s.read a n := read_congr rfl
  unfold State.fetchNext
  simp only
  rw [show s.setQueue q _ = s.indexed q from rfl]
  simp only [hread]
  rfl

section

variable {s : State} {q : Nat} (hdone : (s.queue q).done.contains (s.queue q).nextFetch = false)

include hdone

/-- A fetch without a flag. -/
theorem fetchNext_of_good (hgood : ¬ s.fetchFlagged q) :
    let n := (s.queue q).nextFetch
    let d := s.read (s.descAt q n) 64
    s.fetchNext q = ((s.indexed q).number q n d (s.blockOf d)).joins q
      { index := n, desc := d, param := s.blockOf d, fail := s.fetchFail d (s.blockOf d) } := by
  intro n d
  have hlost : s.flagged (s.descAt q n) 64 = false := Bool.eq_false_iff.mpr fun h => hgood (.inl h)
  have hblock : (usesBlock (dType d) && s.flagged (dParamAddr d) 128) = false :=
    Bool.eq_false_iff.mpr fun h => hgood (.inr (by simpa using h))
  rw [fetchNext_eq, if_neg (by rw [hdone]; exact Bool.false_ne_true), ← fetchOf_good]
  simp only [show (s.queue q).nextFetch = n from rfl, hlost, Bool.false_eq_true, if_false, Bool.not_false, Bool.true_and,
    show s.read (s.descAt q n) 64 = d from rfl, hblock, Bool.and_true, Bool.or_false]
  rfl

/-- A fetch that meets the flag. -/
theorem fetchNext_of_flagged (hbad : s.fetchFlagged q) : ∃ f : Fetched, f.index = (s.queue q).nextFetch
    ∧ f.fail = some (stData, s.ownRank) ∧ s.fetchNext q = ((s.indexed q).raise causeMemory).joins q f := by
  have hmeets : ∃ d p, s.fetchNext q = s.fetchOf q d p true := by
    rw [fetchNext_eq, if_neg (by rw [hdone]; exact Bool.false_ne_true)]
    cases hlost : s.flagged (s.descAt q (s.queue q).nextFetch) 64 with
    | true =>
      simp only [hlost, Bool.true_or]
      exact ⟨_, _, rfl⟩
    | false =>
      obtain ⟨huses, hblock⟩ := hbad.resolve_left (by rw [hlost]; exact Bool.false_ne_true)
      simp only [hlost, Bool.false_eq_true, if_false, Bool.not_false, Bool.true_and, Bool.false_or, huses, hblock]
      exact ⟨_, _, rfl⟩
  obtain ⟨d, p, hfetch⟩ := hmeets
  exact ⟨_, rfl, rfl, hfetch.trans (fetchOf_flagged s q d p)⟩

end

/-- What a fetch leaves, but for the descriptor that it read. -/
structure State.Fetches (s t : State) (q : Nat) (f : Fetched) : Prop where
  queue : t.queue q = { s.queue q with nextFetch := ((s.queue q).nextFetch + 1) % 2 ^ 32, fetched := (s.queue q).fetched ++ [f] }
  others : ∀ k, k ≠ q → t.queue k = s.queue k
  mem : t.mem = s.mem
  cmds : t.cmds = s.cmds
  staged : t.staged = s.staged

section

variable {s : State} {q : Nat} (hq : q < 64)

include hq

theorem joins_fetches {u : State} (hu : u = { s.indexed q with regs := u.regs, rep := u.rep, ordinals := u.ordinals }) (f : Fetched) :
    s.Fetches (u.joins q f).settled q f := by
  have hqueue : ∀ k, u.queue k = (s.indexed q).queue k := fun k => by rw [hu]; rfl
  have hindexed : (s.indexed q).queue q = _ := queue_setQueue_self _ _ _ hq
  have hsettled : ∀ k, (u.joins q f).settled.queue k = (u.joins q f).queue k := fun k => by
    rw [State.queue, settled_queues, State.queue]
  refine ⟨?_, fun k hk => ?_, ?_, ?_, ?_⟩
  · rw [hsettled, State.joins, queue_setQueue_self _ _ _ hq, hqueue, hindexed]
  · rw [hsettled, State.joins, queue_setQueue_ne _ _ _ _ hk, hqueue]
    exact queue_setQueue_ne _ _ _ _ hk
  · exact (settled_mem _).trans (congrArg State.mem hu :)
  · exact (settled_cmds _).trans (congrArg State.cmds hu :)
  · exact (settled_staged _).trans (congrArg State.staged hu :)

theorem exec_descriptorFetch (hawake : s.allAwake = true) (hst : (s.queue q).st = .running) (hring : s.ringOk q = true)
    (htail : (s.queue q).nextFetch ≠ s.fld (rQTail q) 0 32)
    (hahead : sub32 (s.queue q).nextFetch (s.fld (rQHead q) 0 32) ≤ 8) :
    exec (.descriptorFetch q) s = .next ((s.fetchNext q).settled) := by
  have hgo : ¬ (decide (64 ≤ q) || !s.allAwake || decide ((s.queue q).st ≠ .running) || !s.ringOk q
      || decide ((s.queue q).nextFetch = s.fld (rQTail q) 0 32)
      || decide (8 < sub32 (s.queue q).nextFetch (s.fld (rQHead q) 0 32))) = true := by
    simp only [hawake, hst, hring, Bool.or_eq_true, decide_eq_true_eq, not_or]
    refine ⟨⟨⟨⟨⟨by omega, by decide⟩, by decide⟩, by decide⟩, htail⟩, by omega⟩
  refine (done_live (effDescriptorFetch q) s (resetOn_of_awake s 16 hawake)).trans ?_
  rw [show effDescriptorFetch q s = s.fetchNext q from if_neg hgo]

end

/-- Settles O19: the doorbell by the ring's rules, the fetch by what its reads meet. -/
theorem doorbellsAndFetches : Obligations.DoorbellsAndFetches := by
  unfold Obligations.DoorbellsAndFetches
  refine ⟨fun q tail s hq hawake => ⟨fun hgood => ?_, fun hbad => ?_⟩, fun q s hq hawake hst hring htail hahead hdone => ?_⟩
  · rw [exec_queueDoorbell hq hawake, ringTail_of_good hgood]
  · rw [exec_queueDoorbell hq hawake, State.ringTail, if_pos hbad]
  · intro n d p
    refine ⟨_, exec_descriptorFetch hq hawake hst hring htail hahead, ?_⟩
    by_cases hflag : s.fetchFlagged q
    · obtain ⟨f, hindex, hfail, hfetch⟩ := fetchNext_of_flagged hdone hflag
      have hraised := raise_sets_cause (s.indexed q) causeMemory (by decide)
      have hkeeps : s.Fetches (s.fetchNext q).settled q f := by
        rw [hfetch]
        exact joins_fetches hq (by rw [raise_eq]) f
      have hcause : ((s.fetchNext q).settled.rd rEvtStatus).getLsbD 10 = true := by
        rw [hfetch]
        exact settled_keeps_cause _ 10 hraised
      refine ⟨fun hdesc hblock => ?_, fun _ => ⟨hcause, f, ?_, hindex, hfail⟩, ?_, ?_, hkeeps.others, hkeeps.mem, hkeeps.cmds,
        hkeeps.staged⟩
      · rcases hflag with h | ⟨huses, h⟩
        · exact absurd (h.symm.trans hdesc) (by decide)
        · exact absurd (h.symm.trans (hblock huses)) (by decide)
      · rw [hkeeps.queue]
      · rw [hkeeps.queue]
      · rw [hkeeps.queue]
        exact hst
    · have hfetch : s.fetchNext q = ((s.indexed q).number q n d p).joins q { index := n, desc := d, param := p, fail := s.fetchFail d p } :=
        fetchNext_of_good hdone hflag
      have hkeeps : s.Fetches (s.fetchNext q).settled q { index := n, desc := d, param := p, fail := s.fetchFail d p } := by
        obtain ⟨os, hnumber⟩ := number_shape (s.indexed q) q n d p
        rw [hfetch]
        exact joins_fetches hq (by rw [hnumber]) _
      refine ⟨fun _ _ => ?_, fun h => absurd h hflag, ?_, ?_, hkeeps.others, hkeeps.mem, hkeeps.cmds, hkeeps.staged⟩
      · rw [hkeeps.queue]
      · rw [hkeeps.queue]
      · rw [hkeeps.queue]
        exact hst

end Sys2Proof.Machine

/-! The answers of the mailbox: the response, the queries and the heartbeat (spec/13_control.md R371 to R376, spec/15_bringup_power.md
R422). -/

namespace Sys2Proof.Machine

/-! ### Fields of byte strings -/

theorem leAt_add (b : List Byte) (off m n : Nat) : leAt b off (m + n) = leAt b off m + 256 ^ m * leAt b (off + m) n := by
  induction m generalizing off with
  | zero => simp [leAt, sliceB, leNat]
  | succ m ih =>
    rw [Nat.add_right_comm, leAt_succ, leAt_succ, ih, Nat.add_right_comm off 1 m, Nat.add_assoc off m 1, Nat.pow_succ]
    ring

theorem leAt_lt (b : List Byte) (off n : Nat) : leAt b off n < 256 ^ n := by
  induction n generalizing off with
  | zero => exact Nat.one_pos
  | succ n ih =>
    have hbyte := byteAt_lt b off
    have hrest := ih (off + 1)
    rw [leAt_succ, Nat.pow_succ]
    omega

/-- A field of the second of two parts. -/
theorem leAt_append_right (a b : List Byte) (off n : Nat) : leAt (a ++ b) (a.length + off) n = leAt b off n := by
  rw [leAt, leAt, sliceB, sliceB, List.drop_append, List.drop_eq_nil_of_le (by omega), Nat.add_sub_cancel_left, List.nil_append]

/-- A part of a string that is a number. -/
theorem leAt_toLE {b x z : List Byte} {v n : Nat} (hb : b = x ++ toLE v n ++ z) (off : Nat) (hoff : x.length = off) :
    leAt b off n = v % 256 ^ n := by
  rw [leAt_of_parts hb off n hoff (length_toLE _ _), leNat_toLE]

/-! ### The response area (R372) -/

section

variable (s : State) (m st : Nat) (body : List Byte)

/-- The head of a response. -/
def State.responseHead : List Byte :=
  toLE (rqOpcode (s.request m)) 2 ++ toLE (rqSeq (s.request m)) 2 ++ toLE body.length 1 ++ toLE st 1
    ++ toLE (complB 2 (rqOpcode (s.request m))) 2

theorem responseBytes_eq : s.responseBytes m st body = s.responseHead m st body ++ body := rfl

theorem length_responseHead : (s.responseHead m st body).length = 8 := by
  simp only [State.responseHead, List.length_append, length_toLE]

theorem response_opcode : leAt (s.responseBytes m st body) 0 2 = rqOpcode (s.request m) := by
  rw [leAt_toLE (x := []) (v := rqOpcode (s.request m)) (by simp only [State.responseBytes, List.append_assoc]; rfl) 0 rfl]
  exact Nat.mod_eq_of_lt (leAt_lt _ 0 2)

theorem response_seq : leAt (s.responseBytes m st body) 2 2 = rqSeq (s.request m) := by
  rw [leAt_toLE (x := toLE (rqOpcode (s.request m)) 2) (v := rqSeq (s.request m))
    (by simp only [State.responseBytes, List.append_assoc]; rfl) 2 (length_toLE _ _)]
  exact Nat.mod_eq_of_lt (leAt_lt _ 2 2)

theorem response_len (hlen : body.length < 256) : leAt (s.responseBytes m st body) 4 1 = body.length := by
  rw [leAt_toLE (x := toLE (rqOpcode (s.request m)) 2 ++ toLE (rqSeq (s.request m)) 2) (v := body.length)
    (by simp only [State.responseBytes, List.append_assoc]; rfl) 4 (by simp only [List.length_append, length_toLE])]
  exact Nat.mod_eq_of_lt hlen

theorem response_body (off n : Nat) : leAt (s.responseBytes m st body) (8 + off) n = leAt body off n := by
  rw [responseBytes_eq, ← length_responseHead s m st body]
  exact leAt_append_right _ _ _ _

/-- Each word of the area. -/
theorem post_word {k : Nat} (hk : k < 64) : (s.post m st body).fld (rMbxRsp m k) 0 32 = leAt (s.responseBytes m st body) (4 * k) 4 := by
  have hword : (s.post m st body).rd (rMbxRsp m k) = BitVec.ofNat 64 (leAt (s.responseBytes m st body) (4 * k) 4) := by
    rw [post_eq_raise, raise_rd_ne _ _ _ (by simp only [rMbxRsp, rEvtStatus]; omega),
      endBusy_rd_ne _ _ _ (by simp only [rMbxRsp, rMbxState]; omega), putResponse_rd _ _ _ _ hk]
  have hlt := leAt_lt (s.responseBytes m st body) (4 * k) 4
  rw [State.fld, hword, bitsAt, BitVec.toNat_ofNat]
  omega

theorem endBusy_done : (s.endBusy m).fld (rMbxState m) 1 1 = 1 := fld_setFld_self (s.setFld (rMbxState m) 0 1 0) _ _ _ _ (by decide)

theorem post_busy : (s.post m st body).fld (rMbxState m) 0 1 = 0 := by
  rw [post_eq_raise, fld_of_rd (raise_rd_ne _ _ _ (by simp only [rMbxState, rEvtStatus]; omega))]
  exact endBusy_busy _ m

theorem post_done : (s.post m st body).fld (rMbxState m) 1 1 = 1 := by
  rw [post_eq_raise, fld_of_rd (raise_rd_ne _ _ _ (by simp only [rMbxState, rEvtStatus]; omega))]
  exact endBusy_done _ m

theorem post_raises : ((s.post m st body).rd rEvtStatus).getLsbD 0 = true := by
  rw [post_eq_raise]
  exact raise_sets_cause _ causeMbxDone (by decide)

theorem endBusy_begun (hm : m < 4) : (s.endBusy m).begun m = false := by
  simp [State.endBusy, State.begun, State.setBegun, State.setFld, State.wr, Vector.getD, hm]

theorem raise_begun (c k : Nat) : (s.raise c).begun k = s.begun k := by
  rw [raise_eq]
  rfl

theorem post_begun (hm : m < 4) : (s.post m st body).begun m = false := by
  rw [post_eq_raise, raise_begun, endBusy_begun _ m hm]

theorem post_mem : (s.post m st body).mem = s.mem := by rw [post_eq]

theorem post_queues : (s.post m st body).queues = s.queues := by rw [post_eq]

theorem post_cmds : (s.post m st body).cmds = s.cmds := by rw [post_eq]

end

/-- Settles O24: the area, the pair and the event, and what a response leaves. -/
theorem response : Obligations.Response := by
  unfold Obligations.Response
  intro m st body s hm hlen t b
  exact ⟨fun k hk => post_word s m st body hk, post_busy s m st body, post_done s m st body, post_raises s m st body, post_begun s m st body hm,
    post_mem s m st body, post_queues s m st body, post_cmds s m st body, fun o hrsp hstate hevt =>
      post_rd_ne s m st body o hrsp hstate hevt⟩

/-! ### What a settled response answers -/

section

variable {s u : State} {m : Nat} (hm : m < 4) (hrequest : u.request m = s.request m) (st : Nat) (body : List Byte)

include hm

theorem answered_word {k : Nat} (hk : k < 64) :
    (u.post m st body).settled.fld (rMbxRsp m k) 0 32 = leAt (u.responseBytes m st body) (4 * k) 4 := by
  rw [settled_fld_mailbox _ _ _ _ (by simp only [rMbxRsp]; omega) (by simp only [rMbxRsp]; omega), post_word u m st body hk]

/-- A word of the body. -/
theorem answered_body {k : Nat} (h2 : 2 ≤ k) (hk : k < 64) :
    (u.post m st body).settled.fld (rMbxRsp m k) 0 32 = leAt body (4 * (k - 2)) 4 := by
  rw [answered_word hm st body hk, show 4 * k = 8 + 4 * (k - 2) by omega, response_body]

include hrequest in
/-- The head of the response of a command that keeps queues and commands. -/
theorem answers_post (hst : st < 256) (hlen : body.length < 256) (hqueues : u.queues = s.queues) (hcmds : u.cmds = s.cmds) :
    s.answers (u.post m st body).settled m st body.length := by
  have hopcode := response_opcode u m st body
  have hseq := response_seq u m st body
  have hlength := response_len u m st body hlen
  refine ⟨?_, ?_, ?_, ?_, settled_keeps_cause _ 0 (post_raises u m st body), ?_, ?_⟩
  · rw [settled_mbxBusy _ hm, post_mbxBusy]
  · rw [answered_word hm st body (by decide), leAt_add _ _ 2 2, hopcode, hseq, hrequest]
    norm_num
  · have hword := answered_word (u := u) hm st body (k := 1) (by decide)
    rw [leAt_add _ _ 1 3, hlength] at hword
    have : (u.post m st body).settled.fld (rMbxRsp m 1) 0 8 = (u.post m st body).settled.fld (rMbxRsp m 1) 0 32 % 256 := by
      simp only [State.fld, bitsAt]
      omega
    rw [this, hword]
    omega
  · rw [settled_status _ hm, post_status u m st body hst]
  · rw [settled_queues, post_queues, hqueues]
  · rw [settled_cmds, post_cmds, hcmds]

end

/-! ### The heartbeat (R375) -/

/-- The response that a busy pair gets when the heartbeat is lost. -/
def State.faultPair (s : State) (m : Nat) : State := if s.mbxBusy m then s.postStatus m stFirmware else s

/-- The mailboxes stay closed until reset. -/
def State.closesMailboxes (s : State) : State :=
  { s with spindle := { s.spindle with closed := true }, ckp := { s.ckp with pairs := [] }, restore := none }

/-- An offset in the window of a pair. -/
def inPair (m o : Nat) : Prop := 0x010000 + 0x400 * m ≤ o ∧ o < 0x010400 + 0x400 * m

theorem inPair_state (m : Nat) : inPair m (rMbxState m) := by simp only [inPair, rMbxState]; omega

theorem inPair_rsp (m : Nat) {k : Nat} (hk : k < 64) : inPair m (rMbxRsp m k) := by simp only [inPair, rMbxRsp]; omega

section

variable {m : Nat}

/-- A response of another pair leaves the pair's window. -/
theorem faultPair_rd_other {s : State} {j o : Nat} (hj : j ≠ m) (ho : inPair m o) : (s.faultPair j).rd o = s.rd o := by
  unfold inPair at ho
  unfold State.faultPair
  split
  · exact post_rd_ne s j stFirmware [] o (fun k hk => by simp only [rMbxRsp]; omega) (by simp only [rMbxState]; omega)
      (by simp only [rEvtStatus]; omega)
  · rfl

theorem foldl_faultPair_rd_other {o : Nat} (ho : inPair m o) (l : List Nat) (hl : m ∉ l) (s : State) :
    (l.foldl State.faultPair s).rd o = s.rd o := by
  induction l generalizing s with
  | nil => rfl
  | cons j l ih =>
    have hj : j ≠ m := fun h => hl (by simp [h])
    rw [List.foldl_cons, ih (fun h => hl (by simp [h])), faultPair_rd_other hj ho]

/-- Among all pairs, each one answers for itself. -/
theorem foldl_faultPairs_rd {o : Nat} (hm : m < 4) (ho : inPair m o) (s : State) : ∃ u : State, (∀ x, inPair m x → u.rd x = s.rd x)
    ∧ ((List.range 4).foldl State.faultPair s).rd o = (u.faultPair m).rd o := by
  have hsplit : List.range 4 = List.range m ++ m :: (List.range (3 - m)).map (fun k => m + 1 + k) := by
    interval_cases m <;> rfl
  have hbefore : m ∉ List.range m := by simp
  have hafter : m ∉ (List.range (3 - m)).map (fun k => m + 1 + k) := by
    simp only [List.mem_map, not_exists, not_and]
    exact fun k _ h => by omega
  refine ⟨(List.range m).foldl State.faultPair s, fun x hx => foldl_faultPair_rd_other hx _ hbefore s, ?_⟩
  rw [hsplit, List.foldl_append, List.foldl_cons, foldl_faultPair_rd_other ho _ hafter]

theorem faultPair_keeps (s : State) (k : Nat) :
    (s.faultPair k).mem = s.mem ∧ (s.faultPair k).queues = s.queues ∧ (s.faultPair k).cmds = s.cmds := by
  unfold State.faultPair
  split
  · exact ⟨post_mem s k stFirmware [], post_queues s k stFirmware [], post_cmds s k stFirmware []⟩
  · exact ⟨rfl, rfl, rfl⟩

theorem faultPair_not_busy (s : State) (k : Nat) : (s.faultPair k).mbxBusy k = false := by
  unfold State.faultPair
  split
  · exact post_mbxBusy s k stFirmware []
  · rename_i h
    exact Bool.eq_false_iff.mpr h

/-- The state that the loss of the heartbeat leaves. -/
def State.heartbeatLost (s : State) : State :=
  ((((List.range 4).foldl State.faultPair s).closesMailboxes).raise causeSpindle).settled

theorem heartbeatLost_rd (s : State) {o : Nat} (hm : m < 4) (ho : inPair m o) :
    s.heartbeatLost.rd o = ((List.range 4).foldl State.faultPair s).rd o := by
  unfold inPair at ho
  rw [State.heartbeatLost, settled_rd _ _ (by simp only [rEvtStatus]; omega) (fun k hk => by simp only [rEvwCfg]; omega),
    raise_rd_ne _ _ _ (by simp only [rEvtStatus]; omega)]
  rfl

/-- A pair that is busy is answered, one that is not keeps its response. -/
theorem heartbeatLost_pair (s : State) (hm : m < 4) : s.heartbeatLost.mbxBusy m = false
    ∧ (s.mbxBusy m = true → s.heartbeatLost.fld (rMbxRsp m 1) 8 8 = stFirmware)
    ∧ (s.mbxBusy m = false → ∀ k < 64, s.heartbeatLost.rd (rMbxRsp m k) = s.rd (rMbxRsp m k)) := by
  refine ⟨?_, fun hbusy => ?_, fun hidle k hk => ?_⟩
  · obtain ⟨u, -, hpair⟩ := foldl_faultPairs_rd hm (inPair_state m) s
    rw [mbxBusy_of_rd ((heartbeatLost_rd s hm (inPair_state m)).trans hpair), faultPair_not_busy]
  · obtain ⟨u, hkept, hpair⟩ := foldl_faultPairs_rd hm (inPair_rsp m (k := 1) (by decide)) s
    have hu : u.mbxBusy m = true := (mbxBusy_of_rd (hkept _ (inPair_state m))).trans hbusy
    rw [fld_of_rd ((heartbeatLost_rd s hm (inPair_rsp m (by decide))).trans hpair), State.faultPair, if_pos hu]
    exact post_status u m stFirmware [] (by decide)
  · obtain ⟨u, hkept, hpair⟩ := foldl_faultPairs_rd hm (inPair_rsp m hk) s
    have hu : u.mbxBusy m = false := (mbxBusy_of_rd (hkept _ (inPair_state m))).trans hidle
    rw [heartbeatLost_rd s hm (inPair_rsp m hk), hpair, State.faultPair, if_neg (by rw [hu]; exact Bool.false_ne_true),
      hkept _ (inPair_rsp m hk)]

end

theorem heartbeatLost_keeps (s : State) :
    s.heartbeatLost.mem = s.mem ∧ s.heartbeatLost.queues = s.queues ∧ s.heartbeatLost.cmds = s.cmds := by
  have hraised : s.heartbeatLost.mem = ((List.range 4).foldl State.faultPair s).mem
      ∧ s.heartbeatLost.queues = ((List.range 4).foldl State.faultPair s).queues
      ∧ s.heartbeatLost.cmds = ((List.range 4).foldl State.faultPair s).cmds := by
    rw [State.heartbeatLost, settled_mem, settled_queues, settled_cmds, raise_eq]
    exact ⟨rfl, rfl, rfl⟩
  obtain ⟨hmem, hqueues, hcmds⟩ := hraised
  exact ⟨hmem.trans (foldl_keeps State.mem _ (fun u k => (faultPair_keeps u k).1) _ s),
    hqueues.trans (foldl_keeps State.queues _ (fun u k => (faultPair_keeps u k).2.1) _ s),
    hcmds.trans (foldl_keeps State.cmds _ (fun u k => (faultPair_keeps u k).2.2) _ s)⟩

/-- Settles O32: the beat kept, and the pairs answered when it is lost. -/
theorem heartbeats : Obligations.Heartbeats := by
  unfold Obligations.Heartbeats
  refine fun s hawake => ⟨fun hrunning => ?_, fun hvalid hopen hlate => ?_⟩
  · refine (done_live effHeartbeat s (resetOn_of_awake s 2 hawake)).trans ?_
    rw [effHeartbeat, hawake, hrunning]
    rfl
  · have hexec : exec .heartbeatTimeout s = .next s.heartbeatLost := by
      refine (done_live effHeartbeatTimeout s (resetOn_of_awake s 2 hawake)).trans ?_
      rw [effHeartbeatTimeout, hawake, hvalid, hopen, decide_eq_true hlate]
      rfl
    obtain ⟨hmem, hqueues, hcmds⟩ := heartbeatLost_keeps s
    refine ⟨_, hexec, ?_, fun m hm => (heartbeatLost_pair s hm).1, fun m hm => (heartbeatLost_pair s hm).2.1,
      fun m hm => (heartbeatLost_pair s hm).2.2, ?_, hmem, hqueues, hcmds⟩
    · rw [State.heartbeatLost, settled_shape, raise_eq]
      rfl
    · exact settled_keeps_cause _ 30 (raise_sets_cause _ causeSpindle (by decide))

end Sys2Proof.Machine

/-! The queries of the mailbox (spec/13_control.md R374, R376, spec/15_bringup_power.md R422). -/

namespace Sys2Proof.Machine

/-! ### The records of the resources -/

theorem length_healthRecord (s : State) (w : BitVec 32) : (s.healthRecord w).length = 16 := by
  unfold State.healthRecord
  simp only [List.length_append, length_toLE]

theorem length_resources (s : State) : s.resources.length ≤ 4856 := by
  unfold State.resources
  refine (List.length_filter_le _ _).trans ?_
  simp only [List.length_append, List.length_map, List.length_range, List.length_flatMap, List.map_const', List.sum_replicate]
  decide

theorem memWrite_nil (m : SMap Byte) (a : Nat) : memWrite m a [] = m := rfl

/-- The records written: one for each resource, in order, and nothing else. -/
theorem write_records (s : State) (dest : Nat) :
    (∀ n w, s.resources[n]? = some w → (s.write dest (s.resources.flatMap s.healthRecord)).read (dest + 16 * n) 16 = s.healthRecord w)
    ∧ ∀ a, (∀ k < 16 * s.resources.length, (dest + k) % 2 ^ 64 ≠ a % 2 ^ 64) →
        (s.write dest (s.resources.flatMap s.healthRecord)).byte a = s.byte a := by
  have hlen : (s.resources.flatMap s.healthRecord).length = 16 * s.resources.length :=
    length_flatMap_of_const _ 16 (length_healthRecord s) _
  have hbound := length_resources s
  refine ⟨fun n w hw => ?_, fun a ha => byte_write_out _ _ _ _ fun k hk => ha k (by rwa [hlen] at hk)⟩
  obtain ⟨hn, rfl⟩ := List.getElem?_eq_some_iff.mp hw
  rw [read_of_bytes (fun k hk => byte_write_in s dest k _ hk (by rw [hlen]; omega)) (16 * n) 16 (by rw [hlen]; omega)]
  exact take_drop_flatMap _ 16 (length_healthRecord s) _ n hn

section

variable {s : State} {m : Nat}

/-! ### GET_INFO -/

/-- The body of GET_INFO: zeros from the boot ROM. -/
def State.infoBody (s : State) : List Byte :=
  if s.spindle.loaded then toLE s.spindle.minor 1 ++ toLE s.spindle.major 1 ++ toLE s.spindle.svn 2
    ++ toLE (Config.firmwareBuild s.free).toNat 4
  else toLE 0 8

theorem length_infoBody (s : State) : s.infoBody.length = 8 := by
  unfold State.infoBody
  split
  · simp only [List.length_append, length_toLE]
  · exact length_toLE 0 8

theorem exec_getInfo (h : s.takes m 0x0001) : exec (.getInfo m) s = .next ((s.post m stOk s.infoBody).settled) := by
  refine (done_live (effGetInfo m) s h.resetOn).trans ?_
  rw [effGetInfo, takeCmd_of_takes h, State.infoBody]
  simp only
  split <;> rfl

/-- The versions, and the build, in the words of the body. -/
theorem infoBody_loaded (h : s.spindle.loaded = true) :
    leAt s.infoBody 0 4 = s.spindle.minor % 256 + 256 * (s.spindle.major % 256) + 65536 * (s.spindle.svn % 65536)
    ∧ leAt s.infoBody 4 4 = (Config.firmwareBuild s.free).toNat := by
  have hbody : s.infoBody = toLE s.spindle.minor 1 ++ toLE s.spindle.major 1 ++ toLE s.spindle.svn 2
      ++ toLE (Config.firmwareBuild s.free).toNat 4 := if_pos h
  have hminor : leAt s.infoBody 0 1 = s.spindle.minor % 256 :=
    leAt_toLE (x := []) (by rw [hbody]; simp only [List.append_assoc]; rfl) 0 rfl
  have hmajor : leAt s.infoBody 1 1 = s.spindle.major % 256 :=
    leAt_toLE (x := toLE s.spindle.minor 1) (z := toLE s.spindle.svn 2 ++ toLE (Config.firmwareBuild s.free).toNat 4)
      (by rw [hbody]; simp only [List.append_assoc]) 1 (length_toLE _ _)
  have hsvn : leAt s.infoBody 2 2 = s.spindle.svn % 65536 :=
    leAt_toLE (x := toLE s.spindle.minor 1 ++ toLE s.spindle.major 1) (by rw [hbody]) 2
      (by simp only [List.length_append, length_toLE])
  have hbuild : leAt s.infoBody 4 4 = (Config.firmwareBuild s.free).toNat % 256 ^ 4 :=
    leAt_toLE (x := toLE s.spindle.minor 1 ++ toLE s.spindle.major 1 ++ toLE s.spindle.svn 2) (z := [])
      (by rw [hbody, List.append_nil]) 4 (by simp only [List.length_append, length_toLE])
  refine ⟨?_, hbuild.trans (Nat.mod_eq_of_lt (BitVec.isLt _))⟩
  rw [leAt_add _ 0 1 3, leAt_add _ (0 + 1) 1 2, hminor, hmajor, hsvn]
  ring

theorem infoBody_rom (h : s.spindle.loaded = false) : leAt s.infoBody 0 4 = 0 ∧ leAt s.infoBody 4 4 = 0 := by
  have hbody : s.infoBody = toLE 0 8 := if_neg (by rw [h]; exact Bool.false_ne_true)
  rw [hbody]
  decide

/-! ### HEALTH_QUERY -/

/-- The body of HEALTH_QUERY for a count of records. -/
def State.healthBody (s : State) (n : Nat) : List Byte :=
  toLE (s.rd rAgeStatus).toNat 8 ++ toLE (s.fld rRepStatus 0 32) 4 ++ toLE (s.rd rCkpStatus).toNat 8 ++ toLE n 4

/-- The resources whose records a query asks for. -/
def State.queried (s : State) (dest : Nat) : List (BitVec 32) := if dest = 0 then [] else s.resources

theorem healthBody_write (s : State) (a : Nat) (b : List Byte) (n : Nat) : (s.write a b).healthBody n = s.healthBody n := rfl

theorem length_healthBody (s : State) (n : Nat) : (s.healthBody n).length = 24 := by
  simp only [State.healthBody, List.length_append, length_toLE]

theorem exec_healthQuery (h : s.takes m 0x0002) (hdest : rqAt (s.request m) 0 8 % 256 = 0) :
    let dest := rqAt (s.request m) 0 8
    exec (.healthQuery m) s = .next (((s.write dest ((s.queried dest).flatMap s.healthRecord)).post m stOk
      (s.healthBody (s.queried dest).length)).settled) := by
  refine (done_live (effHealthQuery m) s h.resetOn).trans ?_
  rw [effHealthQuery, takeCmd_of_takes h]
  simp only
  rw [if_neg (by omega), ← healthBody_write s _ ((s.queried (rqAt (s.request m) 0 8)).flatMap s.healthRecord)]
  rfl

theorem exec_healthQuery_of_bad (h : s.takes m 0x0002) (hdest : rqAt (s.request m) 0 8 % 256 ≠ 0) :
    exec (.healthQuery m) s = .next ((s.postStatus m stInvalid).settled) := by
  refine (done_live (effHealthQuery m) s h.resetOn).trans ?_
  rw [effHealthQuery, takeCmd_of_takes h]
  simp only
  rw [if_pos hdest]

/-- The three registers and the count in the words of the body. -/
theorem healthBody_words (s : State) {n : Nat} (hn : n < 2 ^ 32) :
    leAt (s.healthBody n) 0 4 + 2 ^ 32 * leAt (s.healthBody n) 4 4 = (s.rd rAgeStatus).toNat
    ∧ leAt (s.healthBody n) 8 4 = s.fld rRepStatus 0 32
    ∧ leAt (s.healthBody n) 12 4 + 2 ^ 32 * leAt (s.healthBody n) 16 4 = (s.rd rCkpStatus).toNat
    ∧ leAt (s.healthBody n) 20 4 = n := by
  have hage : leAt (s.healthBody n) 0 8 = (s.rd rAgeStatus).toNat % 256 ^ 8 :=
    leAt_toLE (x := []) (by simp only [State.healthBody, List.append_assoc]; rfl) 0 rfl
  have hrep : leAt (s.healthBody n) 8 4 = s.fld rRepStatus 0 32 % 256 ^ 4 :=
    leAt_toLE (by simp only [State.healthBody, List.append_assoc]; rfl) 8 (length_toLE (s.rd rAgeStatus).toNat 8)
  have hckp : leAt (s.healthBody n) 12 8 = (s.rd rCkpStatus).toNat % 256 ^ 8 :=
    leAt_toLE (x := toLE (s.rd rAgeStatus).toNat 8 ++ toLE (s.fld rRepStatus 0 32) 4)
      (by simp only [State.healthBody, List.append_assoc]; rfl) 12 (by simp only [List.length_append, length_toLE])
  have hcount : leAt (s.healthBody n) 20 4 = n % 256 ^ 4 :=
    leAt_toLE (x := toLE (s.rd rAgeStatus).toNat 8 ++ toLE (s.fld rRepStatus 0 32) 4 ++ toLE (s.rd rCkpStatus).toNat 8) (z := [])
      (by simp only [State.healthBody, List.append_nil]) 20 (by simp only [List.length_append, length_toLE])
  have hword : ∀ v : Word, v.toNat % 256 ^ 8 = v.toNat := fun v => Nat.mod_eq_of_lt v.isLt
  rw [leAt_add _ 0 4 4, hword] at hage
  rw [leAt_add _ 12 4 4, hword] at hckp
  exact ⟨hage, hrep.trans (Nat.mod_eq_of_lt (fld_lt _ _ _ _)), hckp, hcount.trans (Nat.mod_eq_of_lt hn)⟩

/-! ### An opcode outside the table -/

/-- No opcode outside the table starts data movement. -/
theorem movesData_of_unlisted {o : Nat} (h : opcodeSerial o = none) : movesData o = false := by
  refine Bool.eq_false_iff.mpr fun hmoves => ?_
  simp only [movesData, Bool.or_eq_true, beq_iff_eq] at hmoves
  rcases hmoves with (((rfl | rfl) | rfl) | rfl) | rfl <;> cases h

theorem exec_unsupportedOpcode (hm : m < 4) (hawake : s.awake 2 = true) (hbusy : s.mbxBusy m = true) (hbegun : s.begun m = false)
    (hclosed : s.spindle.closed = false) (hhalted : s.spindle.halted = false) (hop : opcodeSerial (rqOpcode (s.request m)) = none) :
    exec (.unsupportedOpcode m) s = .next ((s.postStatus m stUnsupported).settled) := by
  have hacts : ¬ (4 ≤ m ∨ s.awake 2 = false ∨ s.mbxBusy m = false ∨ s.begun m = true ∨ s.spindle.closed = true
      ∨ s.spindle.halted = true ∨ rqOpcode (s.request m) ≠ rqOpcode (s.request m)) := by
    simp [hm, hawake, hbusy, hbegun, hclosed, hhalted]
  have htaken : s.takeCmd m (rqOpcode (s.request m)) (fun _ s => s.postStatus m stUnsupported) = s.postStatus m stUnsupported := by
    unfold State.takeCmd
    simp only [hop, movesData_of_unlisted hop]
    rw [if_neg hacts]
    split
    · rfl
    · simp
  refine (done_live (effUnsupportedOpcode m) s (resetOn_of_awake s 2 hawake)).trans ?_
  unfold effUnsupportedOpcode
  simp only [hop]
  rw [if_neg (by decide), htaken]

end

/-- What HEALTH_QUERY of an aligned destination leaves. -/
theorem healthQuery_answers {s t : State} {m dest n : Nat} {b : List Byte} (hm : m < 4) (hn : n < 2 ^ 32)
    (ht : t = ((s.write dest b).post m stOk (s.healthBody n)).settled) : s.answers t m stOk 24
      ∧ t.fld (rMbxRsp m 2) 0 32 + 2 ^ 32 * t.fld (rMbxRsp m 3) 0 32 = (s.rd rAgeStatus).toNat
      ∧ t.fld (rMbxRsp m 4) 0 32 = s.fld rRepStatus 0 32
      ∧ t.fld (rMbxRsp m 5) 0 32 + 2 ^ 32 * t.fld (rMbxRsp m 6) 0 32 = (s.rd rCkpStatus).toNat
      ∧ t.fld (rMbxRsp m 7) 0 32 = n ∧ t.mem = (s.write dest b).mem := by
  have hword : ∀ k, 2 ≤ k → k < 64 → t.fld (rMbxRsp m k) 0 32 = leAt (s.healthBody n) (4 * (k - 2)) 4 := fun k h2 hk => by
    rw [ht, answered_body hm _ _ h2 hk]
  obtain ⟨hage, hrep, hckp, hcount⟩ := healthBody_words s hn
  have hanswers := answers_post (s := s) (u := s.write dest b) hm rfl stOk (s.healthBody n) (by decide)
    (by rw [length_healthBody]; decide) rfl rfl
  rw [length_healthBody, ← ht] at hanswers
  refine ⟨hanswers, ?_, ?_, ?_, ?_, ?_⟩
  · rw [hword 2 (by decide) (by decide), hword 3 (by decide) (by decide)]
    exact hage
  · rw [hword 4 (by decide) (by decide)]
    exact hrep
  · rw [hword 5 (by decide) (by decide), hword 6 (by decide) (by decide)]
    exact hckp
  · rw [hword 7 (by decide) (by decide)]
    exact hcount
  · rw [ht, settled_mem, post_mem]

theorem queried_count (s : State) (dest : Nat) :
    (s.queried dest).length = (if dest = 0 then 0 else s.resources.length) ∧ (s.queried dest).length < 2 ^ 32 := by
  have hbound := length_resources s
  unfold State.queried
  split
  · exact ⟨rfl, by decide⟩
  · exact ⟨rfl, by omega⟩

/-- A status without a body. -/
theorem postStatus_answers {s t : State} {m st : Nat} (hm : m < 4) (hst : st < 256) (ht : t = (s.postStatus m st).settled) :
    s.answers t m st 0 ∧ t.mem = s.mem := by
  subst ht
  exact ⟨answers_post (s := s) (u := s) hm rfl st [] hst (by decide) rfl rfl, (settled_mem _).trans (post_mem s m st [])⟩

/-- GET_INFO (R376, R422). -/
theorem getInfo_answers {s t : State} {m : Nat} (hm : m < 4) (ht : t = (s.post m stOk s.infoBody).settled) :
    s.answers t m stOk 8 ∧ t.mem = s.mem ∧ t.fld (rMbxRsp m 2) 0 32 = leAt s.infoBody 0 4
      ∧ t.fld (rMbxRsp m 3) 0 32 = leAt s.infoBody 4 4 := by
  have hanswers := answers_post (s := s) (u := s) hm rfl stOk s.infoBody (by decide) (by rw [length_infoBody]; decide) rfl rfl
  rw [length_infoBody, ← ht] at hanswers
  refine ⟨hanswers, ?_, ?_, ?_⟩
  · rw [ht, settled_mem, post_mem]
  · rw [ht, answered_body hm _ _ (k := 2) (by decide) (by decide)]
  · rw [ht, answered_body hm _ _ (k := 3) (by decide) (by decide)]

/-- The memory that HEALTH_QUERY leaves. -/
theorem queried_mem {s t : State} {dest : Nat} (ht : t.mem = (s.write dest ((s.queried dest).flatMap s.healthRecord)).mem) :
    (dest = 0 → t.mem = s.mem)
      ∧ (dest ≠ 0 → (∀ n w, s.resources[n]? = some w → t.read (dest + 16 * n) 16 = s.healthRecord w)
        ∧ ∀ a, (∀ k < 16 * s.resources.length, (dest + k) % 2 ^ 64 ≠ a % 2 ^ 64) → t.byte a = s.byte a) := by
  refine ⟨fun hzero => ?_, fun hnonzero => ?_⟩
  · rw [ht, State.queried, if_pos hzero, List.flatMap_nil, State.write, memWrite_nil]
  · rw [State.queried, if_neg hnonzero] at ht
    obtain ⟨hrecords, hkept⟩ := write_records s dest
    exact ⟨fun n w hw => (read_congr ht _ _).trans (hrecords n w hw), fun a ha => (byte_congr ht a).trans (hkept a ha)⟩

/-- Settles O26: the answers of GET_INFO and HEALTH_QUERY with their words, and of an opcode outside the table. -/
theorem queries : Obligations.Queries := by
  unfold Obligations.Queries
  refine fun m s => ⟨fun h => ?_, fun h => ?_, fun hm hawake hbusy hbegun hclosed hhalted hop => ?_⟩
  · obtain ⟨hanswers, hmem, hlow, hhigh⟩ := getInfo_answers (s := s) h.1 rfl
    refine ⟨_, exec_getInfo h, hanswers, hmem, fun hloaded => ?_, fun hrom => ?_⟩
    · rw [hlow, hhigh]
      exact infoBody_loaded hloaded
    · rw [hlow, hhigh]
      exact infoBody_rom hrom
  · intro dest
    refine ⟨fun hbad => ?_, fun hgood => ?_⟩
    · exact ⟨_, exec_healthQuery_of_bad h hbad, postStatus_answers h.1 (by decide) rfl⟩
    · obtain ⟨hcount, hlt⟩ := queried_count s dest
      obtain ⟨hanswers, hage, hrep, hckp, hn, hmem⟩ := healthQuery_answers h.1 hlt rfl (s := s) (dest := dest)
        (b := (s.queried dest).flatMap s.healthRecord)
      exact ⟨_, exec_healthQuery h hgood, hanswers, hage, hrep, hckp, hn.trans hcount, queried_mem hmem⟩
  · exact ⟨_, exec_unsupportedOpcode hm hawake hbusy hbegun hclosed hhalted hop, postStatus_answers hm (by decide) rfl⟩

end Sys2Proof.Machine

/-! Jobs, ranks and groups that the mailbox names (spec/13_control.md R376, spec/14_registers.md R405, spec/08_collectives.md R250,
spec/09_fabric.md R433). -/

namespace Sys2Proof.Machine

/-! ### A step boundary (R405) -/

theorem applyStaged_stages (s : State) (f : Nat → Bool) : s.StagesOnly (s.applyStaged f) := by
  have hall : ∀ (l : List (Nat × Word × Word)) (u : State), u.StagesOnly (u.applyAll l) := by
    intro l
    induction l with
    | nil => exact fun _ => rfl
    | cons x xs ih => exact fun u => State.StagesOnly.trans (t := u.merge x.1 x.2.1 x.2.2) rfl (ih _)
  unfold State.applyStaged
  simp only
  split
  · rfl
  · exact (hall _ s).trans rfl

/-- What a step boundary changes. -/
theorem stepBoundary_shape (s : State) (step : Nat) : s.stepBoundary step = { s with
    regs := (s.stepBoundary step).regs, staged := (s.stepBoundary step).staged, prev := (s.stepBoundary step).prev
    replayStale := (s.stepBoundary step).replayStale, stepPrev := some s.stepCur, stepCur := step } := by
  have h := applyStaged_stages s (fun k => decide (classOf k = .step))
  unfold State.StagesOnly at h
  unfold State.stepBoundary
  simp only
  rw [h]

theorem stepBoundary_rd_of_not_step (s : State) (step : Nat) {o : Nat} (hclass : classOf o ≠ .step) (ho : o ≠ rCfgCtl) :
    (s.stepBoundary step).rd o = s.rd o := applyStaged_rd_of_not s _ o (decide_eq_false hclass) ho

/-! ### A command that ends with the work that it waited for -/

theorem endBusy_begun_ne (s : State) {m k : Nat} (hk : k ≠ m) : (s.endBusy m).begun k = s.begun k := by
  simp [State.endBusy, State.begun, State.setBegun, State.setFld, State.wr, Vector.getD, Ne.symm hk]

theorem putResponse_begun (s : State) (m k : Nat) (b : List Byte) : (s.putResponse m b).begun k = s.begun k := by
  rw [putResponse_eq]
  rfl

theorem post_begun_ne (s : State) {m k : Nat} (st : Nat) (body : List Byte) (hk : k ≠ m) : (s.post m st body).begun k = s.begun k := by
  rw [post_eq_raise, raise_begun, endBusy_begun_ne _ hk, putResponse_begun]

/-- The four pairs, with one of them in its place. -/
theorem range_four_split {m : Nat} (hm : m < 4) :
    List.range 4 = List.range m ++ m :: (List.range (3 - m)).map (fun k => m + 1 + k) := by
  interval_cases m <;> rfl

/-- Where one pair has begun, it alone can end. -/
theorem settlePairs_of_only {s : State} {m : Nat} (hm : m < 4) (hbefore : ∀ k < 4, k ≠ m → s.begun k = false)
    (hafter : ∀ k < 4, k ≠ m → (s.settlePair m).begun k = false) : (List.range 4).foldl State.settlePair s = s.settlePair m := by
  have hall : ∀ (u : State) (l : List Nat), (∀ k ∈ l, u.begun k = false) → l.foldl State.settlePair u = u := by
    intro u l
    induction l with
    | nil => exact fun _ => rfl
    | cons k l ih =>
      intro hl
      rw [List.foldl_cons, settlePair_of_other (.inl (hl k (by simp))), ih fun j hj => hl j (by simp [hj])]
  rw [range_four_split hm, List.foldl_append, List.foldl_cons, hall s, hall (s.settlePair m)]
  · intro k hk
    obtain ⟨j, hj, rfl⟩ := List.mem_map.mp hk
    have := List.mem_range.mp hj
    exact hafter _ (by omega) (by omega)
  · exact fun k hk => hbefore k (by have := List.mem_range.mp hk; omega) (by have := List.mem_range.mp hk; omega)

theorem restoreOn_of_none {s : State} (h : s.restore = none) : s.restoreOn = s := by
  unfold State.restoreOn
  simp only [h]

/-- The end of work answers the one pair that has begun. -/
theorem settleWork_answers {s v : State} {m : Nat} {body : List Byte} (hm : m < 4) (hothers : ∀ k < 4, k ≠ m → s.begun k = false)
    (hpends : s.pends = []) (hpair : s.settlePair m = v.post m stOk body) (hbegun : ∀ k, v.begun k = s.begun k)
    (hrestore : v.restore = none) : s.settleWork = (v.post m stOk body).settleQuiesce := by
  have hnone : (v.post m stOk body).restore = none := (congrArg State.restore (post_eq v m stOk body) :).trans hrestore
  rw [State.settleWork, applySkein_of_no_pend hpends, settlePairs_of_only hm hothers, hpair, restoreOn_of_none hnone]
  intro k hk hkm
  rw [hpair, post_begun_ne _ _ _ hkm, hbegun, hothers k hk hkm]

/-- The answer of a command that its work's end answers, and what it leaves. -/
theorem ended_answers {v t : State} {m : Nat} {body : List Byte} (hm : m < 4)
    (ht : t = (v.post m stOk body).settleQuiesce.settled) :
    t.fld (rMbxRsp m 1) 8 8 = stOk ∧ t.fld (rMbxRsp m 2) 0 32 = leAt body 0 4 ∧ t.mbxBusy m = false
      ∧ t = { v with regs := t.regs, rep := t.rep, mbx := t.mbx, ctl := t.ctl } := by
  have hfld : ∀ o lo w, 0x010000 ≤ o → o < 0x011000 → t.fld o lo w = (v.post m stOk body).fld o lo w := fun o lo w h0 h1 => by
    rw [ht, settled_fld_mailbox _ _ _ _ h0 h1, fld_of_rd (settleQuiesce_rd _ o (by simp only [rEvtStatus]; omega))]
  refine ⟨?_, ?_, ?_, ?_⟩
  · rw [hfld _ _ _ (by simp only [rMbxRsp]; omega) (by simp only [rMbxRsp]; omega), post_status v m stOk body (by decide)]
  · rw [hfld _ _ _ (by simp only [rMbxRsp]; omega) (by simp only [rMbxRsp]; omega), post_word v m stOk body (by decide)]
    exact response_body v m stOk body 0 4
  · rw [State.mbxBusy, hfld _ _ _ (by simp only [rMbxState]; omega) (by simp only [rMbxState]; omega), post_busy]
    rfl
  · subst ht
    have hpost := post_eq v m stOk body
    generalize v.post m stOk body = p at hpost ⊢
    rw [hpost, settled_shape, settleQuiesce_eq]

/-! ### OPEN_JOB (R376, R405) -/

/-- The job as a request opens it, before the boundary to step 0. -/
def State.jobOpened (s : State) (r : List Byte) : State :=
  { s.wr rRndSeed (BitVec.ofNat 64 (rqAt r 0 8)) with
    job := { isOpen := true, rank := rqAt r 8 2, first := rqAt r 10 2, last := rqAt r 12 2, lastStep := none, reforms := [] }
    lanes := { started := true, seed := BitVec.ofNat 64 (rqAt r 0 8), drawn := [] }
    dormant := [], ordinals := [], matchTx := [], matchRx := [], replayStale := true }

section

variable {s : State} {m : Nat}

theorem exec_openJob (h : s.takes m 0x0010) (hclosed : s.job.isOpen = false) (hrange : rqAt (s.request m) 10 2 ≤ rqAt (s.request m) 12 2)
    (hlast : rqAt (s.request m) 12 2 < 4096) :
    exec (.openJob m) s = .next ((((s.jobOpened (s.request m)).stepBoundary 0).postStatus m stOk).settled) := by
  refine (done_live (effOpenJob m) s h.resetOn).trans ?_
  rw [effOpenJob, takeCmd_of_takes h]
  simp only [hclosed, Bool.false_eq_true, if_false]
  rw [if_neg (by omega)]
  rfl

/-- The state in which the job has opened, but for registers and the response. -/
theorem jobOpened_shape {u t : State} (ht : t = ((u.stepBoundary 0).postStatus m stOk).settled) : t = { u with
    regs := t.regs, staged := t.staged, prev := t.prev, replayStale := t.replayStale, stepPrev := some u.stepCur, stepCur := 0
    rep := t.rep, mbx := t.mbx, ctl := t.ctl } := by
  have hboundary := stepBoundary_shape u 0
  have hpost := post_eq (u.stepBoundary 0) m stOk []
  subst ht
  unfold State.postStatus
  generalize (u.stepBoundary 0).post m stOk [] = p at hpost ⊢
  generalize u.stepBoundary 0 = v at hboundary hpost
  rw [settled_shape, hpost, hboundary]

/-- The seed is kept: its register is of no class. -/
theorem opened_seed (u : State) (hm : m < 4) :
    (((u.stepBoundary 0).postStatus m stOk).settled).rd rRndSeed = u.rd rRndSeed := by
  have hclass : classOf rRndSeed ≠ .step := by decide +kernel
  rw [settled_rd _ _ (by decide) (fun k _ => by simp only [rRndSeed, rEvwCfg]; omega), State.postStatus,
    post_rd_ne _ _ _ _ _ (fun k hk => by simp only [rRndSeed, rMbxRsp]; omega) (by simp only [rRndSeed, rMbxState]; omega) (by decide),
    stepBoundary_rd_of_not_step u 0 hclass (by decide)]

/-! ### CLOSE_JOB -/

/-- Nothing runs that a stop could report. -/
theorem stopAll_short_of_idle (x : StopOf) (hcmds : s.cmds = []) : (s.stopAll x).2 = 0 := by
  unfold State.stopAll
  simp only [hcmds, List.filter_nil, List.map_nil, List.sum_nil]

theorem effCloseJob_of_idle (h : s.takes m 0x0011) (hopen : s.job.isOpen = true) (hcmds : s.cmds = []) (hdrains : s.drains = [])
    (hidle : ∀ q < 64, s.queueIdle q) : effCloseJob m s = (s.begin m 0 []).settleWork := by
  rw [effCloseJob, takeCmd_of_takes h]
  simp only [hopen, Bool.not_true, Bool.false_eq_true, if_false, stopAll_of_idle .job hcmds hdrains hidle, stopAll_short_of_idle .job hcmds]

/-- The job closed, before the response. -/
def State.jobClosed (s : State) : State :=
  (State.stepBoundary { s with job := { s.job with isOpen := false }, skein := none, replayStale := true
                               pends := s.pends.filter (fun p => p.slot.isSome) } s.stepCur).setFld rCfgCtl 3 1 1

theorem closeNow_eq (s : State) (m : Nat) : s.closeNow m = s.jobClosed.post m stOk (toLE (s.mbx.getD m Mbx.reset).wait 4) := rfl

theorem mbx_begin (s : State) {m : Nat} (wait : Nat) (ranks : List Nat) (hm : m < 4) : (s.begin m wait ranks).mbx.getD m Mbx.reset
    = { request := s.request m, begun := true, wait := wait, ranks := ranks } := by
  simp [State.begin, Vector.getD, hm]

theorem jobClosed_shape (s : State) : s.jobClosed = { s with
    regs := s.jobClosed.regs, staged := s.jobClosed.staged, prev := s.jobClosed.prev, replayStale := s.jobClosed.replayStale
    stepPrev := some s.stepCur, skein := none, job := { s.job with isOpen := false }
    pends := s.pends.filter (fun p => p.slot.isSome) } := by
  have h := stepBoundary_shape { s with
    job := { s.job with isOpen := false }, skein := none, replayStale := true
    pends := s.pends.filter (fun p => p.slot.isSome) } s.stepCur
  unfold State.jobClosed
  generalize State.stepBoundary _ s.stepCur = v at h ⊢
  rw [State.setFld, State.wr, h]

theorem jobClosed_begun (s : State) (k : Nat) : s.jobClosed.begun k = s.begun k := by
  rw [jobClosed_shape]
  rfl

theorem settleWork_closes (hm : m < 4) (hop : rqOpcode (s.request m) = 0x0011) (hothers : ∀ k < 4, k ≠ m → s.begun k = false)
    (hcmds : s.cmds = []) (hdrains : s.drains = []) (hpends : s.pends = []) (hrestore : s.restore = none) :
    (s.begin m 0 []).settleWork = ((s.begin m 0 []).jobClosed.post m stOk (toLE 0 4)).settleQuiesce := by
  have hbegun : (s.begin m 0 []).begun m = true := begun_begin_self s m 0 [] hm
  have hbefore : ∀ k < 4, k ≠ m → (s.begin m 0 []).begun k = false := fun k hk hkm =>
    (begun_begin_ne s m k 0 [] hkm).trans (hothers k hk hkm)
  have hended : (s.begin m 0 []).workEnded = true := by
    unfold State.workEnded
    rw [show (s.begin m 0 []).cmds = [] from hcmds, show (s.begin m 0 []).drains = [] from hdrains]
    rfl
  have hpair : (s.begin m 0 []).settlePair m = (s.begin m 0 []).jobClosed.post m stOk (toLE 0 4) := by
    have hclose := closeNow_eq (s.begin m 0 []) m
    rw [mbx_begin s 0 [] hm] at hclose
    unfold State.settlePair
    rw [hbegun, request_begin s m 0 [] hm]
    simp only [hop, Bool.not_true, Bool.false_eq_true, if_false, hended, Bool.true_and]
    rw [show (s.begin m 0 []).cmds = [] from hcmds]
    exact hclose
  exact settleWork_answers hm hbefore hpends hpair (jobClosed_begun _) (by rw [jobClosed_shape]; exact hrestore)

end

/-- What the boundary and the response leave of an opened job. -/
theorem jobOpened_keeps {u t : State} {m : Nat} (ht : t = ((u.stepBoundary 0).postStatus m stOk).settled) :
    t.job = u.job ∧ t.lanes = u.lanes ∧ t.matchTx = u.matchTx ∧ t.matchRx = u.matchRx ∧ t.stepCur = 0
      ∧ t.stepPrev = some u.stepCur ∧ t.mem = u.mem ∧ t.queues = u.queues ∧ t.cmds = u.cmds := by
  have h := jobOpened_shape ht
  exact ⟨(congrArg State.job h :), (congrArg State.lanes h :), (congrArg State.matchTx h :), (congrArg State.matchRx h :),
    (congrArg State.stepCur h :), (congrArg State.stepPrev h :), (congrArg State.mem h :), (congrArg State.queues h :),
    (congrArg State.cmds h :)⟩

theorem jobOpened_answers {u t : State} {m : Nat} (hm : m < 4) (ht : t = ((u.stepBoundary 0).postStatus m stOk).settled) :
    t.rd rRndSeed = u.rd rRndSeed ∧ t.fld (rMbxRsp m 1) 8 8 = stOk ∧ t.mbxBusy m = false := by
  subst ht
  refine ⟨opened_seed u hm, ?_, ?_⟩
  · rw [settled_status _ hm]
    exact post_status _ m stOk [] (by decide)
  · rw [settled_mbxBusy _ hm]
    exact post_mbxBusy _ m stOk []

theorem jobOpened_seed (s : State) (r : List Byte) : (s.jobOpened r).rd rRndSeed = BitVec.ofNat 64 (rqAt r 0 8) := rd_wr_self s _ _

theorem jobOpened_frame (s : State) (r : List Byte) : (s.jobOpened r).stepCur = s.stepCur ∧ (s.jobOpened r).mem = s.mem
    ∧ (s.jobOpened r).queues = s.queues ∧ (s.jobOpened r).cmds = s.cmds := by
  simp only [State.jobOpened, State.wr_stepCur, State.wr_mem, State.wr_queues, State.wr_cmds, and_self]

/-- What the boundary and the response leave of a closed job. -/
theorem jobClosed_keeps {v t : State} (h : t = { v.jobClosed with regs := t.regs, rep := t.rep, mbx := t.mbx, ctl := t.ctl }) :
    t.job.isOpen = false ∧ t.skein = none ∧ t.stepPrev = some v.stepCur ∧ t.stepCur = v.stepCur ∧ t.mem = v.mem
      ∧ t.queues = v.queues := by
  have hshape := jobClosed_shape v
  have hjob : t.job = { v.job with isOpen := false } := (congrArg State.job h :).trans (congrArg State.job hshape :)
  exact ⟨by rw [hjob], (congrArg State.skein h :).trans (congrArg State.skein hshape :),
    (congrArg State.stepPrev h :).trans (congrArg State.stepPrev hshape :),
    (congrArg State.stepCur h :).trans (congrArg State.stepCur hshape :), (congrArg State.mem h :).trans (congrArg State.mem hshape :),
    (congrArg State.queues h :).trans (congrArg State.queues hshape :)⟩

theorem exec_closeJob {s : State} {m : Nat} (h : s.takes m 0x0011) (hothers : ∀ k < 4, k ≠ m → s.begun k = false)
    (hopen : s.job.isOpen = true) (hcmds : s.cmds = []) (hdrains : s.drains = []) (hpends : s.pends = []) (hrestore : s.restore = none)
    (hidle : ∀ q < 64, s.queueIdle q) :
    exec (.closeJob m) s = .next (((s.begin m 0 []).jobClosed.post m stOk (toLE 0 4)).settleQuiesce.settled) := by
  have heff := effCloseJob_of_idle h hopen hcmds hdrains hidle
  have hr := h.resetOn
  obtain ⟨hm, -, -, -, -, -, hop, -, -, -⟩ := h
  rw [settleWork_closes hm hop hothers hcmds hdrains hpends hrestore] at heff
  exact (done_live (effCloseJob m) s hr).trans (by rw [heff])

/-- Settles O27: the job that opens, and the one that closes with nothing to stop. -/
theorem jobs : Obligations.Jobs := by
  unfold Obligations.Jobs
  refine ⟨fun m s h hclosed => ?_, fun m s h hothers hopen hcmds hdrains hpends hrestore hidle => ?_⟩
  · intro r hrange hlast
    obtain ⟨hcur0, hmem0, hqueues0, hcmds0⟩ := jobOpened_frame s r
    obtain ⟨hjob, hlanes, htx, hrx, hcur, hprev, hmem, hqueues, hcmds⟩ := jobOpened_keeps (u := s.jobOpened r) (m := m) rfl
    obtain ⟨hseed, hstatus, hbusy⟩ := jobOpened_answers (u := s.jobOpened r) h.1 rfl
    exact ⟨_, exec_openJob h hclosed hrange hlast, by rw [hjob]; rfl, by rw [hjob]; rfl, by rw [hjob]; rfl, by rw [hjob]; rfl,
      by rw [hjob]; rfl, hlanes, htx, hrx, hcur, hprev.trans (congrArg some hcur0), hseed.trans (jobOpened_seed s r), hstatus, hbusy, hmem.trans hmem0,
      hqueues.trans hqueues0, hcmds.trans hcmds0⟩
  · obtain ⟨hstatus, hshort, hbusy, hshape⟩ := ended_answers (v := (s.begin m 0 []).jobClosed) (body := toLE 0 4) h.1 rfl
    obtain ⟨hclosed, hskein, hprev, hcur, hmem, hqueues⟩ := jobClosed_keeps hshape
    exact ⟨_, exec_closeJob h hothers hopen hcmds hdrains hpends hrestore hidle, hclosed, hskein, hprev, hcur, hstatus, hshort, hbusy,
      hmem, hqueues⟩

end Sys2Proof.Machine

/-! Ranks and groups that the mailbox names (spec/13_control.md R376, spec/08_collectives.md R250, spec/09_fabric.md R433). -/

namespace Sys2Proof.Machine

/-! ### SET_RANKS -/

/-- Entries taken off by their key read as unlisted. -/
theorem smGet_filter {V : Type} (d : Nat → V) (p : Nat → Bool) (m : SMap V) (k : Nat) :
    smGet d (m.filter (fun e => p e.1)) k = if p k then smGet d m k else d k := by
  induction m with
  | nil => simp [smGet]
  | cons e t ih =>
    obtain ⟨k', v⟩ := e
    rw [List.filter_cons]
    by_cases hp : p k' = true
    · rw [if_pos hp, smGet, smGet, ih]
      by_cases hk : k' = k
      · subst hk
        simp [hp]
      · simp [hk]
    · rw [if_neg hp, ih, smGet]
      by_cases hk : k' = k
      · subst hk
        simp [hp]
      · simp [hk]

/-- `t` is `s` but for registers. -/
def State.RegsOnly (s t : State) : Prop := t = { s with regs := t.regs }

theorem State.RegsOnly.trans {s t u : State} (hst : s.RegsOnly t) (htu : t.RegsOnly u) : s.RegsOnly u :=
  Eq.trans htu (congrArg (fun x : State => { x with regs := u.regs }) hst)

theorem wr_regsOnly (s : State) (o : Nat) (v : Word) : s.RegsOnly (s.wr o v) := rfl

theorem copyRanks_succ (s : State) (src first n : Nat) : s.copyRanks src first (n + 1)
    = (s.wr (rRank first) (BitVec.ofNat 64 (s.readNat src 8))).copyRanks (src + 8) (first + 1) n := by
  rw [State.copyRanks]

theorem copyRanks_regsOnly (n : Nat) (s : State) (src first : Nat) : s.RegsOnly (s.copyRanks src first n) := by
  induction n generalizing s src first with
  | zero => rfl
  | succ n ih =>
    rw [copyRanks_succ]
    exact (wr_regsOnly s _ _).trans (ih _ _ _)

theorem copyRanks_rd_ne (n : Nat) (s : State) (src first : Nat) {o : Nat} (ho : ∀ k < n, o ≠ rRank (first + k)) :
    (s.copyRanks src first n).rd o = s.rd o := by
  induction n generalizing s src first with
  | zero => rfl
  | succ n ih =>
    rw [copyRanks_succ, ih _ _ _ fun k hk => by rw [Nat.add_assoc, Nat.add_comm 1]; exact ho (k + 1) (by omega)]
    exact rd_wr_ne _ _ _ _ (ho 0 (by omega))

/-- Each entry holds its eight bytes. -/
theorem copyRanks_rd (n : Nat) (s : State) (src first : Nat) {k : Nat} (hk : k < n) :
    (s.copyRanks src first n).rd (rRank (first + k)) = BitVec.ofNat 64 (s.readNat (src + 8 * k) 8) := by
  induction n generalizing s src first k with
  | zero => omega
  | succ n ih =>
    rw [copyRanks_succ]
    cases k with
    | zero =>
      rw [copyRanks_rd_ne n _ _ _ fun j _ => by simp only [rRank]; omega]
      exact rd_wr_self _ _ _
    | succ k =>
      have h := ih (s.wr (rRank first) (BitVec.ofNat 64 (s.readNat src 8))) (src + 8) (first + 1) (k := k) (by omega)
      rw [readNat_congr (State.wr_mem s (rRank first) (BitVec.ofNat 64 (s.readNat src 8)))] at h
      rw [show first + (k + 1) = first + 1 + k by omega, h, show src + 8 * (k + 1) = src + 8 + 8 * k by omega]

theorem byte_zeroWindows (s : State) (a : Nat) :
    s.zeroWindows.byte a = if (a % 2 ^ 64 + 2 ^ 64 - s.winAt 0) % 2 ^ 64 < 65536 * 64 then 0 else s.byte a := by
  have h := smGet_filter memDefault (fun k => decide (65536 * 64 ≤ (k + 2 ^ 64 - s.winAt 0) % 2 ^ 64)) s.mem (a % 2 ^ 64)
  refine Eq.trans h ?_
  simp only [decide_eq_true_eq]
  split
  · rw [if_neg (by omega)]
    rfl
  · rw [if_pos (by omega)]
    rfl

/-- The rank table and the windows as SET_RANKS leaves them. -/
def State.ranksSet (s : State) (src first n : Nat) : State := ((s.copyRanks src first n).zeroWindows).setFld rCfgCtl 3 1 1

section

variable {s : State} {m : Nat}

theorem reading_of_flagged {a n : Nat} (h : s.flagged a n = true) (act : State → State) :
    s.reading m [(a, n)] act = (s.raise causeMemory).postStatus m stData := by
  simp [State.reading, State.anyFlagged, h]

theorem effSetRanks_eq (h : s.takes m 0x0012) (hcmds : s.cmds = []) (hrange : rqAt (s.request m) 8 2 + rqAt (s.request m) 10 4 ≤ 65536) :
    effSetRanks m s = s.reading m [(rqAt (s.request m) 0 8, 8 * rqAt (s.request m) 10 4)]
      (fun s' => (s'.ranksSet (rqAt (s.request m) 0 8) (rqAt (s.request m) 8 2) (rqAt (s.request m) 10 4)).postStatus m stOk) := by
  rw [effSetRanks, takeCmd_of_takes h]
  simp only [hcmds, List.isEmpty_nil, Bool.not_true, Bool.false_eq_true, if_false]
  rw [if_neg (by omega)]
  rfl

end

theorem ranksSet_rd (s : State) (src first n : Nat) (k : Nat) :
    (s.ranksSet src first n).rd (rRank k) = (s.copyRanks src first n).rd (rRank k) :=
  rd_setFld_ne (s.copyRanks src first n).zeroWindows _ _ _ _ _ (by simp only [rRank, rCfgCtl]; omega)

theorem ranksSet_byte (s : State) (src first n a : Nat) :
    (s.ranksSet src first n).byte a = if (a % 2 ^ 64 + 2 ^ 64 - s.winAt 0) % 2 ^ 64 < 65536 * 64 then 0 else s.byte a := by
  have hcopied := copyRanks_regsOnly n s src first
  have hwin : (s.copyRanks src first n).winAt 0 = s.winAt 0 := by
    rw [State.winAt, State.winAt, copyRanks_rd_ne n s src first fun k _ => by simp only [rFabWinBase, rRank]; omega]
  have hbyte := byte_zeroWindows (s.copyRanks src first n) a
  rw [hwin, byte_congr (congrArg State.mem hcopied :) a] at hbyte
  exact hbyte

theorem answered_rank {u : State} {m : Nat} (hm : m < 4) (k : Nat) : ((u.postStatus m stOk).settled).rd (rRank k) = u.rd (rRank k) := by
  rw [settled_rd _ _ (by simp only [rRank, rEvtStatus]; omega) (fun j _ => by simp only [rRank, rEvwCfg]; omega), State.postStatus,
    post_rd_ne _ _ _ _ _ (fun j _ => by simp only [rRank, rMbxRsp]; omega) (by simp only [rRank, rMbxState]; omega)
      (by simp only [rRank, rEvtStatus]; omega)]

/-- What a good SET_RANKS leaves. -/
theorem ranksSet_answers {s t : State} {m src first n : Nat} (hm : m < 4)
    (ht : t = ((s.ranksSet src first n).postStatus m stOk).settled) :
    t.mbxBusy m = false ∧ t.fld (rMbxRsp m 1) 8 8 = stOk
      ∧ (∀ k < n, t.rd (rRank (first + k)) = BitVec.ofNat 64 (s.readNat (src + 8 * k) 8))
      ∧ (∀ k < 65536, k < first ∨ first + n ≤ k → t.rd (rRank k) = s.rd (rRank k))
      ∧ (∀ a, t.byte a = if (a % 2 ^ 64 + 2 ^ 64 - s.winAt 0) % 2 ^ 64 < 65536 * 64 then 0 else s.byte a) ∧ t.queues = s.queues := by
  have hcopied := copyRanks_regsOnly n s src first
  subst ht
  refine ⟨?_, ?_, fun k hk => ?_, fun k _ hout => ?_, fun a => ?_, ?_⟩
  · rw [settled_mbxBusy _ hm]
    exact post_mbxBusy _ m stOk []
  · rw [settled_status _ hm]
    exact post_status _ m stOk [] (by decide)
  · rw [answered_rank hm, ranksSet_rd, copyRanks_rd n s src first hk]
  · rw [answered_rank hm, ranksSet_rd, copyRanks_rd_ne n s src first fun j hj => by simp only [rRank]; omega]
  · rw [byte_congr (settled_mem _), State.postStatus, byte_congr (post_mem _ m stOk []), ranksSet_byte]
  · rw [settled_queues, State.postStatus, post_queues]
    exact (congrArg State.queues hcopied :)

/-! ### REFORM_GROUP: what the ranks given up leave (R433) -/

/-- `t` is `s` but for the outbox and memory. -/
def State.Forgets (s t : State) : Prop := t = { s with outbox := t.outbox, mem := t.mem, badUnits := t.badUnits }

theorem State.Forgets.trans {s t u : State} (hst : s.Forgets t) (htu : t.Forgets u) : s.Forgets u :=
  Eq.trans htu (congrArg (fun x : State => { x with outbox := u.outbox, mem := u.mem, badUnits := u.badUnits }) hst)

theorem write_forgets (s : State) (a : Nat) (b : List Byte) : s.Forgets (s.write a b) := rfl

theorem withOutbox_forgets (s : State) (l : List OutChunk) : s.Forgets { s with outbox := l } := rfl

theorem dropTo_forgets (s : State) (rank : Nat) : s.Forgets (s.dropTo rank) := by
  unfold State.dropTo State.writeNat
  exact (withOutbox_forgets s _).trans (write_forgets _ _ _)

theorem zeroWindow_forgets (s : State) (rank : Nat) : s.Forgets (s.zeroWindow rank) := write_forgets s _ _

theorem State.Forgets.drains {s t : State} (h : s.Forgets t) : t.drains = s.drains := (congrArg State.drains h :)
theorem State.Forgets.restore {s t : State} (h : s.Forgets t) : t.restore = s.restore := (congrArg State.restore h :)
theorem State.Forgets.mbx {s t : State} (h : s.Forgets t) : t.mbx = s.mbx := (congrArg State.mbx h :)
theorem State.Forgets.job {s t : State} (h : s.Forgets t) : t.job = s.job := (congrArg State.job h :)
theorem State.Forgets.queues {s t : State} (h : s.Forgets t) : t.queues = s.queues := (congrArg State.queues h :)

theorem State.Forgets.winAt {s t : State} (h : s.Forgets t) (rank : Nat) : t.winAt rank = s.winAt rank :=
  winAt_congr (congrArg State.regs h :) rank

/-- One rank given up: nothing waits to be sent to it, and its window starts from zero. -/
def State.clearsRank (s : State) (rank : Nat) : State := (s.dropTo rank).zeroWindow rank

theorem clearsRank_forgets (s : State) (rank : Nat) : s.Forgets (s.clearsRank rank) :=
  (dropTo_forgets s rank).trans (zeroWindow_forgets _ rank)

theorem foldl_clearsRank_forgets (l : List Nat) (s : State) : s.Forgets (l.foldl State.clearsRank s) := by
  induction l generalizing s with
  | nil => rfl
  | cons x l ih =>
    rw [List.foldl_cons]
    exact (clearsRank_forgets s x).trans (ih _)

theorem clearsRank_window (s : State) (rank : Nat) {a : Nat} (h : ∃ k < 64, (s.winAt rank + k) % 2 ^ 64 = a % 2 ^ 64) :
    (s.clearsRank rank).byte a = 0 := by
  obtain ⟨k, hk, ha⟩ := h
  have hwin := (dropTo_forgets s rank).winAt rank
  have hzero := byte_write_in (s.dropTo rank) ((s.dropTo rank).winAt rank) k (List.replicate 64 0#8) (by simpa using hk) (by simp)
  rw [hwin] at hzero
  have hsame : (s.clearsRank rank).byte a = (s.clearsRank rank).byte (s.winAt rank + k) := by rw [State.byte, State.byte, ha]
  rw [hsame, State.clearsRank, State.zeroWindow, hwin, hzero]
  simp only [List.getD_eq_getElem?_getD, List.getElem?_replicate, hk, if_true, Option.getD_some]
  rfl

theorem clearsRank_outside (s : State) (rank : Nat) {a : Nat} (h : ∀ k < 64, (s.winAt rank + k) % 2 ^ 64 ≠ a % 2 ^ 64) :
    (s.clearsRank rank).byte a = s.byte a := by
  have hwin := (dropTo_forgets s rank).winAt rank
  rw [State.clearsRank, State.zeroWindow, hwin, byte_write_out _ _ _ _ fun k hk => h k (by simpa using hk)]
  refine byte_write_out _ _ _ _ fun k hk => ?_
  rw [length_toLE] at hk
  have := h (40 + k) (by omega)
  rwa [← Nat.add_assoc] at this

/-- A byte that is zero stays zero. -/
theorem clearsRank_keeps_zero (s : State) (rank : Nat) {a : Nat} (ha : s.byte a = 0) : (s.clearsRank rank).byte a = 0 := by
  by_cases h : ∃ k < 64, (s.winAt rank + k) % 2 ^ 64 = a % 2 ^ 64
  · exact clearsRank_window s rank h
  · simp only [not_exists, not_and] at h
    exact (clearsRank_outside s rank h).trans ha

theorem foldl_clearsRank_keeps_zero (l : List Nat) (s : State) {a : Nat} (ha : s.byte a = 0) :
    (l.foldl State.clearsRank s).byte a = 0 := by
  induction l generalizing s with
  | nil => exact ha
  | cons x l ih =>
    rw [List.foldl_cons]
    exact ih _ (clearsRank_keeps_zero s x ha)

/-- The windows of all ranks given up start from zero. -/
theorem foldl_clearsRank_window (l : List Nat) (s : State) {x : Nat} (hx : x ∈ l) {k : Nat} (hk : k < 64) :
    (l.foldl State.clearsRank s).byte (s.winAt x + k) = 0 := by
  induction l generalizing s with
  | nil => exact absurd hx List.not_mem_nil
  | cons y l ih =>
    rw [List.foldl_cons]
    rcases List.mem_cons.mp hx with rfl | hin
    · exact foldl_clearsRank_keeps_zero l _ (clearsRank_window s x ⟨k, hk, rfl⟩)
    · have h := ih (s.clearsRank y) hin
      rwa [(clearsRank_forgets s y).winAt x] at h

/-- Where nothing drains, a rank given up is only dropped. -/
theorem giveUpIn_eq {s : State} (hdrains : s.drains = []) (first last rank : Nat) : s.giveUpIn first last rank = s.dropTo rank := by
  have hnone : s.drains.map (Drain.giveUp first last rank) = s.drains := by rw [hdrains]; rfl
  rw [State.giveUpIn, hnone]

theorem foldl_giveUpIn_forgets (first last : Nat) (l : List Nat) (s : State) (hdrains : s.drains = []) :
    s.Forgets (l.foldl (fun s x => s.giveUpIn first last x) s) := by
  induction l generalizing s with
  | nil => rfl
  | cons x l ih =>
    have hdrop := dropTo_forgets s x
    rw [List.foldl_cons, giveUpIn_eq hdrains]
    exact hdrop.trans (ih _ (hdrop.drains.trans hdrains))

/-- The ranks that a re-form with nothing running gives up. -/
def State.givenUp (s : State) (first last : Nat) (table : List Byte) : List Nat :=
  (s.lostIn first last table ++ s.lostIn first last table).eraseDups

/-- A re-form that has begun: its pair waits, and its ranks are not awaited. -/
def State.reforms (s : State) (m first last : Nat) (table : List Byte) : State :=
  let u := (s.givenUp first last table).foldl (fun s x => s.giveUpIn first last x) (s.begin m 0 (s.givenUp first last table))
  { u with job := { u.job with reforms := (table, first, last) :: u.job.reforms } }

section

variable {s : State} {m : Nat}

theorem effReformGroup_eq (h : s.takes m 0x0015) (hopen : s.job.isOpen = true) {first last at_ : Nat} {table : List Byte}
    (hfirst : rqAt (s.request m) 0 2 = first) (hlast : rqAt (s.request m) 2 2 = last) (hat : rqAt (s.request m) 8 8 = at_)
    (htable : s.read at_ (16 + 8 * s.readNat at_ 2) = table) (hrange : first ≤ last) (hbound : last < 4096)
    (hzero : rqAt (s.request m) 4 4 = 0) (hcmds : s.cmds = []) (hdrains : s.drains = []) (hidle : ∀ q < 64, s.queueIdle q)
    (hgood : s.flagged at_ table.length = false) (htableGood : tableBad table = false) :
    effReformGroup m s = (s.reforms m first last table).settleDrains.settleWork := by
  rw [effReformGroup, takeCmd_of_takes h]
  simp only [hopen, hfirst, hlast, hat, htable, Bool.not_true, Bool.false_eq_true, if_false]
  rw [if_neg (by omega), reading_of_good hgood]
  simp only [htableGood, Bool.false_eq_true, if_false, stopAll_of_idle _ hcmds hdrains hidle, stopAll_short_of_idle _ hcmds]
  rfl

theorem effReformGroup_of_flagged (h : s.takes m 0x0015) (hopen : s.job.isOpen = true) {at_ : Nat} {table : List Byte}
    (hat : rqAt (s.request m) 8 8 = at_) (htable : s.read at_ (16 + 8 * s.readNat at_ 2) = table)
    (hrange : rqAt (s.request m) 0 2 ≤ rqAt (s.request m) 2 2) (hbound : rqAt (s.request m) 2 2 < 4096)
    (hzero : rqAt (s.request m) 4 4 = 0) (hbad : s.flagged at_ table.length = true) :
    effReformGroup m s = (s.raise causeMemory).postStatus m stData := by
  rw [effReformGroup, takeCmd_of_takes h]
  simp only [hopen, hat, htable, Bool.not_true, Bool.false_eq_true, if_false]
  rw [if_neg (by omega), reading_of_flagged hbad]

variable {first last : Nat} {table : List Byte}

/-- What a re-form that has begun keeps of the state. -/
theorem reforms_shape (hdrains : s.drains = []) : s.reforms m first last table = { s with
    outbox := (s.reforms m first last table).outbox, mem := (s.reforms m first last table).mem
    badUnits := (s.reforms m first last table).badUnits, mbx := (s.begin m 0 (s.givenUp first last table)).mbx
    job := { s.job with reforms := (table, first, last) :: s.job.reforms } } := by
  have h := foldl_giveUpIn_forgets first last (s.givenUp first last table) (s.begin m 0 (s.givenUp first last table)) hdrains
  unfold State.reforms
  generalize (s.givenUp first last table).foldl (fun s x => s.giveUpIn first last x) (s.begin m 0 (s.givenUp first last table)) = u at h ⊢
  unfold State.Forgets at h
  simp only
  rw [h]
  rfl

/-- The windows cleared of the ranks given up. -/
def State.reformed (s : State) (m first last : Nat) (table : List Byte) : State :=
  (s.givenUp first last table).foldl State.clearsRank (s.reforms m first last table)

theorem reforms_settles (hm : m < 4) (hop : rqOpcode (s.request m) = 0x0015) (hothers : ∀ k < 4, k ≠ m → s.begun k = false)
    (hcmds : s.cmds = []) (hdrains : s.drains = []) (hpends : s.pends = []) (hrestore : s.restore = none) :
    (s.reforms m first last table).settleDrains.settleWork
      = ((s.reformed m first last table).post m stOk (toLE 0 4)).settleQuiesce := by
  have hshape := reforms_shape (s := s) (m := m) (first := first) (last := last) (table := table) hdrains
  have hcmdsKept : (s.reforms m first last table).cmds = [] := (congrArg State.cmds hshape :).trans hcmds
  have hdrainsKept : (s.reforms m first last table).drains = [] := (congrArg State.drains hshape :).trans hdrains
  have hmbx : (s.reforms m first last table).mbx = (s.begin m 0 (s.givenUp first last table)).mbx := (congrArg State.mbx hshape :)
  have hbegun : ∀ k, (s.reforms m first last table).begun k = (s.begin m 0 (s.givenUp first last table)).begun k := fun k => by
    rw [State.begun, hmbx, State.begun]
  have hpairMbx : (s.reforms m first last table).mbx.getD m Mbx.reset
      = { request := s.request m, begun := true, wait := 0, ranks := s.givenUp first last table } := by
    rw [hmbx, mbx_begin s 0 _ hm]
  have hended : ∀ a b, (s.reforms m first last table).idsEnded a b = true := fun a b => by
    unfold State.idsEnded
    rw [hcmdsKept, hdrainsKept]
    rfl
  have hreform : (s.reforms m first last table).reformNow m = (s.reformed m first last table).post m stOk (toLE 0 4) := by
    unfold State.reformNow
    rw [hpairMbx]
    rfl
  have hpair : (s.reforms m first last table).settlePair m = (s.reformed m first last table).post m stOk (toLE 0 4) := by
    have hrequest : (s.reforms m first last table).request m = s.request m := by rw [State.request, hpairMbx]
    unfold State.settlePair
    rw [hbegun, begun_begin_self s m 0 _ hm, hrequest]
    simp only [hop, Bool.not_true, Bool.false_eq_true, if_false, hended, if_true]
    exact hreform
  have hforgets : (s.reforms m first last table).Forgets (s.reformed m first last table) := foldl_clearsRank_forgets _ _
  rw [settleDrains_of_none hdrainsKept]
  refine settleWork_answers hm (fun k hk hkm => ?_) ((congrArg State.pends hshape :).trans hpends) hpair (fun k => ?_)
    (hforgets.restore.trans ((congrArg State.restore hshape :).trans hrestore))
  · rw [hbegun, begun_begin_ne s m k 0 _ hkm, hothers k hk hkm]
  · rw [State.begun, hforgets.mbx, State.begun]

/-- What a re-form leaves. -/
theorem reformed_keeps (hdrains : s.drains = []) {t : State}
    (ht : t = { s.reformed m first last table with regs := t.regs, rep := t.rep, mbx := t.mbx, ctl := t.ctl }) :
    t.job = { s.job with reforms := (table, first, last) :: s.job.reforms } ∧ t.queues = s.queues
      ∧ ∀ x ∈ s.lostIn first last table, ∀ k < 64, t.byte (s.winAt x + k) = 0 := by
  have hshape := reforms_shape (s := s) (m := m) (first := first) (last := last) (table := table) hdrains
  have hforgets : (s.reforms m first last table).Forgets (s.reformed m first last table) := foldl_clearsRank_forgets _ _
  have hwin : ∀ x, (s.reforms m first last table).winAt x = s.winAt x := winAt_congr (congrArg State.regs hshape :)
  refine ⟨(congrArg State.job ht :).trans (hforgets.job.trans (congrArg State.job hshape :)),
    (congrArg State.queues ht :).trans (hforgets.queues.trans (congrArg State.queues hshape :)), fun x hx k hk => ?_⟩
  have hin : x ∈ s.givenUp first last table := by
    rw [State.givenUp, List.mem_eraseDups]
    exact List.mem_append_left _ hx
  rw [byte_congr (congrArg State.mem ht :), ← hwin x]
  exact foldl_clearsRank_window _ _ hin hk

end

/-- Settles O28: the rank table set, and the group re-formed with nothing to stop. -/
theorem groups : Obligations.Groups := by
  unfold Obligations.Groups
  refine ⟨fun m s h hcmds => ?_, fun m s h hothers hopen hcmds hdrains _ hpends hrestore hidle => ?_⟩
  · intro r hrange
    have hexec : exec (.setRanks m) s = .next ((effSetRanks m s).settled) := done_live (effSetRanks m) s h.resetOn
    rw [effSetRanks_eq h hcmds hrange] at hexec
    refine ⟨fun hbad => ?_, fun hgood => ?_⟩
    · rw [hexec, reading_of_flagged hbad]
    · rw [reading_of_good hgood] at hexec
      exact ⟨_, hexec, ranksSet_answers h.1 rfl⟩
  · intro r table hrange hbound hzero
    have hexec : exec (.reformGroup m) s = .next ((effReformGroup m s).settled) := done_live (effReformGroup m) s h.resetOn
    refine ⟨fun hbad => ?_, fun hgood htable => ?_⟩
    · rw [hexec, effReformGroup_of_flagged h hopen rfl rfl hrange hbound hzero hbad]
    · have hop : rqOpcode (s.request m) = 0x0015 := h.2.2.2.2.2.2.1
      rw [effReformGroup_eq h hopen rfl rfl rfl rfl hrange hbound hzero hcmds hdrains hidle hgood htable,
        reforms_settles h.1 hop hothers hcmds hdrains hpends hrestore] at hexec
      obtain ⟨hstatus, hshort, hbusy, hshape⟩ := ended_answers (v := s.reformed m (rqAt r 0 2) (rqAt r 2 2) table) (body := toLE 0 4) h.1 rfl
      obtain ⟨hjob, hqueues, hwindows⟩ := reformed_keeps hdrains hshape
      exact ⟨_, hexec, by rw [hjob], hwindows, by rw [hjob]; exact hopen, hstatus, hshort, hbusy, hqueues⟩

end Sys2Proof.Machine

/-! The loads of the mailbox (spec/13_control.md R376, R377, spec/07_espalier.md R195, spec/01_engine_and_step.md R39). -/

namespace Sys2Proof.Machine

/-! ### What an answer leaves of the state that it answers from -/

section

variable {u t : State} {m st : Nat} {body : List Byte}

theorem answered_shape (ht : t = (u.post m st body).settled) : t = { u with regs := t.regs, rep := t.rep, mbx := t.mbx, ctl := t.ctl } := by
  have hpost := post_eq u m st body
  subst ht
  generalize u.post m st body = p at hpost ⊢
  rw [hpost, settled_shape]

/-- The registers below the mailbox stay, but for the causes of events. -/
theorem answered_rd_low (ht : t = (u.post m st body).settled) {o : Nat} (ho : o < 0x010000) (hevt : o ≠ rEvtStatus) : t.rd o = u.rd o := by
  rw [ht, settled_rd _ _ hevt (fun k _ => by simp only [rEvwCfg]; omega),
    post_rd_ne _ _ _ _ _ (fun k _ => by simp only [rMbxRsp]; omega) (by simp only [rMbxState]; omega) hevt]

theorem answered_fld_low (ht : t = (u.post m st body).settled) {o : Nat} (ho : o < 0x010000) (hevt : o ≠ rEvtStatus) (lo w : Nat) :
    t.fld o lo w = u.fld o lo w := by rw [State.fld, answered_rd_low ht ho hevt, State.fld]

/-- A cause that is set stays set. -/
theorem answered_keeps_cause (ht : t = (u.post m st body).settled) {n : Nat} (h : (u.rd rEvtStatus).getLsbD n = true) :
    (t.rd rEvtStatus).getLsbD n = true := by
  rw [ht]
  refine settled_keeps_cause _ n ?_
  rw [post_eq_raise]
  refine raise_keeps_cause _ _ _ ?_
  rwa [endBusy_rd_ne _ _ _ (by simp only [rEvtStatus, rMbxState]; omega),
    putResponse_rd_ne _ _ _ _ (fun k _ => by simp only [rEvtStatus, rMbxRsp]; omega)]

end

/-- A number that fits in two bytes, read as the word that they begin. -/
theorem leAt_toLE_two {n : Nat} (hn : n < 65536) : leAt (toLE n 2) 0 4 = n := by
  have hlow : leAt (toLE n 2) 0 2 = n % 256 ^ 2 := leAt_toLE (x := []) (z := []) (List.append_nil _).symm 0 rfl
  have hhigh : leAt (toLE n 2) 2 2 = 0 := by
    rw [leAt, sliceB, List.drop_eq_nil_of_le (by rw [length_toLE])]
    rfl
  rw [leAt_add _ 0 2 2, hlow, hhigh]
  omega

/-! ### Reads that meet the uncorrectable-error flag (R39; DEDUCED, log 71, log 105) -/

section

variable {s : State} {m : Nat} {areas : List (Nat × Nat)}

theorem reading_of_anyFlagged (h : s.anyFlagged areas = true) (act : State → State) :
    s.reading m areas act = (s.raise causeMemory).postStatus m stData := by
  rw [State.reading, if_pos h]

theorem reading_of_noneFlagged (h : s.anyFlagged areas = false) (act : State → State) : s.reading m areas act = act s := by
  rw [State.reading, if_neg (by rw [h]; exact Bool.false_ne_true)]

/-- Nothing of what was read is used: the event is raised and the answer is DATA_ERROR. -/
theorem flagged_answers {t : State} (hm : m < 4) (ht : t = ((s.raise causeMemory).postStatus m stData).settled) :
    s.answers t m stData 0 ∧ (t.rd rEvtStatus).getLsbD 10 = true ∧ t.skein = s.skein ∧ t.progs = s.progs ∧ t.pends = s.pends
      ∧ t.mem = s.mem := by
  have hraise := raise_eq s causeMemory
  have hshape := answered_shape ht
  have hcause := answered_keeps_cause ht (raise_sets_cause s causeMemory (by decide))
  have hanswers := answers_post (s := s) (u := s.raise causeMemory) hm (by rw [hraise]; rfl) stData [] (by decide) (by decide)
    (by rw [hraise]) (by rw [hraise])
  rw [State.postStatus] at ht
  rw [← ht] at hanswers
  generalize s.raise causeMemory = u at hraise hshape
  exact ⟨hanswers, hcause, (congrArg State.skein hshape :).trans (congrArg State.skein hraise :),
    (congrArg State.progs hshape :).trans (congrArg State.progs hraise :),
    (congrArg State.pends hshape :).trans (congrArg State.pends hraise :),
    (congrArg State.mem hshape :).trans (congrArg State.mem hraise :)⟩

end

/-- A load refused keeps what is loaded and what pends. -/
theorem refused_answers {s t : State} {m st : Nat} (hm : m < 4) (hst : st < 256) (ht : t = (s.postStatus m st).settled) :
    s.answers t m st 0 ∧ t.skein = s.skein ∧ t.progs = s.progs ∧ t.pends = s.pends ∧ t.mem = s.mem := by
  have hshape := answered_shape (u := s) (body := []) ht
  exact ⟨(postStatus_answers hm hst ht).1, (congrArg State.skein hshape :), (congrArg State.progs hshape :),
    (congrArg State.pends hshape :), (congrArg State.mem hshape :)⟩

/-! ### A load that pends (R377) -/

/-- What pends after a load has been taken: the one that it replaces is gone. -/
def State.pendsWith (s : State) (p : PendLoad) : List PendLoad := s.pends.filter (fun x => x.slot != p.slot) ++ [p]

theorem pend_eq (s : State) (p : PendLoad) : s.pend p
    = { (if s.pends.any (fun x => x.slot == p.slot) then s.loseTarget else s) with pends := s.pendsWith p } := by
  unfold State.pend State.pendsWith
  simp only
  split
  · rw [show s.loseTarget.pends = s.pends from (congrArg State.pends (loseTarget_retargets s).frame :)]
  · rfl

theorem pend_shape (s : State) (p : PendLoad) :
    s.pend p = { s with regs := (s.pend p).regs, ctl := (s.pend p).ctl, pends := s.pendsWith p } := by
  have hlose := (loseTarget_retargets s).frame
  rw [pend_eq]
  split
  · generalize s.loseTarget = u at hlose ⊢
    rw [hlose]
  · rfl

/-- The load that it replaces counts as lost. -/
theorem pend_loses {s : State} {p : PendLoad} (h : s.pends.any (fun x => x.slot == p.slot) = true) :
    (s.pend p).fld rCtlInputs 8 8 = min 255 (s.fld rCtlInputs 8 8 + 1) ∧ ((s.pend p).rd rEvtStatus).getLsbD 29 = true := by
  have hrd : ∀ o, (s.pend p).rd o = s.loseTarget.rd o := fun o => by
    rw [pend_eq, if_pos h]
    rfl
  rw [fld_of_rd (hrd _), hrd, State.loseTarget, fld_of_rd (raise_rd_ne _ 29 rCtlInputs (by decide)), fld_sat_self _ _ _ _ _ (by decide)]
  exact ⟨rfl, raise_sets_cause _ 29 (by decide)⟩

theorem pend_rd_of_new {s : State} {p : PendLoad} (h : s.pends.any (fun x => x.slot == p.slot) = false) (o : Nat) :
    (s.pend p).rd o = s.rd o := by
  rw [pend_eq, if_neg (by rw [h]; exact Bool.false_ne_true)]
  rfl

/-- A load that pends is answered PENDING, and nothing is loaded. -/
theorem pended_answers {s t : State} {m : Nat} {p : PendLoad} {body : List Byte} (hm : m < 4) (hlen : body.length < 256)
    (ht : t = ((s.pend p).post m stPending body).settled) :
    s.answers t m stPending body.length ∧ t.skein = s.skein ∧ t.progs = s.progs ∧ t.mem = s.mem ∧ t.pends = s.pendsWith p := by
  have hpend := pend_shape s p
  have hshape := answered_shape ht
  have hanswers := answers_post (s := s) (u := s.pend p) hm (by rw [hpend]; rfl) stPending body (by decide) hlen
    (by rw [hpend]) (by rw [hpend])
  rw [← ht] at hanswers
  generalize s.pend p = u at hpend hshape
  exact ⟨hanswers, (congrArg State.skein hshape :).trans (congrArg State.skein hpend :),
    (congrArg State.progs hshape :).trans (congrArg State.progs hpend :),
    (congrArg State.mem hshape :).trans (congrArg State.mem hpend :),
    (congrArg State.pends hshape :).trans (congrArg State.pends hpend :)⟩

/-! ### LOAD_SKEIN (R251, R252) -/

/-- The skein's image follows the layout. -/
def State.skeinShape (s : State) (len : Nat) (img : List Byte) : Prop :=
  leAt img 0 2 = 1 ∧ skeinCount img ≠ 0 ∧ skeinCount img ≤ 4096 ∧ 64 + 256 * skeinCount img ≤ len ∧ skeinReservedOk img = true
    ∧ s.skeinTablesBad img = false

/-- Its check value is right, and every descriptor passes its checks. -/
def skeinWhole (img : List Byte) : Prop :=
  leAt img 4 4 = (crc32c (patchB img 4 (toLE 0 4))).toNat
    ∧ ∀ e < skeinCount img, descFault (sliceB (skeinEntry img e) 0 64) = none

theorem any_descFault (img : List Byte) :
    (List.range (skeinCount img)).any (fun e => (descFault (sliceB (skeinEntry img e) 0 64)).isSome) = true
      ↔ ¬ ∀ e < skeinCount img, descFault (sliceB (skeinEntry img e) 0 64) = none := by
  simp only [List.any_eq_true, List.mem_range, Option.isSome_iff_ne_none, not_forall, exists_prop]

/-- The memory that LOAD_SKEIN reads. -/
def State.skeinAreas (s : State) (addr len : Nat) : List (Nat × Nat) :=
  (addr, len) :: (if s.flagged addr len then [] else s.skeinTableAreas (s.read addr len))

section

variable {s : State} {m : Nat} {addr len : Nat} {img : List Byte} (h : s.takes m 0x0013) (haddr : rqAt (s.request m) 0 8 = addr)
  (hlen : rqAt (s.request m) 8 4 = len) (himg : s.read addr len = img)

include h haddr hlen

theorem loadSkein_of_flagged (hlost : s.anyFlagged (s.skeinAreas addr len) = true) :
    effLoadSkein m s = (s.raise causeMemory).postStatus m stData := by
  rw [effLoadSkein, takeCmd_of_takes h]
  subst haddr hlen
  exact reading_of_anyFlagged hlost _

variable (hread : s.anyFlagged (s.skeinAreas addr len) = false)

include himg hread

theorem effLoadSkein_eq : effLoadSkein m s =
    if leAt img 0 2 ≠ 1 ∨ skeinCount img = 0 ∨ 4096 < skeinCount img ∨ len < 64 + 256 * skeinCount img
        ∨ skeinReservedOk img = false ∨ s.skeinTablesBad img = true then s.postStatus m stInvalid
    else if leAt img 4 4 ≠ (crc32c (patchB img 4 (toLE 0 4))).toNat
        ∨ (List.range (skeinCount img)).any (fun e => (descFault (sliceB (skeinEntry img e) 0 64)).isSome) = true then
      s.postStatus m stData
    else if s.appending then
      (s.pend { slot := none, image := img, addr := addr, pair := m }).post m stPending (toLE (skeinCount img) 2)
    else (s.setSkein addr img).post m stOk (toLE (skeinCount img) 2) := by
  rw [effLoadSkein, takeCmd_of_takes h]
  subst haddr hlen himg
  exact reading_of_noneFlagged hread _

theorem loadSkein_of_bad (hshape : ¬ s.skeinShape len img) : effLoadSkein m s = s.postStatus m stInvalid := by
  rw [effLoadSkein_eq h haddr hlen himg hread, if_pos]
  unfold State.skeinShape at hshape
  by_contra hgood
  simp only [not_or, ne_eq, not_not, not_lt, Bool.not_eq_false, Bool.not_eq_true] at hgood
  exact hshape hgood

variable (hshape : s.skeinShape len img)

include hshape

theorem effLoadSkein_of_shape : effLoadSkein m s =
    if leAt img 4 4 ≠ (crc32c (patchB img 4 (toLE 0 4))).toNat
        ∨ (List.range (skeinCount img)).any (fun e => (descFault (sliceB (skeinEntry img e) 0 64)).isSome) = true then
      s.postStatus m stData
    else if s.appending then
      (s.pend { slot := none, image := img, addr := addr, pair := m }).post m stPending (toLE (skeinCount img) 2)
    else (s.setSkein addr img).post m stOk (toLE (skeinCount img) 2) := by
  obtain ⟨hversion, hsome, hmost, hfits, hreserved, htables⟩ := hshape
  rw [effLoadSkein_eq h haddr hlen himg hread, if_neg]
  simp only [not_or, ne_eq, not_not, not_lt, Bool.not_eq_false, Bool.not_eq_true]
  exact ⟨hversion, hsome, hmost, hfits, hreserved, htables⟩

theorem loadSkein_of_damaged (hwhole : ¬ skeinWhole img) : effLoadSkein m s = s.postStatus m stData := by
  rw [effLoadSkein_of_shape h haddr hlen himg hread hshape, if_pos]
  rw [any_descFault]
  exact not_and_or.mp hwhole

variable (hwhole : skeinWhole img)

include hwhole

theorem loadSkein_of_whole : effLoadSkein m s = if s.appending then
      (s.pend { slot := none, image := img, addr := addr, pair := m }).post m stPending (toLE (skeinCount img) 2)
    else (s.setSkein addr img).post m stOk (toLE (skeinCount img) 2) := by
  rw [effLoadSkein_of_shape h haddr hlen himg hread hshape, if_neg]
  rw [any_descFault]
  exact fun hbad => not_and_or.mpr hbad hwhole

end

/-- What a skein loaded at once leaves. -/
theorem setSkein_answers {s t : State} {m addr : Nat} {img : List Byte} (hm : m < 4) (hcount : skeinCount img ≤ 4096)
    (ht : t = ((s.setSkein addr img).post m stOk (toLE (skeinCount img) 2)).settled) :
    s.answers t m stOk 2 ∧ t.fld (rMbxRsp m 2) 0 32 = skeinCount img ∧ t.skein = some (addr, img) ∧ t.replayStale = true
      ∧ t.fld rCfgCtl 3 1 = 1 ∧ t.pends = s.pends ∧ t.mem = s.mem := by
  have hshape := answered_shape ht
  have hanswers := answers_post (s := s) (u := s.setSkein addr img) hm rfl stOk (toLE (skeinCount img) 2) (by decide)
    (by rw [length_toLE]; decide) (by simp only [State.setSkein, State.setFld_queues]) (by simp only [State.setSkein, State.setFld_cmds])
  rw [← ht, length_toLE] at hanswers
  have hcrc : (s.setSkein addr img).fld rCfgCtl 3 1 = 1 := fld_setFld_self _ _ _ _ _ (by decide)
  have hword := answered_body (u := s.setSkein addr img) hm stOk (toLE (skeinCount img) 2) (k := 2) (by decide) (by decide)
  rw [← ht] at hword
  refine ⟨hanswers, hword.trans (leAt_toLE_two (by omega)), (congrArg State.skein hshape :).trans ?_,
    (congrArg State.replayStale hshape :).trans ?_, (answered_fld_low ht (by decide) (by decide) _ _).trans hcrc,
    (congrArg State.pends hshape :).trans ?_, (congrArg State.mem hshape :).trans ?_⟩
  · simp only [State.setSkein, State.setFld_skein]
  · simp only [State.setSkein, State.setFld_replayStale]
  · simp only [State.setSkein, State.setFld_pends]
  · simp only [State.setSkein, State.setFld_mem]

/-- What a skein that pends leaves. -/
theorem pendSkein_answers {s t : State} {m addr : Nat} {img : List Byte} (hm : m < 4) (hcount : skeinCount img ≤ 4096)
    (ht : t = ((s.pend { slot := none, image := img, addr := addr, pair := m }).post m stPending (toLE (skeinCount img) 2)).settled) :
    s.answers t m stPending 2 ∧ t.fld (rMbxRsp m 2) 0 32 = skeinCount img ∧ t.skein = s.skein ∧ t.mem = s.mem
      ∧ t.pends = s.pends.filter (fun x => x.slot.isSome) ++ [{ slot := none, image := img, addr := addr, pair := m }]
      ∧ (s.pends.any (fun x => x.slot.isNone) = true →
          t.fld rCtlInputs 8 8 = min 255 (s.fld rCtlInputs 8 8 + 1) ∧ (t.rd rEvtStatus).getLsbD 29 = true)
      ∧ (s.pends.any (fun x => x.slot.isNone) = false → t.rd rCtlInputs = s.rd rCtlInputs) := by
  have hnone : ∀ x : PendLoad, (x.slot == none) = x.slot.isNone := fun x => by cases x.slot <;> rfl
  have hsome : ∀ x : PendLoad, (x.slot != none) = x.slot.isSome := fun x => by cases x.slot <;> rfl
  obtain ⟨hanswers, hskein, -, hmem, hpends⟩ := pended_answers hm (by rw [length_toLE]; decide) ht
  have hword := answered_body (u := s.pend { slot := none, image := img, addr := addr, pair := m }) hm stPending
    (toLE (skeinCount img) 2) (k := 2) (by decide) (by decide)
  rw [← ht] at hword
  rw [length_toLE] at hanswers
  refine ⟨hanswers, hword.trans (leAt_toLE_two (by omega)), hskein, hmem, ?_, fun hany => ?_, fun hany => ?_⟩
  · simpa only [State.pendsWith, hsome] using hpends
  · obtain ⟨hlost, hcause⟩ := pend_loses (s := s) (p := { slot := none, image := img, addr := addr, pair := m })
      (by simpa only [hnone] using hany)
    exact ⟨(answered_fld_low ht (by decide) (by decide) _ _).trans hlost, answered_keeps_cause ht hcause⟩
  · exact (answered_rd_low ht (by decide) (by decide)).trans (pend_rd_of_new (by simpa only [hnone] using hany) _)

/-! ### LOAD_PROGRAM (R195) -/

/-- The slot is one of the sixteen, the reserved bytes are 0, and the program follows the rules. -/
def programGood (r img : List Byte) : Prop := rqAt r 0 1 < 16 ∧ rqAt r 1 7 = 0 ∧ progOk img = true

section

variable {s : State} {m : Nat} (h : s.takes m 0x0014)

include h

theorem loadProgram_of_flagged (hlost : s.flagged (rqAt (s.request m) 8 8) 512 = true) :
    effLoadProgram m s = (s.raise causeMemory).postStatus m stData := by
  rw [effLoadProgram, takeCmd_of_takes h]
  exact reading_of_flagged hlost _

variable {slot : Nat} {img : List Byte} (hslot : rqAt (s.request m) 0 1 = slot)
  (hread : s.flagged (rqAt (s.request m) 8 8) 512 = false) (himg : s.read (rqAt (s.request m) 8 8) 512 = img)

include hslot hread himg

theorem effLoadProgram_eq : effLoadProgram m s =
    if 16 ≤ slot ∨ rqAt (s.request m) 1 7 ≠ 0 ∨ progOk img = false then s.postStatus m stInvalid
    else if s.slotNamed slot then
      (s.pend { slot := some slot, image := img, addr := rqAt (s.request m) 8 8, pair := m }).postStatus m stPending
    else (s.setProg slot img).postStatus m stOk := by
  rw [effLoadProgram, takeCmd_of_takes h]
  subst hslot himg
  exact reading_of_good hread _

theorem loadProgram_of_bad (hbad : ¬ programGood (s.request m) img) : effLoadProgram m s = s.postStatus m stInvalid := by
  rw [effLoadProgram_eq h hslot hread himg, if_pos]
  unfold programGood at hbad
  by_contra hgood
  simp only [not_or, ne_eq, not_not, not_le, Bool.not_eq_false] at hgood
  exact hbad (hslot ▸ hgood)

theorem loadProgram_of_good (hgood : programGood (s.request m) img) : effLoadProgram m s = if s.slotNamed slot then
      (s.pend { slot := some slot, image := img, addr := rqAt (s.request m) 8 8, pair := m }).postStatus m stPending
    else (s.setProg slot img).postStatus m stOk := by
  obtain ⟨hlt, hzero, hok⟩ := hgood
  rw [effLoadProgram_eq h hslot hread himg, if_neg]
  simp only [not_or, ne_eq, not_not, not_le, Bool.not_eq_false]
  exact ⟨hslot ▸ hlt, hzero, hok⟩

end

/-- What a program loaded at once leaves. -/
theorem setProg_answers {s t : State} {m slot : Nat} {img : List Byte} (hm : m < 4) (hslot : slot < 16)
    (ht : t = ((s.setProg slot img).postStatus m stOk).settled) :
    s.answers t m stOk 0 ∧ t.progs.getD slot none = some img ∧ (∀ k, k ≠ slot → t.progs.getD k none = s.progs.getD k none)
      ∧ t.replayStale = true ∧ t.fld rCfgCtl 3 1 = 1 ∧ t.pends = s.pends ∧ t.mem = s.mem := by
  have hshape := answered_shape (body := []) ht
  have hanswers := answers_post (s := s) (u := s.setProg slot img) hm rfl stOk [] (by decide) (by decide)
    (by simp only [State.setProg, State.setFld_queues]) (by simp only [State.setProg, State.setFld_cmds])
  rw [State.postStatus] at ht
  rw [← ht] at hanswers
  have hcrc : (s.setProg slot img).fld rCfgCtl 3 1 = 1 := fld_setFld_self _ _ _ _ _ (by decide)
  have hprogs : t.progs = s.progs.setIfInBounds slot (some img) := (congrArg State.progs hshape :).trans
    (by simp only [State.setProg, State.setFld_progs])
  refine ⟨hanswers, ?_, fun k hk => ?_, (congrArg State.replayStale hshape :).trans ?_,
    (answered_fld_low ht (by decide) (by decide) _ _).trans hcrc, (congrArg State.pends hshape :).trans ?_,
    (congrArg State.mem hshape :).trans ?_⟩
  · rw [hprogs]
    simp [Vector.getD, hslot]
  · rw [hprogs]
    simp [Vector.getD, Ne.symm hk]
  · simp only [State.setProg, State.setFld_replayStale]
  · simp only [State.setProg, State.setFld_pends]
  · simp only [State.setProg, State.setFld_mem]

/-- Settles O29: each load flagged, refused, taken at once and pending. -/
theorem loads : Obligations.Loads := by
  unfold Obligations.Loads
  refine fun m s => ⟨fun h => ?_, fun h => ?_⟩
  · intro addr len img n lost shape whole
    have hexec : exec (.loadSkein m) s = .next ((effLoadSkein m s).settled) := done_live (effLoadSkein m) s h.resetOn
    refine ⟨fun hlost => ?_, fun hread hbad => ?_, fun hread hshape hbad => ?_, fun hread hshape hwhole hidle => ?_,
      fun hread hshape hwhole hbusy => ?_⟩
    · obtain ⟨hanswers, hcause, hskein, -, hpends, hmem⟩ := flagged_answers (s := s) h.1 rfl
      exact ⟨_, hexec.trans (by rw [loadSkein_of_flagged h rfl rfl hlost]), hanswers, hcause, hskein, hpends, hmem⟩
    · obtain ⟨hanswers, hskein, -, hpends, hmem⟩ := refused_answers (s := s) (st := stInvalid) h.1 (by decide) rfl
      exact ⟨_, hexec.trans (by rw [loadSkein_of_bad h rfl rfl rfl hread hbad]), hanswers, hskein, hpends, hmem⟩
    · obtain ⟨hanswers, hskein, -, hpends, hmem⟩ := refused_answers (s := s) (st := stData) h.1 (by decide) rfl
      exact ⟨_, hexec.trans (by rw [loadSkein_of_damaged h rfl rfl rfl hread hshape hbad]), hanswers, hskein, hpends, hmem⟩
    · refine ⟨_, hexec.trans ?_, setSkein_answers h.1 hshape.2.2.1 rfl⟩
      rw [loadSkein_of_whole h rfl rfl rfl hread hshape hwhole, hidle, if_neg Bool.false_ne_true]
    · refine ⟨_, hexec.trans ?_, pendSkein_answers h.1 hshape.2.2.1 rfl⟩
      rw [loadSkein_of_whole h rfl rfl rfl hread hshape hwhole, hbusy, if_pos rfl]
  · intro slot src img good
    have hexec : exec (.loadProgram m) s = .next ((effLoadProgram m s).settled) := done_live (effLoadProgram m) s h.resetOn
    refine ⟨fun hlost => ?_, fun hread hbad => ?_, fun hread hgood hfree => ?_, fun hread hgood hnamed => ?_⟩
    · obtain ⟨hanswers, hcause, -, hprogs, hpends, hmem⟩ := flagged_answers (s := s) h.1 rfl
      exact ⟨_, hexec.trans (by rw [loadProgram_of_flagged h hlost]), hanswers, hcause, hprogs, hpends, hmem⟩
    · obtain ⟨hanswers, -, hprogs, hpends, hmem⟩ := refused_answers (s := s) (st := stInvalid) h.1 (by decide) rfl
      exact ⟨_, hexec.trans (by rw [loadProgram_of_bad h rfl hread rfl hbad]), hanswers, hprogs, hpends, hmem⟩
    · refine ⟨_, hexec.trans ?_, setProg_answers h.1 hgood.1 rfl⟩
      rw [loadProgram_of_good h rfl hread rfl hgood, hfree, if_neg Bool.false_ne_true]
    · obtain ⟨hanswers, -, hprogs, hmem, hpends⟩ := pended_answers (s := s) (body := [])
        (p := { slot := some slot, image := img, addr := src, pair := m }) h.1 (by decide) rfl
      refine ⟨_, hexec.trans ?_, hanswers, hprogs, hmem, hpends⟩
      rw [loadProgram_of_good h rfl hread rfl hgood, hnamed, if_pos rfl]
      rfl

end Sys2Proof.Machine

/-! Register writes that are another command (spec/13_control.md R372, R374, R380, R385, R390, spec/14_registers.md R408, R411,
R412, spec/09_fabric.md R256, R284). -/

namespace Sys2Proof.Machine

/-! ### The rows of a family of registers -/

/-- A family of registers: the first one's offset, their stride, count and width. -/
structure RegFamily where
  base : Nat
  stride : Nat
  count : Nat
  width : Nat

/-- The family of a row. -/
def RegRow.family (x : RegRow) : RegFamily := ⟨x.base, x.stride, x.count, x.width⟩

/-- The row is that of a family. -/
def RegRow.heads (x : RegRow) (f : RegFamily) : Bool :=
  decide (x.base = f.base ∧ x.stride = f.stride ∧ x.count = f.count ∧ x.width = f.width)

theorem family_of_heads {x : RegRow} {f : RegFamily} (h : x.heads f = true) : x.family = f := by
  obtain ⟨hbase, hstride, hcount, hwidth⟩ := of_decide_eq_true h
  rw [RegRow.family, hbase, hstride, hcount, hwidth]

/-- A row's registers lie before, behind or between those of a family. -/
def RegRow.clears (x : RegRow) (f : RegFamily) : Bool :=
  decide (f.base + f.stride * f.count ≤ x.base) || decide (0 < x.stride ∧ x.base + x.stride * x.count ≤ f.base)
    || decide (x.stride = 0 ∧ x.base + x.width / 8 ≤ f.base)
    || decide (x.stride = f.stride ∧ x.base ≤ f.base ∧ x.width / 8 ≤ (f.base - x.base) % f.stride
      ∧ (f.base - x.base) % f.stride + f.width / 8 ≤ f.stride)

/-- The family is that of a row, and the rows before it hold none of its registers. -/
def RegFamily.listed (f : RegFamily) : Bool :=
  (regRows.find? (fun x => !x.clears f)).any (fun x => x.heads f) && decide (0 < f.width / 8) && decide (f.width / 8 ≤ f.stride)

section

variable {f : RegFamily} {q d : Nat}

theorem RegFamily.below (hfit : f.width / 8 ≤ f.stride) (hq : q < f.count) (hd : d < f.width / 8) :
    f.stride * q + d < f.stride * f.count := by
  have : f.stride * q + f.stride ≤ f.stride * f.count := by rw [← Nat.mul_succ]; exact Nat.mul_le_mul_left _ hq
  omega

theorem indexOf_of_clears {x : RegRow} (h : x.clears f = true) (hfit : f.width / 8 ≤ f.stride) (hq : q < f.count)
    (hd : d < f.width / 8) : x.indexOf (f.base + f.stride * q + d) = none := by
  have hbelow := RegFamily.below hfit hq hd
  refine if_neg fun ⟨hbase, hmod, hdiv⟩ => ?_
  simp only [RegRow.clears, Bool.or_eq_true, decide_eq_true_eq] at h
  rcases h with ((h | ⟨hpos, hend⟩) | ⟨hzero, hend⟩) | ⟨hstride, hstart, hgap, hroom⟩
  · omega
  · have := (Nat.div_lt_iff_lt_mul hpos).mp hdiv
    rw [Nat.mul_comm x.count] at this
    omega
  · rw [hzero, Nat.mod_zero] at hmod
    omega
  · have hsplit : f.base + f.stride * q + d - x.base = f.base - x.base + d + f.stride * q := by omega
    have hrem : (f.base - x.base + d) % f.stride = (f.base - x.base) % f.stride + d := by
      rw [← Nat.mod_add_mod, Nat.mod_eq_of_lt (by omega)]
    rw [hstride, hsplit, Nat.add_mul_mod_self_left, hrem] at hmod
    omega

/-- A family's registers are in its row. -/
theorem RegFamily.rowAt (h : f.listed = true) (hq : q < f.count) (hd : d < f.width / 8) :
    ∃ r, rowAt (f.base + f.stride * q + d) = some r ∧ regBase (f.base + f.stride * q + d) = f.base + f.stride * q := by
  simp only [RegFamily.listed, Bool.and_eq_true, decide_eq_true_eq, Option.any_eq_true] at h
  obtain ⟨⟨⟨r, hfind, hheads⟩, hpos⟩, hfit⟩ := h
  have hfamily := family_of_heads hheads
  obtain ⟨-, front, back, hrows, hfront⟩ := List.find?_eq_some_iff_append.mp hfind
  have hdiv : (f.stride * q + d) / f.stride = q := by
    rw [Nat.mul_add_div (by omega), Nat.div_eq_of_lt (by omega), Nat.add_zero]
  have hoff : f.base + f.stride * q + d - f.base = f.stride * q + d := by omega
  subst hfamily
  have hindex : r.indexOf (r.family.base + r.family.stride * q + d) = some q := by
    simp only [RegRow.family] at hdiv hoff hfit hq hd ⊢
    rw [RegRow.indexOf, hoff, Nat.mul_add_mod, Nat.mod_eq_of_lt (by omega), hdiv, if_pos ⟨by omega, hd, hq⟩]
  have hrow : Machine.rowAt (r.family.base + r.family.stride * q + d) = some r := by
    rw [Machine.rowAt, List.find?_eq_some_iff_append]
    refine ⟨by rw [hindex]; rfl, front, back, hrows, fun x hx => ?_⟩
    rw [indexOf_of_clears (by simpa using hfront x hx) hfit hq hd]
    rfl
  refine ⟨r, hrow, ?_⟩
  rw [regBase, hrow]
  simp only [RegRow.family] at hdiv hoff ⊢
  rw [hoff, hdiv]

end

/-! ### What an access at a register's own offset reaches -/

/-- The part that an access of n bits at the register's own offset covers. -/
def Part.ofReg (o n : Nat) : Part := { key := o, lo := 0, n := n, pos := 0 }

section

variable {o : Nat} {r : RegRow} (hrow : rowAt o = some r) (hbase : regBase o = o)

include hrow hbase

theorem target_half (halign : o % 4 = 0) (ho : o < 0x120000) : target o false = .regs [Part.ofReg o 32] := by
  have hpart : halfPart o 0 = some (Part.ofReg o 32) := by
    rw [halfPart, hrow, hbase, Nat.sub_self]
    rfl
  unfold target
  simp only [hpart, Bool.false_eq_true, false_and, false_or, if_false]
  rw [if_neg (by omega), if_neg (by omega), if_neg (by omega), if_neg (by omega)]

theorem target_whole {r' : RegRow} (hhigh : rowAt (o + 4) = some r') (hhighBase : regBase (o + 4) = o) (halign : o % 8 = 0)
    (ho : o < 0x0A0000) : target o true = .regs [Part.ofReg o 64] := by
  have hpart : halfPart o 0 = some (Part.ofReg o 32) := by
    rw [halfPart, hrow, hbase, Nat.sub_self]
    rfl
  have hpart' : halfPart (o + 4) 32 = some { key := o, lo := 8 * (o + 4 - o), n := 32, pos := 32 } := by
    rw [halfPart, hhigh, hhighBase]
    rfl
  unfold target
  simp only [hpart, hpart', if_true]
  rw [if_neg (by omega), if_neg (by omega), if_neg (by omega), if_neg (by omega), if_neg (by omega)]
  exact if_pos rfl

end

/-! ### An access that covers one register -/

theorem bitsAt_zero_of_lt {v w : Nat} (h : v < 2 ^ w) : bitsAt v 0 w = v := by rw [bitsAt, pow_zero, Nat.div_one, Nat.mod_eq_of_lt h]

theorem place_half (o v : Nat) : (Part.ofReg o 32).place (v % 2 ^ 32) = BitVec.ofNat 64 (v % 2 ^ 32) := by
  rw [Part.place, Part.ofReg, bitsAt_zero_of_lt (Nat.mod_lt _ (by decide)), pow_zero, Nat.mul_one]

theorem place_whole (o : Nat) (v : Word) : (Part.ofReg o 64).place v.toNat = v := by
  rw [Part.place, Part.ofReg, bitsAt_zero_of_lt v.isLt, pow_zero, Nat.mul_one, BitVec.ofNat_toNat, BitVec.setWidth_eq]

theorem mask_half (o : Nat) : (Part.ofReg o 32).mask = (0xFFFFFFFF : Word) :=
  (by decide : BitVec.ofNat 64 ((2 ^ 32 - 1) * 2 ^ 0) = (0xFFFFFFFF : Word))

theorem mask_whole (o : Nat) : (Part.ofReg o 64).mask = BitVec.allOnes 64 :=
  (by decide : BitVec.ofNat 64 ((2 ^ 64 - 1) * 2 ^ 0) = BitVec.allOnes 64)

/-- The value of a 32-bit write. -/
def lowWord (v : Word) : Word := BitVec.ofNat 64 (v.toNat % 2 ^ 32)

theorem toNat_lowWord (v : Word) : (lowWord v).toNat = v.toNat % 2 ^ 32 := by
  rw [lowWord, BitVec.toNat_ofNat]
  omega

section

variable {o : Nat} {f : State → State} (v : Word) (s : State)

/-- A 32-bit write acts as its register's write does. -/
theorem exec_write_half (ht : target o false = .regs [Part.ofReg o 32]) (hpair : requestPair o = none)
    (hwrite : ∀ u : State, u.writeReg o (lowWord v) 0xFFFFFFFF = f u) :
    exec (.registerWrite o false v) s = done (s.live fun u => u.access o fun u => (f u).respond 0) := by
  have heff : effRegisterWrite o false v = fun u => u.access o fun u => (f u).respond 0 := by
    funext u
    unfold effRegisterWrite
    simp only [ht, State.writeAt, hpair, List.foldl_cons, List.foldl_nil, Bool.false_eq_true, if_false, place_half, mask_half]
    simp only [Part.ofReg, ← hwrite, lowWord]
  exact congrArg (fun g => done (s.live g)) heff

/-- So does a 64-bit write. -/
theorem exec_write_whole (ht : target o true = .regs [Part.ofReg o 64]) (hpair : requestPair o = none)
    (hwrite : ∀ u : State, u.writeReg o v (BitVec.allOnes 64) = f u) :
    exec (.registerWrite o true v) s = done (s.live fun u => u.access o fun u => (f u).respond 0) := by
  have heff : effRegisterWrite o true v = fun u => u.access o fun u => (f u).respond 0 := by
    funext u
    unfold effRegisterWrite
    simp only [ht, State.writeAt, hpair, List.foldl_cons, List.foldl_nil, if_true, place_whole, mask_whole]
    simp only [Part.ofReg, ← hwrite]
  exact congrArg (fun g => done (s.live g)) heff

end

theorem requestPair_of_out {o : Nat} (h : o < 0x010000 ∨ 0x011000 ≤ o) : requestPair o = none := if_neg (by omega)

/-! ### Queues (R380, R385) -/

/-- TAIL and CTL of the queues. -/
def tailFamily : RegFamily := ⟨0x02000C, 0x40, 64, 32⟩
def ctlFamily : RegFamily := ⟨0x020018, 0x40, 64, 32⟩

theorem queueFamilies_listed : tailFamily.listed = true ∧ ctlFamily.listed = true := by decide +kernel

theorem rowAt_tail {q : Nat} (hq : q < 64) : ∃ r, rowAt (rQTail q) = some r ∧ regBase (rQTail q) = rQTail q :=
  RegFamily.rowAt queueFamilies_listed.1 (q := q) (d := 0) hq (by decide)

theorem rowAt_ctl {q : Nat} (hq : q < 64) : ∃ r, rowAt (rQCtl q) = some r ∧ regBase (rQCtl q) = rQCtl q :=
  RegFamily.rowAt queueFamilies_listed.2 (q := q) (d := 0) hq (by decide)

theorem target_tail {q : Nat} (hq : q < 64) : target (rQTail q) false = .regs [Part.ofReg (rQTail q) 32] := by
  obtain ⟨r, hrow, hbase⟩ := rowAt_tail hq
  exact target_half hrow hbase (by simp only [rQTail]; omega) (by simp only [rQTail]; omega)

theorem target_ctl {q : Nat} (hq : q < 64) : target (rQCtl q) false = .regs [Part.ofReg (rQCtl q) 32] := by
  obtain ⟨r, hrow, hbase⟩ := rowAt_ctl hq
  exact target_half hrow hbase (by simp only [rQCtl]; omega) (by simp only [rQCtl]; omega)

section

variable {q : Nat} (hq : q < 64) (u : State) (v mask : Word)

include hq

theorem isQueueReg_of_queue {k : Nat} (hk : k < 0x40) : isQueueReg (0x020000 + k + 0x40 * q) = true := by
  simp only [isQueueReg, Bool.and_eq_true, decide_eq_true_eq]
  omega

theorem writeReg_tail : u.writeReg (rQTail q) v mask = u.ringTail q (v.toNat % 2 ^ 32) := by
  obtain ⟨r, hr, -⟩ := rowAt_tail hq
  have hqueue : isQueueReg (rQTail q) = true := isQueueReg_of_queue hq (k := 0x0C) (by decide)
  have hindex : queueOf (rQTail q) = q := by simp only [queueOf, rQTail]; omega
  have hoff : (rQTail q % 0x40 == 0x0C) = true := by simp only [rQTail, beq_iff_eq]; omega
  unfold State.writeReg
  rw [if_neg (by simp only [rQTail]; omega), hr]
  simp only [hqueue, hoff, hindex, Bool.and_self, if_true]
  rw [if_neg (by simp only [rQTail]; omega)]

theorem writeReg_ctl : u.writeReg (rQCtl q) v mask =
    if mask.getLsbD 1 && v.getLsbD 1 then (if mask.getLsbD 0 && v.getLsbD 0 then u.resumeQueue q else u).abortQueue q
    else if mask.getLsbD 0 && v.getLsbD 0 then u.resumeQueue q else u := by
  obtain ⟨r, hr, -⟩ := rowAt_ctl hq
  have hqueue : isQueueReg (rQCtl q) = true := isQueueReg_of_queue hq (k := 0x18) (by decide)
  have hindex : queueOf (rQCtl q) = q := by simp only [queueOf, rQCtl]; omega
  have hoff : (rQCtl q % 0x40 == 0x18) = true ∧ (rQCtl q % 0x40 == 0x0C) = false ∧ (rQCtl q % 0x40 == 0x08) = false := by
    simp only [rQCtl, beq_iff_eq, beq_eq_false_iff_ne]
    omega
  unfold State.writeReg
  rw [if_neg (by simp only [rQCtl]; omega), hr]
  simp only [hqueue, hoff, hindex, Bool.and_self, Bool.and_false, Bool.false_eq_true, if_true, if_false]
  rw [if_neg (by simp only [rQCtl]; omega)]

end

/-- The bits of the values 1, 2 and 16 in a 32-bit write. -/
theorem writes_bit : ((0xFFFFFFFF : Word).getLsbD 0 && (lowWord 1).getLsbD 0) = true
    ∧ ((0xFFFFFFFF : Word).getLsbD 1 && (lowWord 1).getLsbD 1) = false
    ∧ ((0xFFFFFFFF : Word).getLsbD 0 && (lowWord 2).getLsbD 0) = false
    ∧ ((0xFFFFFFFF : Word).getLsbD 1 && (lowWord 2).getLsbD 1) = true
    ∧ ((0xFFFFFFFF : Word).getLsbD 4 && (lowWord 16).getLsbD 4) = true := by decide

theorem write_tail {q : Nat} (hq : q < 64) (v : Word) (s : State) :
    exec (.registerWrite (rQTail q) false v) s = exec (.queueDoorbell q (v.setWidth 32)) s := by
  have hcommand : effQueueDoorbell q (v.setWidth 32) = fun u => u.access (rQTail q) fun u =>
      (u.ringTail q (v.setWidth 32).toNat).respond 0 := funext fun u => if_neg (by omega)
  rw [exec_write_half v s (target_tail hq) (requestPair_of_out (.inr (by simp only [rQTail]; omega)))
    (f := fun u => u.ringTail q (v.setWidth 32).toNat) fun u => by
      rw [writeReg_tail hq, toNat_lowWord, BitVec.toNat_setWidth, Nat.mod_mod]]
  exact (congrArg (fun g => done (s.live g)) hcommand).symm

theorem write_resume {q : Nat} (hq : q < 64) (s : State) : exec (.registerWrite (rQCtl q) false 1) s = exec (.queueResume q) s := by
  have hcommand : effQueueResume q = fun u => u.access (rQCtl q) fun u => (u.resumeQueue q).respond 0 :=
    funext fun u => if_neg (by omega)
  rw [exec_write_half 1 s (target_ctl hq) (requestPair_of_out (.inr (by simp only [rQCtl]; omega)))
    (f := fun u => u.resumeQueue q) fun u => by
      obtain ⟨h0, h1, -⟩ := writes_bit
      rw [writeReg_ctl hq, h0, h1, if_neg Bool.false_ne_true, if_pos rfl]]
  exact (congrArg (fun g => done (s.live g)) hcommand).symm

theorem write_abort {q : Nat} (hq : q < 64) (s : State) : exec (.registerWrite (rQCtl q) false 2) s = exec (.queueAbort q) s := by
  have hcommand : effQueueAbort q = fun u => u.access (rQCtl q) fun u => (u.abortQueue q).respond 0 :=
    funext fun u => if_neg (by omega)
  rw [exec_write_half 2 s (target_ctl hq) (requestPair_of_out (.inr (by simp only [rQCtl]; omega)))
    (f := fun u => u.abortQueue q) fun u => by
      obtain ⟨-, -, h0, h1, -⟩ := writes_bit
      rw [writeReg_ctl hq, h0, h1, if_neg Bool.false_ne_true, if_pos rfl]]
  exact (congrArg (fun g => done (s.live g)) hcommand).symm

/-! ### Event counters (R390) -/

/-- The event counters, and the registers that add to them. -/
def evcFamily : RegFamily := ⟨0x030000, 0x8, 256, 64⟩
def evcAddFamily : RegFamily := ⟨0x030800, 0x8, 256, 64⟩

theorem counterFamilies_listed : evcFamily.listed = true ∧ evcAddFamily.listed = true := by decide +kernel

theorem rowAt_evc {c d : Nat} (hc : c < 256) (hd : d < 8) : ∃ r, rowAt (rEvc c + d) = some r ∧ regBase (rEvc c + d) = rEvc c :=
  RegFamily.rowAt counterFamilies_listed.1 hc hd

theorem rowAt_evcAdd {c d : Nat} (hc : c < 256) (hd : d < 8) :
    ∃ r, rowAt (rEvcAdd c + d) = some r ∧ regBase (rEvcAdd c + d) = rEvcAdd c :=
  RegFamily.rowAt counterFamilies_listed.2 hc hd

theorem target_evc {c : Nat} (hc : c < 256) : target (rEvc c) true = .regs [Part.ofReg (rEvc c) 64] := by
  obtain ⟨r, hrow, hbase⟩ := rowAt_evc hc (d := 0) (by decide)
  obtain ⟨r', hhigh, hhighBase⟩ := rowAt_evc hc (d := 4) (by decide)
  exact target_whole hrow hbase hhigh hhighBase (by simp only [rEvc]; omega) (by simp only [rEvc]; omega)

theorem target_evcAdd {c : Nat} (hc : c < 256) : target (rEvcAdd c) true = .regs [Part.ofReg (rEvcAdd c) 64] := by
  obtain ⟨r, hrow, hbase⟩ := rowAt_evcAdd hc (d := 0) (by decide)
  obtain ⟨r', hhigh, hhighBase⟩ := rowAt_evcAdd hc (d := 4) (by decide)
  exact target_whole hrow hbase hhigh hhighBase (by simp only [rEvcAdd]; omega) (by simp only [rEvcAdd]; omega)

section

variable {c : Nat} (hc : c < 256) (u : State) (v : Word)

include hc

theorem writeReg_evc : u.writeReg (rEvc c) v (BitVec.allOnes 64) = u.setEvc c v := by
  obtain ⟨r, hr, -⟩ := rowAt_evc hc (d := 0) (by decide)
  rw [Nat.add_zero] at hr
  have hqueue : isQueueReg (rEvc c) = false := by
    have : ¬ rEvc c < 0x021000 := by simp only [rEvc]; omega
    simp [isQueueReg, this]
  have hindex : (rEvc c - 0x030000) / 8 = c := by simp only [rEvc]; omega
  unfold State.writeReg
  rw [if_neg (by simp only [rEvc]; omega), hr]
  simp only [hqueue, Bool.false_and, Bool.false_eq_true, if_false]
  rw [if_neg (by simp only [rEvc]; omega), if_pos (by simp only [rEvc]; omega), hindex, BitVec.not_allOnes, BitVec.and_zero,
    BitVec.zero_or, BitVec.and_allOnes]

theorem writeReg_evcAdd : u.writeReg (rEvcAdd c) v (BitVec.allOnes 64) = u.addEvc c v := by
  obtain ⟨r, hr, -⟩ := rowAt_evcAdd hc (d := 0) (by decide)
  rw [Nat.add_zero] at hr
  have hqueue : isQueueReg (rEvcAdd c) = false := by
    have : ¬ rEvcAdd c < 0x021000 := by simp only [rEvcAdd]; omega
    simp [isQueueReg, this]
  have hindex : (rEvcAdd c - 0x030800) / 8 = c := by simp only [rEvcAdd]; omega
  unfold State.writeReg
  rw [if_neg (by simp only [rEvcAdd]; omega), hr]
  simp only [hqueue, Bool.false_and, Bool.false_eq_true, if_false]
  rw [if_neg (by simp only [rEvcAdd]; omega), if_neg (by simp only [rEvcAdd]; omega), if_pos (by simp only [rEvcAdd]; omega), hindex,
    BitVec.and_allOnes]

end

theorem write_evc {c : Nat} (hc : c < 256) (v : Word) (s : State) :
    exec (.registerWrite (rEvc c) true v) s = exec (.eventCounterWrite c v) s := by
  have hcommand : effEventCounterWrite c v = fun u => u.access (rEvc c) fun u => (u.setEvc c v).respond 0 :=
    funext fun u => if_neg (by omega)
  rw [exec_write_whole v s (target_evc hc) (requestPair_of_out (.inr (by simp only [rEvc]; omega)))
    (f := fun u => u.setEvc c v) fun u => writeReg_evc hc u v]
  exact (congrArg (fun g => done (s.live g)) hcommand).symm

theorem write_evcAdd {c : Nat} (hc : c < 256) (v : Word) (s : State) :
    exec (.registerWrite (rEvcAdd c) true v) s = exec (.eventCounterAdd c v) s := by
  have hcommand : effEventCounterAdd c v = fun u => u.access (rEvcAdd c) fun u => (u.addEvc c v).respond 0 :=
    funext fun u => if_neg (by omega)
  rw [exec_write_whole v s (target_evcAdd hc) (requestPair_of_out (.inr (by simp only [rEvcAdd]; omega)))
    (f := fun u => u.addEvc c v) fun u => writeReg_evcAdd hc u v]
  exact (congrArg (fun g => done (s.live g)) hcommand).symm

/-! ### The control registers of the engine and of the fabric (R256, R284, R408, R411, R412) -/

theorem target_control : ∀ o ∈ [rLock, rCfgRef, rStagedCtl, rFabEpoch, rFabSelf], target o false = .regs [Part.ofReg o 32]
    ∧ (rowAt o).isSome := by decide +kernel

theorem lowWord_bit (b : Bool) : lowWord (if b then 1 else 0) = BitVec.ofNat 64 (b2n b) := by cases b <;> decide

theorem write_lock (b : Bool) (s : State) : exec (.registerWrite rLock false (if b then 1 else 0)) s = exec (.lockWrite b) s := by
  rw [exec_write_half _ s (target_control rLock (by simp)).1 (requestPair_of_out (.inl (by decide)))
    (f := fun u => u.writeReg rLock (BitVec.ofNat 64 (b2n b)) 0xFFFFFFFF) fun u => by rw [lowWord_bit]]
  rfl

theorem write_cfgRef (v : Word) (s : State) : exec (.registerWrite rCfgRef false v) s = exec (.cfgRefWrite (v.setWidth 32)) s := by
  have hvalue : lowWord v = BitVec.setWidth 64 (v.setWidth 32) := by
    refine BitVec.eq_of_toNat_eq ?_
    rw [toNat_lowWord, BitVec.toNat_setWidth, BitVec.toNat_setWidth]
    omega
  rw [exec_write_half v s (target_control rCfgRef (by simp)).1 (requestPair_of_out (.inl (by decide)))
    (f := fun u => u.writeReg rCfgRef (BitVec.setWidth 64 (v.setWidth 32)) 0xFFFFFFFF) fun u => by rw [hvalue]]
  rfl

theorem writeReg_stagedCtl (u : State) (v mask : Word) :
    u.writeReg rStagedCtl v mask = if mask.getLsbD 0 && v.getLsbD 0 then u.cancelStaged else u := by
  obtain ⟨r, hr⟩ := Option.isSome_iff_exists.mp (target_control rStagedCtl (by simp)).2
  have hqueue : isQueueReg rStagedCtl = false := by decide
  unfold State.writeReg
  rw [if_neg (by decide), hr]
  simp only [hqueue, Bool.false_and, Bool.false_eq_true, if_false]
  rw [if_neg (by decide), if_neg (by decide), if_neg (by decide), if_neg (by decide), if_pos trivial]

theorem write_stagedCtl (s : State) : exec (.registerWrite rStagedCtl false 1) s = exec .stagedCancel s := by
  have hcommand : effStagedCancel = fun u => u.access rStagedCtl fun u => u.cancelStaged.respond 0 := funext fun u => by
    have hbit : ((1 : Word).getLsbD 0 && (1 : Word).getLsbD 0) = true := by decide
    rw [effStagedCancel]
    simp only [writeReg_stagedCtl, hbit, if_true]
  rw [exec_write_half 1 s (target_control rStagedCtl (by simp)).1 (requestPair_of_out (.inl (by decide)))
    (f := State.cancelStaged) fun u => by rw [writeReg_stagedCtl, writes_bit.1, if_pos rfl]]
  exact (congrArg (fun g => done (s.live g)) hcommand).symm

theorem writeReg_fabEpoch (u : State) (v mask : Word) :
    u.writeReg rFabEpoch v mask = if mask.getLsbD 4 && v.getLsbD 4 then effEpochAdvance u else u := by
  obtain ⟨r, hr⟩ := Option.isSome_iff_exists.mp (target_control rFabEpoch (by simp)).2
  have hqueue : isQueueReg rFabEpoch = false := by decide
  unfold State.writeReg
  rw [if_neg (by decide), hr]
  simp only [hqueue, Bool.false_and, Bool.false_eq_true, if_false]
  rw [if_neg (by decide), if_neg (by decide), if_neg (by decide), if_neg (by decide), if_neg (by decide), if_neg (by decide),
    if_neg (by decide), if_neg (by decide), if_pos trivial]

theorem write_fabEpoch (s : State) : exec (.registerWrite rFabEpoch false 16) s = exec .epochAdvance s := by
  rw [exec_write_half 16 s (target_control rFabEpoch (by simp)).1 (requestPair_of_out (.inr (by decide)))
    (f := effEpochAdvance) fun u => by rw [writeReg_fabEpoch, writes_bit.2.2.2.2, if_pos rfl]]
  rfl

theorem writeReg_fabSelf (u : State) (v mask : Word) : u.writeReg rFabSelf v mask = effFabSelfWrite (BitVec.ofNat 20 v.toNat) u := by
  obtain ⟨r, hr⟩ := Option.isSome_iff_exists.mp (target_control rFabSelf (by simp)).2
  have hqueue : isQueueReg rFabSelf = false := by decide
  unfold State.writeReg
  rw [if_neg (by decide), hr]
  simp only [hqueue, Bool.false_and, Bool.false_eq_true, if_false]
  rw [if_neg (by decide), if_neg (by decide), if_neg (by decide), if_neg (by decide), if_neg (by decide), if_neg (by decide),
    if_neg (by decide), if_pos trivial]

theorem write_fabSelf (v : Word) (s : State) : exec (.registerWrite rFabSelf false v) s = exec (.fabSelfWrite (v.setWidth 20)) s := by
  have hvalue : BitVec.ofNat 20 (lowWord v).toNat = v.setWidth 20 := by
    refine BitVec.eq_of_toNat_eq ?_
    rw [toNat_lowWord, BitVec.toNat_ofNat, BitVec.toNat_setWidth]
    omega
  rw [exec_write_half v s (target_control rFabSelf (by simp)).1 (requestPair_of_out (.inr (by decide)))
    (f := effFabSelfWrite (v.setWidth 20)) fun u => by rw [writeReg_fabSelf, hvalue]]
  rfl

/-! ### The doorbell of a mailbox pair (R372, R374; DEDUCED, log 82, log 91) -/

theorem target_doorbell : ∀ m < 4, target (rMbxDoorbell m) false = .regs [Part.ofReg (rMbxDoorbell m) 32]
    ∧ (rowAt (rMbxDoorbell m)).isSome ∧ wakeOf (rMbxDoorbell m) = 2 := by decide +kernel

theorem writeReg_doorbell {m : Nat} (hm : m < 4) (u : State) (v mask : Word) :
    u.writeReg (rMbxDoorbell m) v mask = u.doorbell m (v.toNat % 65536) := by
  obtain ⟨r, hr⟩ := Option.isSome_iff_exists.mp (target_doorbell m hm).2.1
  have hindex : (rMbxDoorbell m - 0x010000) / 0x400 = m := by simp only [rMbxDoorbell]; omega
  unfold State.writeReg
  rw [if_neg (by simp only [rMbxDoorbell]; omega), hr]
  simp only [hindex]
  rw [if_pos (by simp only [rMbxDoorbell]; omega)]

/-- A pair whose doorbell has rung: the request is copied, and the pair is BUSY with its sequence number. -/
def State.rung (s : State) (m : Nat) : State :=
  let r := s.requestArea m
  (({ s with mbx := s.mbx.setIfInBounds m { Mbx.reset with request := r } }.setFld (rMbxState m) 0 1 1).setFld (rMbxState m) 16 16
    (rqSeq r))

/-- A serial command is turned away while another pair is BUSY with one (R374; DEDUCED, log 91). -/
def State.turnsAway (s : State) (m : Nat) : Prop :=
  (s.spindle.loaded = true ∨ rqOpcode (s.requestArea m) = 0x0040) ∧ s.spindle.halted = false
    ∧ opcodeSerial (rqOpcode (s.requestArea m)) = some true ∧ s.serialBusy m = true

section

variable (s : State) {m : Nat}

theorem rung_rd_ne {o : Nat} (ho : o ≠ rMbxState m) : (s.rung m).rd o = s.rd o :=
  (rd_setFld_ne _ _ _ _ _ _ ho).trans (rd_setFld_ne _ _ _ _ _ _ ho)

theorem rung_frame : (s.rung m).mem = s.mem ∧ (s.rung m).cmds = s.cmds ∧ (s.rung m).spindle = s.spindle
    ∧ (s.rung m).mbx = s.mbx.setIfInBounds m { Mbx.reset with request := s.requestArea m } := by
  simp only [State.rung, State.setFld_mem, State.setFld_cmds, State.setFld_spindle, State.setFld_mbx, and_self]

theorem rung_seq : (s.rung m).fld (rMbxState m) 16 16 = rqSeq (s.requestArea m) :=
  (fld_setFld_self _ _ _ _ _ (by decide)).trans (Nat.mod_eq_of_lt (leAt_lt _ 2 2))

theorem rung_busy : (s.rung m).mbxBusy m = true := by
  have hbusy : (s.rung m).fld (rMbxState m) 0 1 = 1 :=
    (fld_setFld_ne _ _ _ _ _ _ _ (.inl (by decide)) (by decide)).trans (fld_setFld_self _ _ _ _ _ (by decide))
  rw [State.mbxBusy, hbusy]
  rfl

theorem rung_request (hm : m < 4) : (s.rung m).request m = s.requestArea m := by
  rw [State.request, (rung_frame s).2.2.2]
  simp [Vector.getD, hm]

theorem rung_request_ne {k : Nat} (hk : k ≠ m) : (s.rung m).request k = s.request k := by
  rw [State.request, (rung_frame s).2.2.2, State.request]
  simp [Vector.getD, Ne.symm hk]

theorem rung_begun (hm : m < 4) : (s.rung m).begun m = false := by
  rw [State.begun, (rung_frame s).2.2.2]
  simp [Vector.getD, hm, Mbx.reset]

/-- The other pairs are what they were. -/
theorem rung_serialBusy : (s.rung m).serialBusy m = s.serialBusy m := by
  have hpair : ∀ k, (k != m && (s.rung m).mbxBusy k && opcodeSerial (rqOpcode ((s.rung m).request k)) == some true)
      = (k != m && s.mbxBusy k && opcodeSerial (rqOpcode (s.request k)) == some true) := by
    intro k
    by_cases hk : k = m
    · rw [hk, bne_self_eq_false, Bool.false_and, Bool.false_and, Bool.false_and, Bool.false_and]
    · rw [rung_request_ne s hk, mbxBusy_of_rd (rung_rd_ne s (by simp only [rMbxState]; omega))]
  simp only [State.serialBusy, hpair]

/-- A doorbell with a good header. -/
theorem doorbell_eq {seq : Nat} (hbusy : s.mbxBusy m = false) (hopen : s.spindle.closed = false)
    (hseq : seq = rqSeq (s.requestArea m)) (hcheck : leAt (s.requestArea m) 6 2 = complB 2 (rqOpcode (s.requestArea m)))
    (hlen : rqLen (s.requestArea m) ≤ 248) : (s.turnsAway m → s.doorbell m seq = (s.rung m).post m stBusy [])
      ∧ (¬ s.turnsAway m → s.doorbell m seq = s.rung m) := by
  have hgood : ¬ (seq ≠ rqSeq (s.requestArea m) ∨ leAt (s.requestArea m) 6 2 ≠ complB 2 (rqOpcode (s.requestArea m))
      ∨ 248 < rqLen (s.requestArea m)) := by
    simp only [hseq, hcheck, ne_eq, not_true_eq_false, false_or]
    omega
  have hspindle := (rung_frame s (m := m)).2.2.1
  have hturned : ((((s.rung m).spindle.loaded = true ∨ rqOpcode (s.requestArea m) = 0x0040) ∧ (s.rung m).spindle.halted = false
      ∧ opcodeSerial (rqOpcode (s.requestArea m)) = some true ∧ (s.rung m).serialBusy m = true)) ↔ s.turnsAway m := by
    rw [hspindle, rung_serialBusy, State.turnsAway]
  have hdoorbell : s.doorbell m seq = if ((s.rung m).spindle.loaded = true ∨ rqOpcode (s.requestArea m) = 0x0040)
      ∧ (s.rung m).spindle.halted = false ∧ opcodeSerial (rqOpcode (s.requestArea m)) = some true
      ∧ (s.rung m).serialBusy m = true then (s.rung m).post m stBusy [] else s.rung m := by
    rw [State.doorbell, hbusy, hopen, if_neg Bool.false_ne_true, if_neg Bool.false_ne_true]
    simp only
    rw [if_neg hgood]
    rfl
  exact ⟨fun h => by rw [hdoorbell, if_pos (hturned.mpr h)], fun h => by rw [hdoorbell, if_neg fun h' => h (hturned.mp h')]⟩

theorem endBusy_request (k : Nat) : (s.endBusy m).request k = s.request k := by
  by_cases hk : k = m
  · subst hk
    by_cases hlt : k < 4 <;> simp [State.endBusy, State.request, State.setBegun, State.setFld, State.wr, Vector.getD, hlt]
  · simp [State.endBusy, State.request, State.setBegun, State.setFld, State.wr, Vector.getD, Ne.symm hk]

theorem post_request (st : Nat) (body : List Byte) (k : Nat) : (s.post m st body).request k = s.request k := by
  have hraise : ∀ u : State, (u.raise causeMbxDone).request k = u.request k := fun u => by rw [raise_eq]; rfl
  have hput : ∀ b, (s.putResponse m b).request k = s.request k := fun b => by rw [putResponse_eq]; rfl
  rw [post_eq_raise, hraise, endBusy_request, hput]

theorem setBegun_fld (k : Nat) (b : Bool) (o lo w : Nat) : (s.setBegun k b).fld o lo w = s.fld o lo w := rfl

theorem respond_rd (v : Word) (o : Nat) : (s.respond v).rd o = s.rd o := rfl

/-- A response keeps the sequence number of the pair's request. -/
theorem post_pair_seq (st : Nat) (body : List Byte) : (s.post m st body).fld (rMbxState m) 16 16 = s.fld (rMbxState m) 16 16 := by
  rw [post_eq_raise, fld_of_rd (raise_rd_ne _ _ _ (by simp only [rMbxState, rEvtStatus]; omega)), State.endBusy,
    setBegun_fld, fld_setFld_ne _ _ _ _ _ _ _ (.inr (by decide)) (by decide), fld_setFld_ne _ _ _ _ _ _ _ (.inr (by decide)) (by decide)]
  refine fld_of_rd (putResponse_rd_ne s m _ _ fun k hk => ?_) 16 16
  simp only [rMbxState, rMbxRsp]
  omega

end

/-- What holds of a pair after its doorbell has settled is what held before. -/
theorem respond_settled_pair {u t : State} {m : Nat} (hm : m < 4) (ht : t = (u.respond 0).settled) :
    (∀ k, t.request k = u.request k) ∧ t.begun m = u.begun m ∧ t.mbxBusy m = u.mbxBusy m
      ∧ t.fld (rMbxState m) 16 16 = u.fld (rMbxState m) 16 16 ∧ t.mem = u.mem ∧ t.cmds = u.cmds
      ∧ t.fld (rMbxRsp m 1) 8 8 = u.fld (rMbxRsp m 1) 8 8 := by
  have hmbx : t.mbx = u.mbx := by rw [ht, settled_mbx]; rfl
  refine ⟨fun k => by rw [State.request, hmbx, State.request], by rw [State.begun, hmbx, State.begun], ?_, ?_, ?_, ?_, ?_⟩
  · rw [ht, settled_mbxBusy _ hm]
    rfl
  · rw [ht, settled_fld_mailbox _ _ _ _ (by simp only [rMbxState]; omega) (by simp only [rMbxState]; omega)]
    rfl
  · rw [ht, settled_mem]
    rfl
  · rw [ht, settled_cmds]
    rfl
  · rw [ht, settled_status _ hm]
    rfl

theorem exec_write_doorbell {s : State} {m : Nat} (hm : m < 4) (hawake : s.awake 2 = true) (v : Word) :
    exec (.registerWrite (rMbxDoorbell m) false v) s = .next (((s.doorbell m (v.toNat % 65536)).respond 0).settled) := by
  obtain ⟨htarget, -, hwake⟩ := target_doorbell m hm
  rw [exec_write_half v s htarget (if_neg (by simp only [rMbxDoorbell]; omega)) (f := fun u => u.doorbell m (v.toNat % 65536)) fun u => by
    rw [writeReg_doorbell hm, toNat_lowWord, Nat.mod_mod_of_dvd _ (by decide)]]
  exact (done_live _ s (resetOn_of_awake s 2 hawake)).trans (by rw [access_awake _ _ _ (hwake ▸ hawake)])

/-- A doorbell of a pair that is not BUSY. -/
theorem write_doorbell {s : State} {m : Nat} (hm : m < 4) (hawake : s.awake 2 = true) (hbusy : s.mbxBusy m = false)
    (hopen : s.spindle.closed = false) {v : Word} (hseq : v.toNat % 65536 = rqSeq (s.requestArea m))
    (hcheck : leAt (s.requestArea m) 6 2 = complB 2 (rqOpcode (s.requestArea m))) (hlen : rqLen (s.requestArea m) ≤ 248) :
    ∃ t, exec (.registerWrite (rMbxDoorbell m) false v) s = .next t ∧ t.request m = s.requestArea m ∧ t.begun m = false
      ∧ (¬ s.turnsAway m → t.mbxBusy m = true)
      ∧ (s.turnsAway m → t.mbxBusy m = false ∧ t.fld (rMbxRsp m 1) 8 8 = stBusy ∧ (t.rd rEvtStatus).getLsbD 0 = true)
      ∧ t.fld (rMbxState m) 16 16 = rqSeq (s.requestArea m) ∧ (∀ k, k ≠ m → t.request k = s.request k) ∧ t.mem = s.mem
      ∧ t.cmds = s.cmds := by
  obtain ⟨haway, hrings⟩ := doorbell_eq s hbusy hopen hseq hcheck hlen
  obtain ⟨hrequest, hbegun, hpairBusy, hpairSeq, hmem, hcmds, hstatus⟩ :=
    respond_settled_pair (u := s.doorbell m (v.toNat % 65536)) hm rfl
  obtain ⟨hmem', hcmds', -, -⟩ := rung_frame s (m := m)
  refine ⟨_, exec_write_doorbell hm hawake v, ?_⟩
  rw [hrequest, hbegun, hpairBusy, hpairSeq, hmem, hcmds, hstatus]
  simp only [hrequest]
  by_cases hturned : s.turnsAway m
  · have hraises := settled_keeps_cause (((s.rung m).post m stBusy []).respond 0) 0
      (by rw [respond_rd]; exact post_raises (s.rung m) m stBusy [])
    rw [haway hturned]
    refine ⟨(post_request _ _ _ _).trans (rung_request s hm), post_begun _ _ _ _ hm, fun h => absurd hturned h, fun _ => ⟨?_, ?_, hraises⟩,
      (post_pair_seq _ _ _).trans (rung_seq s), fun k hk => (post_request _ _ _ _).trans (rung_request_ne s hk), ?_, ?_⟩
    · exact post_mbxBusy _ _ _ _
    · exact post_status _ _ _ _ (by decide)
    · exact (post_mem _ _ _ _).trans hmem'
    · exact (post_cmds _ _ _ _).trans hcmds'
  · rw [hrings hturned]
    exact ⟨rung_request s hm, rung_begun s hm, fun _ => rung_busy s, fun h => absurd h hturned, rung_seq s, fun k hk => rung_request_ne s hk,
      hmem', hcmds'⟩

/-- Settles O18: each register whose write is a command, and the doorbells of the mailbox. -/
theorem registerWriteActs : Obligations.RegisterWriteActs := by
  unfold Obligations.RegisterWriteActs
  intro v s
  refine ⟨fun q hq => ⟨write_tail hq v s, write_resume hq s, write_abort hq s⟩, fun c hc => ⟨write_evc hc v s, write_evcAdd hc v s⟩,
    fun m hm hawake hbusy hopen => ?_, fun b => write_lock b s, write_cfgRef v s, write_stagedCtl s, write_fabEpoch s, write_fabSelf v s⟩
  intro r turned hseq hcheck hlen
  exact write_doorbell hm hawake hbusy hopen hseq hcheck hlen

end Sys2Proof.Machine

/-! The descriptors that run as they start: NOP, TOPIARY_ROW, TOPIARY_MERGE and FOLD (spec/13_control.md R387 to R389,
spec/04_topiary.md R116, R117, R128, R133, spec/05_coppice.md R152, R154, spec/14_registers.md R411). -/

namespace Sys2Proof.Machine

/-! ### What the computations change -/

/-- `t` is `s` but for registers and what draws and sums leave. -/
def State.DrawsOnly (s t : State) : Prop := t = { s with regs := t.regs, free := t.free, lanes := t.lanes, sumScales := t.sumScales }

/-- `t` is `s` but for that and memory. -/
def State.Computes (s t : State) : Prop :=
  t = { s with regs := t.regs, free := t.free, lanes := t.lanes, sumScales := t.sumScales, mem := t.mem, badUnits := t.badUnits }

section

variable {s t u : State}

theorem State.DrawsOnly.trans (hst : s.DrawsOnly t) (htu : t.DrawsOnly u) : s.DrawsOnly u :=
  Eq.trans htu (congrArg (fun x : State => { x with regs := u.regs, free := u.free, lanes := u.lanes, sumScales := u.sumScales }) hst)

theorem State.Computes.trans (hst : s.Computes t) (htu : t.Computes u) : s.Computes u :=
  Eq.trans htu (congrArg (fun x : State => { x with
    regs := u.regs, free := u.free, lanes := u.lanes, sumScales := u.sumScales, mem := u.mem, badUnits := u.badUnits }) hst)

theorem State.DrawsOnly.mem (h : s.DrawsOnly t) : t.mem = s.mem := (congrArg State.mem h :)

theorem State.DrawsOnly.computes (h : s.DrawsOnly t) : s.Computes t :=
  Eq.trans h (congrArg₂ (fun m b => ({ s with
    regs := t.regs, free := t.free, lanes := t.lanes, sumScales := t.sumScales, mem := m, badUnits := b } : State)) h.mem.symm
      (congrArg State.badUnits h :).symm)

theorem State.Computes.queues (h : s.Computes t) : t.queues = s.queues := (congrArg State.queues h :)

theorem State.Computes.cmds (h : s.Computes t) : t.cmds = s.cmds := (congrArg State.cmds h :)

end

theorem wr_draws (s : State) (o : Nat) (v : Word) : s.DrawsOnly (s.wr o v) := rfl

theorem sat_computes (s : State) (o lo w n : Nat) : s.Computes (s.sat o lo w n) := rfl

theorem setFld_computes (s : State) (o lo w x : Nat) : s.Computes (s.setFld o lo w x) := rfl

theorem write_computes (s : State) (a : Nat) (b : List Byte) : s.Computes (s.write a b) := rfl

theorem ndet_draws (s : State) (src n step job : Nat) : s.DrawsOnly (s.ndet src n step job) := by
  unfold State.ndet
  split
  · rfl
  · have hcounted := (wr_draws s rNdetTotal (s.rd rNdetTotal + BitVec.ofNat 64 n)).trans (wr_draws (s.wr rNdetTotal _) src
      ((s.wr rNdetTotal (s.rd rNdetTotal + BitVec.ofNat 64 n)).rd src + BitVec.ofNat 64 n))
    simp only
    split
    · exact hcounted
    · exact hcounted.trans (wr_draws _ _ _)

theorem draw_draws (s : State) : s.DrawsOnly s.draw.2 := rfl

theorem bitsFor_draws (s : State) (exact : Bool) (step stage g job : Nat) : s.DrawsOnly (s.bitsFor exact step stage g job).2 := by
  unfold State.bitsFor
  split
  · rfl
  · exact (draw_draws s).trans (ndet_draws s.draw.2 rNdetDraw 1 step job)

/-! ### Rows (R117) -/

theorem rowKeys_draws (n : Nat) (s : State) (b : List Byte) (exact : Bool) (row i : Nat) :
    s.DrawsOnly (s.rowKeys b exact row i n).2 := by
  induction n generalizing s i with
  | zero => rfl
  | succ n ih =>
    unfold State.rowKeys
    by_cases hnoise : tpNoise b = true
    · have hbits := bitsFor_draws s exact (leAt b 56 6) (0x05 + 256 * leAt b 69 3) ((leAt b 64 5 + row) * 2 ^ 24 + (tpBase b + i)) 0
      simp only [hnoise, if_true]
      split <;> exact hbits.trans (ih _ _)
    · simp only [hnoise, Bool.false_eq_true, if_false]
      split <;> exact ih _ _

theorem withSumScales_draws (s : State) (m : SMap (Option F32)) : s.DrawsOnly { s with sumScales := m } := rfl

theorem withFree_draws (s : State) (n : Nat) : s.DrawsOnly { s with free := n } := rfl

theorem topRow_draws (s : State) (b : List Byte) (exact : Bool) (row : Nat) : s.DrawsOnly (s.topRow b exact row).2 := by
  have hkeys := rowKeys_draws (tpRowLen b) s b exact row 0
  unfold State.topRow
  simp only
  generalize s.rowKeys b exact row 0 (tpRowLen b) = keys at hkeys ⊢
  have hsummed : s.DrawsOnly (if exact then keys.2 else
      ({ keys.2 with free := keys.2.free + 1 }).ndet rNdetSum 2 (leAt b 56 6) 0) := by
    split
    · exact hkeys
    · exact hkeys.trans ((withFree_draws _ _).trans (ndet_draws _ _ _ _ _))
  split
  · exact hsummed.trans (withSumScales_draws _ _)
  · exact hsummed

theorem writeTRec_computes (s : State) (a : Nat) (r : TRec) : s.Computes (s.writeTRec a r) := by
  have hwritten := write_computes s a r.bytes
  unfold State.writeTRec
  simp only
  generalize s.write a r.bytes = u at hwritten ⊢
  have hshort : s.Computes (if r.entries.length < r.k then u.sat rTopEvents 0 16 1 else u) := by
    split
    · exact hwritten.trans (sat_computes _ _ _ _ _)
    · exact hwritten
  generalize (if r.entries.length < r.k then u.sat rTopEvents 0 16 1 else u) = v at hshort ⊢
  have htied : s.Computes (if r.tied ≠ 0 then v.sat rTopEvents 16 16 1 else v) := by
    split
    · exact hshort.trans (sat_computes _ _ _ _ _)
    · exact hshort
  generalize (if r.tied ≠ 0 then v.sat rTopEvents 16 16 1 else v) = w at htied ⊢
  split
  · exact htied.trans (sat_computes _ _ _ _ _)
  · exact htied

theorem writeTRec_mem (s : State) (a : Nat) (r : TRec) : (s.writeTRec a r).mem = memWrite s.mem a r.bytes := by
  unfold State.writeTRec
  simp only
  split <;> split <;> split <;> simp only [State.sat_mem, State.write_mem]

theorem topRows_computes (n : Nat) (s : State) (b : List Byte) (exact : Bool) (row : Nat) (counts : SMap Nat) :
    s.Computes (s.topRows b exact row counts n).2 := by
  induction n generalizing s row counts with
  | zero => rfl
  | succ n ih =>
    unfold State.topRows
    simp only
    exact ((topRow_draws s b exact row).computes.trans (writeTRec_computes _ _ _)).trans (ih _ _ _)

theorem runRows_computes (s : State) (b : List Byte) : s.Computes (s.runRows b) := by
  have hrows := topRows_computes (tpRows b) s b (s.fld rCtrl 0 1 == 0) 0 []
  unfold State.runRows
  simp only
  split
  · exact hrows.trans (write_computes _ _ _)
  · exact hrows

/-- One row without counts writes its record alone. -/
theorem runRows_mem_of_one {s : State} {b : List Byte} (hone : tpRows b = 1) (hcounts : tpCounts b = false) :
    (s.runRows b).mem = memWrite s.mem (leAt b 8 8) (s.topRow b (s.fld rCtrl 0 1 == 0) 0).1.bytes := by
  have hrow := topRow_draws s b (s.fld rCtrl 0 1 == 0) 0
  unfold State.runRows
  simp only [hone, hcounts, Bool.false_eq_true, if_false, State.topRows]
  rw [writeTRec_mem, hrow.mem, Nat.zero_mul, Nat.add_zero]

/-! ### Merges (R128, R129) -/

theorem mergeRun_draws (s : State) (lists : List TRec) (norm exact : Bool) (step job : Nat) :
    s.DrawsOnly (s.mergeRun lists norm exact step job).2 := by
  unfold State.mergeRun
  simp only
  split
  · rfl
  · exact ndet_draws _ _ _ _ _

/-- The state in which a merge has written its record. -/
def State.merged (s : State) (b : List Byte) : State :=
  let r := s.mergeRun (s.mergeInputs b) (bitAt (byteAt b 20) 0) (s.fld rCtrl 0 1 == 0) s.stepCur 0
  r.2.writeTRec (leAt b 8 8) r.1

theorem merged_computes (s : State) (b : List Byte) : s.Computes (s.merged b) :=
  (mergeRun_draws s _ _ _ _ _).computes.trans (writeTRec_computes _ _ _)

theorem merged_mem (s : State) (b : List Byte) : (s.merged b).mem = memWrite s.mem (leAt b 8 8)
    (s.mergeRun (s.mergeInputs b) (bitAt (byteAt b 20) 0) (s.fld rCtrl 0 1 == 0) s.stepCur 0).1.bytes := by
  rw [State.merged, writeTRec_mem, (mergeRun_draws s _ _ _ _ _).mem]

/-! ### Folds (R154) -/

theorem ite_computes {s t u : State} (p : Prop) [Decidable p] (ht : s.Computes t) (hu : s.Computes u) :
    s.Computes (if p then t else u) := by
  split
  · exact ht
  · exact hu

theorem putBlock_computes (s : State) (e : List Byte) (j : Nat) (rho : List Dy) : s.Computes (s.putBlock e j rho).2 := by
  unfold State.putBlock
  split
  · rfl
  · simp only
    have hwritten := (write_computes s (bkSlot e (!bkCur e) + 4 * j) (planeEntry (encodeBlock (resBits (bkFmt e)) rho).erx)).trans
      (write_computes _ (bkSlot e (!bkCur e) + planeLen (bkElements e) + j * resLen (bkFmt e))
        ((encodeBlock (resBits (bkFmt e)) rho).bytes (bkFmt e)))
    exact ite_computes _ (hwritten.trans (write_computes _ _ _)) hwritten

theorem ringWrite_computes (s : State) (bank : SMap Word) (base cfg head tail drop : Nat) (rec : List Byte) :
    s.Computes (s.ringWrite bank base cfg head tail drop rec) := by
  unfold State.ringWrite
  split
  · rfl
  · simp only
    exact ite_computes _ (sat_computes _ _ _ _ _) ((write_computes _ _ _).trans (setFld_computes _ _ _ _ _))

theorem foldBlocks_computes (n : Nat) (s : State) (e : List Byte) (src sfmt j : Nat) (m : List Int) {m' : List Int} {t : State}
    (h : s.foldBlocks e src sfmt j m n = some (m', t)) : s.Computes t := by
  induction n generalizing s j m with
  | zero =>
    obtain ⟨-, rfl⟩ := Prod.mk.inj (Option.some.inj h)
    rfl
  | succ n ih =>
    unfold State.foldBlocks at h
    split at h
    · exact (putBlock_computes s e j _).trans (ih _ _ _ h)
    · cases h

/-- A fold that succeeds has written; one that fails has counted at most a format error. -/
theorem runFold_cases (s : State) (b : List Byte) :
    (isSuccess (s.runFold b).1.1 = true → s.Computes (s.runFold b).2)
      ∧ (isSuccess (s.runFold b).1.1 = false → s.AccountsOnly (s.runFold b).2) := by
  have hcounted := sat_accounts s rCpcEvents 0 16 1
  have hfail : isSuccess stData = false ∧ isSuccess stMismatch = false ∧ isSuccess stOk = true := by decide
  obtain ⟨hdata, hmismatch, hok⟩ := hfail
  unfold State.runFold
  split
  · exact ⟨fun _ => rfl, fun _ => rfl⟩
  · simp only
    split
    · simp only [hdata, Bool.false_eq_true, false_implies, true_implies, true_and]
      exact hcounted
    split
    · simp only [hmismatch, Bool.false_eq_true, false_implies, true_implies, true_and]
      rfl
    split
    · simp only [hdata, Bool.false_eq_true, false_implies, true_implies, true_and]
      exact hcounted
    · rename_i m u hblocks
      simp only [hok, Bool.true_eq_false, false_implies, true_implies, and_true]
      exact ((foldBlocks_computes _ _ _ _ _ _ _ hblocks).trans (write_computes _ _ _)).trans (ringWrite_computes _ _ _ _ _ _ _ _)

/-- A field that is refused gives a status of failure. -/
theorem foldFields_fails {b : List Byte} {y : Nat × Nat} (h : foldFields b = some y) : isSuccess y.1 = false := by
  have hfail : isSuccess stData = false ∧ isSuccess stInvalid = false := by decide
  unfold foldFields at h
  split at h
  · exact Option.some.inj h ▸ hfail.1
  split at h
  · exact Option.some.inj h ▸ hfail.1
  split at h
  · exact Option.some.inj h ▸ hfail.1
  split at h
  · exact Option.some.inj h ▸ hfail.1
  split at h
  · exact Option.some.inj h ▸ hfail.2
  · cases h

theorem runFold_of_refused {s : State} {b : List Byte} {y : Nat × Nat} (h : foldFields b = some y) : s.runFold b = (y, s) := by
  rw [State.runFold, h]

/-! ### How a plain descriptor starts and ends (R383, R384, R411) -/

section

variable {q t : Nat} {f : Fetched} {s : State} (hs : s.startable t q f)

include hs

/-- Where its job is not open, it fails with NO_JOB. -/
theorem startPlain_of_noJob (gated : Bool) (run : State → Fetched → State) (hclosed : s.job.isOpen = false) :
    s.startPlain t q true gated run = s.failDesc q (stNoJob, 0) := by
  obtain ⟨hnext, ht, hmay⟩ := hs
  simp only [State.startPlain, hnext, ht, hmay, hclosed, ne_eq, not_true_eq_false, Bool.true_eq_false, or_self, if_false, Bool.not_false,
    Bool.and_self, if_true]

/-- While the configuration does not agree, it stays. -/
theorem startPlain_of_gate {needsJob : Bool} (run : State → Fetched → State) (hjob : needsJob = false ∨ s.job.isOpen = true)
    (hgate : s.cfgGate.1 = false) : s.startPlain t q needsJob true run = s.cfgGate.2 := by
  obtain ⟨hnext, ht, hmay⟩ := hs
  have hopen : (needsJob && !s.job.isOpen) = false := by rcases hjob with h | h <;> simp [h]
  simp only [State.startPlain, hnext, ht, hmay, hopen, hgate, ne_eq, not_true_eq_false, Bool.true_eq_false, or_self, if_false,
    Bool.false_eq_true, if_true, Bool.not_false]

/-- Else it runs. -/
theorem startPlain_of_agrees {needsJob : Bool} (run : State → Fetched → State) (hjob : needsJob = false ∨ s.job.isOpen = true)
    (hgate : s.cfgGate.1 = true) : s.startPlain t q needsJob true run = run s.cfgGate.2 f := by
  obtain ⟨hnext, ht, hmay⟩ := hs
  have hopen : (needsJob && !s.job.isOpen) = false := by rcases hjob with h | h <;> simp [h]
  simp only [State.startPlain, hnext, ht, hmay, hopen, hgate, ne_eq, not_true_eq_false, Bool.true_eq_false, or_self, if_false,
    Bool.false_eq_true, if_true, Bool.not_true]

/-- One that needs neither runs. -/
theorem startPlain_ungated (run : State → Fetched → State) : s.startPlain t q false false run = run s f := by
  obtain ⟨hnext, ht, hmay⟩ := hs
  simp only [State.startPlain, hnext, ht, hmay, ne_eq, not_true_eq_false, Bool.true_eq_false, or_self, Bool.false_and, Bool.false_eq_true,
    if_false, Bool.not_true]

end

theorem refreshReplay_shape (s : State) :
    s.refreshReplay = { s with regs := s.refreshReplay.regs, replayStale := s.refreshReplay.replayStale } := by
  unfold State.refreshReplay
  split <;> rfl

/-- The record of a command that is done as it starts. -/
def State.doneCmd (s : State) (q : Nat) (f : Fetched) (x : Nat × Nat) : Cmd :=
  { Cmd.make q f.index f.desc f.param s.refreshReplay.curBank s.refreshReplay.now with status := some x }

theorem doneAtOnce_eq (s : State) (q : Nat) (f : Fetched) (x : Nat × Nat) :
    s.doneAtOnce q f x = (s.refreshReplay.takeDesc q).addCmd (s.doneCmd q f x) := rfl

theorem doneAtOnce_shape (s : State) (q : Nat) (f : Fetched) (x : Nat × Nat) : s.doneAtOnce q f x = { s with
    regs := s.refreshReplay.regs, replayStale := s.refreshReplay.replayStale
    queues := (s.doneAtOnce q f x).queues, cmds := s.cmds ++ [s.doneCmd q f x] } := by
  have hreplay := refreshReplay_shape s
  rw [doneAtOnce_eq]
  generalize s.doneCmd q f x = c
  generalize s.refreshReplay = u at hreplay ⊢
  rw [hreplay]
  rfl

section

variable {q : Nat} {f : Fetched} {s u : State} (hnext : s.nextDesc q = some f)

include hnext

/-- It leaves its queue and runs with its status. -/
theorem doneAtOnce_settled (x : Nat × Nat) (hqueues : u.queues = s.queues) (hcmds : u.cmds = s.cmds) :
    s.startedAs (u.doneAtOnce q f x).settled q f x ∧ (u.doneAtOnce q f x).settled.mem = u.mem := by
  obtain ⟨hq, -⟩ := fetched_of_nextDesc hnext
  have hreplay := (refreshReplay_keepsStart u).toKeepsWork
  have hshape := doneAtOnce_shape u q f x
  have hqueue (k : Nat) : (u.doneAtOnce q f x).settled.queue k = (u.refreshReplay.takeDesc q).queue k :=
    (settled_keepsStart _).queue k
  have hkept (k : Nat) : u.refreshReplay.queue k = s.queue k := by rw [hreplay.queue, State.queue, hqueues, State.queue]
  refine ⟨⟨⟨u.doneCmd q f x, ?_, rfl, rfl, rfl, rfl, rfl⟩, ?_, fun k hk => ?_⟩, ?_⟩
  · rw [settled_cmds, show (u.doneAtOnce q f x).cmds = _ from (congrArg State.cmds hshape :), hcmds]
  · rw [hqueue, State.takeDesc, queue_setQueue_self _ _ _ hq, hkept]
  · rw [hqueue, State.takeDesc, queue_setQueue_ne _ _ _ _ hk, hkept]
  · rw [settled_mem]
    exact (congrArg State.mem hshape :)

/-- A read that is flagged fails it with DATA_ERROR, and raises the event (R39). -/
theorem failRead_settled (hu : s.AccountsOnly u) : s.failedAs (u.failRead q).settled q f (stData, s.ownRank)
    ∧ ((u.failRead q).settled.rd rEvtStatus).getLsbD 10 = true ∧ (u.failRead q).settled.mem = s.mem := by
  have hraised := hu.trans (raise_accounts u causeMemory)
  have hkeeps := (State.KeepsStart.ofAccounts hraised).toKeepsWork
  have hjob : u.job = s.job := (congrArg State.job hu :)
  have hrank : u.ownRank = s.ownRank := by rw [State.ownRank, hjob, State.ownRank]
  obtain ⟨hfailed, hmem, -⟩ := failDesc_settled (stData, s.ownRank) hkeeps hnext
  rw [State.failRead, hrank]
  refine ⟨hfailed, settled_keeps_cause _ 10 ?_, hmem⟩
  rw [failDesc_eq ((hkeeps.nextDesc q).trans hnext), setQueue_rd]
  exact raise_sets_cause u causeMemory (by decide)

/-- A descriptor that is refused. -/
theorem refused_settled (x : Nat × Nat) (hu : s.AccountsOnly u) :
    s.failedAs (u.failDesc q x).settled q f x ∧ (u.failDesc q x).settled.mem = s.mem := by
  obtain ⟨hfailed, hmem, -⟩ := failDesc_settled x (State.KeepsStart.ofAccounts hu).toKeepsWork hnext
  exact ⟨hfailed, hmem⟩

end

/-! ### NOP -/

theorem nop_runs {q : Nat} {f : Fetched} {s : State} (hs : s.startable 0x01 q f) : ∃ t, exec (.nop q) s = .next t
    ∧ s.startedAs t q f (stOk, 0) ∧ t.mem = s.mem ∧ t.ports = s.ports ∧ t.staged = s.staged ∧ t.outbox = s.outbox := by
  obtain ⟨hstarted, hmem⟩ := doneAtOnce_settled hs.1 (u := s) (stOk, 0) rfl rfl
  have hshape := doneAtOnce_shape s q f (stOk, 0)
  have hsettled := settled_shape (s.doneAtOnce q f (stOk, 0))
  refine ⟨_, (done_live (effNop q) s (resetOn_of_startable hs)).trans (by rw [effNop, startPlain_ungated hs]), hstarted, hmem, ?_, ?_, ?_⟩
  · exact (congrArg State.ports hsettled :).trans (congrArg State.ports hshape :)
  · exact (congrArg State.staged hsettled :).trans (congrArg State.staged hshape :)
  · exact (congrArg State.outbox hsettled :).trans (congrArg State.outbox hshape :)

/-! ### TOPIARY_ROW -/

/-- A read of some row is flagged. -/
def State.rowsFlagged (s : State) (b : List Byte) : Bool :=
  (List.range (tpRows b)).any (fun r => s.flagged (leAt b 0 8 + r * tpStride b) (tpRowLen b * (if tpBf16 b then 2 else 4)))

/-- What TOPIARY_ROW does behind the configuration comparison. -/
def State.rowsAct (s : State) (q : Nat) (f : Fetched) : State :=
  if s.flagged (dParamAddr f.desc) 96 then s.failRead q else
  match tpCheck (s.rowBlock f.desc) with
  | some o => s.failDesc q (stInvalid, o)
  | none =>
    if s.kMax < tpK (s.rowBlock f.desc) then s.failDesc q (stAbsent, 0)
    else if s.rowsFlagged (s.rowBlock f.desc) then s.failRead q
    else (s.runRows (s.rowBlock f.desc)).doneAtOnce q f (stOk, 0)

theorem effTopiaryRow_eq (q : Nat) : effTopiaryRow q = fun s => s.startPlain 0x20 q false true (fun s f => s.rowsAct q f) := rfl

section

variable {q : Nat} {f : Fetched} {s : State} (hs : s.startable 0x20 q f)

include hs

theorem topiaryRow_stays (hgate : s.cfgGate.1 = false) : exec (.topiaryRow q) s = .next s.cfgGate.2.settled := by
  refine (done_live (effTopiaryRow q) s (resetOn_of_startable hs)).trans ?_
  rw [effTopiaryRow_eq]
  simp only [startPlain_of_gate hs _ (.inl rfl) hgate]

theorem exec_topiaryRow (hgate : s.cfgGate.1 = true) : exec (.topiaryRow q) s = .next (s.cfgGate.2.rowsAct q f).settled := by
  refine (done_live (effTopiaryRow q) s (resetOn_of_startable hs)).trans ?_
  rw [effTopiaryRow_eq]
  simp only [startPlain_of_agrees hs _ (.inl rfl) hgate]

end

section

variable {q : Nat} {f : Fetched} {u : State}

theorem rowsAct_of_flagged (h : u.flagged (dParamAddr f.desc) 96 = true) : u.rowsAct q f = u.failRead q := by
  rw [State.rowsAct, if_pos h]

variable (hread : u.flagged (dParamAddr f.desc) 96 = false)

include hread

theorem rowsAct_of_refused {o : Nat} (h : tpCheck (u.rowBlock f.desc) = some o) : u.rowsAct q f = u.failDesc q (stInvalid, o) := by
  simp only [State.rowsAct, hread, h, Bool.false_eq_true, if_false]

variable (hcheck : tpCheck (u.rowBlock f.desc) = none)

include hcheck

theorem rowsAct_of_absent (h : u.kMax < tpK (u.rowBlock f.desc)) : u.rowsAct q f = u.failDesc q (stAbsent, 0) := by
  simp only [State.rowsAct, hread, hcheck, h, Bool.false_eq_true, if_false, if_true]

variable (hk : tpK (u.rowBlock f.desc) ≤ u.kMax)

include hk

theorem rowsAct_of_lost (h : u.rowsFlagged (u.rowBlock f.desc) = true) : u.rowsAct q f = u.failRead q := by
  simp only [State.rowsAct, hread, hcheck, Nat.not_lt.mpr hk, h, Bool.false_eq_true, if_false, if_true]

theorem rowsAct_of_good (h : u.rowsFlagged (u.rowBlock f.desc) = false) :
    u.rowsAct q f = (u.runRows (u.rowBlock f.desc)).doneAtOnce q f (stOk, 0) := by
  simp only [State.rowsAct, hread, hcheck, Nat.not_lt.mpr hk, h, Bool.false_eq_true, if_false]

end

/-! ### TOPIARY_MERGE -/

/-- What TOPIARY_MERGE does with its block. -/
def State.mergeAct (s : State) (q : Nat) (f : Fetched) (b : List Byte) : State :=
  if s.flagged (dParamAddr f.desc) 64 then s.failRead q
  else if leAt b 16 4 = 0 ∨ 65536 < leAt b 16 4 then s.failDesc q (stInvalid, 16)
  else if byteAt b 20 / 2 ≠ 0 then s.failDesc q (stInvalid, 20)
  else if leAt b 21 43 ≠ 0 then s.failDesc q (stInvalid, 21)
  else if s.listsFlagged b then s.failRead q
  else if s.grade = .c ∧ (s.mergeInputs b).any (fun r => decide (s.kMax < r.k)) = true then s.failDesc q (stAbsent, 0)
  else if !mergeAgrees (s.mergeInputs b) then s.failDesc q (stMismatch, 0)
  else (s.merged b).doneAtOnce q f (stOk, 0)

theorem effTopiaryMerge_eq (q : Nat) :
    effTopiaryMerge q = fun s => s.startPlain 0x21 q true true (fun s f => s.mergeAct q f (s.read (dParamAddr f.desc) 64)) := by
  unfold effTopiaryMerge State.mergeAct State.merged
  simp only

section

variable {q : Nat} {f : Fetched} {s : State} (hs : s.startable 0x21 q f)

include hs

theorem topiaryMerge_noJob (hclosed : s.job.isOpen = false) :
    exec (.topiaryMerge q) s = .next (s.failDesc q (stNoJob, 0)).settled := by
  refine (done_live (effTopiaryMerge q) s (resetOn_of_startable hs)).trans ?_
  rw [effTopiaryMerge_eq]
  simp only [startPlain_of_noJob hs _ _ hclosed]

theorem topiaryMerge_stays (hopen : s.job.isOpen = true) (hgate : s.cfgGate.1 = false) :
    exec (.topiaryMerge q) s = .next s.cfgGate.2.settled := by
  refine (done_live (effTopiaryMerge q) s (resetOn_of_startable hs)).trans ?_
  rw [effTopiaryMerge_eq]
  simp only [startPlain_of_gate hs _ (.inr hopen) hgate]

theorem exec_topiaryMerge (hopen : s.job.isOpen = true) (hgate : s.cfgGate.1 = true) : exec (.topiaryMerge q) s
    = .next (s.cfgGate.2.mergeAct q f (s.cfgGate.2.read (dParamAddr f.desc) 64)).settled := by
  refine (done_live (effTopiaryMerge q) s (resetOn_of_startable hs)).trans ?_
  rw [effTopiaryMerge_eq]
  simp only [startPlain_of_agrees hs _ (.inr hopen) hgate]

end

section

variable {q : Nat} {f : Fetched} {u : State} {b : List Byte}

theorem mergeAct_of_flagged (h : u.flagged (dParamAddr f.desc) 64 = true) : u.mergeAct q f b = u.failRead q := by
  rw [State.mergeAct, if_pos h]

variable (hread : u.flagged (dParamAddr f.desc) 64 = false)

include hread

theorem mergeAct_of_count (h : leAt b 16 4 = 0 ∨ 65536 < leAt b 16 4) : u.mergeAct q f b = u.failDesc q (stInvalid, 16) := by
  rw [State.mergeAct, hread, if_neg Bool.false_ne_true, if_pos h]

variable (hpos : 0 < leAt b 16 4) (hmost : leAt b 16 4 ≤ 65536)

include hpos hmost

theorem mergeAct_of_flags (h : 2 ≤ byteAt b 20) : u.mergeAct q f b = u.failDesc q (stInvalid, 20) := by
  rw [State.mergeAct, hread, if_neg Bool.false_ne_true, if_neg (by omega), if_pos (by omega)]

variable (hflags : byteAt b 20 < 2)

include hflags

theorem mergeAct_of_reserved (h : leAt b 21 43 ≠ 0) : u.mergeAct q f b = u.failDesc q (stInvalid, 21) := by
  rw [State.mergeAct, hread, if_neg Bool.false_ne_true, if_neg (by omega), if_neg (by omega), if_pos h]

variable (hzero : leAt b 21 43 = 0)

include hzero

theorem mergeAct_of_lost (h : u.listsFlagged b = true) : u.mergeAct q f b = u.failRead q := by
  rw [State.mergeAct, hread, if_neg Bool.false_ne_true, if_neg (by omega), if_neg (by omega), if_neg (by omega), if_pos h]

variable (hlists : u.listsFlagged b = false)

include hlists

theorem mergeAct_of_absent (h : u.grade = .c ∧ (u.mergeInputs b).any (fun r => decide (u.kMax < r.k)) = true) :
    u.mergeAct q f b = u.failDesc q (stAbsent, 0) := by
  rw [State.mergeAct, hread, if_neg Bool.false_ne_true, if_neg (by omega), if_neg (by omega), if_neg (by omega), hlists,
    if_neg Bool.false_ne_true, if_pos h]

variable (hk : ¬ (u.grade = .c ∧ (u.mergeInputs b).any (fun r => decide (u.kMax < r.k)) = true))

include hk

theorem mergeAct_of_mismatch (h : mergeAgrees (u.mergeInputs b) = false) : u.mergeAct q f b = u.failDesc q (stMismatch, 0) := by
  rw [State.mergeAct, hread, if_neg Bool.false_ne_true, if_neg (by omega), if_neg (by omega), if_neg (by omega), hlists,
    if_neg Bool.false_ne_true, if_neg hk, h, Bool.not_false, if_pos rfl]

theorem mergeAct_of_good (h : mergeAgrees (u.mergeInputs b) = true) : u.mergeAct q f b = (u.merged b).doneAtOnce q f (stOk, 0) := by
  rw [State.mergeAct, hread, if_neg Bool.false_ne_true, if_neg (by omega), if_neg (by omega), if_neg (by omega), hlists,
    if_neg Bool.false_ne_true, if_neg hk, h, Bool.not_true, if_neg Bool.false_ne_true]

end

/-! ### FOLD -/

/-- What FOLD does with its block. -/
def State.foldAct (s : State) (q : Nat) (f : Fetched) (b : List Byte) : State :=
  if s.flagged (dParamAddr f.desc) 64 || ((foldFields b).isNone && s.foldFlagged b) then s.failRead q
  else if (foldFields b).isNone && s.slotHeld (s.foldEntry b) then s
  else if isSuccess (s.runFold b).1.1 then (s.runFold b).2.doneAtOnce q f (s.runFold b).1
  else (s.runFold b).2.failDesc q (s.runFold b).1

theorem effFold_eq (q : Nat) :
    effFold q = fun s => s.startPlain 0x28 q true true (fun s f => s.foldAct q f (s.read (dParamAddr f.desc) 64)) := rfl

section

variable {q : Nat} {f : Fetched} {s : State} (hs : s.startable 0x28 q f)

include hs

theorem fold_holds (hholds : s.digestHolds 3 = true) : exec (.fold q) s = .next s.settled := by
  refine (done_live (State.working [3] (effFold q)) s (resetOn_of_startable hs)).trans ?_
  rw [working_of_holds _ _ _ hholds]

variable (hfree : s.digestHolds 3 = false)

include hfree

theorem exec_fold_of_free : exec (.fold q) s = .next (effFold q s).settled := by
  refine (done_live (State.working [3] (effFold q)) s (resetOn_of_startable hs)).trans ?_
  rw [working_of_free _ hfree]

theorem fold_noJob (hclosed : s.job.isOpen = false) : exec (.fold q) s = .next (s.failDesc q (stNoJob, 0)).settled := by
  rw [exec_fold_of_free hs hfree, effFold_eq]
  simp only [startPlain_of_noJob hs _ _ hclosed]

theorem fold_stays (hopen : s.job.isOpen = true) (hgate : s.cfgGate.1 = false) : exec (.fold q) s = .next s.cfgGate.2.settled := by
  rw [exec_fold_of_free hs hfree, effFold_eq]
  simp only [startPlain_of_gate hs _ (.inr hopen) hgate]

theorem exec_fold (hopen : s.job.isOpen = true) (hgate : s.cfgGate.1 = true) : exec (.fold q) s
    = .next (s.cfgGate.2.foldAct q f (s.cfgGate.2.read (dParamAddr f.desc) 64)).settled := by
  rw [exec_fold_of_free hs hfree, effFold_eq]
  simp only [startPlain_of_agrees hs _ (.inr hopen) hgate]

end

section

variable {q : Nat} {f : Fetched} {u : State} {b : List Byte}

theorem foldAct_of_flagged (h : u.flagged (dParamAddr f.desc) 64 = true) : u.foldAct q f b = u.failRead q := by
  rw [State.foldAct, h, Bool.true_or, if_pos rfl]

variable (hread : u.flagged (dParamAddr f.desc) 64 = false)

include hread

theorem foldAct_of_refused {y : Nat × Nat} (h : foldFields b = some y) : u.foldAct q f b = u.failDesc q y := by
  simp only [State.foldAct, hread, h, runFold_of_refused h, foldFields_fails h, Option.isNone_some, Bool.false_and, Bool.or_self,
    Bool.false_eq_true, if_false]

variable (hfields : foldFields b = none)

include hfields

theorem foldAct_of_lost (h : u.foldFlagged b = true) : u.foldAct q f b = u.failRead q := by
  simp only [State.foldAct, hread, hfields, h, Option.isNone_none, Bool.and_self, Bool.or_true, if_true]

variable (hgood : u.foldFlagged b = false)

include hgood

theorem foldAct_of_held (h : u.slotHeld (u.foldEntry b) = true) : u.foldAct q f b = u := by
  simp only [State.foldAct, hread, hfields, hgood, h, Option.isNone_none, Bool.and_false, Bool.and_self, Bool.or_self, Bool.false_eq_true,
    if_false, if_true]

theorem foldAct_of_free (h : u.slotHeld (u.foldEntry b) = false) : u.foldAct q f b =
    if isSuccess (u.runFold b).1.1 then (u.runFold b).2.doneAtOnce q f (u.runFold b).1 else (u.runFold b).2.failDesc q (u.runFold b).1 := by
  simp only [State.foldAct, hread, hfields, hgood, h, Option.isNone_none, Bool.and_false, Bool.or_self, Bool.false_eq_true, if_false]

end

/-! ### The obligation -/

section

variable {q : Nat} {f : Fetched} {s : State}

/-- A state behind the configuration comparison. -/
theorem gated_keeps (s : State) : s.cfgGate.2.queues = s.queues ∧ s.cfgGate.2.cmds = s.cmds ∧ s.cfgGate.2.mem = s.mem := by
  have h := cfgGate_accounts s
  exact ⟨(congrArg State.queues h :), (congrArg State.cmds h :), h.mem⟩

/-- A command that computes behind it, and is done. -/
theorem computed_settled (hnext : s.nextDesc q = some f) {v : State} (hv : s.cfgGate.2.Computes v) (x : Nat × Nat) :
    s.startedAs (v.doneAtOnce q f x).settled q f x ∧ (v.doneAtOnce q f x).settled.mem = v.mem := by
  obtain ⟨hqueues, hcmds, -⟩ := gated_keeps s
  exact doneAtOnce_settled hnext x (hv.queues.trans hqueues) (hv.cmds.trans hcmds)

theorem rows_run (hs : s.startable 0x20 q f) (hgate : s.cfgGate.1 = true)
    (hact : s.cfgGate.2.rowsAct q f = (s.cfgGate.2.runRows (s.cfgGate.2.rowBlock f.desc)).doneAtOnce q f (stOk, 0)) :
    let tb := s.cfgGate.2.rowBlock f.desc
    ∃ t, exec (.topiaryRow q) s = .next t ∧ s.startedAs t q f (stOk, 0) ∧ t.mem = (s.cfgGate.2.runRows tb).mem
      ∧ (tpRows tb = 1 → tpCounts tb = false →
          t.mem = memWrite s.mem (leAt tb 8 8) (s.cfgGate.2.topRow tb (s.cfgGate.2.fld rCtrl 0 1 == 0) 0).1.bytes) := by
  intro tb
  obtain ⟨hstarted, hmem⟩ := computed_settled hs.1 (runRows_computes s.cfgGate.2 tb) (stOk, 0)
  refine ⟨_, (exec_topiaryRow hs hgate).trans (by rw [hact]), hstarted, hmem, fun hone hcounts => ?_⟩
  rw [hmem, runRows_mem_of_one hone hcounts, (gated_keeps s).2.2]

theorem merges_run (hs : s.startable 0x21 q f) (hopen : s.job.isOpen = true) (hgate : s.cfgGate.1 = true)
    (hact : s.cfgGate.2.mergeAct q f (s.cfgGate.2.read (dParamAddr f.desc) 64)
      = (s.cfgGate.2.merged (s.cfgGate.2.read (dParamAddr f.desc) 64)).doneAtOnce q f (stOk, 0)) :
    let s1 := s.cfgGate.2
    let b := s1.read (dParamAddr f.desc) 64
    ∃ t, exec (.topiaryMerge q) s = .next t ∧ s.startedAs t q f (stOk, 0)
      ∧ t.mem = memWrite s.mem (leAt b 8 8)
          (s1.mergeRun (s1.mergeInputs b) (bitAt (byteAt b 20) 0) (s1.fld rCtrl 0 1 == 0) s1.stepCur 0).1.bytes := by
  intro s1 b
  obtain ⟨hstarted, hmem⟩ := computed_settled hs.1 (merged_computes s1 b) (stOk, 0)
  refine ⟨_, (exec_topiaryMerge hs hopen hgate).trans (by rw [hact]), hstarted, ?_⟩
  rw [hmem, merged_mem, (gated_keeps s).2.2]

theorem folds_run (hs : s.startable 0x28 q f) (hfree : s.digestHolds 3 = false) (hopen : s.job.isOpen = true) (hgate : s.cfgGate.1 = true)
    {b : List Byte} (hb : s.cfgGate.2.read (dParamAddr f.desc) 64 = b)
    (hact : s.cfgGate.2.foldAct q f b = if isSuccess (s.cfgGate.2.runFold b).1.1 then
      (s.cfgGate.2.runFold b).2.doneAtOnce q f (s.cfgGate.2.runFold b).1
      else (s.cfgGate.2.runFold b).2.failDesc q (s.cfgGate.2.runFold b).1) :
    (isSuccess (s.cfgGate.2.runFold b).1.1 = true → ∃ t, exec (.fold q) s = .next t ∧ s.startedAs t q f (s.cfgGate.2.runFold b).1
      ∧ t.mem = (s.cfgGate.2.runFold b).2.mem)
    ∧ (isSuccess (s.cfgGate.2.runFold b).1.1 = false → ∃ t, exec (.fold q) s = .next t ∧ s.failedAs t q f (s.cfgGate.2.runFold b).1) := by
  have hexec := exec_fold hs hfree hopen hgate
  rw [hb, hact] at hexec
  obtain ⟨hcomputes, haccounts⟩ := runFold_cases s.cfgGate.2 b
  refine ⟨fun hok => ?_, fun hfail => ?_⟩
  · rw [if_pos hok] at hexec
    obtain ⟨hstarted, hmem⟩ := computed_settled hs.1 (hcomputes hok) (s.cfgGate.2.runFold b).1
    exact ⟨_, hexec, hstarted, hmem⟩
  · rw [if_neg (by rw [hfail]; exact Bool.false_ne_true)] at hexec
    exact ⟨_, hexec, (refused_settled hs.1 _ ((cfgGate_accounts s).trans (haccounts hfail))).1⟩

end

/-- Settles O45: each command by its act, and each act by the first check that fails (DESIGN CHOICE, log 107, log 108). -/
theorem plainCommandsRun : Obligations.PlainCommandsRun := by
  unfold Obligations.PlainCommandsRun
  intro q f s s1 a b tb lost fails
  have hgated : s.AccountsOnly s1 := cfgGate_accounts s
  have hlost : ∀ {i : Instr}, s.nextDesc q = some f → exec i s = .next (s1.failRead q).settled → lost i := fun hnext hexec =>
    ⟨_, hexec, failRead_settled hnext hgated⟩
  have hfails : ∀ {i : Instr} {y : Nat × Nat}, s.nextDesc q = some f → exec i s = .next (s1.failDesc q y).settled → fails i y :=
    fun hnext hexec => ⟨_, hexec, refused_settled hnext _ hgated⟩
  have hnoJob : ∀ {i : Instr}, s.nextDesc q = some f → exec i s = .next (s.failDesc q (stNoJob, 0)).settled → fails i (stNoJob, 0) :=
    fun hnext hexec => ⟨_, hexec, refused_settled (u := s) hnext _ rfl⟩
  refine ⟨fun hs => nop_runs hs, fun hs => ?_, fun hs => ?_, fun hs hfree => ?_, fun hs hholds => fold_holds hs hholds⟩
  · intro rowLost
    have hexec := exec_topiaryRow hs
    refine ⟨fun hgate => topiaryRow_stays hs hgate, fun hgate hbad => hlost hs.1 ((hexec hgate).trans (by rw [rowsAct_of_flagged hbad])),
      fun hgate hread => ⟨fun o ho => hfails hs.1 ((hexec hgate).trans (by rw [rowsAct_of_refused hread ho])),
        fun hcheck hk => hfails hs.1 ((hexec hgate).trans (by rw [rowsAct_of_absent hread hcheck hk])),
        fun hcheck hk hbad => hlost hs.1 ((hexec hgate).trans (by rw [rowsAct_of_lost hread hcheck hk hbad])),
        fun hcheck hk hgood => rows_run hs hgate (rowsAct_of_good hread hcheck hk hgood)⟩⟩
  · refine ⟨fun hclosed => hnoJob hs.1 (topiaryMerge_noJob hs hclosed), fun hopen hgate => topiaryMerge_stays hs hopen hgate,
      fun hopen hgate => ?_⟩
    intro n lists shape
    have hexec := exec_topiaryMerge hs hopen hgate
    refine ⟨fun hbad => hlost hs.1 (hexec.trans (by rw [mergeAct_of_flagged hbad])), fun hread => ⟨?_, ?_, ?_, ?_, ?_⟩⟩
    · exact fun hcount => hfails hs.1 (hexec.trans (by rw [mergeAct_of_count hread hcount]))
    · exact fun hpos hmost hflags => hfails hs.1 (hexec.trans (by rw [mergeAct_of_flags hread hpos hmost hflags]))
    · exact fun hpos hmost hflags hrest => hfails hs.1 (hexec.trans (by rw [mergeAct_of_reserved hread hpos hmost hflags hrest]))
    · exact fun ⟨hpos, hmost, hflags, hzero⟩ hbad => hlost hs.1 (hexec.trans (by
        rw [mergeAct_of_lost hread hpos hmost hflags hzero hbad]))
    · rintro ⟨hpos, hmost, hflags, hzero⟩ hlists
      refine ⟨fun hgrade hk => hfails hs.1 (hexec.trans (by
        rw [mergeAct_of_absent hread hpos hmost hflags hzero hlists ⟨hgrade, hk⟩])), fun hk => ?_⟩
      have hsmall : ¬ (s1.grade = .c ∧ lists.any (fun r => decide (s1.kMax < r.k)) = true) := fun ⟨hgrade, hany⟩ =>
        hk.elim (fun h => h hgrade) (fun h => Bool.false_ne_true (h.symm.trans hany))
      exact ⟨fun hagrees => hfails hs.1 (hexec.trans (by
          rw [mergeAct_of_mismatch hread hpos hmost hflags hzero hlists hsmall hagrees])),
        fun hagrees => merges_run hs hopen hgate (mergeAct_of_good hread hpos hmost hflags hzero hlists hsmall hagrees)⟩
  · refine ⟨fun hclosed => hnoJob hs.1 (fold_noJob hs hfree hclosed), fun hopen hgate => fold_stays hs hfree hopen hgate,
      fun hopen hgate => ?_⟩
    have hexec := exec_fold hs hfree hopen hgate
    exact ⟨fun hbad => hlost hs.1 (hexec.trans (by rw [foldAct_of_flagged hbad])), fun hread =>
      ⟨fun y hy => hfails hs.1 (hexec.trans (by rw [foldAct_of_refused hread hy])),
        fun hfields hbad => hlost hs.1 (hexec.trans (by rw [foldAct_of_lost hread hfields hbad])),
        fun hfields hgood => ⟨fun hheld => hexec.trans (by rw [foldAct_of_held hread hfields hgood hheld]),
          fun hroom => folds_run hs hfree hopen hgate rfl (foldAct_of_free hread hfields hgood hroom)⟩⟩⟩

end Sys2Proof.Machine

/-! Accesses of the control bus (spec/14_registers.md R401, R402, R413, R414): the ones that the bus refuses, and the reads that
answer and clear. -/

namespace Sys2Proof.Machine

/-! ### A refused access (R401) -/

section

variable {o width kind : Nat} {isWrite : Bool} {s : State}

/-- The bus refuses an access for its width, for its offset, or for a unit that is not awake. -/
theorem effBusErrorAccess_of_refused (hreset : s.ctl.resetOn = false)
    (hrefused : (width ≠ 32 ∧ width ≠ 64 ∧ kind = 1) ∨ ((width = 32 ∨ width = 64) ∧ target o (width == 64) = .bad kind)
      ∨ ((width = 32 ∨ width = 64) ∧ (∀ k, target o (width == 64) ≠ .bad k) ∧ s.awake (wakeOf o) = false ∧ kind = 2)) :
    effBusErrorAccess o width isWrite s = s.busError o kind := by
  rw [effBusErrorAccess, if_neg (Bool.eq_false_iff.mp hreset)]
  obtain ⟨h32, h64, rfl⟩ | ⟨hwidth, hbad⟩ | ⟨hwidth, hgood, hasleep, rfl⟩ := hrefused
  · rw [if_pos ⟨h32, h64⟩]
  · rw [if_neg (by omega), hbad]
  · rw [if_neg (by omega)]
    split
    · rename_i k hk
      exact absurd hk (hgood k)
    · rw [if_neg (Bool.eq_false_iff.mp hasleep)]

/-- An access that is refused is recorded, and then counted. -/
def State.refusalNoted (s : State) (o kind : Nat) : State := s.setFld rBusErr 0 24 (o % 2 ^ 22 + kind * 2 ^ 22)

theorem busError_rd (o' : Nat) : (s.busError o kind).rd o' = ((s.refusalNoted o kind).sat rBusErr 32 16 1).rd o' := by
  simp only [State.busError, State.refusalNoted, State.rd]

theorem busError_rd_ne {o' : Nat} (h : o' ≠ rBusErr) : (s.busError o kind).rd o' = s.rd o' := by
  rw [busError_rd, rd_sat_ne _ _ _ _ _ _ h, State.refusalNoted, rd_setFld_ne _ _ _ _ _ _ h]

/-- OFFSET and KIND are the two parts of one field. -/
theorem busError_address : (s.busError o kind).fld rBusErr 0 24 = (o % 2 ^ 22 + kind * 2 ^ 22) % 2 ^ 24 := by
  rw [fld_of_rd (busError_rd rBusErr), fld_sat_ne _ _ _ _ _ _ _ (.inl (by decide)) (by decide), State.refusalNoted,
    fld_setFld_self _ _ _ _ _ (by decide)]

theorem busError_offset (ho : o < 0x400000) : (s.busError o kind).fld rBusErr 0 22 = o := by
  have h := busError_address (s := s) (o := o) (kind := kind)
  simp only [State.fld, bitsAt, pow_zero, Nat.div_one] at h ⊢
  omega

theorem busError_kind : (s.busError o kind).fld rBusErr 22 2 = kind % 4 := by
  have h := busError_address (s := s) (o := o) (kind := kind)
  simp only [State.fld, bitsAt, pow_zero, Nat.div_one] at h ⊢
  omega

theorem busError_count : (s.busError o kind).fld rBusErr 32 16 = min (2 ^ 16 - 1) (s.fld rBusErr 32 16 + 1) := by
  rw [fld_of_rd (busError_rd rBusErr), fld_sat_self _ _ _ _ _ (by decide), State.refusalNoted,
    fld_setFld_ne _ _ _ _ _ _ _ (.inr (by decide)) (by decide)]

end

/-- Settles O9: each refusal is `busError`, and settling leaves LGX_BUS_ERR. -/
theorem busErrors : Obligations.BusErrors := by
  unfold Obligations.BusErrors
  intro o width isWrite s hreset ho kind hrefused
  have hfld : ∀ lo w, (s.busError o kind).settled.fld rBusErr lo w = (s.busError o kind).fld rBusErr lo w :=
    fld_of_rd (settled_rd _ _ (by decide) (by decide))
  have hexec : exec (.busErrorAccess o width isWrite) s = .next (s.busError o kind).settled :=
    (done_live (effBusErrorAccess o width isWrite) s hreset).trans
      (by rw [effBusErrorAccess_of_refused hreset hrefused])
  refine ⟨_, hexec, settled_bus _, ?_, ?_, ?_, fun o' hne hevt hcfg => ?_, settled_mem _, settled_queues _, settled_cmds _,
    settled_staged _⟩
  · rw [hfld, busError_offset ho]
  · rw [hfld, busError_kind]
  · rw [hfld, busError_count, show 2 ^ 16 - 1 = 65535 from rfl]
  · rw [settled_rd _ _ hevt hcfg, busError_rd_ne hne]

/-! ### What reads leave settled (R392, R398) -/

/-- A state that keeps the invariant has nothing to settle. -/
theorem settled_of_inv {s : State} (h : s.Inv) : s.settled = s := by
  have hquiesce : s.settleQuiesce = s := by
    refine if_neg fun ⟨hst, hcmds, himage, hpairs⟩ => ?_
    have := h.quiesce hst
    simp_all
  have hwatches : ∀ l : List Nat, (∀ k ∈ l, k < 8) → l.foldl State.watchStep s = s := by
    intro l hl
    induction l with
    | nil => rfl
    | cons k ks ih =>
      rw [List.foldl_cons, watchStep_of_settled (h.watch k (hl k (by simp)))]
      exact ih fun j hj => hl j (by simp [hj])
  rw [State.settled, hquiesce]
  exact hwatches _ fun k hk => List.mem_range.mp hk

/-! ### The RC bits that a read clears (R413) -/

/-- `t` is `s` but for registers and for the watches of which FIRED has been read. -/
def State.ReadsOnly (s t : State) : Prop := t = { s with regs := t.regs, ctl := { s.ctl with watchRead := t.ctl.watchRead } }

theorem State.ReadsOnly.trans {s t u : State} (hst : s.ReadsOnly t) (htu : t.ReadsOnly u) : s.ReadsOnly u :=
  Eq.trans htu (congrArg (fun x : State => { x with regs := u.regs, ctl := { x.ctl with watchRead := u.ctl.watchRead } }) hst)

section

variable (s : State) (key : Nat) (x m : Word)

/-- Bits of a register cleared. -/
def State.bitsCleared (s : State) (key : Nat) (clr : Word) : State := if clr = 0 then s else s.wr key (s.rd key &&& ~~~clr)

/-- A read that clears FIRED of a watch. -/
def clearsFired (key : Nat) (clr : Word) : Prop := 0x031000 ≤ key ∧ key < 0x031080 ∧ key % 0x10 = 8 ∧ clr.getLsbD 9 = true

/-- FIRED of a watch has been read. -/
def State.firedNoted (s : State) (k : Nat) : State :=
  { s with ctl := { s.ctl with watchRead := s.ctl.watchRead.setIfInBounds k true } }

theorem firedNoted_rd (k o : Nat) : (s.firedNoted k).rd o = s.rd o := rfl

theorem firedNoted_watchRead_ne {k j : Nat} (h : j ≠ k) :
    (s.firedNoted j).ctl.watchRead.getD k false = s.ctl.watchRead.getD k false := by
  simp [State.firedNoted, Vector.getD, h]

theorem firedNoted_watchRead_self {k : Nat} (hk : k < 8) : (s.firedNoted k).ctl.watchRead.getD k false = true :=
  watchRead_set hk true _

theorem clearRead_of_fired (h : clearsFired key (s.rd key &&& x &&& m)) : s.clearRead key x m =
    (s.bitsCleared key (s.rd key &&& x &&& m)).firedNoted ((key - 0x031000) / 0x10) := if_pos h

theorem clearRead_of_not_fired (h : ¬ clearsFired key (s.rd key &&& x &&& m)) :
    s.clearRead key x m = s.bitsCleared key (s.rd key &&& x &&& m) := if_neg h

theorem bitsCleared_shape (clr : Word) : s.bitsCleared key clr = { s with regs := (s.bitsCleared key clr).regs } := by
  unfold State.bitsCleared
  split <;> rfl

/-- A read that clears changes registers, and which watches have had FIRED read. -/
theorem clearRead_readsOnly : s.ReadsOnly (s.clearRead key x m) := by
  unfold State.ReadsOnly
  by_cases h : clearsFired key (s.rd key &&& x &&& m)
  · rw [clearRead_of_fired s key x m h, bitsCleared_shape, State.firedNoted]
  · rw [clearRead_of_not_fired s key x m h, bitsCleared_shape]

theorem clearRead_rd (o : Nat) : (s.clearRead key x m).rd o = if o = key then s.rd key &&& ~~~(x &&& m) else s.rd o := by
  have hclear : s.rd key &&& ~~~(s.rd key &&& x &&& m) = s.rd key &&& ~~~(x &&& m) := by
    rw [BitVec.and_assoc]
    ext i hi
    simp only [BitVec.getElem_and, BitVec.getElem_not]
    cases (s.rd key)[i] <;> simp
  have hwritten : (s.clearRead key x m).rd o = (s.bitsCleared key (s.rd key &&& x &&& m)).rd o := by
    by_cases h : clearsFired key (s.rd key &&& x &&& m)
    · rw [clearRead_of_fired s key x m h, firedNoted_rd]
    · rw [clearRead_of_not_fired s key x m h]
  rw [hwritten, ← hclear]
  unfold State.bitsCleared
  split
  · rename_i hnone
    rw [hnone, show ~~~(0 : Word) = BitVec.allOnes 64 from BitVec.not_zero, BitVec.and_allOnes]
    split
    · rename_i ho
      rw [ho]
    · rfl
  · exact rd_wr s _ _ _

theorem clearRead_rd_self : (s.clearRead key x m).rd key = s.rd key &&& ~~~(x &&& m) := (clearRead_rd s key x m key).trans (if_pos rfl)

variable {key} in
theorem clearRead_rd_ne {o : Nat} (h : o ≠ key) : (s.clearRead key x m).rd o = s.rd o := (clearRead_rd s key x m o).trans (if_neg h)

/-- A read only takes bits away. -/
theorem clearRead_le (o : Nat) : ((s.clearRead key x m).rd o).toNat ≤ (s.rd o).toNat := by
  rw [clearRead_rd]
  split
  · rename_i ho
    rw [ho, BitVec.toNat_and]
    exact Nat.and_le_left
  · exact Nat.le_refl _

variable {key x m} in
theorem clearRead_of_none (h : s.rd key &&& x &&& m = 0) : s.clearRead key x m = s := by
  rw [clearRead_of_not_fired s key x m fun hfired => by simp [h, clearsFired] at hfired, h]
  exact if_pos rfl

theorem bitsCleared_ctl (clr : Word) : (s.bitsCleared key clr).ctl = s.ctl := (congrArg State.ctl (bitsCleared_shape s key clr) :)

variable {key} in
/-- Only a read of a watch's own configuration notes that its FIRED has been read. -/
theorem clearRead_watchRead_ne {k : Nat} (h : key ≠ rEvwCfg k) :
    (s.clearRead key x m).ctl.watchRead.getD k false = s.ctl.watchRead.getD k false := by
  by_cases hfired : clearsFired key (s.rd key &&& x &&& m)
  · have hk : (key - 0x031000) / 0x10 ≠ k := by
      obtain ⟨hlow, hhigh, hmod, -⟩ := hfired
      simp only [rEvwCfg] at h
      omega
    rw [clearRead_of_fired s key x m hfired, firedNoted_watchRead_ne _ hk, bitsCleared_ctl]
  · rw [clearRead_of_not_fired s key x m hfired, bitsCleared_ctl]

theorem clearRead_watchRead_self {k : Nat} (hk : k < 8) (hbit : (s.rd (rEvwCfg k) &&& x &&& m).getLsbD 9 = true) :
    (s.clearRead (rEvwCfg k) x m).ctl.watchRead.getD k false = true := by
  have hindex : (rEvwCfg k - 0x031000) / 0x10 = k := by simp only [rEvwCfg]; omega
  have hfired : clearsFired (rEvwCfg k) (s.rd (rEvwCfg k) &&& x &&& m) :=
    ⟨by simp only [rEvwCfg]; omega, by simp only [rEvwCfg]; omega, by simp only [rEvwCfg]; omega, hbit⟩
  rw [clearRead_of_fired s _ x m hfired, hindex, firedNoted_watchRead_self _ hk]

end

/-- A watch's value has no RC bits, and FIRED is the one of its configuration. -/
theorem rcMask_evw : ∀ k < 8, ∀ flags, rcMask (rEvwVal k) flags = 0 ∧ rcMask (rEvwCfg k) flags = BitVec.twoPow 64 9 := by
  decide +kernel

/-- A read leaves every watch settled: one whose FIRED it clears waits for a new value (R392). -/
theorem clearRead_keeps_watch {s : State} {k : Nat} (hk : k < 8) (key : Nat) (x m : Word) (flags : Bool) (h : s.watchSettled k) :
    (s.clearRead key x (m &&& rcMask key flags)).watchSettled k := by
  obtain ⟨hval, hcfg⟩ := rcMask_evw k hk flags
  by_cases hkey : key = rEvwCfg k
  · subst hkey
    by_cases hfired : (s.rd (rEvwCfg k) &&& x &&& m).getLsbD 9 = true
    · have hbit : (s.rd (rEvwCfg k) &&& x &&& (m &&& rcMask (rEvwCfg k) flags)).getLsbD 9 = true := by
        rw [hcfg, ← BitVec.and_assoc, BitVec.getLsbD_and, hfired]
        rfl
      intro _ _ hread
      exact absurd ((clearRead_watchRead_self s x _ hk hbit).symm.trans hread) (by decide)
    · rwa [clearRead_of_none]
      rw [hcfg, ← BitVec.and_assoc, BitVec.and_twoPow, if_neg hfired]
      rfl
  · have hvalue : (s.clearRead key x (m &&& rcMask key flags)).rd (rEvwVal k) = s.rd (rEvwVal k) := by
      by_cases hk' : key = rEvwVal k
      · subst hk'
        have hnone : s.rd (rEvwVal k) &&& x &&& (m &&& rcMask (rEvwVal k) flags) = 0 := by
          rw [hval, show m &&& 0 = 0 from BitVec.and_zero]
          exact BitVec.and_zero
        rw [clearRead_of_none s hnone]
      · exact clearRead_rd_ne s _ _ (Ne.symm hk')
    intro h8 h9 hread
    rw [clearRead_rd_ne s _ _ (Ne.symm hkey)] at h8 h9
    rw [clearRead_watchRead_ne s _ _ hkey] at hread
    rw [hvalue, clearRead_rd_ne s _ _ (Ne.symm hkey)]
    exact Nat.lt_of_le_of_lt (clearRead_le s _ _ _ _) (h h8 h9 hread)

theorem clearRead_inv {s : State} (h : s.Inv) (key : Nat) (x m : Word) (flags : Bool) :
    (s.clearRead key x (m &&& rcMask key flags)).Inv where
  watch k hk := clearRead_keeps_watch hk key x m flags (h.watch k hk)
  quiesce := by
    unfold State.quiesceSettled
    rw [clearRead_readsOnly]
    exact h.quiesce

theorem respond_inv {s : State} (h : s.Inv) (v : Word) : (s.respond v).Inv := ⟨h.watch, h.quiesce⟩

/-! ### What a read answers (R401, R414) -/

section

variable {o : Nat} {wide : Bool} {s : State}

/-- One part of an access cleared by what it read as in `s`. -/
def State.clearPart (s : State) (flags : Bool) (t : State) (p : Part) : State :=
  t.clearRead p.key (s.view p.key) (p.mask &&& rcMask p.key flags)

/-- The registers of a list of parts, read at one moment and cleared. -/
def State.readParts (s : State) (ps : List Part) (flags : Bool) : State := ps.foldl (s.clearPart flags) s

/-- The data of a read of a list of parts. -/
def State.readData (s : State) (ps : List Part) : Word := BitVec.ofNat 64 (ps.map (fun p => p.take (s.view p.key).toNat)).sum

theorem foldl_clearPart_inv (ps : List Part) (flags : Bool) {t : State} (h : t.Inv) : (ps.foldl (s.clearPart flags) t).Inv := by
  induction ps generalizing t with
  | nil => exact h
  | cons p ps ih => exact ih (clearRead_inv h _ _ _ _)

theorem foldl_clearPart_readsOnly (ps : List Part) (flags : Bool) (t : State) : t.ReadsOnly (ps.foldl (s.clearPart flags) t) := by
  induction ps generalizing t with
  | nil => rfl
  | cons p ps ih => exact (clearRead_readsOnly t _ _ _).trans (ih _)

/-- What an access reaches when it is not refused: parts of registers, or one bit through its alias. -/
def Reaches (o : Nat) (wide : Bool) (ps : List Part) (alone : Bool) : Prop :=
  if alone then ∃ p, target o wide = .single p ∧ ps = [p] else target o wide = .regs ps

theorem exec_read {ps : List Part} {alone : Bool} (hinv : s.Inv) (hawake : s.awake (wakeOf o) = true)
    (ht : Reaches o wide ps alone) :
    exec (.registerReadClear o wide) s = .next ((s.readParts ps alone).respond (s.readData ps)) := by
  have heff : effRegisterReadClear o wide s = (s.readParts ps alone).respond (s.readData ps) := by
    unfold Reaches at ht
    unfold effRegisterReadClear
    cases alone with
    | false =>
      rw [if_neg Bool.false_ne_true] at ht
      rw [ht]
      exact access_awake _ _ _ hawake
    | true =>
      rw [if_pos rfl] at ht
      obtain ⟨p, ht, rfl⟩ := ht
      rw [ht]
      refine (access_awake _ _ _ hawake).trans ?_
      rw [State.readData, List.map_singleton, List.sum_singleton]
      rfl
  refine (done_live (effRegisterReadClear o wide) s (resetOn_of_awake s _ hawake)).trans ?_
  have hkept : (s.readParts ps alone).Inv := foldl_clearPart_inv ps alone hinv
  rw [heff, settled_of_inv (respond_inv hkept _)]

end

/-- An access reaches two registers only where its halves are not of one. -/
theorem target_pair_ne {o : Nat} {wide : Bool} {a b : Part} (h : target o wide = .regs [a, b]) : a.key ≠ b.key := by
  grind [target]

section

variable {s : State}

theorem readParts_one (p : Part) (flags : Bool) :
    s.readParts [p] flags = s.clearRead p.key (s.view p.key) (p.mask &&& rcMask p.key flags) := rfl

theorem readParts_two (a b : Part) (flags : Bool) : s.readParts [a, b] flags =
    (s.clearRead a.key (s.view a.key) (a.mask &&& rcMask a.key flags)).clearRead b.key (s.view b.key)
      (b.mask &&& rcMask b.key flags) := rfl

theorem readData_one (p : Part) : s.readData [p] = BitVec.ofNat 64 (p.take (s.view p.key).toNat) := by
  rw [State.readData, List.map_singleton, List.sum_singleton]

theorem readData_two (a b : Part) :
    s.readData [a, b] = BitVec.ofNat 64 (a.take (s.view a.key).toNat + b.take (s.view b.key).toNat) := by
  rw [State.readData, List.map_cons, List.map_singleton, List.sum_cons, List.sum_singleton]

/-- What a read leaves alone. -/
theorem readParts_frame (ps : List Part) (flags : Bool) (v : Word) :
    ((s.readParts ps flags).respond v).mem = s.mem ∧ ((s.readParts ps flags).respond v).queues = s.queues
      ∧ ((s.readParts ps flags).respond v).cmds = s.cmds ∧ ((s.readParts ps flags).respond v).staged = s.staged
      ∧ ((s.readParts ps flags).respond v).ports = s.ports := by
  have hframe : s.ReadsOnly (s.readParts ps flags) := foldl_clearPart_readsOnly ps flags s
  exact ⟨(congrArg State.mem hframe :), (congrArg State.queues hframe :), (congrArg State.cmds hframe :),
    (congrArg State.staged hframe :), (congrArg State.ports hframe :)⟩

end

/-- Settles O14: one register, or one bit through its alias, and two registers, each sampled before any is cleared. -/
theorem readsClear : Obligations.ReadsClear := by
  unfold Obligations.ReadsClear
  refine ⟨fun o wide p alone s hinv hawake ht => ?_, fun o a b s hinv hawake ht => ?_⟩
  · have hreach : Reaches o wide [p] alone := by
      unfold Reaches
      cases alone with
      | false => exact ht
      | true => exact ⟨p, ht, rfl⟩
    obtain ⟨hmem, hqueues, hcmds, hstaged, -⟩ := readParts_frame (s := s) [p] alone (s.readData [p])
    refine ⟨_, exec_read hinv hawake hreach, ?_, ?_, fun o' hne => ?_, hmem, hqueues, hcmds, hstaged⟩
    · rw [readData_one]
      rfl
    · rw [respond_rd, readParts_one, clearRead_rd_self, BitVec.and_assoc]
    · rw [respond_rd, readParts_one, clearRead_rd_ne _ _ _ hne]
  · have hne := target_pair_ne ht
    obtain ⟨hmem, hqueues, hcmds, -, -⟩ := readParts_frame (s := s) [a, b] false (s.readData [a, b])
    refine ⟨_, exec_read (alone := false) hinv hawake ht, ?_, ?_, ?_, fun o' ha hb => ?_, hmem, hqueues, hcmds⟩
    · rw [readData_two]
      rfl
    · rw [respond_rd, readParts_two, clearRead_rd_ne _ _ _ hne, clearRead_rd_self, BitVec.and_assoc]
    · rw [respond_rd, readParts_two, clearRead_rd_self, clearRead_rd_ne _ _ _ hne.symm, BitVec.and_assoc]
    · rw [respond_rd, readParts_two, clearRead_rd_ne _ _ _ hb, clearRead_rd_ne _ _ _ ha]

end Sys2Proof.Machine

/-! Writes of register fields by class (spec/14_registers.md R404 to R407): what is staged, what applies at once, and what a write of
a register that has no effect beyond its fields comes to. -/

namespace Sys2Proof.Machine

/-! ### Bits of a word replaced -/

/-- The bits of a mask taken from another word. -/
def overlay (w v m : Word) : Word := (w &&& ~~~m) ||| (v &&& m)

section

variable (w v : Word) {m k : Word}

theorem getLsbD_overlay {i : Nat} (hi : i < 64) :
    (overlay w v m).getLsbD i = if m.getLsbD i then v.getLsbD i else w.getLsbD i := by
  simp only [overlay, BitVec.getLsbD_or, BitVec.getLsbD_and, BitVec.getLsbD_not, hi, decide_true, Bool.true_and]
  cases m.getLsbD i <;> simp

theorem overlay_zero : overlay w v 0 = w := by
  refine BitVec.eq_of_getLsbD_eq fun i hi => ?_
  rw [getLsbD_overlay _ _ hi]
  simp

theorem overlay_and_self : overlay w v m &&& m = v &&& m := by
  refine BitVec.eq_of_getLsbD_eq fun i hi => ?_
  rw [BitVec.getLsbD_and, BitVec.getLsbD_and, getLsbD_overlay _ _ hi]
  cases m.getLsbD i <;> simp

theorem overlay_and_of_disjoint (h : m &&& k = 0) : overlay w v m &&& k = w &&& k := by
  refine BitVec.eq_of_getLsbD_eq fun i hi => ?_
  have hbit : (m.getLsbD i && k.getLsbD i) = false := by rw [← BitVec.getLsbD_and, h]; exact BitVec.getLsbD_zero
  rw [BitVec.getLsbD_and, BitVec.getLsbD_and, getLsbD_overlay _ _ hi]
  cases hm : m.getLsbD i <;> simp_all

theorem overlay_and_of_agree (h : w &&& k = v &&& k) : overlay w v m &&& k = v &&& k := by
  refine BitVec.eq_of_getLsbD_eq fun i hi => ?_
  have hbit : (w.getLsbD i && k.getLsbD i) = (v.getLsbD i && k.getLsbD i) := by
    rw [← BitVec.getLsbD_and, h, BitVec.getLsbD_and]
  rw [BitVec.getLsbD_and, BitVec.getLsbD_and, getLsbD_overlay _ _ hi]
  cases m.getLsbD i <;> simp_all

/-- A field that a mask does not touch. -/
theorem setBits_and {lo n x : Nat} (h : ∀ i, lo ≤ i → i < lo + n → k.getLsbD i = false) : setBits w lo n x &&& k = w &&& k := by
  refine BitVec.eq_of_getLsbD_eq fun i hi => ?_
  rw [BitVec.getLsbD_and, BitVec.getLsbD_and, getLsbD_setBits _ _ _ _ _ hi]
  split
  · rename_i hin
    rw [h i hin.1 hin.2, Bool.and_false, Bool.and_false]
  · rfl

end

/-! ### Registers and their staged copies -/

section

variable (s : State) (key : Nat) (v m : Word)

theorem merge_rd (o : Nat) : (s.merge key v m).rd o = if o = key then overlay (s.rd key) v m else s.rd o := rd_wr s key o _

/-- A staged write shows in the staged value. -/
theorem stage_stagedValue : (s.stage key v m).stagedValue key = overlay (s.stagedValue key) v m := by
  have hrd : (s.stage key v m).rd key = s.rd key := rfl
  unfold State.stagedValue
  rw [hrd]
  unfold State.stage
  simp only [smGet_smSet_self]
  refine BitVec.eq_of_getLsbD_eq fun i hi => ?_
  rw [getLsbD_overlay _ _ hi]
  simp only [BitVec.getLsbD_or, BitVec.getLsbD_and, BitVec.getLsbD_not, hi, decide_true, Bool.true_and]
  cases m.getLsbD i <;> simp

theorem stagedValue_and_congr {s t : State} {o : Nat} {k : Word} (hstaged : t.staged = s.staged)
    (h : t.rd o &&& k = s.rd o &&& k) : t.stagedValue o &&& k = s.stagedValue o &&& k := by
  rw [State.stagedValue, State.stagedValue, hstaged]
  refine BitVec.eq_of_getLsbD_eq fun i hi => ?_
  have hbit : ((t.rd o).getLsbD i && k.getLsbD i) = ((s.rd o).getLsbD i && k.getLsbD i) := by
    rw [← BitVec.getLsbD_and, h, BitVec.getLsbD_and]
  simp only [BitVec.getLsbD_or, BitVec.getLsbD_and, BitVec.getLsbD_not, hi, decide_true, Bool.true_and]
  cases hk : k.getLsbD i <;> simp_all

/-- Outside the ports the fields of the router class are always staged. -/
theorem writeClass_packet (hport : isPortReg key = false) :
    s.writeClass key v m .packet = if m = 0 then s else s.stage key v m := by
  unfold State.writeClass
  simp [hport]

theorem writeClass_step_of_open (h : s.job.isOpen = true) :
    s.writeClass key v m .step = if m = 0 then s else s.stage key v m := by
  unfold State.writeClass
  simp [h]

theorem writeClass_step_of_closed (h : s.job.isOpen = false) : s.writeClass key v m .step =
    if m = 0 then s else { s.applyNow key v m with replayStale := true } := by
  unfold State.writeClass
  simp [h]

theorem writeClass_now : s.writeClass key v m .now = if m = 0 then s else s.merge key v m := rfl

end

/-- `t` is `s` but for registers, staged copies and the staleness of the replay identity. -/
def State.WritesOnly (s t : State) : Prop := t = { s with regs := t.regs, staged := t.staged, replayStale := t.replayStale }

theorem State.WritesOnly.trans {s t u : State} (hst : s.WritesOnly t) (htu : t.WritesOnly u) : s.WritesOnly u :=
  Eq.trans htu (congrArg (fun x : State => { x with regs := u.regs, staged := u.staged, replayStale := u.replayStale }) hst)

/-- The three classes of fields that a plain register can have, written one after another. -/
def State.plainWritten (s : State) (key : Nat) (v : Word) (can : Applied → Word) : State :=
  ((s.writeClass key v (can .now) .now).writeClass key v (can .step) .step).writeClass key v (can .packet) .packet

section

variable {s : State} {key : Nat} (v : Word) {can : Applied → Word} (hport : isPortReg key = false)

theorem writeClass_now_writes (m : Word) : s.WritesOnly (s.writeClass key v m .now) := by
  rw [writeClass_now]
  split <;> rfl

theorem writeClass_step_writes (m : Word) : s.WritesOnly (s.writeClass key v m .step) := by
  unfold State.writeClass
  split
  · rfl
  · simp only
    split <;> rfl

include hport in
theorem writeClass_packet_writes (m : Word) : s.WritesOnly (s.writeClass key v m .packet) := by
  rw [writeClass_packet s key v m hport]
  split <;> rfl

include hport in
theorem plainWritten_writes : s.WritesOnly (s.plainWritten key v can) :=
  ((writeClass_now_writes v _).trans (writeClass_step_writes v _)).trans (writeClass_packet_writes v hport _)

theorem writeClass_now_rd (m : Word) (o : Nat) :
    (s.writeClass key v m .now).rd o = if o = key then overlay (s.rd key) v m else s.rd o := by
  rw [writeClass_now]
  split
  · rename_i hnone
    rw [hnone, overlay_zero]
    split
    · rename_i ho
      rw [ho]
    · rfl
  · exact merge_rd s key v m o

theorem writeClass_step_rd_of_closed (h : s.job.isOpen = false) (m : Word) (o : Nat) :
    (s.writeClass key v m .step).rd o = if o = key then overlay (s.rd key) v m else s.rd o := by
  rw [← writeClass_now_rd, writeClass_step_of_closed _ _ _ _ h, writeClass_now]
  split <;> rfl

theorem writeClass_step_rd_of_open (h : s.job.isOpen = true) (m : Word) (o : Nat) :
    (s.writeClass key v m .step).rd o = s.rd o := by
  rw [writeClass_step_of_open _ _ _ _ h]
  split <;> rfl

include hport in
theorem writeClass_packet_rd (m : Word) (o : Nat) : (s.writeClass key v m .packet).rd o = s.rd o := by
  rw [writeClass_packet s key v m hport]
  split <;> rfl

theorem writeClass_step_stagedValue_of_open (h : s.job.isOpen = true) (m : Word) :
    (s.writeClass key v m .step).stagedValue key = overlay (s.stagedValue key) v m := by
  rw [writeClass_step_of_open _ _ _ _ h]
  split
  · rename_i hnone
    rw [hnone, overlay_zero]
  · exact stage_stagedValue s key v m

include hport in
theorem writeClass_packet_stagedValue (m : Word) :
    (s.writeClass key v m .packet).stagedValue key = overlay (s.stagedValue key) v m := by
  rw [writeClass_packet s key v m hport]
  split
  · rename_i hnone
    rw [hnone, overlay_zero]
  · exact stage_stagedValue s key v m

theorem writeClass_now_job (m : Word) : (s.writeClass key v m .now).job = s.job := (congrArg State.job (writeClass_now_writes v m) :)

include hport

theorem plainWritten_rd_of_open (h : s.job.isOpen = true) (o : Nat) :
    (s.plainWritten key v can).rd o = if o = key then overlay (s.rd key) v (can .now) else s.rd o := by
  rw [State.plainWritten, writeClass_packet_rd v hport, writeClass_step_rd_of_open v (by rw [writeClass_now_job, h]),
    writeClass_now_rd]

theorem plainWritten_rd_of_closed (h : s.job.isOpen = false) (o : Nat) : (s.plainWritten key v can).rd o =
    if o = key then overlay (overlay (s.rd key) v (can .now)) v (can .step) else s.rd o := by
  rw [State.plainWritten, writeClass_packet_rd v hport, writeClass_step_rd_of_closed v (by rw [writeClass_now_job, h])]
  simp only [writeClass_now_rd]
  split <;> rfl

theorem plainWritten_rd_ne {o : Nat} (ho : o ≠ key) : (s.plainWritten key v can).rd o = s.rd o := by
  cases h : s.job.isOpen with
  | true => exact (plainWritten_rd_of_open v hport h o).trans (if_neg ho)
  | false => exact (plainWritten_rd_of_closed v hport h o).trans (if_neg ho)

/-- Fields of class `now` take the value at once. -/
theorem plainWritten_now : (s.plainWritten key v can).rd key &&& can .now = v &&& can .now := by
  cases h : s.job.isOpen with
  | true => rw [plainWritten_rd_of_open v hport h, if_pos rfl, overlay_and_self]
  | false =>
    rw [plainWritten_rd_of_closed v hport h, if_pos rfl]
    exact overlay_and_of_agree _ _ (overlay_and_self _ _)

/-- So do those of the step class while no job is open. -/
theorem plainWritten_step_of_closed (h : s.job.isOpen = false) :
    (s.plainWritten key v can).rd key &&& can .step = v &&& can .step := by
  rw [plainWritten_rd_of_closed v hport h, if_pos rfl, overlay_and_self]

/-- A field of neither class keeps its value. -/
theorem plainWritten_rd_and {k : Word} (hnow : can .now &&& k = 0) (hstep : s.job.isOpen = true ∨ can .step &&& k = 0) :
    (s.plainWritten key v can).rd key &&& k = s.rd key &&& k := by
  cases h : s.job.isOpen with
  | true => rw [plainWritten_rd_of_open v hport h, if_pos rfl, overlay_and_of_disjoint _ _ hnow]
  | false =>
    have hdisjoint := hstep.resolve_left (by rw [h]; exact Bool.false_ne_true)
    rw [plainWritten_rd_of_closed v hport h, if_pos rfl, overlay_and_of_disjoint _ _ hdisjoint, overlay_and_of_disjoint _ _ hnow]

/-- Fields of the step class are staged while a job is open. -/
theorem plainWritten_staged_step (h : s.job.isOpen = true) :
    (s.plainWritten key v can).stagedValue key &&& can .step = v &&& can .step := by
  rw [State.plainWritten, writeClass_packet_stagedValue v hport,
    writeClass_step_stagedValue_of_open v (by rw [writeClass_now_job, h])]
  exact overlay_and_of_agree _ _ (overlay_and_self _ _)

/-- Fields of the router class are staged. -/
theorem plainWritten_staged_packet : (s.plainWritten key v can).stagedValue key &&& can .packet = v &&& can .packet := by
  rw [State.plainWritten, writeClass_packet_stagedValue v hport, overlay_and_self]

end

/-! ### Rows of the register map -/

/-- The classes of one row's fields share no bit. -/
theorem classMask_disjoint : ∀ r ∈ regRows, ∀ locked, r.classMask .now locked &&& r.classMask .step locked = 0
    ∧ r.classMask .now locked &&& r.classMask .packet locked = 0 ∧ r.classMask .step locked &&& r.classMask .packet locked = 0 := by
  decide +kernel

/-- Where a row's registers lie. -/
theorem rowAt_range {key : Nat} {r : RegRow} (h : rowAt key = some r) :
    r ∈ regRows ∧ r.base ≤ key ∧ key < r.base + (r.stride * (r.count - 1) + r.width / 8) := by
  refine ⟨List.mem_of_find?_eq_some h, ?_⟩
  have hindex := List.find?_some h
  unfold RegRow.indexOf at hindex
  split at hindex
  · rename_i hin
    obtain ⟨hbase, hmod, hdiv⟩ := hin
    have hsplit := Nat.div_add_mod (key - r.base) r.stride
    have hrows : r.stride * ((key - r.base) / r.stride) ≤ r.stride * (r.count - 1) := Nat.mul_le_mul_left _ (by omega)
    exact ⟨hbase, by omega⟩
  · exact absurd hindex Bool.false_ne_true

/-- Only registers of a queue have fields of the descriptor class. -/
theorem classMask_descriptor : ∀ r ∈ regRows, ∀ locked, r.classMask .descriptor locked = 0
    ∨ (0x020000 ≤ r.base ∧ r.base + (r.stride * (r.count - 1) + r.width / 8) ≤ 0x021000) := by decide +kernel

theorem classMask_descriptor_of_plain {key : Nat} {r : RegRow} (hrow : rowAt key = some r) (hqueue : isQueueReg key = false)
    (locked : Bool) : r.classMask .descriptor locked = 0 := by
  obtain ⟨hmem, hlow, hhigh⟩ := rowAt_range hrow
  refine (classMask_descriptor r hmem locked).resolve_right fun ⟨hfirst, hlast⟩ => ?_
  simp only [isQueueReg, Bool.and_eq_false_iff, decide_eq_false_iff_not] at hqueue
  omega

/-- What may be written of the registers that other events write too. -/
theorem classMask_shared : ∀ c ∈ [Applied.now, .step, .packet], ∀ locked,
    (rowAt rLock).all (fun r => decide (r.classMask c locked &&& 0xFF00 = 0)) = true
    ∧ (rowAt rCfgCtl).all (fun r => decide (r.classMask c locked &&& 0xC = 0)) = true
    ∧ (rowAt rEvtStatus).all (fun r => decide (r.classMask c locked = 0)) = true := by decide +kernel

/-! ### A register whose write has no effect beyond its fields (R404 to R407, R412) -/

/-- A plain register is none of those whose write acts. -/
structure PlainKey (key : Nat) : Prop where
  below : key < 0x400000
  queue : isQueueReg key = false
  port : isPortReg key = false
  acts : key ≠ rStagedCtl ∧ key ≠ rCfgRef ∧ key ≠ rFabSelf ∧ key ≠ rFabEpoch
  mailbox : key < 0x010000 ∨ 0x011000 ≤ key
  counters : key < 0x030000 ∨ 0x031080 ≤ key
  bank : bankOf key = none

theorem PlainKey.of_plainKey {key : Nat} (h : plainKey key = true) : PlainKey key := by
  simp only [plainKey, Bool.and_eq_true, Bool.not_eq_true', decide_eq_true_eq, Bool.and_eq_false_iff, decide_eq_false_iff_not,
    Option.isNone_iff_eq_none, List.mem_cons, List.not_mem_nil, or_false, not_or] at h
  obtain ⟨⟨⟨⟨⟨⟨⟨-, hbelow⟩, hqueue⟩, hport⟩, hacts⟩, hmailbox⟩, hcounters⟩, hbank⟩ := h
  exact ⟨hbelow, hqueue, hport, hacts, by omega, by omega, hbank⟩

/-- The lock counts a write that it ignores (R412). -/
def State.lockCounted (s : State) (r : RegRow) (mask : Word) : State :=
  if s.fld rLock 0 1 == 1 && (r.maskOf (fun f => decide (f.acc = .rwl)) &&& mask) != 0 then s.sat rLock 8 8 1 else s

/-- The bits that a write of some bits of a row can change, by class. -/
def State.canWrite (s : State) (r : RegRow) (key : Nat) (mask : Word) (c : Applied) : Word :=
  if s.absentReg key then 0 else mask &&& r.classMask c (s.fld rLock 0 1 == 1)

/-- What a write of a plain register leaves before the configuration CRC is seen to. -/
def State.fieldsPut (s : State) (r : RegRow) (key : Nat) (v mask : Word) : State :=
  (s.lockCounted r mask).plainWritten key v (s.canWrite r key mask)

/-- `t` is `s` but for BLOCKING and UPDATING of LGX_CFG_CTL. -/
structure State.FlagsOnly (s t : State) : Prop where
  shape : s.RegsOnly t
  rd : ∀ o k, (o = rCfgCtl → k.getLsbD 2 = false ∧ k.getLsbD 3 = false) → t.rd o &&& k = s.rd o &&& k

theorem State.FlagsOnly.refl (s : State) : s.FlagsOnly s := ⟨rfl, fun _ _ _ => rfl⟩

theorem State.FlagsOnly.trans {s t u : State} (hst : s.FlagsOnly t) (htu : t.FlagsOnly u) : s.FlagsOnly u :=
  ⟨hst.shape.trans htu.shape, fun o k h => (htu.rd o k h).trans (hst.rd o k h)⟩

theorem setFld_rd_and (s : State) (o' lo n x o : Nat) {k : Word}
    (h : o = o' → ∀ i, lo ≤ i → i < lo + n → k.getLsbD i = false) : (s.setFld o' lo n x).rd o &&& k = s.rd o &&& k := by
  by_cases ho : o = o'
  · rw [← ho, rd_setFld_self]
    exact setBits_and _ (h ho)
  · rw [rd_setFld_ne _ _ _ _ _ _ ho]

theorem setFld_flags (s : State) {n : Nat} (hn : n = 2 ∨ n = 3) (x : Nat) : s.FlagsOnly (s.setFld rCfgCtl n 1 x) := by
  refine ⟨rfl, fun o k h => setFld_rd_and s _ _ _ _ _ fun ho i hi hi' => ?_⟩
  obtain ⟨h2, h3⟩ := h ho
  rcases hn with rfl | rfl
  · rwa [show i = 2 by omega]
  · rwa [show i = 3 by omega]

theorem State.FlagsOnly.rd_eq {s t : State} (h : s.FlagsOnly t) {o : Nat} (ho : o ≠ rCfgCtl) : t.rd o = s.rd o := by
  have := h.rd o (BitVec.allOnes 64) fun heq => absurd heq ho
  rwa [BitVec.and_allOnes, BitVec.and_allOnes] at this

section

variable {s : State} {key : Nat} {r : RegRow} (hrow : rowAt key = some r) (hplain : PlainKey key) (v mask : Word)

include hrow hplain

/-- A write of the fields of a plain register. -/
theorem writeFields_of_plain : (s.fieldsPut r key v mask).FlagsOnly (s.writeFields r key v mask) := by
  have hdescriptor := classMask_descriptor_of_plain hrow hplain.queue
  have habsent : (s.lockCounted r mask).absentReg key = s.absentReg key := by
    unfold State.lockCounted
    split <;> rfl
  unfold State.writeFields
  change State.FlagsOnly _ (if (s.lockCounted r mask).absentReg key then s.lockCounted r mask else _)
  rw [habsent]
  unfold State.fieldsPut State.plainWritten State.canWrite
  cases hgrade : s.absentReg key with
  | true =>
    simp only [if_true]
    exact .refl _
  | false =>
    have hnone : ∀ u : State, u.writeClass key v (mask &&& 0) .descriptor = u := fun u => if_pos BitVec.and_zero
    simp only [Bool.false_eq_true, if_false, List.foldl_cons, List.foldl_nil, hdescriptor, hnone]
    split
    · exact setFld_flags _ (.inr rfl) 1
    · exact .refl _

/-- A write of a plain register writes its fields; CHECK of LGX_CFG_CTL off clears BLOCKING (R411; DEDUCED, log 81). -/
theorem writeReg_plain : s.writeReg key v mask =
    if key = rCfgCtl then
      if (s.writeFields r key v mask).fld rCfgCtl 0 1 = 0 then (s.writeFields r key v mask).setFld rCfgCtl 2 1 0
      else s.writeFields r key v mask
    else s.writeFields r key v mask := by
  obtain ⟨hbelow, hqueue, hport, ⟨hstagedCtl, hcfgRef, hfabSelf, hfabEpoch⟩, hmailbox, hcounters, hbank⟩ := hplain
  unfold State.writeReg
  simp only [hrow, hqueue, hport, hbank, hstagedCtl, hcfgRef, hfabSelf, hfabEpoch, Bool.false_and, Bool.false_eq_true, if_false]
  rw [if_neg (by omega), if_neg (by omega), if_neg (by omega), if_neg (by omega), if_neg (by omega)]

theorem writeReg_of_plain : (s.fieldsPut r key v mask).FlagsOnly (s.writeReg key v mask) := by
  have hfields := writeFields_of_plain (s := s) hrow hplain v mask
  rw [writeReg_plain hrow hplain]
  split
  · split
    · exact hfields.trans (setFld_flags _ (.inl rfl) 0)
    · exact hfields
  · exact hfields

end

end Sys2Proof.Machine

/-! REGISTER_WRITE (spec/14_registers.md R401 to R407, R412, R414): plain registers, pairs of them and request areas, the registers of
absent units (R402), and the lock. -/

namespace Sys2Proof.Machine

/-! ### What the lock's count and the settling leave -/

section

variable {s : State} {key : Nat} {r : RegRow}

theorem lockCounted_writes (mask : Word) : s.WritesOnly (s.lockCounted r mask) := by
  unfold State.lockCounted
  split <;> rfl

theorem State.FlagsOnly.writes {t : State} (h : s.FlagsOnly t) : s.WritesOnly t := by
  have hstaged : t.staged = s.staged := (congrArg State.staged h.shape :)
  have hstale : t.replayStale = s.replayStale := (congrArg State.replayStale h.shape :)
  rw [State.WritesOnly, hstaged, hstale]
  exact h.shape

theorem lockCounted_rd_and (mask : Word) {o : Nat} {k : Word} (h : o = rLock → ∀ i, 8 ≤ i → i < 16 → k.getLsbD i = false) :
    (s.lockCounted r mask).rd o &&& k = s.rd o &&& k := by
  unfold State.lockCounted
  split
  · exact setFld_rd_and s _ _ _ _ _ h
  · rfl

theorem lockCounted_rd_ne (mask : Word) {o : Nat} (ho : o ≠ rLock) : (s.lockCounted r mask).rd o = s.rd o := by
  unfold State.lockCounted
  split
  · exact rd_sat_ne _ _ _ _ _ _ ho
  · rfl

theorem settled_rd_and {o : Nat} {k : Word} (hcfg : ∀ j < 8, o ≠ rEvwCfg j) (h : o = rEvtStatus → k = 0) :
    s.settled.rd o &&& k = s.rd o &&& k := by
  by_cases ho : o = rEvtStatus
  · rw [h ho]
    exact BitVec.and_zero.trans BitVec.and_zero.symm
  · rw [settled_rd _ _ ho hcfg]

theorem PlainKey.ne_evwCfg (h : PlainKey key) : ∀ j < 8, key ≠ rEvwCfg j := fun j hj => by
  have := h.counters
  simp only [rEvwCfg]
  omega

/-- A plain register that other events write too has no bits of theirs among those that can be written. -/
structure Spares (key : Nat) (k : Word) : Prop where
  lock : key = rLock → ∀ i, 8 ≤ i → i < 16 → k.getLsbD i = false
  flags : key = rCfgCtl → k.getLsbD 2 = false ∧ k.getLsbD 3 = false
  causes : key = rEvtStatus → k = 0

theorem Spares.zero : Spares key 0 :=
  ⟨fun _ _ _ _ => BitVec.getLsbD_zero, fun _ => ⟨BitVec.getLsbD_zero, BitVec.getLsbD_zero⟩, fun _ => rfl⟩

theorem Spares.and {k : Word} (h : Spares key k) (m : Word) : Spares key (m &&& k) where
  lock hk i hi hi' := by rw [BitVec.getLsbD_and, h.lock hk i hi hi', Bool.and_false]
  flags hk := by
    obtain ⟨h2, h3⟩ := h.flags hk
    exact ⟨by rw [BitVec.getLsbD_and, h2, Bool.and_false], by rw [BitVec.getLsbD_and, h3, Bool.and_false]⟩
  causes hk := by
    rw [h.causes hk]
    exact BitVec.and_zero

theorem classMask_spares (hrow : rowAt key = some r) {c : Applied} (hc : c ∈ [Applied.now, .step, .packet]) (locked : Bool) :
    Spares key (r.classMask c locked) := by
  obtain ⟨hlock, hctl, hevt⟩ := classMask_shared c hc locked
  have hbit : ∀ {m : Word} {i : Nat}, r.classMask c locked &&& m = 0 → m.getLsbD i = true →
      (r.classMask c locked).getLsbD i = false := fun {m i} hzero hm => by
    have := congrArg (fun x : Word => x.getLsbD i) hzero
    simpa [BitVec.getLsbD_and, hm] using this
  refine ⟨fun hk i hi hi' => ?_, fun hk => ?_, fun hk => ?_⟩
  · rw [← hk, hrow, Option.all_some, decide_eq_true_eq] at hlock
    have hbits : ∀ j < 8, (0xFF00 : Word).getLsbD (8 + j) = true := by decide
    have := hbits (i - 8) (by omega)
    rw [show 8 + (i - 8) = i by omega] at this
    exact hbit hlock this
  · rw [← hk, hrow, Option.all_some, decide_eq_true_eq] at hctl
    exact ⟨hbit hctl (by decide), hbit hctl (by decide)⟩
  · rw [← hk, hrow, Option.all_some, decide_eq_true_eq] at hevt
    exact hevt

theorem canWrite_spares (hrow : rowAt key = some r) (mask : Word) {c : Applied} (hc : c ∈ [Applied.now, .step, .packet]) :
    Spares key (s.canWrite r key mask c) := by
  unfold State.canWrite
  split
  · exact .zero
  · exact (classMask_spares hrow hc _).and mask

/-- The classes share no bit that can be written. -/
theorem canWrite_disjoint (hrow : rowAt key = some r) (mask : Word) :
    s.canWrite r key mask .now &&& s.canWrite r key mask .step = 0 ∧ s.canWrite r key mask .now &&& s.canWrite r key mask .packet = 0
      ∧ s.canWrite r key mask .step &&& s.canWrite r key mask .packet = 0 := by
  obtain ⟨hns, hnp, hsp⟩ := classMask_disjoint r (List.mem_of_find?_eq_some hrow) (s.fld rLock 0 1 == 1)
  have hand : ∀ a b : Word, a &&& b = 0 → (mask &&& a) &&& (mask &&& b) = 0 := fun a b h => by
    rw [BitVec.and_comm mask b, BitVec.and_assoc, ← BitVec.and_assoc a, h, show (0 : Word) &&& mask = 0 from BitVec.zero_and]
    exact BitVec.and_zero
  unfold State.canWrite
  split
  · exact ⟨BitVec.and_zero, BitVec.and_zero, BitVec.and_zero⟩
  · exact ⟨hand _ _ hns, hand _ _ hnp, hand _ _ hsp⟩

end

/-! ### What a write of a plain register leaves -/

/-- What a write of a plain register leaves, once answered and settled. -/
structure PlainWrite (s t : State) (key : Nat) (v : Word) (can : Applied → Word) : Prop where
  bus : t.bus = { data := 0, error := false }
  now : t.rd key &&& can .now = v &&& can .now
  closed : s.job.isOpen = false → t.rd key &&& can .step = v &&& can .step
  waits : s.job.isOpen = true → t.rd key &&& can .step = s.rd key &&& can .step
    ∧ t.stagedValue key &&& can .step = v &&& can .step
  packet : t.rd key &&& can .packet = s.rd key &&& can .packet ∧ t.stagedValue key &&& can .packet = v &&& can .packet
  rest : key ≠ rLock → key ≠ rCfgCtl → key ≠ rEvtStatus →
    t.rd key &&& ~~~(can .now ||| can .step) = s.rd key &&& ~~~(can .now ||| can .step)
  others : ∀ o, o ≠ key → o ≠ rLock → o ≠ rCfgCtl → o ≠ rEvtStatus → (∀ k < 8, o ≠ rEvwCfg k) → t.rd o = s.rd o
  frame : t.mem = s.mem ∧ t.queues = s.queues ∧ t.cmds = s.cmds ∧ t.ports = s.ports

/-- What is outside two masks is outside the first. -/
theorem and_not_or_left (a b : Word) : a &&& ~~~(a ||| b) = 0 := by
  refine BitVec.eq_of_getLsbD_eq fun i hi => ?_
  simp only [BitVec.getLsbD_and, BitVec.getLsbD_not, BitVec.getLsbD_or, hi, decide_true, Bool.true_and]
  cases a.getLsbD i <;> simp

section

variable {s u : State} {key : Nat} {r : RegRow} (hplain : PlainKey key) (v mask : Word)
  (hu : (s.fieldsPut r key v mask).FlagsOnly u)

include hplain hu

theorem written_rd_and {k : Word} (hk : Spares key k) :
    (u.respond 0).settled.rd key &&& k = (s.fieldsPut r key v mask).rd key &&& k :=
  (settled_rd_and (s := u.respond 0) hplain.ne_evwCfg hk.causes).trans (hu.rd key k hk.flags)

theorem written_stagedValue_and {k : Word} (hk : Spares key k) :
    (u.respond 0).settled.stagedValue key &&& k = (s.fieldsPut r key v mask).stagedValue key &&& k :=
  stagedValue_and_congr ((settled_staged _).trans (congrArg State.staged hu.shape :))
    (written_rd_and hplain v mask hu hk)

theorem plainWrite (hrow : rowAt key = some r) : PlainWrite s (u.respond 0).settled key v (s.canWrite r key mask) := by
  obtain ⟨hns, hnp, hsp⟩ := canWrite_disjoint (s := s) hrow mask
  have hnow := canWrite_spares (s := s) hrow mask (c := .now) (by simp)
  have hstep := canWrite_spares (s := s) hrow mask (c := .step) (by simp)
  have hpacket := canWrite_spares (s := s) hrow mask (c := .packet) (by simp)
  have hjob : (s.lockCounted r mask).job = s.job := (congrArg State.job (lockCounted_writes (r := r) mask) :)
  have hrd : ∀ {k : Word}, Spares key k → (u.respond 0).settled.rd key &&& k = (s.fieldsPut r key v mask).rd key &&& k :=
    written_rd_and hplain v mask hu
  have hstaged : ∀ {k : Word}, Spares key k →
      (u.respond 0).settled.stagedValue key &&& k = (s.fieldsPut r key v mask).stagedValue key &&& k :=
    written_stagedValue_and hplain v mask hu
  have hframe : s.WritesOnly u := ((lockCounted_writes mask).trans (plainWritten_writes v hplain.port)).trans hu.writes
  refine ⟨settled_bus _, ?_, fun hclosed => ?_, fun hopen => ⟨?_, ?_⟩, ⟨?_, ?_⟩, fun hlock hctl hevt => ?_,
    fun o hne hlock hctl hevt hcfg => ?_, (settled_mem _).trans (congrArg State.mem hframe :),
    (settled_queues _).trans (congrArg State.queues hframe :), (settled_cmds _).trans (congrArg State.cmds hframe :),
    (settled_ports _).trans (congrArg State.ports hframe :)⟩
  · rw [hrd hnow]
    exact plainWritten_now v hplain.port
  · rw [hrd hstep]
    exact plainWritten_step_of_closed v hplain.port (by rw [hjob, hclosed])
  · rw [hrd hstep, State.fieldsPut, plainWritten_rd_and v hplain.port hns (.inl (by rw [hjob, hopen])),
      lockCounted_rd_and mask hstep.lock]
  · rw [hstaged hstep]
    exact plainWritten_staged_step v hplain.port (by rw [hjob, hopen])
  · rw [hrd hpacket, State.fieldsPut, plainWritten_rd_and v hplain.port hnp (.inr hsp), lockCounted_rd_and mask hpacket.lock]
  · rw [hstaged hpacket]
    exact plainWritten_staged_packet v hplain.port
  · have hspares : Spares key (~~~(s.canWrite r key mask .now ||| s.canWrite r key mask .step)) :=
      ⟨fun h => absurd h hlock, fun h => absurd h hctl, fun h => absurd h hevt⟩
    rw [hrd hspares, State.fieldsPut, plainWritten_rd_and v hplain.port (and_not_or_left _ _)
      (.inr (by rw [BitVec.or_comm]; exact and_not_or_left _ _)), lockCounted_rd_ne mask hlock]
  · rw [settled_rd _ _ hevt hcfg, respond_rd, hu.rd_eq hctl, State.fieldsPut, plainWritten_rd_ne v hplain.port hne,
      lockCounted_rd_ne mask hlock]

end

section

variable {o : Nat} {wide : Bool} {s : State}

/-- What a write at an offset that reaches registers leaves. -/
theorem exec_write_regs {ps : List Part} (value : Word) (ht : target o wide = .regs ps) (hawake : s.awake (wakeOf o) = true) :
    exec (.registerWrite o wide value) s =
      .next (((s.writeAt o ps (if wide then value.toNat else value.toNat % 2 ^ 32)).respond 0).settled) := by
  have heff : effRegisterWrite o wide value s =
      (s.writeAt o ps (if wide then value.toNat else value.toNat % 2 ^ 32)).respond 0 := by
    unfold effRegisterWrite
    rw [ht]
    exact access_awake _ _ _ hawake
  exact (done_live (effRegisterWrite o wide value) s (resetOn_of_awake s _ hawake)).trans (by rw [heff])

/-- What a write of one bit through its alias leaves (R414). -/
theorem exec_write_single {p : Part} (value : Word) (ht : target o wide = .single p) (hawake : s.awake (wakeOf o) = true) :
    exec (.registerWrite o wide value) s =
      .next (((s.writeReg p.key (p.place (value.toNat % 2)) p.mask).respond 0).settled) := by
  have heff : effRegisterWrite o wide value s = (s.writeReg p.key (p.place (value.toNat % 2)) p.mask).respond 0 := by
    have hbit : (if wide then value.toNat else value.toNat % 2 ^ 32) % 2 = value.toNat % 2 := by
      split
      · rfl
      · exact Nat.mod_mod_of_dvd _ (by decide)
    unfold effRegisterWrite
    rw [ht]
    refine (access_awake _ _ _ hawake).trans ?_
    rw [hbit]
  exact (done_live (effRegisterWrite o wide value) s (resetOn_of_awake s _ hawake)).trans (by rw [heff])

/-- A 64-bit write of two registers writes the lower one first (R401). -/
theorem writeAt_of_none {ps : List Part} (v : Nat) (hpair : requestPair o = none) :
    s.writeAt o ps v = ps.foldl (fun s p => s.writeReg p.key (p.place v) p.mask) s := by
  rw [State.writeAt, hpair]

/-- A request area is written while its pair is not BUSY (R373). -/
theorem writeAt_of_pair {ps : List Part} {m : Nat} (v : Nat) (hpair : requestPair o = some m) : s.writeAt o ps v =
    if s.mbxBusy m then s.sat (rMbxState m) 8 8 1 else ps.foldl (fun s p => s.merge p.key (p.place v) p.mask) s := by
  rw [State.writeAt, hpair]

end

/-- Settles O10: one part of a plain register by `plainWrite` (DEDUCED, log 83, log 85), two registers, and a request area by its
pair. -/
theorem registerWrites : Obligations.RegisterWrites := by
  unfold Obligations.RegisterWrites
  refine ⟨fun o wide value p r s hreach hkey hrow hpair hawake => ?_, fun o wide value ps s ht hawake => ?_⟩
  · intro v locked can
    have hplain := PlainKey.of_plainKey hkey
    have hexec : exec (.registerWrite o wide value) s = .next (((s.writeReg p.key v p.mask).respond 0).settled) := by
      rcases hreach with ht | ht
      · rw [exec_write_regs value ht hawake, writeAt_of_none _ hpair]
        simp only [v, ht, List.foldl_cons, List.foldl_nil, reduceCtorEq, if_false]
      · rw [exec_write_single value ht hawake]
        simp only [v, ht, if_true]
    obtain ⟨hbus, hnow, hclosed, hwaits, ⟨hpacket, hstaged⟩, hrest, hothers, hframe⟩ :=
      plainWrite hplain v p.mask (writeReg_of_plain (s := s) hrow hplain v p.mask) hrow
    exact ⟨_, hexec, hbus, hnow, hclosed, hwaits, hpacket, hstaged, hrest, hothers, hframe⟩
  · intro v
    have hexec := exec_write_regs (s := s) value ht hawake
    refine ⟨fun a b hps hpair => ?_, fun m hpair => ⟨fun hbusy => ?_, fun p hps hbusy => ?_⟩⟩
    · rw [hexec, writeAt_of_none _ hpair, hps]
      rfl
    · rw [hexec, writeAt_of_pair _ hpair, if_pos hbusy]
    · rw [hexec, writeAt_of_pair _ hpair, hbusy, hps]
      rfl

/-! ### Registers of absent units (R402) -/

section

variable {s : State} {k : Nat} (habsent : s.absentReg k = true)

include habsent

/-- Only the registers of Carding and of the Feed expander can be absent. -/
theorem absentReg_range : 0x046000 ≤ k ∧ k < 0x047000 := by
  simp only [State.absentReg, Bool.and_eq_true, decide_eq_true_eq] at habsent
  exact ⟨habsent.1.2, habsent.2⟩

theorem view_of_absent : s.view k = 0 := by
  have hk : k ≠ rStagedData := by
    have := absentReg_range habsent
    simp only [rStagedData]
    omega
  rw [State.view, if_neg hk, State.applied, if_pos habsent]

end

/-- A read of absent registers answers 0 and clears nothing. -/
theorem readParts_of_absent {s : State} {ps : List Part} (flags : Bool) (habsent : ∀ p ∈ ps, s.absentReg p.key = true) :
    s.readParts ps flags = s ∧ s.readData ps = 0 := by
  constructor
  · unfold State.readParts
    induction ps with
    | nil => rfl
    | cons p ps ih =>
      have hnone : s.rd p.key &&& s.view p.key &&& (p.mask &&& rcMask p.key flags) = 0 := by
        rw [view_of_absent (habsent p (by simp)), show s.rd p.key &&& 0 = 0 from BitVec.and_zero]
        exact BitVec.zero_and
      rw [List.foldl_cons, State.clearPart, clearRead_of_none s hnone]
      exact ih fun q hq => habsent q (by simp [hq])
  · have hzero : (ps.map (fun p => p.take (s.view p.key).toNat)).sum = 0 := by
      refine List.sum_eq_zero fun n hn => ?_
      obtain ⟨p, hp, rfl⟩ := List.mem_map.mp hn
      rw [view_of_absent (habsent p hp), Part.take]
      exact Nat.mul_eq_zero.mpr (.inl (by simp [bitsAt]))
    rw [State.readData, hzero]
    rfl


/-- `t` is `s` but for LGX_LOCK. -/
structure State.LockOnly (s t : State) : Prop where
  shape : s.RegsOnly t
  rd : ∀ o, o ≠ rLock → t.rd o = s.rd o

theorem State.LockOnly.refl (s : State) : s.LockOnly s := ⟨rfl, fun _ _ => rfl⟩

theorem State.LockOnly.trans {s t u : State} (hst : s.LockOnly t) (htu : t.LockOnly u) : s.LockOnly u :=
  ⟨hst.shape.trans htu.shape, fun o h => (htu.rd o h).trans (hst.rd o h)⟩

/-- The lock's count settles nothing. -/
theorem State.LockOnly.inv {s t : State} (h : s.LockOnly t) (hinv : s.Inv) : t.Inv where
  watch k hk := by
    refine (watchSettled_congr s t k ?_ (h.rd _ ?_) (h.rd _ ?_) fun c _ => h.rd _ ?_).mpr (hinv.watch k hk)
    · rw [h.shape]
    · simp only [rEvwCfg, rLock]; omega
    · simp only [rEvwVal, rLock]; omega
    · simp only [rEvc, rLock]; omega
  quiesce := by
    unfold State.quiesceSettled
    rw [h.shape]
    exact hinv.quiesce

theorem lockCounted_lockOnly (s : State) (r : RegRow) (mask : Word) : s.LockOnly (s.lockCounted r mask) := by
  refine ⟨?_, fun o ho => lockCounted_rd_ne mask ho⟩
  unfold State.lockCounted
  split <;> rfl

theorem PlainKey.of_absent {s : State} {k : Nat} (h : s.absentReg k = true) : PlainKey k := by
  obtain ⟨hlow, hhigh⟩ := absentReg_range h
  refine ⟨by omega, ?_, ?_, ?_, by omega, by omega, ?_⟩
  · simp only [isQueueReg, Bool.and_eq_false_iff, decide_eq_false_iff_not]
    omega
  · simp only [isPortReg, Bool.and_eq_false_iff, decide_eq_false_iff_not]
    omega
  · simp only [rStagedCtl, rCfgRef, rFabSelf, rFabEpoch]
    omega
  · unfold bankOf
    rw [if_neg (by omega), if_neg (by omega), if_neg (by simp only [rFabRow]; omega), if_neg (by simp only [rFabRow]; omega)]

/-- A write of an absent register only counts, where the lock ignores it (R402, R412). -/
theorem writeReg_of_absent {s : State} {k : Nat} (h : s.absentReg k = true) (v mask : Word) : s.LockOnly (s.writeReg k v mask) := by
  have hplain := PlainKey.of_absent h
  cases hrow : rowAt k with
  | none =>
    have hsame : s.writeReg k v mask = s := by
      unfold State.writeReg
      rw [if_neg (Nat.not_le.mpr hplain.below), hrow]
    rw [hsame]
    exact .refl s
  | some r =>
    have hk : k ≠ rCfgCtl := by
      have := absentReg_range h
      simp only [rCfgCtl]
      omega
    have habsent : (s.lockCounted r mask).absentReg k = true := by
      unfold State.lockCounted
      split <;> exact h
    have hfields : s.writeFields r k v mask = s.lockCounted r mask := if_pos habsent
    rw [writeReg_plain hrow hplain, if_neg hk, hfields]
    exact lockCounted_lockOnly s r mask

theorem writeParts_of_absent {ps : List Part} (v : Nat) {s : State} (habsent : ∀ p ∈ ps, s.absentReg p.key = true) :
    s.LockOnly (ps.foldl (fun s p => s.writeReg p.key (p.place v) p.mask) s) := by
  induction ps generalizing s with
  | nil => exact .refl s
  | cons p ps ih =>
    have hfirst := writeReg_of_absent (habsent p (by simp)) (p.place v) p.mask
    refine hfirst.trans (ih fun q hq => ?_)
    rw [hfirst.shape]
    exact habsent q (by simp [hq])

/-- LGX_CAP0 shows Carding and the Feed expander. -/
theorem view_cap0 (s : State) : (bitAt (s.view rCap0).toNat 4 = true ↔ s.grade ≠ .b)
    ∧ (bitAt (s.view rCap0).toNat 5 = true ↔ s.grade ≠ .b) := by
  have hview : s.view rCap0 = BitVec.ofNat 64 s.cap0View := by
    simp [State.view, State.applied, State.absentReg, rCap0, rStagedData, rId]
  rw [hview]
  cases hgrade : s.grade <;>
    simp [State.cap0View, State.hasCarding, State.kMax, State.laneCount, hgrade, b2w, b2n, bitAt]

/-- Settles O13: a read that finds nothing to clear, a write that only the lock can count, and the two bits of LGX_CAP0. -/
theorem absentUnits : Obligations.AbsentUnits := by
  unfold Obligations.AbsentUnits
  intro o wide value ps s hinv hawake hpair hreach habsent
  obtain ⟨alone, hreads⟩ : ∃ alone, Reaches o wide ps alone := by
    rcases hreach with ht | hsingle
    · exact ⟨false, ht⟩
    · exact ⟨true, hsingle⟩
  have hwrites : ∃ u, exec (.registerWrite o wide value) s = .next ((u.respond 0).settled) ∧ s.LockOnly u := by
    rcases hreach with ht | ⟨p, ht, rfl⟩
    · refine ⟨_, exec_write_regs value ht hawake, ?_⟩
      rw [writeAt_of_none _ hpair]
      exact writeParts_of_absent _ habsent
    · exact ⟨_, exec_write_single value ht hawake, writeReg_of_absent (habsent p (by simp)) _ _⟩
  refine ⟨?_, ?_, view_cap0 s⟩
  · obtain ⟨hparts, hdata⟩ := readParts_of_absent alone habsent
    refine ⟨_, exec_read hinv hawake hreads, ?_⟩
    rw [hparts, hdata]
    exact ⟨rfl, fun k => rfl, rfl, rfl, rfl, rfl, rfl⟩
  · obtain ⟨u, hexec, hu⟩ := hwrites
    rw [settled_of_inv (respond_inv (hu.inv hinv) 0)] at hexec
    exact ⟨_, hexec, rfl, fun k hk => hu.rd k hk, (congrArg State.staged hu.shape :), (congrArg State.mem hu.shape :),
      (congrArg State.queues hu.shape :), (congrArg State.ports hu.shape :), (congrArg State.cmds hu.shape :)⟩

/-! ### The lock (R412) -/

section

variable {s : State} (value : Bool)

/-- The row of LGX_LOCK. -/
def lockRow : RegRow := ⟨"LGX_LOCK", 0x001004, 0x4, 1, 32, true, [⟨0, 0, .rwl, 0, .now, false⟩, ⟨15, 8, .rc, 0, .none, false⟩]⟩

theorem rowAt_lock : rowAt rLock = some lockRow := by decide +kernel

theorem lock_plain : PlainKey rLock := PlainKey.of_plainKey (by decide +kernel)

/-- LOCK is the one bit of its register that a write changes, and only while it is not set. -/
theorem lockRow_masks : ∀ locked, 0xFFFFFFFF &&& lockRow.classMask .now locked = (if locked then 0 else 1)
    ∧ 0xFFFFFFFF &&& lockRow.classMask .step locked = 0
    ∧ (lockRow.maskOf (fun f => decide (f.acc = .rwl)) &&& 0xFFFFFFFF != 0) = true := by decide +kernel

theorem canWrite_lock : s.canWrite lockRow rLock 0xFFFFFFFF .now = (if s.fld rLock 0 1 == 1 then 0 else 1)
    ∧ s.canWrite lockRow rLock 0xFFFFFFFF .step = 0 := by
  obtain ⟨hnow, hstep, -⟩ := lockRow_masks (s.fld rLock 0 1 == 1)
  have hpresent : s.absentReg rLock = false := by
    have : ¬ 0x046000 ≤ rLock := by decide
    simp [State.absentReg, this]
  simp only [State.canWrite, hpresent, Bool.false_eq_true, if_false, hnow, hstep, and_self]

/-- What a write of LOCK leaves in its register. -/
theorem fieldsPut_lock (v : Word) : (s.fieldsPut lockRow rLock v 0xFFFFFFFF).rd rLock =
    if s.fld rLock 0 1 == 1 then (s.sat rLock 8 8 1).rd rLock else overlay (s.rd rLock) v 1 := by
  obtain ⟨hnow, hstep⟩ := canWrite_lock (s := s)
  have hcounted : s.lockCounted lockRow 0xFFFFFFFF = if s.fld rLock 0 1 == 1 then s.sat rLock 8 8 1 else s := by
    rw [State.lockCounted, (lockRow_masks true).2.2, Bool.and_true]
  have hput : ∀ u : State, (u.plainWritten rLock v (s.canWrite lockRow rLock 0xFFFFFFFF)).rd rLock =
      overlay (u.rd rLock) v (s.canWrite lockRow rLock 0xFFFFFFFF .now) := fun u => by
    cases h : u.job.isOpen with
    | true => rw [plainWritten_rd_of_open v lock_plain.port h, if_pos rfl]
    | false => rw [plainWritten_rd_of_closed v lock_plain.port h, if_pos rfl, hstep, overlay_zero]
  rw [State.fieldsPut, hput, hnow, hcounted]
  split
  · exact overlay_zero _ _
  · rfl

end

theorem overlay_bit_zero (w : Word) (b : Bool) : overlay w (BitVec.ofNat 64 (b2n b)) 1 = setBits w 0 1 (b2n b) := by
  cases b <;> rfl

/-- Settles O15: a write while the lock is clear, and one that the lock ignores. -/
theorem lock : Obligations.Lock := by
  unfold Obligations.Lock
  intro value s hawake
  have hwrite := writeReg_of_plain (s := s) rowAt_lock lock_plain (BitVec.ofNat 64 (b2n value)) 0xFFFFFFFF
  have hexec : exec (.lockWrite value) s =
      .next (((s.writeReg rLock (BitVec.ofNat 64 (b2n value)) 0xFFFFFFFF).respond 0).settled) := by
    refine (done_live (effLockWrite value) s (resetOn_of_awake s _ hawake)).trans ?_
    rw [effLockWrite, access_awake _ _ _ hawake]
  obtain ⟨hbus, -, -, -, -, -, hothers, hmem, hqueues, hcmds, -⟩ :=
    plainWrite lock_plain (BitVec.ofNat 64 (b2n value)) 0xFFFFFFFF hwrite rowAt_lock
  have hrd : ((s.writeReg rLock (BitVec.ofNat 64 (b2n value)) 0xFFFFFFFF).respond 0).settled.rd rLock =
      if s.fld rLock 0 1 == 1 then (s.sat rLock 8 8 1).rd rLock else (s.setFld rLock 0 1 (b2n value)).rd rLock := by
    rw [settled_rd _ _ (by decide) lock_plain.ne_evwCfg, respond_rd, hwrite.rd_eq (by decide), fieldsPut_lock, overlay_bit_zero,
      rd_setFld_self]
  refine ⟨_, hexec, hbus, fun hclear => ?_, fun hset => ?_, fun o hlock hctl hevt hcfg => hothers o hlock hlock hctl hevt hcfg,
    hmem, hqueues, hcmds⟩
  · rw [hclear, if_neg (by decide)] at hrd
    rw [fld_of_rd hrd, fld_of_rd hrd, fld_setFld_self _ _ _ _ _ (by decide),
      fld_setFld_ne _ _ _ _ _ _ _ (.inr (by decide)) (by decide)]
    exact ⟨by cases value <;> rfl, rfl⟩
  · rw [hset, if_pos (by decide)] at hrd
    rw [fld_of_rd hrd, fld_of_rd hrd, fld_sat_ne _ _ _ _ _ _ _ (.inl (by decide)) (by decide),
      fld_sat_self _ _ _ _ _ (by decide)]
    exact ⟨hset, rfl⟩

end Sys2Proof.Machine

/-! The configuration CRC with its reference, and the boundaries at which staged values apply (spec/14_registers.md R404, R408, R410,
R411). -/

namespace Sys2Proof.Machine

/-! ### The comparison of the CRC with its reference (R411) -/

section

variable (s : State)

/-- The CRC is that of the reference. -/
def State.refMatches (s : State) : Prop := s.fld rCfgCrc 0 32 = s.fld rCfgRef 0 32

/-- A comparison that is no longer awaited. -/
def State.compared (s : State) : State := { s with ctl := { s.ctl with refCompare := false } }

theorem compareRef_of_equal (h : s.refMatches) :
    s.compareRef = (s.compared.setFld rCfgCtl 1 1 0).setFld rCfgCtl 2 1 0 := if_pos h

theorem compareRef_of_unequal (h : ¬ s.refMatches) : s.compareRef = s.compared.setFld rCfgCtl 1 1 1 := if_neg h

theorem compareRef_shape : s.compareRef = { s with regs := s.compareRef.regs, ctl := { s.ctl with refCompare := false } } := by
  by_cases h : s.refMatches
  · rw [compareRef_of_equal s h]
    rfl
  · rw [compareRef_of_unequal s h]
    rfl

theorem compareRef_rd_ne {o : Nat} (ho : o ≠ rCfgCtl) : s.compareRef.rd o = s.rd o := by
  by_cases h : s.refMatches
  · rw [compareRef_of_equal s h, rd_setFld_ne _ _ _ _ _ _ ho, rd_setFld_ne _ _ _ _ _ _ ho]
    rfl
  · rw [compareRef_of_unequal s h, rd_setFld_ne _ _ _ _ _ _ ho]
    rfl

/-- MISMATCH shows the comparison. -/
theorem compareRef_mismatch [Decidable s.refMatches] : s.compareRef.fld rCfgCtl 1 1 = if s.refMatches then 0 else 1 := by
  split
  · rename_i h
    rw [compareRef_of_equal s h, fld_setFld_ne _ _ _ _ _ _ _ (.inl (by decide)) (by decide), fld_setFld_self _ _ _ _ _ (by decide)]
    rfl
  · rename_i h
    rw [compareRef_of_unequal s h, fld_setFld_self _ _ _ _ _ (by decide)]
    rfl

/-- An equal one clears BLOCKING. -/
theorem compareRef_blocking (h : s.refMatches) : s.compareRef.fld rCfgCtl 2 1 = 0 := by
  rw [compareRef_of_equal s h, fld_setFld_self _ _ _ _ _ (by decide)]
  rfl

theorem compareRef_updating : s.compareRef.fld rCfgCtl 3 1 = s.fld rCfgCtl 3 1 := by
  by_cases h : s.refMatches
  · rw [compareRef_of_equal s h, fld_setFld_ne _ _ _ _ _ _ _ (.inr (by decide)) (by decide),
      fld_setFld_ne _ _ _ _ _ _ _ (.inr (by decide)) (by decide)]
    rfl
  · rw [compareRef_of_unequal s h, fld_setFld_ne _ _ _ _ _ _ _ (.inr (by decide)) (by decide)]
    rfl

end

/-! ### CFG_REF_WRITE -/

theorem writeReg_cfgRef (u : State) (v mask : Word) : u.writeReg rCfgRef v mask = u.writeRef v mask := by
  obtain ⟨r, hr⟩ := Option.isSome_iff_exists.mp (target_control rCfgRef (by simp)).2
  have hqueue : isQueueReg rCfgRef = false := by decide
  unfold State.writeReg
  rw [if_neg (by decide), hr]
  simp only [hqueue, Bool.false_and, Bool.false_eq_true, if_false]
  rw [if_neg (by decide), if_neg (by decide), if_neg (by decide), if_neg (by decide), if_neg (by decide), if_pos trivial]

section

variable (value : BitVec 32) {s : State}

/-- The reference written. -/
def State.refPut (s : State) (value : BitVec 32) : State := s.merge rCfgRef (BitVec.setWidth 64 value) 0xFFFFFFFF

theorem refPut_rd_ne {o : Nat} (ho : o ≠ rCfgRef) : (s.refPut value).rd o = s.rd o := rd_wr_ne _ _ _ _ ho

theorem bitsAt_overlay_low (w : Word) :
    bitsAt (overlay w (BitVec.setWidth 64 value) 0xFFFFFFFF).toNat 0 32 = value.toNat := by
  have hmask : ∀ j < 32, (0xFFFFFFFF : Word).getLsbD j = true := by decide
  refine Nat.eq_of_testBit_eq fun i => ?_
  rw [testBit_bitsAt, Nat.zero_add]
  by_cases hi : i < 32
  · rw [BitVec.testBit_toNat, BitVec.testBit_toNat, getLsbD_overlay _ _ (by omega), hmask i hi, BitVec.getLsbD_setWidth]
    simp [hi, show i < 64 by omega]
  · rw [BitVec.testBit_toNat value, BitVec.getLsbD_of_ge _ _ (by omega)]
    simp [hi]

theorem refPut_reference : (s.refPut value).fld rCfgRef 0 32 = value.toNat := by
  rw [State.fld, State.refPut, merge_rd, if_pos rfl, bitsAt_overlay_low]

theorem writeRef_of_off (h : s.fld rCfgCtl 0 1 = 0) : s.writeRef (BitVec.setWidth 64 value) 0xFFFFFFFF = s.refPut value :=
  if_pos ((fld_of_rd (refPut_rd_ne value (by decide)) 0 1).trans h)

theorem writeRef_of_due (hon : s.fld rCfgCtl 0 1 = 1) (hdue : s.fld rCfgCtl 3 1 = 1) :
    s.writeRef (BitVec.setWidth 64 value) 0xFFFFFFFF =
      { s.refPut value with ctl := { (s.refPut value).ctl with refCompare := true } } := by
  have hctl := fld_of_rd (refPut_rd_ne (s := s) value (o := rCfgCtl) (by decide))
  refine (if_neg ?_).trans (if_pos ((hctl 3 1).trans hdue))
  exact fun h => absurd (((hctl 0 1).trans hon).symm.trans h) (by decide)

theorem writeRef_of_formed (hon : s.fld rCfgCtl 0 1 = 1) (hformed : s.fld rCfgCtl 3 1 = 0) :
    s.writeRef (BitVec.setWidth 64 value) 0xFFFFFFFF = (s.refPut value).compareRef := by
  have hctl := fld_of_rd (refPut_rd_ne (s := s) value (o := rCfgCtl) (by decide))
  refine (if_neg ?_).trans (if_neg ?_)
  · exact fun h => absurd (((hctl 0 1).trans hon).symm.trans h) (by decide)
  · exact fun h => absurd (((hctl 3 1).trans hformed).symm.trans h) (by decide)

/-- CHECK is off, or on with an update outstanding or none. -/
theorem check_cases (s : State) : s.fld rCfgCtl 0 1 = 0 ∨ (s.fld rCfgCtl 0 1 = 1 ∧ s.fld rCfgCtl 3 1 = 1)
    ∨ (s.fld rCfgCtl 0 1 = 1 ∧ s.fld rCfgCtl 3 1 = 0) := by
  have hcheck := fld_lt s rCfgCtl 0 1
  have hdue := fld_lt s rCfgCtl 3 1
  omega

/-- A write of the reference changes no register but the reference and LGX_CFG_CTL, and no memory. -/
theorem writeRef_frame : (∀ o, o ≠ rCfgCtl → (s.writeRef (BitVec.setWidth 64 value) 0xFFFFFFFF).rd o = (s.refPut value).rd o)
    ∧ (s.writeRef (BitVec.setWidth 64 value) 0xFFFFFFFF).mem = s.mem := by
  obtain hoff | ⟨hon, hdue⟩ | ⟨hon, hformed⟩ := check_cases s
  · rw [writeRef_of_off value hoff]
    exact ⟨fun _ _ => rfl, rfl⟩
  · rw [writeRef_of_due value hon hdue]
    exact ⟨fun _ _ => rfl, rfl⟩
  · rw [writeRef_of_formed value hon hformed]
    exact ⟨fun o ho => compareRef_rd_ne _ ho, (congrArg State.mem (compareRef_shape (s.refPut value)) :)⟩

theorem exec_cfgRefWrite (hawake : s.awake 1 = true) : exec (.cfgRefWrite value) s =
    .next (((s.writeRef (BitVec.setWidth 64 value) 0xFFFFFFFF).respond 0).settled) := by
  refine (done_live (effCfgRefWrite value) s (resetOn_of_awake s _ hawake)).trans ?_
  rw [effCfgRefWrite, access_awake _ _ _ hawake, writeReg_cfgRef]

end

/-- The settling leaves the registers of the engine's control. -/
theorem respond_settled_rd_control (u : State) {o : Nat} (ho : o < rEvtStatus) : (u.respond 0).settled.rd o = u.rd o :=
  settled_rd _ _ (by omega) fun k _ => by simp only [rEvtStatus] at ho; simp only [rEvwCfg]; omega

theorem settled_refCompare (u : State) : u.settled.ctl.refCompare = u.ctl.refCompare := by rw [settled_shape]

/-! ### CFG_CRC_UPDATE (R410) -/

section

variable (s : State) (crcs : Word)

/-- Both CRCs put, and no update outstanding. -/
def State.crcsPut (s : State) (crcs : Word) : State := (s.wr rCfgCrc crcs).setFld rCfgCtl 3 1 0

/-- A comparison that waited is made once they are. -/
def State.crcUpdated (s : State) (crcs : Word) : State :=
  if (s.crcsPut crcs).ctl.refCompare then (s.crcsPut crcs).compareRef else s.crcsPut crcs

theorem crcsPut_rd_crc : (s.crcsPut crcs).rd rCfgCrc = crcs := by
  rw [State.crcsPut, rd_setFld_ne _ _ _ _ _ _ (by decide), rd_wr_self]

theorem crcsPut_rd_ne {o : Nat} (hcrc : o ≠ rCfgCrc) (hctl : o ≠ rCfgCtl) : (s.crcsPut crcs).rd o = s.rd o := by
  rw [State.crcsPut, rd_setFld_ne _ _ _ _ _ _ hctl, rd_wr_ne _ _ _ _ hcrc]

theorem crcsPut_updating : (s.crcsPut crcs).fld rCfgCtl 3 1 = 0 := fld_setFld_self _ _ _ _ _ (by decide)

theorem crcUpdated_rd {o : Nat} (hctl : o ≠ rCfgCtl) : (s.crcUpdated crcs).rd o = (s.crcsPut crcs).rd o := by
  unfold State.crcUpdated
  split
  · exact compareRef_rd_ne _ hctl
  · rfl

theorem crcUpdated_updating : (s.crcUpdated crcs).fld rCfgCtl 3 1 = 0 := by
  unfold State.crcUpdated
  split
  · exact (compareRef_updating _).trans (crcsPut_updating s crcs)
  · exact crcsPut_updating s crcs

theorem crcUpdated_frame : (s.crcUpdated crcs).ctl.refCompare = false ∧ (s.crcUpdated crcs).mem = s.mem := by
  unfold State.crcUpdated
  split
  · rw [compareRef_shape]
    exact ⟨rfl, rfl⟩
  · rename_i hnone
    exact ⟨Bool.eq_false_iff.mpr hnone, rfl⟩

/-- LGX_CFG_CRC: the CRC of the applied values, and above it that of the staged ones. -/
def crcWord (a b : BitVec 32) : Word := BitVec.ofNat 64 (a.toNat + b.toNat * 2 ^ 32)

theorem bitsAt_crcWord (a b : BitVec 32) : bitsAt (crcWord a b).toNat 0 32 = a.toNat ∧ bitsAt (crcWord a b).toNat 32 32 = b.toNat := by
  have ha := a.isLt
  have hb := b.isLt
  simp only [crcWord, BitVec.toNat_ofNat, bitsAt]
  omega

theorem effCfgCrcUpdate_of_awake {s : State} (hawake : s.awake 1 = true) :
    effCfgCrcUpdate s = s.crcUpdated (crcWord (crc32c (s.cfgStream s.rd)) (crc32c (s.cfgStream s.stagedValue))) := by
  rw [effCfgCrcUpdate, if_neg (by rw [hawake]; decide)]
  unfold State.crcUpdated State.crcsPut crcWord
  rfl

end

/-- Settles O16: the reference written with CHECK off, with an update outstanding and with none; the CRCs formed. -/
theorem configCrc : Obligations.ConfigCrc := by
  unfold Obligations.ConfigCrc
  intro value s hawake
  constructor
  · obtain ⟨hothers, hmem⟩ := writeRef_frame (s := s) value
    have hctl : rCfgCtl < rEvtStatus := by decide
    refine ⟨_, exec_cfgRefWrite value hawake, ?_, ?_, fun ⟨hon, hformed⟩ => ?_, fun ⟨hon, hdue⟩ => ?_, fun hoff => ?_,
      (settled_mem _).trans hmem⟩
    · rw [fld_of_rd (respond_settled_rd_control _ (by decide)), fld_of_rd (hothers _ (by decide)), refPut_reference]
    · rw [fld_of_rd (respond_settled_rd_control _ (by decide)), fld_of_rd (hothers _ (by decide)),
        fld_of_rd (refPut_rd_ne value (by decide))]
    · have hmatch : (s.refPut value).refMatches ↔ s.fld rCfgCrc 0 32 = value.toNat := by
        rw [State.refMatches, refPut_reference, fld_of_rd (refPut_rd_ne value (by decide))]
      rw [fld_of_rd (respond_settled_rd_control _ hctl), fld_of_rd (respond_settled_rd_control _ hctl),
        writeRef_of_formed value hon hformed]
      have : Decidable (s.refPut value).refMatches := decidable_of_iff _ hmatch.symm
      refine ⟨?_, fun h => compareRef_blocking _ (hmatch.mpr h)⟩
      rw [compareRef_mismatch]
      simp only [hmatch]
    · rw [settled_refCompare, respond_settled_rd_control _ hctl, writeRef_of_due value hon hdue]
      exact ⟨rfl, refPut_rd_ne value (by decide)⟩
    · rw [respond_settled_rd_control _ hctl, writeRef_of_off value hoff]
      exact refPut_rd_ne value (by decide)
  · have hexec : exec .cfgCrcUpdate s =
        .next (s.crcUpdated (crcWord (crc32c (s.cfgStream s.rd)) (crc32c (s.cfgStream s.stagedValue)))).settled :=
      (done_live effCfgCrcUpdate s (resetOn_of_awake s _ hawake)).trans (by rw [effCfgCrcUpdate_of_awake hawake])
    generalize crc32c (s.cfgStream s.rd) = a at hexec ⊢
    generalize crc32c (s.cfgStream s.stagedValue) = b at hexec ⊢
    obtain ⟨hcompare, hmem⟩ := crcUpdated_frame s (crcWord a b)
    obtain ⟨hlow, hhigh⟩ := bitsAt_crcWord a b
    have hcrc : (s.crcUpdated (crcWord a b)).settled.rd rCfgCrc = crcWord a b := by
      rw [settled_rd _ _ (by decide) (by decide), crcUpdated_rd _ _ (by decide), crcsPut_rd_crc]
    refine ⟨_, hexec, ?_, ?_, ?_, (settled_refCompare _).trans hcompare, (settled_mem _).trans hmem,
      fun o hne hctl hevt hcfg => ?_⟩
    · rw [fld_of_rd (settled_rd _ _ (by decide) (by decide)), crcUpdated_updating]
    · rw [State.fld, hcrc, hlow]
    · rw [State.fld, hcrc, hhigh]
    · rw [settled_rd _ _ hevt hcfg, crcUpdated_rd _ _ hctl, crcsPut_rd_ne _ _ hne hctl]

/-! ### Boundaries (R404) -/

theorem countEj_staged (s : State) (e n : Nat) : (s.countEj e n).staged = s.staged := by
  unfold State.countEj
  split
  · rfl
  · split <;> rfl

theorem foldl_discard_staged (l : List TxPkt) (s : State) : (l.foldl State.discard s).staged = s.staged := by
  induction l generalizing s with
  | nil => rfl
  | cons x xs ih => exact (ih _).trans (countEj_staged s _ 1)

theorem foldl_wr_staged {α : Type} (l : List α) (f : α → Nat) (g : α → Word) (s : State) :
    (l.foldl (fun s e => s.wr (f e) (g e)) s).staged = s.staged := by
  induction l generalizing s with
  | nil => rfl
  | cons x xs ih => exact ih _

theorem setDateline_staged (s : State) (d : Nat) : (s.setDateline d).staged = s.staged := by
  unfold State.setDateline
  extract_lets b o rows cleared copied moved
  have hcleared : cleared.staged = s.staged := foldl_wr_staged _ _ _ s
  have hcopied : copied.staged = cleared.staged := foldl_wr_staged rows _ _ cleared
  exact hcopied.trans hcleared

theorem moveDateline_staged (s : State) (p : Nat) : (s.moveDateline p).staged = s.staged := by
  obtain h | ⟨d, h | h⟩ := moveDateline_cases s p <;> rw [h]
  exact setDateline_staged s d

theorem raise_staged (s : State) (c : Nat) : (s.raise c).staged = s.staged := by rw [raise_eq]

/-- The staged values of a block of the router class. -/
def inPacketBlock (p k : Nat) : Bool := decide (classOf k = .packet) && packetBlock k == p

section

variable (s : State) (p : Nat)

theorem announceDown_staged : (s.announceDown p).staged = s.staged.filter (fun e => !inPacketBlock p e.1) := by
  have hraised : ((s.applyStaged (inPacketBlock p)).raise causeLink).staged = s.staged.filter (fun e => !inPacketBlock p e.1) :=
    (raise_staged _ _).trans (applyStaged_staged s _)
  unfold State.announceDown
  simp only
  split
  · exact (moveDateline_staged _ p).trans hraised
  · exact hraised

/-- A port going DOWN applies what is staged for it, and takes off nothing else. -/
theorem portDown_staged (keep : Bool) : (s.portDown p keep).staged =
    if (s.port p).link = .down then s.staged else s.staged.filter (fun e => !inPacketBlock p e.1) := by
  unfold State.portDown
  extract_lets x mine counted emptied down held raised t
  have hheld : held.staged = s.staged := by
    have hcounted : counted.staged = s.staged := foldl_discard_staged mine s
    unfold held
    split <;> exact hcounted
  split
  · exact hheld
  · exact (announceDown_staged held p).trans (by rw [hheld])

/-- A boundary leaves nothing staged for its block, so what follows at the port takes off no more. -/
theorem portApplied_staged (hnone : s.staged.filter (fun e => !inPacketBlock p e.1) = s.staged) :
    (s.portApplied p).staged = s.staged := by
  unfold State.portApplied
  split
  · rw [portDown_staged]
    split
    · rfl
    · exact hnone
  · exact (congrArg State.staged (tryStart_eq s p) :)

theorem portApplied_frame : (s.portApplied p).mem = s.mem ∧ (s.portApplied p).queues = s.queues := by
  unfold State.portApplied
  split
  · have hdown := portDown_accounts s p true
    exact ⟨hdown.mem, (congrArg State.queues hdown :)⟩
  · have hstart := tryStart_eq s p
    exact ⟨(congrArg State.mem hstart :), (congrArg State.queues hstart :)⟩

end

section

variable {s : State}

/-- A boundary of the Router or of a port, with what follows at the port. -/
theorem effPacketBoundaryApply_eq {n : Nat} (hn : n ≤ 16) (hawake : s.awake 5 = true) : effPacketBoundaryApply n s =
    if n < 16 && s.hasStaged (inPacketBlock n) then (s.applyStaged (inPacketBlock n)).portApplied n
    else s.applyStaged (inPacketBlock n) :=
  if_neg (by rw [hawake]; simp; omega)

theorem packetBoundary_staged {n : Nat} (hn : n ≤ 16) (hawake : s.awake 5 = true) :
    (effPacketBoundaryApply n s).staged = s.staged.filter (fun e => !inPacketBlock n e.1) := by
  rw [effPacketBoundaryApply_eq hn hawake]
  split
  · rw [portApplied_staged _ _ (by rw [applyStaged_staged, List.filter_filter]; simp only [Bool.and_self]), applyStaged_staged]
  · exact applyStaged_staged s _

theorem packetBoundary_frame {n : Nat} (hn : n ≤ 16) (hawake : s.awake 5 = true) :
    (effPacketBoundaryApply n s).mem = s.mem ∧ (effPacketBoundaryApply n s).queues = s.queues := by
  have happlied := applyStaged_stages s (inPacketBlock n)
  have hmem : (s.applyStaged (inPacketBlock n)).mem = s.mem := (congrArg State.mem happlied :)
  rw [effPacketBoundaryApply_eq hn hawake]
  split
  · obtain ⟨hportMem, hportQueues⟩ := portApplied_frame (s.applyStaged (inPacketBlock n)) n
    exact ⟨hportMem.trans hmem, hportQueues.trans (applyStaged_queues s _)⟩
  · exact ⟨hmem, applyStaged_queues s _⟩

/-- The one value that is staged applies. -/
theorem applyStaged_one {f : Nat → Bool} {k : Nat} {v m : Word} (hstaged : s.staged = [(k, v, m)]) (hf : f k = true)
    (hk : k ≠ rCfgCtl) : (s.applyStaged f).rd k = (s.rd k &&& ~~~m) ||| (v &&& m) := by
  have hnow : s.staged.filter (fun e => f e.1) = [(k, v, m)] := by rw [hstaged]; simp [hf]
  unfold State.applyStaged
  simp only [hnow, List.isEmpty_cons, Bool.false_eq_true, if_false]
  rw [rd_setFld_ne _ _ _ _ _ _ hk]
  exact rd_wr_self s k _

theorem applyStaged_one_settled {f : Nat → Bool} {k : Nat} {v m : Word} (hstaged : s.staged = [(k, v, m)]) (hf : f k = true)
    (hctl : k ≠ rCfgCtl) (hevt : k ≠ rEvtStatus) (hcfg : ∀ j < 8, k ≠ rEvwCfg j) :
    (s.applyStaged f).settled.rd k = (s.rd k &&& ~~~m) ||| (v &&& m) := by
  rw [settled_rd _ _ hevt hcfg, applyStaged_one hstaged hf hctl]

theorem effDescriptorBoundaryApply_eq {q : Nat} (hq : q < 64) (hawake : s.awake 3 = true) : effDescriptorBoundaryApply q s =
    s.applyStaged (fun k => decide (classOf k = .descriptor) && queueOf k == q) :=
  if_neg (by rw [hawake]; simp; omega)

/-- STAGED_CANCEL discards what is staged for the register that LGX_STAGED_ADDR names (R408). -/
theorem effStagedCancel_of_viewed {k : Nat} (hawake : s.awake 1 = true) (hviewed : s.viewed = some k) : effStagedCancel s =
    (({ s with staged := smErase k s.staged } : State).setFld rCfgCtl 3 1 1).respond 0 := by
  rw [effStagedCancel, access_awake _ _ _ hawake, writeReg_stagedCtl, if_pos (by decide), State.cancelStaged, hviewed]
  rfl

/-- Where every unit is awake, each one is. -/
theorem awake_of_allAwake (h : s.allAwake = true) {n : Nat} (hn : n ≤ 16) : s.awake n = true := by
  simp only [State.allAwake, State.awake, Bool.and_eq_true, decide_eq_true_eq] at h ⊢
  exact ⟨h.1, by omega⟩

end

/-- Settles O17: the boundaries by `applyStaged`, which a port that goes DOWN or starts adds nothing to. -/
theorem boundaries : Obligations.Boundaries := by
  unfold Obligations.Boundaries
  intro n s hawake
  have hreset := resetOn_of_awake s 16 hawake
  refine ⟨fun hn => ?_, fun hn => ?_, fun k hviewed => ?_⟩
  · have h5 := awake_of_allAwake hawake (n := 5) (by decide)
    obtain ⟨hmem, hqueues⟩ := packetBoundary_frame hn h5
    refine ⟨_, done_live (effPacketBoundaryApply n) s hreset, (settled_staged _).trans (packetBoundary_staged hn h5), ?_,
      (settled_mem _).trans hmem, (settled_queues _).trans hqueues⟩
    rintro rfl k v m hstaged hclass hblock
    rw [effPacketBoundaryApply_eq hn h5, if_neg (by simp)]
    exact applyStaged_one_settled hstaged (by simp [inPacketBlock, hclass, hblock])
  · have h3 := awake_of_allAwake hawake (n := 3) (by decide)
    have heff := effDescriptorBoundaryApply_eq hn h3
    have hstages := applyStaged_stages s (fun k => decide (classOf k = .descriptor) && queueOf k == n)
    refine ⟨_, (done_live (effDescriptorBoundaryApply n) s hreset).trans (by rw [heff]),
      (settled_staged _).trans (applyStaged_staged s _), fun k v m hstaged hclass hqueue => ?_,
      (settled_mem _).trans (congrArg State.mem hstages :), (settled_queues _).trans (applyStaged_queues s _),
      (settled_ports _).trans (congrArg State.ports hstages :)⟩
    exact applyStaged_one_settled hstaged (by simp [hclass, hqueue])
  · refine (done_live effStagedCancel s hreset).trans ?_
    rw [effStagedCancel_of_viewed (awake_of_allAwake hawake (by decide)) hviewed]

end Sys2Proof.Machine

/-! The global counter and the power manager (spec/14_registers.md R417, spec/01_engine_and_step.md R47, R48). -/

namespace Sys2Proof.Machine

/-! ### Samples of the global counter (R417) -/

section

variable (s : State) (value : Word)

/-- The last sample is kept. -/
def State.sampleKept (s : State) (value : Word) : State := { s with ctl := { s.ctl with lastSample := value } }

/-- The first sample of the counter. -/
def State.counterBegun (s : State) (value : Word) : State :=
  (((s.sampleKept value).rebase value.toNat).wr rGcnt value).setFld rGcntState 0 1 1

/-- A backward step or a jump of the counter is recorded, with HEALTH. -/
def State.stepJudged (s : State) (value : Word) : State :=
  if value.toNat < s.ctl.lastSample.toNat then ((s.sampleKept value).setFld rGcntState 1 1 1).raise causeHealth
  else if 1000000 < value.toNat - s.ctl.lastSample.toNat then ((s.sampleKept value).setFld rGcntState 2 1 1).raise causeHealth
  else s.sampleKept value

/-- The view follows a later sample. -/
def State.viewMoved (s : State) (value : Word) : State :=
  if s.now < value.toNat then (s.tickWaits (value.toNat - s.now)).wr rGcnt value else s

variable {s} in
theorem effGlobalCounterSample_of_first (hawake : s.awake 1 = true) (hvalid : s.timeValid = false) :
    effGlobalCounterSample value s = s.counterBegun value := by
  rw [effGlobalCounterSample, if_neg (by rw [hawake]; decide), if_pos (by rw [hvalid]; decide)]
  rfl

variable {s} in
theorem effGlobalCounterSample_of_later (hawake : s.awake 1 = true) (hvalid : s.timeValid = true) :
    effGlobalCounterSample value s = (s.stepJudged value).viewMoved value := by
  rw [effGlobalCounterSample, if_neg (by rw [hawake]; decide), if_neg (by rw [hvalid]; decide)]
  rfl

theorem timeValid_of_rd {s t : State} (h : t.rd rGcntState = s.rd rGcntState) : t.timeValid = s.timeValid := by
  rw [State.timeValid, State.timeValid, fld_of_rd h]

/-! ### What a sample leaves -/

/-- What a sample of the counter leaves alone. -/
structure State.KeepsContents (s t : State) : Prop where
  mem : t.mem = s.mem
  queues : t.queues = s.queues
  held : t.held = s.held
  staged : t.staged = s.staged

theorem counterBegun_keeps : s.KeepsContents (s.counterBegun value) := ⟨rfl, rfl, rfl, rfl⟩

theorem counterBegun_rd : (s.counterBegun value).rd rGcnt = value := by
  rw [State.counterBegun, rd_setFld_ne _ _ _ _ _ _ (by decide), rd_wr_self]

theorem counterBegun_valid : (s.counterBegun value).timeValid = true := by
  rw [State.timeValid, State.counterBegun, fld_setFld_self _ _ _ _ _ (by decide)]
  rfl

theorem stepJudged_regsOnly : (s.sampleKept value).RegsOnly (s.stepJudged value) := by
  unfold State.stepJudged
  split
  · rfl
  · split <;> rfl

theorem stepJudged_rd_gcnt : (s.stepJudged value).rd rGcnt = s.rd rGcnt := by
  have hflag : ∀ n, (((s.sampleKept value).setFld rGcntState n 1 1).raise causeHealth).rd rGcnt = s.rd rGcnt := fun n =>
    (raise_rd_ne _ _ _ (by decide)).trans (rd_setFld_ne _ _ _ _ _ _ (by decide))
  unfold State.stepJudged
  split
  · exact hflag 1
  · split
    · exact hflag 2
    · rfl

/-- A flag of LGX_GCNT_STATE set with HEALTH. -/
theorem stateFlag_raised (n : Nat) (hn : n < 64) : let t := ((s.sampleKept value).setFld rGcntState n 1 1).raise causeHealth
    t.fld rGcntState n 1 = 1 ∧ (t.rd rEvtStatus).getLsbD 25 = true ∧ (0 < n → t.fld rGcntState 0 1 = s.fld rGcntState 0 1) := by
  intro t
  have hrd : t.rd rGcntState = ((s.sampleKept value).setFld rGcntState n 1 1).rd rGcntState := raise_rd_ne _ _ _ (by decide)
  refine ⟨?_, raise_sets_cause _ causeHealth (by decide), fun hpos => ?_⟩
  · rw [fld_of_rd hrd, fld_setFld_self _ _ _ _ _ (by omega)]
    rfl
  · rw [fld_of_rd hrd, fld_setFld_ne _ _ _ _ _ _ _ (.inl (by omega)) (by omega)]
    rfl

theorem stepJudged_of_backward (h : value.toNat < s.ctl.lastSample.toNat) :
    (s.stepJudged value).fld rGcntState 1 1 = 1 ∧ ((s.stepJudged value).rd rEvtStatus).getLsbD 25 = true := by
  obtain ⟨hflag, hcause, -⟩ := stateFlag_raised s value 1 (by decide)
  rw [State.stepJudged, if_pos h]
  exact ⟨hflag, hcause⟩

theorem stepJudged_of_jump (h : s.ctl.lastSample.toNat + 1000000 < value.toNat) :
    (s.stepJudged value).fld rGcntState 2 1 = 1 ∧ ((s.stepJudged value).rd rEvtStatus).getLsbD 25 = true := by
  obtain ⟨hflag, hcause, -⟩ := stateFlag_raised s value 2 (by decide)
  rw [State.stepJudged, if_neg (by omega), if_pos (by omega)]
  exact ⟨hflag, hcause⟩

theorem stepJudged_valid : (s.stepJudged value).timeValid = s.timeValid := by
  unfold State.timeValid State.stepJudged
  split
  · rw [(stateFlag_raised s value 1 (by decide)).2.2 (by decide)]
  · split
    · rw [(stateFlag_raised s value 2 (by decide)).2.2 (by decide)]
    · rfl

/-! ### The waits that a sample advances (DESIGN CHOICE, log 7) -/

/-- A wait that holds adds the ticks that have passed to its counter. -/
def State.ticked (s : State) (b : Bool) (o n : Nat) : State := if b && n != 0 then s.addF o 0 64 n else s

theorem ticked_regsOnly (b : Bool) (o n : Nat) : s.RegsOnly (s.ticked b o n) := by
  unfold State.ticked
  split <;> rfl

theorem ticked_rd_ne (b : Bool) (o n : Nat) {o' : Nat} (h : o' ≠ o) : (s.ticked b o n).rd o' = s.rd o' := by
  unfold State.ticked
  split
  · exact rd_setFld_ne _ _ _ _ _ _ h
  · rfl

theorem tickWaits_eq (n : Nat) : ∃ late copy push dig, s.tickWaits n =
    (((s.ticked late rQntLate n).ticked copy rCpcCopyWait n).ticked push rEspCopyWait n).ticked dig rDigStall n :=
  ⟨_, _, _, _, rfl⟩

theorem tickWaits_regsOnly (n : Nat) : s.RegsOnly (s.tickWaits n) := by
  obtain ⟨late, copy, push, dig, h⟩ := tickWaits_eq s n
  rw [h]
  exact ((ticked_regsOnly _ _ _ _).trans (ticked_regsOnly _ _ _ _)).trans ((ticked_regsOnly _ _ _ _).trans (ticked_regsOnly _ _ _ _))

/-- Only the counters of the waits move. -/
theorem tickWaits_rd_of_lt (n : Nat) {o : Nat} (h : o < rQntLate) : (s.tickWaits n).rd o = s.rd o := by
  obtain ⟨late, copy, push, dig, hticked⟩ := tickWaits_eq s n
  simp only [rQntLate] at h
  rw [hticked, ticked_rd_ne _ _ _ _ (by simp only [rDigStall]; omega), ticked_rd_ne _ _ _ _ (by simp only [rEspCopyWait]; omega),
    ticked_rd_ne _ _ _ _ (by simp only [rCpcCopyWait]; omega), ticked_rd_ne _ _ _ _ (by simp only [rQntLate]; omega)]

theorem viewMoved_regsOnly : s.RegsOnly (s.viewMoved value) := by
  unfold State.viewMoved
  split
  · exact (tickWaits_regsOnly s _).trans (wr_regsOnly _ _ _)
  · rfl

/-- The view never runs backward. -/
theorem viewMoved_rd_gcnt : (s.viewMoved value).rd rGcnt = if s.now < value.toNat then value else s.rd rGcnt := by
  unfold State.viewMoved
  split
  · exact rd_wr_self _ _ _
  · rfl

theorem viewMoved_rd_of_lt {o : Nat} (hview : o ≠ rGcnt) (h : o < rQntLate) : (s.viewMoved value).rd o = s.rd o := by
  unfold State.viewMoved
  split
  · rw [rd_wr_ne _ _ _ _ hview, tickWaits_rd_of_lt s _ h]
  · rfl

theorem laterSample_keeps : s.KeepsContents ((s.stepJudged value).viewMoved value)
    ∧ ((s.stepJudged value).viewMoved value).ctl.lastSample = value := by
  have hjudged : (s.sampleKept value).RegsOnly ((s.stepJudged value).viewMoved value) :=
    (stepJudged_regsOnly s value).trans (viewMoved_regsOnly _ _)
  have hctl : ((s.stepJudged value).viewMoved value).ctl = (s.sampleKept value).ctl := (congrArg State.ctl hjudged :)
  exact ⟨⟨(congrArg State.mem hjudged :), (congrArg State.queues hjudged :), (congrArg State.held hjudged :),
    (congrArg State.staged hjudged :)⟩, by rw [hctl]; rfl⟩

end

theorem settled_lastSample (u : State) : u.settled.ctl.lastSample = u.ctl.lastSample := by rw [settled_shape]

/-- The settling leaves the counter with its state, and what a sample leaves. -/
theorem settled_rd_counter (u : State) {o : Nat} (ho : o = rGcnt ∨ o = rGcntState) : u.settled.rd o = u.rd o :=
  settled_rd u o (by rcases ho with rfl | rfl <;> decide) (by rcases ho with rfl | rfl <;> decide)

theorem State.KeepsContents.settled {s u : State} (h : s.KeepsContents u) : (∀ a, u.settled.byte a = s.byte a)
    ∧ u.settled.queues = s.queues ∧ u.settled.held = s.held ∧ u.settled.staged = s.staged :=
  ⟨fun a => by rw [State.byte, settled_mem, h.mem, State.byte], (settled_queues u).trans h.queues, (settled_held u).trans h.held,
    (settled_staged u).trans h.staged⟩

/-- A sample of the counter: the first one, and a later one. -/
theorem globalCounterSample_runs (value : Word) {s : State} (hawake : s.awake 1 = true) :
    ∃ t, exec (.globalCounterSample value) s = .next t
      ∧ (s.timeValid = false → t.rd rGcnt = value ∧ t.timeValid = true)
      ∧ (s.timeValid = true → t.rd rGcnt = (if s.now < value.toNat then value else s.rd rGcnt) ∧ t.timeValid = true
          ∧ (value.toNat < s.ctl.lastSample.toNat → t.fld rGcntState 1 1 = 1 ∧ (t.rd rEvtStatus).getLsbD 25 = true)
          ∧ (s.ctl.lastSample.toNat + 1000000 < value.toNat → t.fld rGcntState 2 1 = 1 ∧ (t.rd rEvtStatus).getLsbD 25 = true))
      ∧ t.ctl.lastSample = value ∧ (∀ a, t.byte a = s.byte a) ∧ t.queues = s.queues ∧ t.held = s.held ∧ t.staged = s.staged := by
  have hexec := done_live (effGlobalCounterSample value) s (resetOn_of_awake s 1 hawake)
  have hview : ∀ u : State, u.settled.rd rGcnt = u.rd rGcnt := fun u => settled_rd_counter u (.inl rfl)
  have hstate : ∀ u : State, u.settled.rd rGcntState = u.rd rGcntState := fun u => settled_rd_counter u (.inr rfl)
  cases hvalid : s.timeValid with
  | false =>
    rw [effGlobalCounterSample_of_first value hawake hvalid] at hexec
    refine ⟨_, hexec, fun _ => ⟨?_, ?_⟩, fun h => absurd h Bool.false_ne_true, settled_lastSample _,
      (counterBegun_keeps s value).settled⟩
    · rw [hview, counterBegun_rd]
    · rw [timeValid_of_rd (hstate _), counterBegun_valid]
  | true =>
    rw [effGlobalCounterSample_of_later value hawake hvalid] at hexec
    obtain ⟨hkeeps, hlast⟩ := laterSample_keeps s value
    have hnow : (s.stepJudged value).now = s.now := by rw [State.now, stepJudged_rd_gcnt, State.now]
    have hmoved : ∀ {o : Nat}, o ≠ rGcnt → o < rQntLate → ((s.stepJudged value).viewMoved value).rd o = (s.stepJudged value).rd o :=
      fun hne hlt => viewMoved_rd_of_lt _ _ hne hlt
    have hflags := (hstate ((s.stepJudged value).viewMoved value)).trans (hmoved (by decide) (by decide))
    have hcause : ((s.stepJudged value).rd rEvtStatus).getLsbD 25 = true →
        (((s.stepJudged value).viewMoved value).settled.rd rEvtStatus).getLsbD 25 = true := fun h =>
      settled_keeps_cause _ 25 (by rwa [hmoved (by decide) (by decide)])
    refine ⟨_, hexec, fun h => absurd h.symm Bool.false_ne_true, fun _ => ⟨?_, ?_, fun hback => ?_, fun hjump => ?_⟩,
      (settled_lastSample _).trans hlast, hkeeps.settled⟩
    · rw [hview, viewMoved_rd_gcnt, hnow, stepJudged_rd_gcnt]
    · rw [timeValid_of_rd hflags, stepJudged_valid, hvalid]
    · obtain ⟨hflag, hraised⟩ := stepJudged_of_backward s value hback
      exact ⟨by rw [fld_of_rd hflags, hflag], hcause hraised⟩
    · obtain ⟨hflag, hraised⟩ := stepJudged_of_jump s value hjump
      exact ⟨by rw [fld_of_rd hflags, hflag], hcause hraised⟩

/-! ### The power manager's answer (R47, R48, R365; DEDUCED, log 119) -/

section

variable {s : State} {d : Int} (hreq : s.ctl.offsetReq = some d)

include hreq

/-- An answer ends the request, and with a grant the loss to the cap. -/
theorem effPowerAnswer_of_asked (grant : Bool) : effPowerAnswer grant s =
    let free : State := { s with ctl := { s.ctl with offsetReq := none } }
    if grant then (free.setFld rAgeStatus 0 8 (unsigned 8 (free.offset + d))).setFld rAgeStatus 16 1 0 else free.marginLost := by
  rw [effPowerAnswer, hreq]

theorem effPowerManagerTimeout_of_late (hfirmware : s.firmware = true) (hlate : s.ctl.offsetAt + 1000000 ≤ s.now) :
    effPowerManagerTimeout s = s.raise causeHealth :=
  if_pos (by rw [hreq, hfirmware, decide_eq_true hlate]; rfl)

end

/-- Settles O8: a sample by the validity of the counter, and the request by its answer or by its time. -/
theorem timeAndPower : Obligations.TimeAndPower := by
  unfold Obligations.TimeAndPower
  refine ⟨fun value s hawake => globalCounterSample_runs value hawake, fun d s hreset hreq => ?_⟩
  intro free
  refine ⟨?_, ?_, fun hfirmware hlate => ?_⟩
  · exact (done_live (effPowerAnswer true) s hreset).trans (by rw [effPowerAnswer_of_asked hreq]; rfl)
  · exact (done_live (effPowerAnswer false) s hreset).trans (by rw [effPowerAnswer_of_asked hreq]; rfl)
  · exact (done_live effPowerManagerTimeout s hreset).trans (by rw [effPowerManagerTimeout_of_late hreq hfirmware hlate])

end Sys2Proof.Machine
